-- ==== Sys2Proof/Word.lean ====
section
/-! DEFINITION. Plainest arithmetic shared by the whole model: saturation and wrapping of counters and
fixed-point words, bits of masks, and lookups in small association lists. -/

namespace Sys2Proof

/-- A byte of a record, an image or a frame (R11). -/
abbrev Byte := BitVec 8

/-- A 64-bit microcode word of the Rafter engine (R211). -/
abbrev MicroWord := BitVec 64

/-- Entry `i` of a fixed-length array held as a list, with `d` outside it. -/
def nth {α : Type} (d : α) (l : List α) (i : Nat) : α := l.getD i d

/-- Bit `i` of a mask. -/
def bitOf (m i : Nat) : Bool := m.testBit i

/-- `m` with bit `i` set. -/
def withBit (m i : Nat) : Nat := m ||| (1 <<< i)

/-- `m` with bit `i` cleared. -/
def withoutBit (m i : Nat) : Nat := if m.testBit i then m - 2 ^ i else m

/-- Number of set bits among the low `n` bits. -/
def popCount (m n : Nat) : Nat := ((List.range n).filter fun i => m.testBit i).length

/-- Value of an association list at `k`. -/
def assoc? {β : Type} (l : List (Nat × β)) (k : Nat) : Option β :=
  match l with
  | [] => none
  | (k', v) :: r => if k = k' then some v else assoc? r k

/-- Association list with every entry of `k` taken out. -/
def dropKey {β : Type} (l : List (Nat × β)) (k : Nat) : List (Nat × β) :=
  l.filter fun p => p.1 ≠ k

/-- Association list with `k` set to `v`. -/
def putKey {β : Type} (l : List (Nat × β)) (k : Nat) (v : β) : List (Nat × β) :=
  (k, v) :: dropKey l k

/-- `x` clamped to the closed range from `lo` to `hi`. -/
def clampInt (lo hi x : Int) : Int := if x < lo then lo else if hi < x then hi else x

/-- Signed division rounding half away from zero, as fixed-point results round where the spec says rounded. -/
def roundDiv (a : Int) (b : Nat) : Int :=
  if a < 0 then -(((-a).toNat * 2 + b) / (2 * b) : Nat) else ((a.toNat * 2 + b) / (2 * b) : Nat)

/-- Ceiling of `a / b`. -/
def ceilDiv (a b : Nat) : Nat := (a + b - 1) / b

end Sys2Proof
end

