-- ==== Sys2Proof/Syntax.lean ====
section
/-! DEFINITION. The commands of the block: one constructor for each row of spec/opcode_table.json, with what the
sender, the media, a link or a measurement gives it. -/

namespace Sys2Proof

/-- The three parties that reach the dictionary and hold keys: the two host ports and the management bus,
whichever of its buses or managers speaks (R343, R419). -/
inductive Requester where
  | hp0 | hp1 | mb
  deriving DecidableEq, Repr

/-- The holder code that KeyControl and the logs report: 1 HP0, 2 HP1, 3 MB (R420). -/
def Requester.code : Requester → Nat
  | .hp0 => 1
  | .hp1 => 2
  | .mb => 3

/-- The host port of a number (R343): port 0 is HP0, any other HP1. -/
def Requester.ofPort (p : Nat) : Requester := if p = 0 then .hp0 else .hp1

/-- What a dictionary write carries: a number for the basic types, bytes for VISIBLE_STRING and DOMAIN (R408). -/
inductive ObjData where
  | num (size : Nat) (v : Int)
  | bytes (b : List Nat)
  deriving DecidableEq, Repr

/-- One zone entry of a zone table (R65), the fields that change what the device does. -/
structure ZoneEntry where
  zone : Nat := 0
  valid : Bool := true
  firstLane : Nat := 64
  laneCount : Nat := 0
  clockPeriods : Nat := 0
  sectorsPerTrack : Nat := 0
  cellarLanes : Nat := 0
  spareLanes : Nat := 1
  nominalKbit : Nat := 0
  headSkew : Int := 0
  laneSkew : Nat := 0
  trackStart : Nat := 0
  trackPitch : Nat := 0
  stripeWidth : Nat := 0
  precomp : List Int := [0, 0, 0, 0]
  writerCurrent : Nat := 0
  writerOvershoot : Nat := 0
  heaterRead : Nat := 0
  heaterWrite : Nat := 0
  heaterIdle : Nat := 0
  deriving DecidableEq, Repr

/-- A zone table (R64). -/
structure ZoneTable where
  surface : Nat := 0
  signatureOk : Bool := true
  nominalRpm : Nat := 7200
  totalLanes : Nat := 0
  formatId : Nat := 0
  entries : List ZoneEntry := []
  deriving DecidableEq, Repr

/-- One entry of a spare table (R70): state 0 free, 1 mapped, 2 retired. -/
structure SpareEntry where
  state : Nat := 0
  laneOffset : Nat := 0
  mapSequence : Nat := 0
  deriving DecidableEq, Repr

/-- A spare table of one surface and zone (R69). -/
structure SpareTable where
  surface : Nat := 0
  zone : Nat := 0
  sequence : Nat := 0
  formatId : Nat := 0
  entries : List SpareEntry := []
  deriving DecidableEq, Repr

/-- One copy of a zone table as the heads read it at load: the table, and whether both CRCs were correct (R66). -/
structure ZoneCopy where
  table : ZoneTable
  crcOk : Bool
  deriving DecidableEq, Repr

/-- One copy of a spare table as the heads read it at load, and whether its CRC was correct (R72). -/
structure SpareCopy where
  table : SpareTable
  crcOk : Bool
  deriving DecidableEq, Repr

/-- What a decoded sector carries: its header fields (R53, R54) and its 4,096 user bytes as one number. -/
structure SectorRead where
  crcOk : Bool := true
  lba : Nat := 0
  generation : Nat := 0
  flags : Nat := 4096
  data : Nat := 0
  marker : Bool := false
  deriving DecidableEq, Repr

/-- What the calibration pass measures of a head in one zone (R271): PesGain and PesOffset in Q2.14, the amplitude references of R241
and R122, the heater trim in 0.1 mW, and the harmonic target in 2^-16. -/
structure ZoneCal where
  pesGain : Int := 0
  pesOffset : Int := 0
  ampRef : Nat := 0
  clockRef : Nat := 0
  heaterTrim : Int := 0
  harmonic : Int := 0
  deriving DecidableEq, Repr

/-- What the calibration pass found of a head (R271): whether every step passed within two tries, its results at Z00, at zone
floor(ZoneCount / 2) and at the last zone, and those that hold for every zone. -/
structure HeadCal where
  head : Nat
  ok : Bool := true
  zones : List ZoneCal := []
  maoStroke : Nat := 0
  offsetD0 : Int := 0
  offsetD1 : Int := 0
  indexAngle : Nat := 0
  deriving DecidableEq, Repr

/-- What the calibration pass found of a loop (R271, R276): whether it passed within two tries, of a voice-coil loop whether positive
current drives outward (R263), and the coefficient words to change. -/
structure LoopCal where
  slot : Nat
  ok : Bool := true
  outward : Bool := false
  words : List (Nat × Int) := []
  deriving DecidableEq, Repr

/-- What a step of start-up finds outside the block: whether each copy of stage 1 and each slot's images read back as written, whether the
two copies of the stored set keep their CRC, calibration results of the heads and loops, the generations read in the home chunks that
collected slots cover (namespace, chunk, and per sector its WriteGeneration where it decodes, R368), and the Trunk units whose NOR is
damaged (R514). -/
structure StartupReport where
  stage1Ok : List Bool := [true, true]
  slotOk : List Bool := [true, true]
  copyOk : List Bool := [true, true]
  heads : List HeadCal := []
  loops : List LoopCal := []
  chunks : List (Nat × Nat × List (Option Nat)) := []
  damaged : List Nat := []
  deriving DecidableEq, Repr

/-- One command of the Ronxa controller. Every constructor is one row of the table of operations and events;
its docstring names the row and the rule that owns it. -/
inductive Instr where
  /-- POWER_UP_RESET (R546). The Loft domain's supplies and REFCLK become valid: the timebase starts at 0, fuses and straps are read, FAULT is released and the power-up sequence begins. -/
  | powerUpReset (variant : Nat) (straps : Nat)
  /-- STARTUP_STEP_END (R546). A power-up step (boot ROM, stage 1, management, spin-up, load, media recovery) completes, and the next step of the sequence begins. -/
  | startupStepEnd (report : StartupReport)
  /-- MEDIA_READY (R547). Once the spindle is AtSpeed, every mapped actuator has loaded or been fenced and media recovery has ended, MediaReadyTick is set, and CSTS.RDY is set where CC.CRIME is 0. -/
  | mediaReady
  /-- SUPPLY_DIP (R589). A module supply stays below its monitor threshold for more than 10 µs in S1 to S3 and is treated as a detected power loss. -/
  | supplyDip (supply : Nat) (mv : Nat) (lasting : Nat)
  /-- VDD_CORE_START_TIMEOUT (R589). VDD_CORE is not above its threshold within 5 ms of VREG_EN rising, so VREG_EN is lowered and the attempt is retried, and the device halts after three failures. -/
  | vddCoreStartTimeout
  /-- REFCLK_STOP (R594). REFCLK stops for more than 2 µs and is treated as a supply dip. -/
  | refclkStop (lasting : Nat)
  /-- POWER_LOSS_DETECTED (R313). The 12 V input stays below PowerLossThreshold for PowerLossFilter: fetching and bursts stop, the spindle sustains the bank, and every actuator safe-parks. -/
  | powerLossDetected (vin : Nat) (lasting : Nat)
  /-- POWER_LOSS_RECORD_APPEND (R370). Once parking ends, the power-loss record of cut chunks, watermarks and dirty ledger pages is appended while HoldUpMargin is positive, and the spindle enters Braking. -/
  | powerLossRecordAppend
  /-- HOLD_UP_ENERGY_UPDATE (R312). Every millisecond the device recomputes HoldUpEnergy, HoldUpRequired and HoldUpMargin. -/
  | holdUpEnergyUpdate (vbank : Nat)
  /-- FAULT_RESET (R475). The fault reset parks every actuator, drains both ports under R372 and restarts the processors through steps 3 to 8 of start-up. -/
  | faultReset
  /-- NSSR_SUBSYSTEM_RESET (R373). 4E56 4D65h is written to NSSR on either port, and both controllers are reset and both links retrain. -/
  | nssrSubsystemReset (port : Nat) (value : Nat)
  /-- CONTROLLER_ENABLE_CLEAR (R372). CC.EN is written from 1 to 0 and the port's controller reset runs. -/
  | controllerEnableClear (port : Nat)
  /-- CONTROLLER_ENABLE_SET (R330). CC.EN is set, and the controller becomes ready within 1.5 s with CC.CRIME at 1, or when the media are ready or CRWMT expires with CC.CRIME at 0. -/
  | controllerEnableSet (port : Nat) (crime : Bool) (adminSize : Nat)
  /-- FUNCTION_LEVEL_RESET (R324). A Function Level Reset resets the port's controller. -/
  | functionLevelReset (port : Nat)
  /-- HOT_RESET_OR_LINK_DOWN (R324). A hot reset or a link down on a port resets that port's controller. -/
  | hotResetOrLinkDown (port : Nat) (linkDown : Bool)
  /-- PERST_ASSERT (R324). PERST# is asserted on a port, which resets that port's controller. -/
  | perstAssert (port : Nat)
  /-- PERST_DEASSERT (R325). PERST# is deasserted on a port, and the Loft domain latches a wake. -/
  | perstDeassert (port : Nat)
  /-- CONTROLLER_RESET_DRAIN_END (R372). A reset port's open chunks and atomic writes finish, and its range-lock entries are released within ResetDrainLimit. -/
  | controllerResetDrainEnd (port : Nat)
  /-- SHUTDOWN_NOTIFICATION (R331). The host writes CC.SHN, and the shutdown completes once the port's started writes are on media. -/
  | shutdownNotification (port : Nat) (kind : Nat)
  /-- SHUTDOWN_COMPLETE (R331). The port's started writes reach media: CSTS.SHST reads 10b, and the heads unload once every present controller whose link is up has shut down. -/
  | shutdownComplete (port : Nat)
  /-- DOORBELL_WRITE (R351). A submission-queue doorbell write is accepted, and fetching proceeds when a context and, for I/O queues, a range-lock entry are available. -/
  | doorbellWrite (port : Nat) (qid : Nat) (tail : Nat)
  /-- CONTEXT_FREED (R351). A context becomes free, and a port paused for lack of a context resumes fetching. -/
  | contextFreed (port : Nat)
  /-- DELETE_IO_SUBMISSION_QUEUE (R332). The admin command deletes an I/O submission queue. -/
  | deleteIoSubmissionQueue (port : Nat) (cid : Nat) (qid : Nat)
  /-- CREATE_IO_SUBMISSION_QUEUE (R332). The admin command creates an I/O submission queue, at most 128 per controller. -/
  | createIoSubmissionQueue (port : Nat) (cid : Nat) (qid : Nat) (size : Nat) (cqid : Nat) (contiguous : Bool)
  /-- DELETE_IO_COMPLETION_QUEUE (R332). The admin command deletes an I/O completion queue. -/
  | deleteIoCompletionQueue (port : Nat) (cid : Nat) (qid : Nat)
  /-- CREATE_IO_COMPLETION_QUEUE (R332). The admin command creates an I/O completion queue, at most 128 per controller. -/
  | createIoCompletionQueue (port : Nat) (cid : Nat) (qid : Nat) (size : Nat) (vector : Nat) (contiguous : Bool)
  /-- GET_LOG_PAGE (R338). The admin command returns a standard or vendor log page, or Invalid Log Page for any other identifier. -/
  | getLogPage (port : Nat) (cid : Nat) (page : Nat) (nsIdent : Nat) (rae : Bool) (offset : Nat) (length : Nat)
  /-- IDENTIFY_CONTROLLER (R336). Identify with CNS 01h returns the controller data structure. -/
  | identifyController (port : Nat) (cid : Nat)
  /-- IDENTIFY_NAMESPACE (R337). Identify with CNS 00h returns the namespace data for an active NSID, or zeros for an inactive one. -/
  | identifyNamespace (port : Nat) (cid : Nat) (nsIdent : Nat)
  /-- IDENTIFY_LIST (R332). Identify with CNS 02h, 03h, 05h or 06h returns the list or descriptor structure of the standard. -/
  | identifyList (port : Nat) (cid : Nat) (cns : Nat) (nsIdent : Nat)
  /-- ABORT (R374). The admin Abort finds the named command on its own controller and sets its latch if the latch is clear; otherwise it reports not aborted. -/
  | abort (port : Nat) (cid : Nat) (target : Nat) (targetCid : Nat) (outstanding : Nat)
  /-- SET_FEATURES_ARBITRATION (R340). Set Features FID 01h sets the arbitration burst and ignores the priority weights. -/
  | setFeaturesArbitration (port : Nat) (cid : Nat) (value : Nat) (save : Bool)
  /-- SET_FEATURES_POWER_MANAGEMENT (R341). Set Features FID 02h sets the controller's requested power state, and completes at once or at the commit point or abort of the resulting sleep entry. -/
  | setFeaturesPowerManagement (port : Nat) (cid : Nat) (value : Nat) (save : Bool)
  /-- SET_FEATURES_TEMPERATURE_THRESHOLD (R340). Set Features FID 04h sets the composite temperature threshold. -/
  | setFeaturesTemperatureThreshold (port : Nat) (cid : Nat) (value : Nat) (save : Bool)
  /-- SET_FEATURES_ERROR_RECOVERY (R340). Set Features FID 05h sets LadderTimeLimit from TLER. -/
  | setFeaturesErrorRecovery (port : Nat) (cid : Nat) (nsIdent : Nat) (value : Nat) (save : Bool)
  /-- SET_FEATURES_NUMBER_OF_QUEUES (R340). Set Features FID 07h requests up to 128 submission and completion queues. -/
  | setFeaturesNumberOfQueues (port : Nat) (cid : Nat) (submission : Nat) (completion : Nat) (save : Bool)
  /-- SET_FEATURES_INTERRUPT_COALESCING (R340). Set Features FID 08h configures interrupt coalescing. -/
  | setFeaturesInterruptCoalescing (port : Nat) (cid : Nat) (value : Nat) (save : Bool)
  /-- SET_FEATURES_INTERRUPT_VECTOR_CONFIG (R340). Set Features FID 09h configures an interrupt vector. -/
  | setFeaturesInterruptVectorConfig (port : Nat) (cid : Nat) (value : Nat) (save : Bool)
  /-- SET_FEATURES_WRITE_ATOMICITY_NORMAL (R340). Set Features FID 0Ah is accepted and has no effect. -/
  | setFeaturesWriteAtomicityNormal (port : Nat) (cid : Nat) (value : Nat) (save : Bool)
  /-- SET_FEATURES_ASYNC_EVENT_CONFIG (R340). Set Features FID 0Bh enables or disables the Critical Warning, namespace-attribute and firmware-activation notices. -/
  | setFeaturesAsyncEventConfig (port : Nat) (cid : Nat) (value : Nat) (save : Bool)
  /-- GET_FEATURES (R340). The admin command returns the current, default or supported value of a feature. -/
  | getFeatures (port : Nat) (cid : Nat) (feature : Nat) (select : Nat) (value : Nat) (nsIdent : Nat)
  /-- ASYNCHRONOUS_EVENT_REQUEST (R342). The admin command is held until an event is posted to it. -/
  | asynchronousEventRequest (port : Nat) (cid : Nat)
  /-- FIRMWARE_IMAGE_DOWNLOAD (R525). A piece of a Crate is stored in the staging area, and a piece at offset 0 takes the Firmware key implicitly and starts a new Crate. -/
  | firmwareImageDownload (port : Nat) (cid : Nat) (offset : Nat) (data : List Nat)
  /-- FIRMWARE_COMMIT_STAGE (R526). Firmware Commit with commit action 000b starts staging of the received Crate into the inactive slot. -/
  | firmwareCommitStage (port : Nat) (cid : Nat) (action : Nat) (fwSlot : Nat)
  /-- FIRMWARE_COMMIT_ACTIVATE (R529). Firmware Commit with commit action 011b requests an immediate activation of the inactive slot. -/
  | firmwareCommitActivate (port : Nat) (cid : Nat) (fwSlot : Nat)
  /-- DEVICE_SELF_TEST_SHORT (R345). Device Self-test code 1h starts a short self-test of decoders, link counters, preamplifier flags and hold-up inputs. -/
  | deviceSelfTestShort (port : Nat) (cid : Nat)
  /-- DEVICE_SELF_TEST_EXTENDED (R345). Device Self-test code 2h starts an extended self-test that also reads sample lane rows through the ladder. -/
  | deviceSelfTestExtended (port : Nat) (cid : Nat)
  /-- DEVICE_SELF_TEST_ABORT (R345). Device Self-test code Fh aborts the running self-test. -/
  | deviceSelfTestAbort (port : Nat) (cid : Nat)
  /-- SELF_TEST_COMPLETE (R345). A running self-test ends, and its result is placed in log page 06h. -/
  | selfTestComplete (failed : List Nat) (vin : Nat) (bank : Nat)
  /-- FORMAT_NVM (R377). Format NVM takes the Format key, fixes the mapping and the mapped set, and rewrites tables, sectors and the ledger. -/
  | formatNvm (port : Nat) (cid : Nat) (nsIdent : Nat) (value : Nat) (mapping : Nat)
  /-- FORMAT_NVM_COMPLETE (R377). A running Format NVM ends: the Larder and Side Pantry are invalidated and the namespace-attribute notice is raised. -/
  | formatNvmComplete (heads : List HeadCal) (loops : List LoopCal) (defects : List (Nat × Nat))
  /-- SANITIZE (R378). Sanitize with the overwrite action discards every slot and starts 1 to 16 overwrite passes. -/
  | sanitize (port : Nat) (cid : Nat) (dword10 : Nat) (pattern : Nat)
  /-- SANITIZE_COMPLETE (R378). The last overwrite pass ends, log page 81h reports the outcome, and the Format key is released. -/
  | sanitizeComplete (ok : Bool)
  /-- SECURITY_SEND (R346). Security Send carries an SPDM request on the port's security transport. -/
  | securitySend (port : Nat) (cid : Nat) (protocol : Nat) (request : Nat) (certSlot : Nat) (offset : Nat) (length : Nat) (nonce : Nat)
  /-- SECURITY_RECEIVE (R346). Security Receive returns an SPDM response or the list of supported protocols. -/
  | securityReceive (port : Nat) (cid : Nat) (protocol : Nat)
  /-- DICTIONARY_GET (R343). The vendor command C4h reads one sub-index of the dictionary into a controller-to-host buffer. -/
  | dictionaryGet (port : Nat) (cid : Nat) (object : Nat) (length : Nat) (reserved : Nat)
  /-- DICTIONARY_PUT (R343). The vendor command C5h writes one sub-index of the dictionary under the refusals of R344. -/
  | dictionaryPut (port : Nat) (cid : Nat) (object : Nat) (data : List Nat) (reserved : Nat)
  /-- OBJECT_WRITE (R409). A write, from any path, to a dictionary object that has no row of its own is applied whole or refused under R344. -/
  | objectWrite (requester : Requester) (object : Nat) (data : ObjData)
  /-- READ (R353). An I/O Read takes a shared range-lock entry at fetch and is divided into per-chunk media operations. -/
  | read (port : Nat) (qid : Nat) (cid : Nat) (nsid : Nat) (slba : Nat) (count : Nat) (fua : Bool) (limited : Bool)
  /-- WRITE (R362). An I/O Write takes an exclusive range-lock entry and proceeds as an atomic write through the Cellar or as a direct write through the Merge Bin. -/
  | write (port : Nat) (qid : Nat) (cid : Nat) (nsid : Nat) (slba : Nat) (count : Nat) (data : List Nat)
  /-- WRITE_ZEROES (R332). An I/O Write Zeroes writes sectors with ZeroFill set, as a write of zero data. -/
  | writeZeroes (port : Nat) (qid : Nat) (cid : Nat) (nsid : Nat) (slba : Nat) (count : Nat)
  /-- VERIFY (R173). An I/O Verify reads its sectors through the ladder and transfers no data. -/
  | verify (port : Nat) (qid : Nat) (cid : Nat) (nsid : Nat) (slba : Nat) (count : Nat) (limited : Bool)
  /-- FLUSH (R371). An I/O Flush completes at once. -/
  | flush (port : Nat) (qid : Nat) (cid : Nat) (nsid : Nat)
  /-- DATASET_MANAGEMENT (R332). An I/O Dataset Management passes its hints to read-ahead, changes no data and completes at once. -/
  | datasetManagement (port : Nat) (qid : Nat) (cid : Nat) (nsid : Nat) (sequential : List (Nat×Nat))
  /-- RANGE_LOCK_GRANTED (R353). The last conflicting earlier range-lock entry is released, and a waiting command may start media operations and transfer data. -/
  | rangeLockGranted (port : Nat) (qid : Nat) (cid : Nat)
  /-- MEDIA_OP_ISSUE (R357). Room becomes free among the actuator's 192 in-flight operations, and a command issues its next media operation in LBA order. -/
  | mediaOpIssue (port : Nat) (qid : Nat) (cid : Nat)
  /-- HOST_COMMAND_DEADLINE (R361). An I/O command is not completed within HostCommandDeadline of its fetch and raises the host-command deadline fault. -/
  | hostCommandDeadline (port : Nat) (qid : Nat) (cid : Nat)
  /-- READ_AHEAD_FILL (R394). The data of a read-ahead operation arrives and lands in the Side Pantry, unless an overlapping exclusive entry appeared while it was in flight. -/
  | readAheadFill (nsid : Nat) (number : Nat)
  /-- MERGE_BUFFER_FREED (R395). A chunk buffer becomes available, and a direct write waiting for one transfers its data. -/
  | mergeBufferFreed
  /-- MERGE_WINDOW_EXPIRY (R396). MergeWindow passes after the latest data for a partial chunk, and the uncovered sectors are filled and the chunk is written. -/
  | mergeWindowExpiry (nsid : Nat) (chunk : Nat)
  /-- CELLAR_SLOT_PLACE (R363). An atomic write's slot is placed in a ring of its home actuator that has room and a writable, admitted, Confirmed head. -/
  | cellarSlotPlace (port : Nat) (qid : Nat) (cid : Nat) (ring : Nat)
  /-- RESTOCK_CHUNK (R366). In a spare revolution, a home chunk is written whole from the newest slot data under its own range-lock entry. -/
  | restockChunk (nsid : Nat) (chunk : Nat)
  /-- WATERMARK_APPEND (R367). An actuator's Cellar watermark changed, and it is appended to the Trunk within 1 s. -/
  | watermarkAppend (act : Nat)
  /-- ACTIVATION_DRAIN_END (R373). No fetched I/O command remains, and the activation steps begin after the guards pass again. -/
  | activationDrainEnd
  /-- ACTIVATION_DRAIN_TIMEOUT (R373). Fetched I/O commands remain after ActivationDrainLimit, the activation is refused with reason 06h, and fetching resumes. -/
  | activationDrainTimeout
  /-- SECTOR_FRAMED (R152). The sync-mark window of a sector is searched, the sector is framed by mark or by count or ends NoSync, and its codeword is queued for decoding. -/
  | sectorFramed (stream : Nat) (sector : Nat) (frac : Int)
  /-- DECODER_TURN_END (R146). A decoder turn converges or reaches its iteration limit; a converged codeword is header-checked, and the sector's outcome becomes final. -/
  | decoderTurnEnd (decoder : Nat) (time : Nat)
  /-- DEFERRED_DECODE (R150). A decoder with no in-line work decodes a captured sector from its stored samples. -/
  | deferredDecode (stream : Nat) (time : Nat)
  /-- DECODER_SELF_TEST (R146). At power-up and every 24 h each decoder decodes a stored test codeword, and a failing decoder is withdrawn. -/
  | decoderSelfTest (failed : List Nat)
  /-- LADDER_EXTENDED_DECODE (R167). Ladder step 1 runs one turn at LadderIterLimit on the held codeword or the capture. -/
  | ladderExtendedDecode (ladder : Nat) (time : Nat)
  /-- LADDER_COUNT_FRAMED_REREAD (R168). Ladder step 2 reads the sector again in the next revolution over its lane row, framed at E, and captures it. -/
  | ladderCountFramedReread (ladder : Nat) (time : Nat)
  /-- LADDER_AVERAGING_PASS (R169). Ladder step 3 adds a captured pass and decodes after 2, 4 and 8 passes. -/
  | ladderAveragingPass (ladder : Nat) (time : Nat)
  /-- LADDER_OFFSET_READ (R170). Ladder step 4 reads at +5 % and then at −5 % of track pitch. -/
  | ladderOffsetRead (ladder : Nat) (time : Nat)
  /-- LADDER_HEATER_STEP (R171). Ladder step 5 raises the heater, waits one revolution and decodes a two-pass average. -/
  | ladderHeaterStep (ladder : Nat) (time : Nat)
  /-- LADDER_TIME_LIMIT (R173). LadderTimeLimit passes after ladder entry, no further step starts, and the sector goes to step 6. -/
  | ladderTimeLimit (ladder : Nat)
  /-- CLOCK_WAIT_LIMIT (R174). A ladder waiting for a Lost or Off head's count reaches ClockWaitLimit, and the sector goes to step 6. -/
  | clockWaitLimit (ladder : Nat)
  /-- CAPTURE_SLOT_FREED (R177). A capture slot is released and goes to a waiting ladder request before deferral. -/
  | captureSlotFreed
  /-- SECTOR_REFRESH (R176). A sector recovered at RefreshStep or later has its home chunk rewritten or restocked. -/
  | sectorRefresh (nsid : Nat) (lba : Nat)
  /-- WRITE_BURST_OPEN (R184). At a sector start at which every write-gate condition holds, a chunk's burst opens with its preamble and arm word. -/
  | writeBurstOpen (head : Nat) (nsid : Nat) (lba : Nat)
  /-- WRITE_BURST_END (R109). A burst ends with the last guard bit of its last sector, the WRL returns to idle, and the chunk's ledger entry advances when all 64 sectors are written. -/
  | writeBurstEnd (head : Nat)
  /-- WRITE_RETRY_LIMIT_REACHED (R186). WriteRetryLimit revolutions pass without completing the chunk, the write fails with Write Fault, and the ledger entry becomes untrusted. -/
  | writeRetryLimitReached (head : Nat) (nsid : Nat) (lba : Nat)
  /-- CHUNK_FILL_READ (R183). A revolution reads the uncovered part of a chunk from media for a partial-chunk write. -/
  | chunkFillRead (head : Nat) (nsid : Nat) (lba : Nat)
  /-- LEDGER_LEARN_READ (R193). The whole chunk is read to learn an untrusted ledger entry, and a mixed chunk is levelled. -/
  | ledgerLearnRead (nsid : Nat) (lba : Nat)
  /-- LEDGER_AUDIT (R194). Untrusted ledger entries are learnt in idle revolutions while LedgerAuditEnable is 1. -/
  | ledgerAudit (nsid : Nat) (lba : Nat)
  /-- LEDGER_FLUSH (R192). Modified ledger pages are written back every LedgerFlushPeriod, at sleep entry, or when LedgerDirtyMax is reached. -/
  | ledgerFlush
  /-- VERIFY_READBACK (R196). With verify on, the written track is read back on the next revolution, and a chunk with a failed sector is rewritten or remapped. -/
  | verifyReadback (head : Nat) (nsid : Nat) (lba : Nat)
  /-- ADJACENT_CHECK_READ (R187). After a cut whose peak error passed AdjacentCheckLimit, the lane row is read to check the partner track and reader C. -/
  | adjacentCheckRead (head : Nat) (lane : Nat)
  /-- LANE_REMAP_COPY (R73). A defective lane is copied to a spare under a range lock on the whole lane. -/
  | laneRemapCopy (surface : Nat) (zone : Nat) (offset : Nat)
  /-- LANE_REMAP_COMMIT (R72). The updated spare table is written to copies 1, 2 and 3 with read-back, and the lock is released. -/
  | laneRemapCommit (surface : Nat) (zone : Nat) (offset : Nat) (good : Bool)
  /-- POSITION_SAMPLE (R240). At each 240 kHz boundary a position sample is formed for every loaded head and checked for validity, settle and on-track state. -/
  | positionSample (head : Nat) (sub : Nat)
  /-- SEEK_REQUEST (R249). The media scheduler requests a lane row of a zone, and the actuator seeks with the velocity cap set. -/
  | seekRequest (act : Nat) (zone : Nat) (row : Nat) (only : Option Nat)
  /-- HAND_OVER (R251). At a 15 kHz boundary where the reference velocity is zero and every steering head is on its lane, SeekFlag is set to track-follow. -/
  | handOver (act : Nat) (sub : Nat)
  /-- STRIPE_CROSSING (R250). Reader C crosses a stripe during a seek, the crossing is counted, and a contradiction makes the actuator lane-uncertain. -/
  | stripeCrossing (head : Nat) (outerFirst : Bool) (inward : Bool)
  /-- LANE_CHECK_READ (R254). The device reads one sector on the lowest-numbered steering head to verify an unverified lane row. -/
  | laneCheckRead (head : Nat)
  /-- LANE_UNCERTAIN (R255). LaneCheckSectors sector times pass with no Good sector, and the actuator unloads, reloads and rereads. -/
  | laneUncertain (act : Nat)
  /-- ACTUATOR_LOAD (R261). With the spindle at speed, bring-up done and the surge granted, the actuator's loops start and the heads leave the ramp. -/
  | actuatorLoad (act : Nat) (zones : List ZoneCopy) (spares : List SpareCopy)
  /-- LOAD_TIMEOUT (R261). A head does not cross a stripe within LoadTimeout, and the actuator unloads and retries or is fenced. -/
  | loadTimeout (act : Nat)
  /-- ACTUATOR_UNLOAD (R262). The actuator seeks to lane 0, moves outward onto the ramp and stops its loops. -/
  | actuatorUnload (act : Nat)
  /-- SAFE_PARK_TIME_END (R264). SafeParkTime ends, reader C of every head is checked, and the sequence reruns or the actuator is fenced with a park failure. -/
  | safeParkTimeEnd (act : Nat)
  /-- SENSOR_TRANSACTION (R573). A per-boundary SPI transaction with SNS0 or SNS1 completes and its axes are checked and compared with the shock limits. -/
  | sensorTransaction (sensor : Nat) (miso : Nat)
  /-- SHOCK_HOLD_EXPIRY (R257). ShockHold passes after the last sample at or above the limit, and the shock inhibit is released. -/
  | shockHoldExpiry
  /-- SHOCK_RELOAD_DELAY (R258). ShockReloadDelay passes with no sample at or above ShockInhibitLimit, and the parked heads load again. -/
  | shockReloadDelay
  /-- SENSOR_RETRY (R260). A failed sensor is retried once per second. -/
  | sensorRetry (sensor : Nat) (miso : Nat)
  /-- LENDER_ASSIGN (R266). At the next sector boundary after reader C becomes unhealthy or a lender leaves, a lender is assigned or the head becomes Lost. -/
  | lenderAssign (head : Nat)
  /-- HEAD_HOLD (R267). Within 3 minor frames of reader C becoming unhealthy, the milliactuator is held at its recent mean output. -/
  | headHold (head : Nat)
  /-- READ_ONLY_END (R270). ReadOnlyHold revolutions pass with the head Confirmed and Valid, the hold clears, and writes resume after a Good sector. -/
  | readOnlyEnd (head : Nat)
  /-- RRO_LEARN_UPDATE (R275). After RroLearnRevs revolutions in one zone, the head's runout table is updated and swapped. -/
  | rroLearnUpdate (head : Nat) (coefWord : Nat)
  /-- LOOP_IDENTIFICATION_END (R276). A 16-revolution identification ends, and its gain and notch results are applied or refused. -/
  | loopIdentificationEnd (slot : Nat) (gain : Int) (modeShift : Nat) (frequency : Nat) (words : List (Nat×Int))
  /-- HEATER_CALIBRATION (R277). A heater calibration run measures the harmonic ratio at three settings and sets HeaterTrim. -/
  | heaterCalibration (head : Nat)
  /-- CALIBRATION_CHECK_END (R278). CalCheckRevs revolutions after a calibration swap, the rms PES is compared, and the swap may be reverted. -/
  | calibrationCheckEnd (head : Nat)
  /-- LOOP_ID_REQUEST (R282). A write to 4060h.01 starts an identification run of the named loop. -/
  | loopIdRequest (requester : Requester) (slot : Nat)
  /-- INDEX_FIELD_DETECTED (R128). The end of the index field is recognised, and the count is checked for slip or set to 0. -/
  | indexFieldDetected (head : Nat)
  /-- ACQUISITION_TIMEOUT (R127). A Provisional head is not confirmed within 1.25 revolutions, and reader C becomes unhealthy. -/
  | acquisitionTimeout (head : Nat)
  /-- EQ_ADAPT_BLOCK (R138). EqBlockSectors Good sectors accumulate a gradient, and new taps are written to the inactive bank or a previous swap is reverted. -/
  | eqAdaptBlock (stream : Nat)
  /-- DETECTOR_BANK_SWAP (R137). A requested equaliser and detector bank swap takes effect at the head's next sector boundary. -/
  | detectorBankSwap (head : Nat) (sector : Nat)
  /-- DETECTOR_SETS_SAVE (R139). Every hour and at entry to S2, the equaliser and calibration sets are saved to the system area. -/
  | detectorSetsSave
  /-- EQ_IDLE_CALIBRATION_READ (R140). A stream without a Good sector for EqIdleLimit asks for a calibration read. -/
  | eqIdleCalibrationRead (stream : Nat)
  /-- PACE_INTERVAL_END (R158). A PaceInterval ends, each head's pace is computed, and its below-floor or recovery run is updated. -/
  | paceIntervalEnd
  /-- NARROW_SERVICE_START (R160). At the actuator's next stripe boundary after entry, the head begins narrow service. -/
  | narrowServiceStart (head : Nat)
  /-- NARROW_SERVICE_END (R162). At the actuator's next stripe boundary after recovery, the head returns to stripe-parallel service and its mask bit clears. -/
  | narrowServiceEnd (head : Nat)
  /-- DEFERRAL_EXIT (R149). A stream's capture backlog is empty and the pool has not saturated for DeferExitSectors, and it leaves deferral. -/
  | deferralExit (stream : Nat)
  /-- STREAM_ADMISSION_RECOMPUTE (R442). On a level or zone change, a change of queued work or the once-a-second temperature check, heads are admitted round-robin within the derated capacity. -/
  | streamAdmissionRecompute (narrowActs : List Nat)
  /-- ADMISSION_TAKE_EFFECT (R443). A change in the admitted heads takes effect at the actuator's next stripe boundary. -/
  | admissionTakeEffect (act : Nat)
  /-- PCL_STATUS_FRAME (R96). An upstream status frame delivers HeadStatus or ChipStatus and the Summary bits, and a set flag closes the head's gate and triggers its reaction. -/
  | pclStatusFrame (pcl : Nat) (frame : Nat)
  /-- PCL_WRITE_ACK (R90). An upstream write acknowledge completes a register write and updates its shadow. -/
  | pclWriteAck (pcl : Nat) (frame : Nat)
  /-- PCL_READ_DATA (R90). An upstream read-data frame completes a register read. -/
  | pclReadData (pcl : Nat) (frame : Nat)
  /-- PCL_NAK (R90). An upstream NAK makes the access retry with the same Tag, or puts the PCL into the lost state after three retries. -/
  | pclNak (pcl : Nat) (frame : Nat)
  /-- REGISTER_ACCESS_TIMEOUT (R90). No response arrives within 10 µs of a request frame, and the access is retried or the PCL is lost. -/
  | registerAccessTimeout (pcl : Nat) (tag : Nat)
  /-- PCL_UPSTREAM_LOST (R114). No valid upstream frame arrives for 10 µs: the chip's WRLs go idle, its heads become read-only, and relock and restore follow. -/
  | pclUpstreamLost (pcl : Nat)
  /-- RSL_DATA_BLOCK (R104). An RSL data block of 21 samples is received and merged in BlockCount order, or erased on a header error. -/
  | rslDataBlock (link : Nat) (lane : Nat) (header : Nat) (body : Nat) (overflow : Bool)
  /-- RSL_ALIGNMENT_MARKER (R103). An alignment marker is received, the lanes are deskewed, IntervalCrc is checked, and slips and degradation are judged. -/
  | rslAlignmentMarker (link : Nat) (body0 : Nat) (body1 : Nat) (skew : Int)
  /-- LINK_TRAINING_END (R105). An RSL or WRL training run ends with a pass or a failed attempt, and the link becomes active or failed. -/
  | linkTrainingEnd (kind : Nat) (link : Nat) (lock : List Nat) (sweep : List (List (Nat × Nat))) (headers : List Nat) (skew : Int) (intervals : Nat)
  /-- LINK_TRAINING_DEADLINE (R105). Training of a link does not complete within 2 ms, a deadline fault is raised, and the attempt counts as failed. -/
  | linkTrainingDeadline (kind : Nat) (link : Nat)
  /-- FAILED_LINK_RETRY (R107). Every FailedRetryPeriod in S1, a failed link is retried. -/
  | failedLinkRetry (kind : Nat) (link : Nat)
  /-- CHIP_WARNING_CLEAR (R114). A preamplifier's thermal or supply warning stays clear for 100 ms, and writes on its heads resume. -/
  | chipWarningClear (pcl : Nat)
  /-- PREAMP_ACCESS_READ (R117). A write of 1 to 3140h.05 starts a preamplifier register read run. -/
  | preampAccessRead (requester : Requester)
  /-- PREAMP_ACCESS_WRITE (R117). A write of 2 to 3140h.05 starts a preamplifier register write run, refused where a head is loaded outside Trapdoor mode. -/
  | preampAccessWrite (requester : Requester)
  /-- LINK_COUNTER_CLEAR (R116). A write of 1 to 3130h.05 clears every link counter. -/
  | linkCounterClear (requester : Requester)
  /-- LOOP_SAMPLE_BOUNDARY (R214). At a loop's sample boundary its inputs are latched and its due loops run fastest first, suspending slower ones. -/
  | loopSampleBoundary (slot : Nat) (sub : Nat)
  /-- LOOP_SAMPLE_DEADLINE (R217). At D the sample is marked late if ENDS has not executed, and three consecutive late samples safe-park the actuator or hold the spindle set-point. -/
  | loopSampleDeadline (slot : Nat) (sub : Nat)
  /-- OUTPUT_APPLICATION (R206). At the application instant P the loop's outputs take effect on the motion die and its exchange registers are published. -/
  | outputApplication (slot : Nat) (sub : Nat)
  /-- VCM_MEAS_FRAME (R572). A MEAS frame is received and checked, and failures or a Fault flag are counted or handled as a park failure. -/
  | vcmMeasFrame (act : Nat) (frame : Option Nat)
  /-- COMMUTATION_ANGLE_UPDATE (R460). At each 240 kHz boundary the clock-track angle is sent to the commutation engine, or is dropped if it is late. -/
  | commutationAngleUpdate (sub : Nat)
  /-- NOP (R212). The microcode instruction does nothing for one cycle. -/
  | mcNop (slot : Nat)
  /-- IN (R212). The microcode instruction loads a node with a latched input selected by Imm. -/
  | mcIn (slot : Nat) (dst : Nat) (imm : Nat) (shift : Int) (round : Bool) (satCount : Bool)
  /-- OUT (R212). The microcode instruction sends a node to an output or exchange register selected by Imm. -/
  | mcOut (slot : Nat) (srcA : Nat) (imm : Nat)
  /-- MOV (R212). The microcode instruction copies one node to another. -/
  | mcMov (slot : Nat) (dst : Nat) (srcA : Nat) (shift : Int) (round : Bool) (satCount : Bool)
  /-- ADD (R212). The microcode instruction adds two nodes. -/
  | mcAdd (slot : Nat) (dst : Nat) (srcA : Nat) (srcB : Nat) (shift : Int) (round : Bool) (satCount : Bool)
  /-- SUB (R212). The microcode instruction subtracts two nodes. -/
  | mcSub (slot : Nat) (dst : Nat) (srcA : Nat) (srcB : Nat) (shift : Int) (round : Bool) (satCount : Bool)
  /-- MUL (R212). The microcode instruction multiplies a node by a coefficient. -/
  | mcMul (slot : Nat) (dst : Nat) (srcA : Nat) (coefWord : Nat) (shift : Int) (round : Bool) (satCount : Bool)
  /-- MAC (R212). The microcode instruction multiplies a node by a coefficient and adds another node. -/
  | mcMac (slot : Nat) (dst : Nat) (srcA : Nat) (srcB : Nat) (coefWord : Nat) (shift : Int) (round : Bool) (satCount : Bool)
  /-- BIQ (R212). The microcode instruction runs a cascade of biquad sections. -/
  | mcBiq (slot : Nat) (dst : Nat) (srcA : Nat) (coefWord : Nat) (stateBase : Nat) (sections : Nat) (shift : Int) (round : Bool) (satCount : Bool)
  /-- SSB (R212). The microcode instruction runs a state-space block. -/
  | mcSsb (slot : Nat) (dst : Nat) (srcA : Nat) (coefWord : Nat) (stateBase : Nat) (imm : Nat) (shift : Int) (round : Bool) (satCount : Bool)
  /-- LIM (R212). The microcode instruction clamps a node between two coefficients. -/
  | mcLim (slot : Nat) (dst : Nat) (srcA : Nat) (coefWord : Nat) (shift : Int) (round : Bool) (satCount : Bool)
  /-- INT (R212). The microcode instruction integrates a node into a clamped state word. -/
  | mcInt (slot : Nat) (dst : Nat) (srcA : Nat) (coefWord : Nat) (stateBase : Nat) (shift : Int) (round : Bool) (satCount : Bool)
  /-- SEL (R212). The microcode instruction selects one of two nodes by the sign of a condition node. -/
  | mcSel (slot : Nat) (dst : Nat) (srcA : Nat) (srcB : Nat) (imm : Nat) (shift : Int) (round : Bool) (satCount : Bool)
  /-- LUT (R212). The microcode instruction evaluates a piecewise-linear table. -/
  | mcLut (slot : Nat) (dst : Nat) (srcA : Nat) (coefWord : Nat) (sections : Nat) (shift : Int) (round : Bool) (satCount : Bool)
  /-- ENDS (R212). The microcode instruction ends the sample, fixing its slack and its trace values. -/
  | mcEnds (slot : Nat) (sub : Nat)
  /-- BANK_INTEGRITY_CHECK (R210). Every 1,024 major frames each active bank's CRC is checked, and a bank that fails is reloaded from control memory. -/
  | bankIntegrityCheck (sub : Nat) (found : List (Nat×Nat×Int))
  /-- COEF_SWAP_TAKE_EFFECT (R225). A pending coefficient swap takes effect at the loop's first boundary after acceptance, with the state words its mask selects cleared. -/
  | coefSwapTakeEffect (slot : Nat) (sub : Nat)
  /-- MICROCODE_SWAP (R230). At the first major-frame boundary after the request, every loop switches microcode bank, descriptor and coefficient bank together. -/
  | microcodeSwap (sub : Nat)
  /-- MICROCODE_HEALTH_WINDOW_END (R231). MicrocodeHealthFrames pass without reversion, and the former banks become ordinary Sealed inactive banks. -/
  | microcodeHealthWindowEnd (sub : Nat)
  /-- COEF_CLAIM (R224). A write of 1 to 4110h.02 by the Rafter key holder claims the selected loop's inactive bank. -/
  | coefClaim (requester : Requester)
  /-- COEF_RELEASE (R224). A write of 0 to 4110h.02 ends the claim of the selected loop. -/
  | coefRelease (requester : Requester)
  /-- COEF_COPY_ACTIVE (R223). A write of 1 to 4110h.03 copies the active bank into the inactive bank, which becomes Open. -/
  | coefCopyActive (requester : Requester)
  /-- COEF_VALUE_WRITE (R223). A write to 4110h.05 writes one word of the inactive bank and opens the bank. -/
  | coefValueWrite (requester : Requester) (value : Int)
  /-- COEF_SEAL (R223). A write of 1 to 4110h.06 computes and stores the inactive bank's CRC and seals it. -/
  | coefSeal (requester : Requester)
  /-- INACTIVE_IMAGE_WRITE (R237). A write of InactiveImage replaces the 256 words of the selected loop's inactive bank. -/
  | inactiveImageWrite (requester : Requester) (image : List Nat)
  /-- SWAP_REQUEST (R225). A write to 4110h.09 requests a swap of the selected loop's sealed bank with a state-clear mask and starts a run of 4111h. -/
  | swapRequest (requester : Requester) (sub : Nat) (mask : Nat)
  /-- GROUP_SWAP_REQUEST (R227). A write to 4110h.0A requests a swap of every member of a swap group. -/
  | groupSwapRequest (requester : Requester) (sub : Nat) (group : Nat)
  /-- RAFTER_STATS_CLEAR (R236). A write of 1 to 4100h.08 clears the late-sample, slack and saturation statistics. -/
  | rafterStatsClear (requester : Requester)
  /-- TRACE_ARM (R233). TraceCommand 1 clears the trace buffers and starts ring recording. -/
  | traceArm (requester : Requester)
  /-- TRACE_TRIGGER (R233). TraceCommand 2 triggers the trace, and each channel records its post-trigger samples. -/
  | traceTrigger (requester : Requester)
  /-- TRACE_STOP (R233). TraceCommand 3 stops the trace and permits readout. -/
  | traceStop (requester : Requester)
  /-- SPIN_UP_REQUEST (R292). A spin-up from Stopped begins, asking for a token where one is required and then for the surge budget. -/
  | spinUpRequest
  /-- SPIN_UP_TOKEN_GRANT (R299). A write of 1 to 4870h.04 grants the spin-up token while the state is requesting. -/
  | spinUpTokenGrant (requester : Requester)
  /-- SPIN_UP_TOKEN_TIMEOUT (R300). No grant arrives within SpinUpTokenWait, and the state becomes timed out. -/
  | spinUpTokenTimeout
  /-- SPIN_UP_SLOT_DELAY_END (R300). The node-ID × 250 ms delay after a token timeout ends, and the spin-up proceeds unaided. -/
  | spinUpSlotDelayEnd
  /-- SURGE_GRANT (R459). The request at the head of the surge queue fits within SurgeBudget and is granted. -/
  | surgeGrant
  /-- SURGE_RETURN (R458). A transient's hold ends, its units return to the budget, and the queue is re-examined. -/
  | surgeReturn (priority : Nat) (item : Nat)
  /-- CHOPPER_TEST_END (R314). The 50 µs chopper test pulse ends, and ChopperState is latched from CHS. -/
  | chopperTestEnd (chs : Nat)
  /-- LISTENING_END (R293). After 20 ms of listening the engine makes a flying start or enters InjectionStart. -/
  | listeningEnd
  /-- ROTOR_ANGLE_RESOLVED (R294). The injection estimate holds within 5° for 10 ms, and the polarity pulses follow. -/
  | rotorAngleResolved (ratio : Nat) (angle : Nat)
  /-- RESOLVE_TIMEOUT (R294). Resolving the rotor angle takes longer than 30 ms, and the start attempt fails. -/
  | resolveTimeout
  /-- POLARITY_PULSES_END (R294). The +d and −d pulses end, the north pole is marked, and acceleration from the sinusoidal table begins. -/
  | polarityPulsesEnd (plus : Nat) (minus : Nat)
  /-- BACK_EMF_CROSSING (R301). A back-EMF zero crossing is detected and accepted or rejected against its prediction window. -/
  | backEmfCrossing (phase : Nat) (v0 : Int) (v1 : Int) (sub : Nat) (tracked : Nat)
  /-- COMMUTATION_INSTANT (R301). The predicted commutation instant arrives, and six-step moves to the next step, with hand-over or re-acquisition taking effect. -/
  | commutationInstant (sub : Nat) (tracked : Nat)
  /-- LOCKED_ROTOR_TIMEOUT (R296). No commutation event occurs within LockedRotorTimeout expected periods, and locked rotor is declared. -/
  | lockedRotorTimeout
  /-- LOCKED_ROTOR_RETRY (R297). LockedRotorRetryDelay passes, and the spindle starts again from Listening. -/
  | lockedRotorRetry
  /-- SPIN_UP_TIME_LIMIT (R292). A spin-up has not reached AtSpeed within SpinUpTimeLimit and fails. -/
  | spinUpTimeLimit
  /-- SPEED_ERROR_CHECK (R290). Each major frame, the speed error enters or leaves AtSpeed. -/
  | speedErrorCheck (sub : Nat)
  /-- FLYWHEEL_CYCLES_END (R306). FlywheelCycles pass without re-acquisition, every actuator is parked, and the spindle coasts. -/
  | flywheelCyclesEnd
  /-- COAST_END (R306). The coasting speed falls below InjectionSpeedLimit or MaxCoastTime passes, and Listening begins. -/
  | coastEnd (weak : Bool)
  /-- PWM_PERIOD (R304). A PWM period begins, sample windows are opened or compensated, and the shunt is sampled. -/
  | pwmPeriod (sub : Nat) (tracked : Nat) (modulation : Nat) (shunt1 : Int) (shunt2 : Int)
  /-- OVERCURRENT_TRIP (R285). The shunt exceeds OvercurrentLimit, every gate turns off within 1 µs and the start attempt fails. -/
  | overcurrentTrip (shunt : Nat)
  /-- BUS_OVERVOLTAGE_OV2 (R318). A bus sample above OV2 turns every gate and the chopper off within 1 µs. -/
  | busOvervoltageOv2 (bus : Nat)
  /-- CHOPPER_FAULT_DECLARE (R316). The bus passes OV1 with no chopper current, or rises for 50 samples, and braking moves to zero-vector. -/
  | chopperFaultDeclare
  /-- BRAKE_END_SPEED (R319). The speed falls below BrakeEndSpeed, and all low sides are held on. -/
  | brakeEndSpeed
  /-- BRAKE_NO_CROSSING_TIMEOUT (R319). No crossing is seen for 1 s, the gates turn off, EN goes low and the spindle is Stopped. -/
  | brakeNoCrossingTimeout
  /-- SPINDLE_RETRY (R297). A write of 1 to 4800h.05 leaves Failed and begins a full set of start attempts. -/
  | spindleRetry (requester : Requester)
  /-- SINE_TABLE_RESTORE (R303). A write of 1 to 4830h.08 restores the default sinusoidal table. -/
  | sineTableRestore (requester : Requester)
  /-- SINE_TABLE_WRITE (R303). A write to 4830h.07 replaces the sinusoidal table unless it is in use. -/
  | sineTableWrite (requester : Requester) (table : List Nat)
  /-- ZONE_TABLE_RPM_CHANGE (R290). The zone tables' NominalRpm differs from SpindleNominalRpm, so the heads unload, the speed changes and the heads reload. -/
  | zoneTableRpmChange
  /-- LEVEL_REQUEST_WRITE (R439). A write to PerformanceLevelRequest starts one-level steps towards the request, within the cap and the thermal limit. -/
  | levelRequestWrite (requester : Requester) (level : Nat)
  /-- LEVEL_STEP (R445). A one-level raise or lowering begins: a raise requests surge and voltage first, and a lowering recomputes admission first. -/
  | levelStep
  /-- AVS_RESPONSE (R447). An AVSBus response acknowledges the outstanding request, and the level step continues after AvsSettleTime. -/
  | avsResponse (accepted : Bool) (mv : Nat)
  /-- AVS_SETTLE_END (R445). AvsSettleTime passes after an acknowledgement, and the next voltage request or the ceiling change follows. -/
  | avsSettleEnd
  /-- AVS_ACK_TIMEOUT (R447). No accepting response arrives within 200 µs, and the old level is kept and a retry or failure follows. -/
  | avsAckTimeout
  /-- AVS_RETRY_DELAY_END (R447). AvsRetryDelay passes after a timeout, and the rail voltage is read back before the next write. -/
  | avsRetryDelayEnd
  /-- AVS_RESTART (R447). A write of 1 to 5830h.06 leaves the failed AVS state. -/
  | avsRestart (requester : Requester)
  /-- THERMAL_LEVEL_ADJUST (R440). Every 10 s, ThermalLevelLimit is lowered or raised by one level according to the case temperature. -/
  | thermalLevelAdjust (temperature : Int)
  /-- CASE_TEMPERATURE_CRITICAL (R598). The case estimate reaches 110 °C, every actuator safe-parks and loads are refused until it is 100 °C or below. -/
  | caseTemperatureCritical (temperature : Int)
  /-- REPLICA_MEASUREMENT (R462). A replica delay measurement of the level in force completes and may raise that level's voltage. -/
  | replicaMeasurement (level : Nat) (counts : List Nat)
  /-- READ_MARGIN_RECORD (R465). Every 24 h of power-on time, each head and zone gains a read-margin record, and the margin is checked. -/
  | readMarginRecord
  /-- SLEEP_STATE_REQUEST_WRITE (R450). A write to 5810h.02 changes the target state and may begin a sleep entry or latch a wake. -/
  | sleepStateRequestWrite (requester : Requester) (value : Nat)
  /-- SLEEP_BLOCK_VOTE (R452). A block of the prepare phase finishes quiescing and votes to proceed or refuses with its code. -/
  | sleepBlockVote (block : Nat) (wake : Option Nat)
  /-- SLEEP_STATE_REACHED (R454). The ceiling reaches PL0 or the core rail goes off, and a held wake is replayed. -/
  | sleepStateReached
  /-- SLEEP_PREPARE_TIMEOUT (R452). The prepare phase passes PrepareLimit and is refused with code 0Fh. -/
  | sleepPrepareTimeout
  /-- WAKE_EVENT (R455). The Loft domain latches a wake source, which aborts an entry or starts an exit. -/
  | wakeEvent (source : Nat)
  /-- WAKE_TIMER_EXPIRY (R455). WakeTimer expires in S2 to S4 and latches a wake. -/
  | wakeTimerExpiry
  /-- SLEEP_IDLE_TIME_EXPIRY (R451). SleepIdleTime passes without an I/O fetch, and the device takes the target again. -/
  | sleepIdleTimeExpiry
  /-- FAULT_RAISING (R474). The collector takes one raising of a fault source and applies the record, pin, park, EMCY, host event and reset reactions of its severity. -/
  | faultRaising (src : Nat) (cause : Nat)
  /-- FAULT_CLEAR (R477). A write to 5C02h.01 clears ended standing faults and releases any park they hold. -/
  | faultClear (requester : Requester) (value : Nat)
  /-- FAULT_PIN_RELEASE (R480). A write of 1 to 5C01h.03 releases FAULT at once or at the end of the pulse. -/
  | faultPinRelease (requester : Requester)
  /-- FAULT_PULSE_END (R480). FaultPulseWidth ends, and FAULT is held low or released if a release is pending. -/
  | faultPulseEnd
  /-- EMCY_SEND (R434). A queued EMCY message is sent once EmcyInhibit has passed since the last one. -/
  | emcySend
  /-- TRAPDOOR_TOKEN (R484). A write to 6080h.02 checks an unlock token and enters Trapdoor mode, or refuses it. -/
  | trapdoorToken (requester : Requester) (token : List Nat) (appended : Bool)
  /-- INJECT_START (R488). A write of 1 to 6401h.07 starts a source or condition injection run. -/
  | injectStart (requester : Requester)
  /-- INJECT_CANCEL (R488). A write of 2 to 6401h.07 cancels the running injection run. -/
  | injectCancel (requester : Requester)
  /-- INJECTION_INTERVAL (R488). InjectInterval passes, and the run makes its next raising or condition. -/
  | injectionInterval
  /-- SHELF_CLEAR (R501). The Shelf key holder writes a bound to 5C20h.03, and records up to it are discarded and a 0001h record is written. -/
  | shelfClear (requester : Requester) (bound : Nat)
  /-- SHELF_CLEAR_TOKEN (R502). A clear token written over the management bus is checked and clears the Shelf, or is refused. -/
  | shelfClearToken (requester : Requester) (token : List Nat)
  /-- WALL_TIME_SET (R500). A write to 5C30h.02 slews or steps wall time. -/
  | wallTimeSet (requester : Requester) (value : Nat)
  /-- SNAPSHOT_LIST_WRITE (R494). A write of SnapshotListImage sets a code's list, rate and burst, refills its bucket and advances ListVersion. -/
  | snapshotListWrite (requester : Requester) (image : List Nat)
  /-- TRUNK_APPEND_COMPLETE (R507). The program engine finishes appending a queued Trunk record, carrying and erasing units as needed. -/
  | trunkAppendComplete (cause : Nat)
  /-- TRUNK_MIRROR_WRITE (R513). Within TrunkMirrorPeriod, changed Trunk units are written to each actuator's media mirror in spare revolutions. -/
  | trunkMirrorWrite (act : Nat)
  /-- STORE_PARAMETERS (R412). A write of "save" to 1010h.01 saves the stored set to the lower-sequence NOR copy and reads it back. -/
  | storeParameters (requester : Requester) (value : Nat)
  /-- RESTORE_DEFAULTS (R412). A write of "load" to 1011h.01 erases both stored copies. -/
  | restoreDefaults (requester : Requester) (value : Nat)
  /-- KEY_ACQUIRE (R420). A write of 1 to a KeyControl sub-index acquires, renews or makes explicit a key, or is refused. -/
  | keyAcquire (requester : Requester) (key : Nat)
  /-- KEY_RELEASE (R420). A write of 0 to a KeyControl sub-index releases an explicitly held key. -/
  | keyRelease (requester : Requester) (key : Nat)
  /-- KEY_LEASE_EXPIRY (R421). A lease fully elapses: the key becomes free, the expiry is recorded, and claims or downloaded images are ended. -/
  | keyLeaseExpiry (key : Nat)
  /-- NMT_START_REMOTE_NODE (R429). The NMT command puts the device into Operational. -/
  | nmtStartRemoteNode (bus : Nat) (node : Nat)
  /-- NMT_STOP_REMOTE_NODE (R429). The NMT command puts the device into Stopped. -/
  | nmtStopRemoteNode (bus : Nat) (node : Nat)
  /-- NMT_ENTER_PRE_OPERATIONAL (R429). The NMT command puts the device into Pre-operational. -/
  | nmtEnterPreOperational (bus : Nat) (node : Nat)
  /-- NMT_RESET_NODE (R430). The NMT command reloads the communication profile, releases MB's keys and enters Initialisation. -/
  | nmtResetNode (bus : Nat) (node : Nat)
  /-- NMT_RESET_COMMUNICATION (R430). The NMT command reloads 1000h–1FFFh, applies any LSS node-ID and enters Initialisation. -/
  | nmtResetCommunication (bus : Nat) (node : Nat)
  /-- LSS_SWITCH_STATE_GLOBAL (R431). The LSS command switches every device into or out of configuration. -/
  | lssSwitchStateGlobal (bus : Nat) (mode : Nat)
  /-- LSS_SWITCH_STATE_SELECTIVE (R431). The LSS command switches the device selected by its identity into configuration. -/
  | lssSwitchStateSelective (bus : Nat) (vendor : Nat) (product : Nat) (revision : Nat) (serial : Nat)
  /-- LSS_CONFIGURE_NODE_ID (R431). The LSS command sets a node-ID that takes effect at the next Reset Communication. -/
  | lssConfigureNodeId (bus : Nat) (node : Nat)
  /-- LSS_STORE_CONFIGURATION (R431). The LSS command writes the node-ID to NOR. -/
  | lssStoreConfiguration (bus : Nat)
  /-- LSS_INQUIRE_IDENTITY (R431). The LSS command returns an entry of the identity. -/
  | lssInquireIdentity (bus : Nat) (entry : Nat)
  /-- LSS_INQUIRE_NODE_ID (R431). The LSS command returns the node-ID. -/
  | lssInquireNodeId (bus : Nat)
  /-- LSS_FASTSCAN (R431). The LSS fastscan command is answered. -/
  | lssFastscan (bus : Nat) (number : Nat) (bit : Nat) (sub : Nat) (following : Nat)
  /-- LSS_CONFIGURE_BIT_TIMING (R431). The LSS command to configure bit timing is refused. -/
  | lssConfigureBitTiming (bus : Nat)
  /-- USDO_REQUEST (R432). A USDO request frame begins, continues or ends a transfer, and a write is applied at its last segment. -/
  | usdoRequest (bus : Nat) (client : Nat) (begins : Bool) (write : Bool) (object : Nat) (data : List Nat) (last : Bool)
  /-- USDO_TIMEOUT (R432). A transfer gets no client frame for UsdoTimeout and is aborted with 0504 0000h. -/
  | usdoTimeout
  /-- RPDO_RECEIVED (R433). An RPDO frame writes its mapped objects, and any write that R344 would refuse is dropped and counted. -/
  | rpdoReceived (bus : Nat) (number : Nat) (data : List Nat)
  /-- TPDO_TRANSMIT (R433). A mapped value changes after its inhibit time, or its event timer expires, and the TPDO is sent. -/
  | tpdoTransmit (number : Nat)
  /-- HEARTBEAT_PRODUCE (R428). Every ProducerHeartbeat interval the device sends its heartbeat. -/
  | heartbeatProduce
  /-- CONSUMER_HEARTBEAT_LOST (R436). A consumed heartbeat is not received within its time, the manager-heartbeat fault is raised and EMCY 8130h is sent. -/
  | consumerHeartbeatLost (bus : Nat) (entry : Nat)
  /-- TIME_MESSAGE (R436). A TIME message on the active bus sets wall time by slewing or stepping it. -/
  | timeMessage (bus : Nat) (value : Nat)
  /-- FOREIGN_FRAME (R426). A frame on an identifier the device does not consume is ignored and counted. -/
  | foreignFrame (bus : Nat)
  /-- ARBITRATION_LOST (R424). A frame loses arbitration and is retransmitted automatically. -/
  | arbitrationLost (bus : Nat)
  /-- STALE_FRAME_DROP (R424). A frame still unsent 100 ms after queuing is dropped. -/
  | staleFrameDrop (bus : Nat) (queued : Nat)
  /-- BUS_OFF (R424). A port goes bus-off, and is disabled if it passes BusOffLimit within 60 s. -/
  | busOff (bus : Nat)
  /-- BUS_OFF_RECOVERY_START (R424). BusOffRecoveryDelay passes after bus-off, and recovery begins. -/
  | busOffRecoveryStart (bus : Nat)
  /-- BUS_OFF_RECOVERED (R424). 128 occurrences of 11 recessive bits end recovery, and EMCY 8140h is sent. -/
  | busOffRecovered (bus : Nat)
  /-- DUPLICATE_NODE_ID (R427). A valid frame on an own identifier that the device is not transmitting puts the port into listen-only. -/
  | duplicateNodeId (bus : Nat)
  /-- BUS_SELECT (R425). A write to 2100h.02 makes the named port the active bus. -/
  | busSelect (requester : Requester) (value : Nat)
  /-- MB_PORT_RESTART (R424). A write of 1 to 2108h re-enables a disabled or listen-only port. -/
  | mbPortRestart (requester : Requester) (bus : Nat)
  /-- LARDER_ENABLE (R401). A write of 1 to 5010h.01 enables the Larder, if an invalidate has run since disable. -/
  | larderEnable (requester : Requester)
  /-- LARDER_DISABLE (R400). A write of 0 to 5010h.01 stops lookups, fills and read-ahead and clears InvalidateSinceDisable. -/
  | larderDisable (requester : Requester)
  /-- LARDER_INVALIDATE (R402). A write of 1 to 5010h.02 starts an invalidate run of every Larder and Side Pantry tag. -/
  | larderInvalidate (requester : Requester)
  /-- LARDER_INVALIDATE_COMPLETE (R402). The invalidate run ends, and InvalidateSinceDisable becomes 1. -/
  | larderInvalidateComplete
  /-- NARROW_ENABLE_WRITE (R162). A write of 0 to NarrowEnable returns every narrow head at its next stripe boundary and stops new entries. -/
  | narrowEnableWrite (requester : Requester) (value : Nat)
  /-- PACE_INTERVAL_WRITE (R159). A write to PaceInterval restarts every head's pace runs. -/
  | paceIntervalWrite (requester : Requester) (value : Nat)
  /-- EQ_RESTORE (R139). A write of 1 to 3210h.06 restores every stream's and zone's equaliser set to the table values. -/
  | eqRestore (requester : Requester)
  /-- OUTCOME_COUNTER_CLEAR (R164). A write of 1 to 3250h.03 clears every stream's outcome counters. -/
  | outcomeCounterClear (requester : Requester)
  /-- MAP_LBA_REQUEST (R83). A write to 3050h.01 starts a run that maps the LBA under the selected namespace. -/
  | mapLbaRequest (requester : Requester) (lba : Nat)
  /-- MAP_RUN_END (R83). A mapping run ends within 100 µs as done or failed. -/
  | mapRunEnd
  /-- CRATE_BLOCK_WRITE (R525). A write to 6000h.02 stores a block of a Crate at CrateOffset. -/
  | crateBlockWrite (requester : Requester) (data : List Nat)
  /-- STAGE_REQUEST (R526). A write of 1 to 6000h.04 starts staging of the received Crate. -/
  | stageRequest (requester : Requester)
  /-- STAGING_END (R526). Staging completes its checks and builds: the slot header is written and UpdateState becomes 1, or the staging is refused. -/
  | stagingEnd (appended : Bool)
  /-- ACTIVATE_IMMEDIATE (R531). A write of 1 to 6010h.02 requests an immediate activation, which fires when accepted. -/
  | activateImmediate (requester : Requester)
  /-- ACTIVATE_ARM (R535). A write of 2 to 6010h.02 arms a scheduled activation for ScheduledPulse. -/
  | activateArm (requester : Requester)
  /-- ACTIVATE_CANCEL (R535). A write of 3 to 6010h.02 cancels an armed activation. -/
  | activateCancel (requester : Requester)
  /-- ACTIVATION_STEP_END (R531). An activation step's component is switched and serving, and the next step or the end of the activation follows. -/
  | activationStepEnd
  /-- ACTIVATION_STEP_TIMEOUT (R532). An activation step passes its step limit, and the switched components are returned. -/
  | activationStepTimeout (returnFailed : Bool)
  /-- TBI_EDGE (R534). A TBI rising edge of at least 1 µs is latched and labelled with a pulse number, which may fire or start a scheduled activation. -/
  | tbiEdge (width : Nat)
  /-- SCHEDULED_PULSE_MISSED (R535). The wall time passes the expected pulse by 1.5 s without its edge, and the activation is refused with reason 0Ah. -/
  | scheduledPulseMissed
  /-- SVN_COMMIT (R519). A write of 1 to 6070h.02 advances the fused security version counter to the active set's version. -/
  | svnCommit (requester : Requester) (appended : Bool)
  /-- OWNER_LOCK_SET (R537). A valid owner token with Operation 1 appends a record and sets the owner lock. -/
  | ownerLockSet (requester : Requester) (token : List Nat) (appended : Bool)
  /-- OWNER_LOCK_CLEAR (R537). A valid owner token with Operation 2 appends a record and clears the owner lock. -/
  | ownerLockClear (requester : Requester) (token : List Nat) (appended : Bool)
  /-- GET_VERSION (R347). The SPDM request returns the supported versions and ends RequestResynch. -/
  | spdmGetVersion (transport : Nat)
  /-- GET_CAPABILITIES (R347). The SPDM request returns CERT_CAP, CHAL_CAP and MEAS_CAP 10b. -/
  | spdmGetCapabilities (transport : Nat)
  /-- NEGOTIATE_ALGORITHMS (R347). The SPDM request negotiates ECDSA P-384 and SHA-384. -/
  | spdmNegotiateAlgorithms (transport : Nat) (offered : Bool)
  /-- GET_DIGESTS (R347). The SPDM request returns the digest of certificate slot 0. -/
  | spdmGetDigests (transport : Nat)
  /-- GET_CERTIFICATE (R347). The SPDM request returns part of the slot 0 certificate chain. -/
  | spdmGetCertificate (transport : Nat) (certSlot : Nat) (offset : Nat) (length : Nat)
  /-- CHALLENGE (R347). The SPDM request is answered with a signed challenge response. -/
  | spdmChallenge (transport : Nat) (certSlot : Nat) (nonce : Nat)
  /-- GET_MEASUREMENTS (R542). The SPDM request returns the measurement blocks, signed. -/
  | spdmGetMeasurements (transport : Nat) (certSlot : Nat) (measurement : Nat) (nonce : Nat)
  /-- SPDM_UNSUPPORTED_REQUEST (R347). Any other SPDM request receives ERROR UnsupportedRequest. -/
  | spdmUnsupportedRequest (transport : Nat)
  /-- SET_ENDPOINT_ID (R346). The MCTP control command sets the endpoint ID. -/
  | setEndpointId (port : Nat) (operation : Nat) (eid : Nat)
  /-- GET_ENDPOINT_ID (R346). The MCTP control command returns the endpoint ID. -/
  | getEndpointId (port : Nat)
  /-- GET_MCTP_VERSION_SUPPORT (R346). The MCTP control command returns the supported versions. -/
  | getMctpVersionSupport (port : Nat) (messageType : Nat)
  /-- GET_MESSAGE_TYPE_SUPPORT (R346). The MCTP control command returns the supported message types. -/
  | getMessageTypeSupport (port : Nat)
  /-- FENCE_HEAD (R556). A write to 2014h.01 fences the named head. -/
  | fenceHead (requester : Requester) (head : Nat)
  /-- RETURN_HEAD (R559). A write to 2014h.02 starts a return run that rebuilds, calibrates and checks a fenced head. -/
  | returnHead (requester : Requester) (head : Nat)
  /-- RETURN_ACTUATOR (R559). A write to 2014h.03 starts a return run that rebuilds, loads and calibrates a fenced actuator. -/
  | returnActuator (requester : Requester) (act : Nat)
  /-- RETURN_RUN_END (R559). A return run ends, clearing the fence if every step passed. -/
  | returnRunEnd (heads : List HeadCal) (loops : List LoopCal) (zones : List ZoneCopy) (spares : List SpareCopy)
  /-- BYPASS (R579). The JTAG instruction selects the bypass register. -/
  | jtagBypass
  /-- IDCODE (R579). The JTAG instruction selects the IDCODE register. -/
  | jtagIdcode
  /-- SAMPLE_PRELOAD (R579). The JTAG instruction samples or preloads the boundary-scan cells. -/
  | jtagSamplePreload (capture : Nat) (preload : Nat)
  /-- EXTEST (R579). The JTAG instruction drives the pins from the boundary-scan cells. -/
  | jtagExtest
  /-- CLAMP (R579). The JTAG instruction holds the outputs from the boundary-scan cells with bypass selected. -/
  | jtagClamp
  /-- HIGHZ (R579). The JTAG instruction places the outputs in high impedance. -/
  | jtagHighz
  /-- DBG_TOKEN_SHIFT (R579). During the boot halt, an unlock token shifted into TOKEN is checked and enters Trapdoor mode, or is refused. -/
  | dbgTokenShift (token : List Nat) (appended : Bool)
  /-- INPUT_POWER_RETURN (R311). The 12 V input returns after a power loss, and once the spindle is Stopped or the bank is below HoldUpMinVoltage the device resets as at power-up. -/
  | inputPowerReturn (straps : Nat)
  /-- SPINDLE_STOP_LIMIT (R452). During an S4 prepare phase the spindle is not Stopped within SpindleStopLimit, and the spindle block refuses with code 07h. -/
  | spindleStopLimit
  /-- CRWMT_EXPIRY (R330). With CC.CRIME at 0, CRWMT expires before the media are ready, and CSTS.RDY is set anyway. -/
  | crwmtExpiry (port : Nat)
  /-- BUS_VOLTAGE_SAMPLE (R315). Each 1 µs bus sample turns the brake chopper on above nominal plus ChopperOnPercent and off below nominal plus ChopperOffPercent. -/
  | busVoltageSample (bus : Nat) (chs : Nat)
  /-- FUNCTION_POWER_STATE_CHANGE (R450). The host places a port's function in D3hot, with its link in L2/L3 Ready, or returns it to D0, which changes that port's sleep constraint and the S4 vote. -/
  | functionPowerStateChange (port : Nat) (d3hot : Bool) (l23 : Bool)
  /-- HOST_LINK_UP (R341). A host port's PCIe link finishes training and comes up, and the port again sets a power-state constraint and can carry completions. -/
  | hostLinkUp (port : Nat) (speed : Nat) (width : Nat)
  /-- ERROR_PASSIVE_CHANGE (R434). A management-bus port's error counters cross the error-passive limit, so the port enters error-passive with EMCY 8120h or returns to error-active. -/
  | errorPassiveChange (bus : Nat) (transmit : Nat) (receive : Nat)
  /-- CONSUMER_HEARTBEAT_RECEIVED (R425). A configured manager heartbeat frame is received on the active or standby bus and restarts its consumer time. -/
  | consumerHeartbeatReceived (bus : Nat) (node : Nat)
  /-- SYNC_MESSAGE (R428). A SYNC frame is received on the identifier of 1005h, which the device consumes. -/
  | syncMessage (bus : Nat)
  /-- MOTION_LINK_ERROR (R468). The motion link detects a CRC error or loses a lane, and source 12 is raised. -/
  | motionLinkError (lane : Bool)
  /-- CONTROL_MEMORY_ECC_ERROR (R468). A control-memory ECC error is detected, and it raises source 8 if it is corrected or source 9 if it is uncorrectable. -/
  | controlMemoryEccError (corrected : Bool)
  /-- LINK_UNCORRECTABLE_ERROR (R468). A host port's PCIe link reports an uncorrectable error, and source 304 or 305 is raised. -/
  | linkUncorrectableError (port : Nat)
  /-- SUPPLY_ABOVE_THRESHOLD (R589). A late module supply, or VDD_CORE after VREG_EN rises, reaches its monitor threshold, and start-up proceeds to or through step 2. -/
  | supplyAboveThreshold (supply : Nat) (mv : Nat) (imagesOk : Bool)
  deriving DecidableEq, Repr

end Sys2Proof
end

