-- ==== Sys2Proof/Config.lean ====
section
/-! DEFINITION. What an implementation fixes and what the spec leaves open. Every `opaque` here has no body that a
proof can see: a claim about it holds for every value. -/

namespace Sys2Proof

/-- Free values (log entry 2): the value the spec leaves open at the `n`-th place where the machine takes one. -/
opaque Config.freeValue : Nat → Nat

/-- Signature bytes of the signing engine over a byte list, 1 ECDSA P-384, 2 ML-DSA-65: the engine's keys derive from the part's fused
seed (R539, log entry 3). -/
opaque Config.sign : Nat → List Nat → List Nat

/-- Whether a signature verifies, 1 ECDSA P-384, 2 ML-DSA-65: public key, message, signature. The algorithms of FIPS 186-5 and FIPS 204
are uninterpreted (log entry 3). -/
opaque Config.verifies : Nat → List Nat → List Nat → List Nat → Bool

/-- Identity of the part: 1 vendor ID, 2 product code, 3 revision, 4 serial number (1018h); 5 PCI vendor ID; 6 die
revision; 7 identity digest; 8 owner key hash; 9 to 12 vendor key hashes; 13, 14 digests of the boot ROM and of stage
1; 15 MCTP version entry, 16 JEDEC manufacturer identity (R22, R437, R538, R539, R579). -/
opaque Config.identity : Nat → Nat

/-- The set that the maker programs into slot 1: 0 its header, 1 to 6 its images (R517). -/
opaque Config.factory : Nat → List Nat

/-- Bytes of the certificate chains provisioned at manufacture (6060h.01, 6060h.02) and of the LDPC base matrix
(3032h.03), which the spec gives by reference. -/
opaque Config.provisioned : Nat → List Nat

/-- Equaliser tap or interference coefficient that a detector-tables image holds, by stream, zone and number: 0 to 15 the taps, 16 the
coefficient, 17 the leakage gain; the spec does not give the image's layout (R142, R145). -/
opaque Config.tableTap : List Nat → Nat → Nat → Nat → Int

/-- Tap `j` (0 to 7) of phase filter `i` (0 to 63) of the interpolator, in Q2.14; the spec gives the filters no taps (R134). -/
opaque Config.phaseFilter : Nat → Nat → Int

/-- Sine of `i`/1,024 of a period in Q2.14, whose rounding the spec does not give (R122, R240). -/
opaque Config.sine : Nat → Int

/-- Gains of the clock loop for a bandwidth in kHz: proportional, and integral in 2^-32 of a sixty-fourth bit time to the sample; the
spec gives only the bandwidth (R123). -/
opaque Config.clockGains : Nat → Int × Int

/-- What the gain loop and the DC-offset loop of a stream settle at from the run-in's interpolated samples: gain in Q8.8, offset;
the spec gives the loops no law (R136). -/
opaque Config.runInLoops : List Int → Int × Int

/-- Zone target g1, g2 that a detector-tables image holds in Q2.14, by surface and zone (R141, R145). -/
opaque Config.zoneTarget : List Nat → Nat → Nat → Int × Int

/-- Step of a 6-bit log-likelihood ratio in the detector's metric; the spec gives none (R143). -/
opaque Config.llrStep : Nat

/-- The decoder's layer schedule that a detector-tables image holds: rows of the base matrix in the order of an iteration (R145,
R146). -/
opaque Config.layerSchedule : List Nat → List Nat

/-- SHA-384 hash of LdpcBaseMatrix that a detector-tables image holds (R145). -/
opaque Config.tablesHash : List Nat → Nat

/-- The 4,096 words of a Rafter microcode set by address; the spec gives the set's descriptors a layout, not the place of its words
(R208, R215, R244). -/
opaque Config.microWords : List Nat → List Nat

/-- Output of the injection generator in Q2.30 for a loop slot, the number of the frequency, 0 to 7, and an instant in sub-ticks; the
spec gives the generator's range of frequencies and its purpose, not its frequencies and amplitude (R246, R276). -/
opaque Config.injection : Nat → Nat → Nat → Int

/-- Count of a replica monitor corrected to 85 degrees from the count at a case temperature in 0.1 degree, with the monitor's own
temperature coefficient, which the spec does not give (R462). -/
opaque Config.corrected : Nat → Nat → Int → Nat

/-- ln(A1/A3) in 2^-16 of two amplitudes, whose rounding the spec does not give (R277). -/
opaque Config.logRatio : Nat → Nat → Int

/-- Entries of the default sine table, whose rounding the spec does not give (R303). -/
opaque Config.defaultSine : Nat → Nat

/-- Ledger pages that fit in system-area lanes 0 to 31 of a surface after its table copies; the spec gives the system area no
sectors per track (R61, R191). -/
opaque Config.ledgerRoom : Nat → Nat

/-- System sector number of the first sector of a table, page or record by kind, number and copy; the spec gives the system area no
sector numbering (R53, R61). -/
opaque Config.systemSector : Nat → Nat → Nat → Nat

/-- NVMe qualified name built from NqnAuthority and SerialNumber, whose form the spec does not give (R336). -/
opaque Config.subNqn : List Nat → List Nat → List Nat

end Sys2Proof
end

