-- ==== Sys2Proof/Machine/Bits.lean ====
section
/-! DEFINITION. Bytes and rows of bits, CRC-32C (R6), the checksums of the head links (R87, R102), and shift-register sequences (R52, R101). -/

namespace Sys2Proof.Machine

/-! ### Bytes -/

/-- Little-endian bytes of a number (R11). -/
def leBytes : Nat → Nat → List Nat
  | 0, _ => []
  | n + 1, v => (v % 256) :: leBytes n (v / 256)

/-- Number of a little-endian byte list. -/
def ofLe : List Nat → Nat
  | [] => 0
  | b :: r => b + 256 * ofLe r

/-- `n` bytes of a list from a place on. -/
def cut (b : List Nat) (i n : Nat) : List Nat := (b.drop i).take n

/-- Little-endian field of `n` bytes at a place of a list. -/
def field (b : List Nat) (i n : Nat) : Nat := ofLe (cut b i n)

/-- Two's complement of an integer in `n` bytes. -/
def leInt (n : Nat) (v : Int) : List Nat := leBytes n (v % (2 ^ (8 * n) : Int)).toNat

/-- A byte list cut or padded with zeros to `n` bytes. -/
def padTo (n : Nat) (b : List Nat) : List Nat := (b ++ List.replicate (n - b.length) 0).take n

/-- One bit step of the reflected CRC-32C register; 82F63B78h is 1EDC6F41h reflected (R6). -/
def crcBit (c : Nat) : Nat := if c % 2 = 1 then (c / 2) ^^^ 0x82F63B78 else c / 2

/-- One byte taken into the CRC-32C register (R6). -/
def crcByte (c b : Nat) : Nat :=
  crcBit (crcBit (crcBit (crcBit (crcBit (crcBit (crcBit (crcBit (c ^^^ b))))))))

/-- CRC-32C of a byte list (R6). -/
def crc32c (b : List Nat) : Nat := (b.foldl crcByte 0xFFFFFFFF) ^^^ 0xFFFFFFFF

/-- Fields laid one after the other, each a length and a value, little-endian. -/
def fieldBytes (l : List (Nat × Nat)) : List Nat := l.flatMap fun f => leBytes f.1 f.2

/-- Bytes followed by their CRC-32C. -/
def withCrc (b : List Nat) : List Nat := b ++ leBytes 4 (crc32c b)

/-! ### Bits -/

/-- The low `n` bits of a number, most significant first. -/
def bitsOf (n v : Nat) : List Bool := (List.range n).map fun i => v.testBit (n - 1 - i)

/-- Number of a list of bits, most significant first. -/
def ofBits (l : List Bool) : Nat := l.foldl (fun a b => 2 * a + b.toNat) 0

/-- Bytes laid out as bits, each most significant bit first (R50). -/
def byteBits (b : List Nat) : List Bool := b.flatMap (bitsOf 8)

/-- Bits read back as bytes, each most significant bit first. -/
def bitBytes (n : Nat) (l : List Bool) : List Nat := (List.range n).map fun i => ofBits ((l.drop (8 * i)).take 8)

/-- Two rows of bits added modulo 2; the shorter one counts as ending in zeros. -/
def addBits : List Bool → List Bool → List Bool
  | [], b => b
  | a, [] => a
  | x :: a, y :: b => (x != y) :: addBits a b

/-- Hamming distance of two rows of bits of one length. -/
def bitDistance (a b : List Bool) : Nat := ((a.zip b).filter fun p => p.1 != p.2).length

/-- One bit through a CRC register of `n` bits that shifts left. -/
def crcStep (n poly c : Nat) (b : Bool) : Nat :=
  if (c.testBit (n - 1)) != b then (2 * c % 2 ^ n) ^^^ poly else 2 * c % 2 ^ n

/-- CRC-8 of a row of `n` bits, most significant first: polynomial 07h, initial value 00h (R87, R568, R573). -/
def crc8Of (n v : Nat) : Nat := (bitsOf n v).foldl (crcStep 8 0x07) 0

/-- Halves of a row of `n` Manchester bits, most significant first: a rising mid-bit transition for 1 (R568). -/
def manchester (n v : Nat) : Nat := (bitsOf n v).foldl (fun a b => 4 * a + if b then 1 else 2) 0

/-- CRC-8 of a control-link frame, over bits 63:8 (R87). -/
def crc8 (frame : Nat) : Nat := crc8Of 56 (frame / 256)

/-- CRC-16 of a marker interval carried over one more block body: polynomial 1021h (R102). -/
def crc16 (c : Nat) (body : Nat) : Nat := (bitsOf 128 body).foldl (crcStep 16 0x1021) c

/-! ### Scramblers -/

/-- Next state of a shift register of `n` stages with taps at stages `n` and `m` (R52, R101). -/
def lfsrNext (n m x : Nat) : Nat := (2 * x + (x.testBit (n - 1) != x.testBit (m - 1)).toNat) % 2 ^ n

/-- The first `k` output bits of such a register, the output taken at its last stage (log entry 100). -/
def lfsrBits (n m : Nat) : Nat → Nat → List Bool
  | 0, _ => []
  | k + 1, x => x.testBit (n - 1) :: lfsrBits n m k (lfsrNext n m x)

/-- State of such a register after `k` bits. -/
def lfsrAfter (n m : Nat) : Nat → Nat → Nat
  | 0, x => x
  | k + 1, x => lfsrAfter n m k (lfsrNext n m x)

end Sys2Proof.Machine
end

