-- ==== Sys2Proof/Machine/Codeword.lean ====
section
/-! DEFINITION. The recorded form of a sector, bit by bit: header, codeword order, LDPC code, scrambler, run-in, mark and guard, and
what a writer link makes of it (R48 to R54, R108, R109, R181). -/

namespace Sys2Proof.Machine

/-! ### The sector scrambler (R52) -/

/-- Seed of a sector's scrambler from its physical lane, its track and its number on the track (R52). -/
def scramblerSeed (lane track sector : Nat) : Nat :=
  let v := (2 * lane + track) % 2 ^ 20 * 2 ^ 11 + sector % 2 ^ 11
  if v = 0 then 1 else v

/-- The PRBS-31 bits of a sector's codeword, polynomial x^31 + x^28 + 1 (R52). -/
def scrambleBits (lane track sector : Nat) : List Bool := lfsrBits 31 28 37376 (scramblerSeed lane track sector)

/-! ### Header and information bits (R50, R53) -/

/-- Header bytes 0 to 15 of a sector: its Lba, WriteGeneration, Flags, the reserved bytes and HeaderCrc (R53). -/
def headerBytes (lba gen flags : Nat) : List Nat :=
  let b := leBytes 6 lba ++ leBytes 2 gen ++ leBytes 2 flags ++ [0, 0]
  b ++ leBytes 4 (crc32c b)

/-- Information bits of a codeword: header bytes 0 to 15, then user bytes 0 to 4,095 of a number that holds byte u in its bits
8u to 8u + 7 (R50). -/
def infoBits (lba gen flags data : Nat) : List Bool := byteBits (headerBytes lba gen flags) ++ byteBits (leBytes 4096 data)

/-! ### The LDPC code (R51) -/

/-- Shift value of block (row, column) of the base matrix: an INTEGER16 of LdpcBaseMatrix, row by row (R51). -/
def ldpcShift (row col : Nat) : Int :=
  let b := Config.provisioned 3
  let v := b.getD (2 * (292 * row + col)) 0 % 256 + 256 * (b.getD (2 * (292 * row + col) + 1) 0 % 256)
  if v < 32768 then v else (v : Int) - 65536

/-- A block of 128 bits through a circulant of a shift value: bit r of the result is bit r + shift of the block; -1 is the
all-zero block (R51, log entry 101). -/
def circulant (shift : Int) (x : List Bool) : List Bool := if shift < 0 then [] else x.rotateLeft (shift.toNat % 128)

/-- The blocks of 128 bits of a row of bits. -/
def blocksOf (n : Nat) (l : List Bool) : List (List Bool) := (List.range n).map fun j => (l.drop (128 * j)).take 128

/-- Sum over one row of the base matrix of the blocks at hand, from column 0 on. -/
def rowParity (row : Nat) (blocks : List (List Bool)) : List Bool :=
  blocks.zipIdx.foldl (fun a b => addBits a (circulant (ldpcShift row b.2) b.1)) (List.replicate 128 false)

/-- Information and parity blocks up to row `n`, by back-substitution along the dual diagonal: the parity block of a row closes
the sum of that row over every block before it (R51). -/
def withParity (info : List (List Bool)) : Nat → List (List Bool)
  | 0 => info
  | n + 1 =>
    let blocks := withParity info n
    blocks ++ [(rowParity n blocks).rotateRight ((ldpcShift n (257 + n)).toNat % 128)]

/-- The codeword of a sector in index order: 32,896 information bits and 4,480 parity bits (R50, R51). -/
def codeword (lba gen flags data : Nat) : List Bool := (withParity (blocksOf 257 (infoBits lba gen flags data)) 35).flatten

/-- Whether every parity check of the code holds (R51, R146). -/
def parityHolds (word : List Bool) : Bool :=
  (List.range 35).all fun i => (rowParity i (blocksOf 292 word)).all fun b => !b

/-! ### The sector on media (R48, R49) -/

/-- Run-in, mark pattern and guard (R48). -/
def runInPattern : Nat := 0xCCCCCCCCCCCCCCCC
def syncPattern : Nat := 0x1E5A8C73
def guardPattern : Nat := 0xCCCCCCCCCCCC

/-- The 37,520 bits of a sector in recording order: run-in, mark and guard as they stand, the codeword scrambled for its place
(R48, R49, R52). -/
def sectorBits (lane track sector lba gen flags data : Nat) : List Bool :=
  bitsOf 64 runInPattern ++ bitsOf 32 syncPattern ++ addBits (codeword lba gen flags data) (scrambleBits lane track sector) ++
    bitsOf 48 guardPattern

/-- Header fields of decoded information bits: Lba, WriteGeneration, Flags, and whether HeaderCrc is correct (R53, R55). -/
def headerOf (word : List Bool) : Nat × Nat × Nat × Bool :=
  let b := bitBytes 16 word
  (ofLe (b.take 6), ofLe ((b.drop 6).take 2), ofLe ((b.drop 8).take 2), decide (ofLe (b.drop 12) = crc32c (b.take 12)))

/-- User data of decoded information bits (R50). -/
def userOf (word : List Bool) : Nat := ofLe (bitBytes 4096 (word.drop 128))

/-! ### Writer links (R108, R109, R181) -/

/-- The preamble of a write burst: 192 bits of CCh repeated, then the arm word (R109). -/
def burstPreamble : List Bool := bitsOf 192 0xCCCCCCCCCCCCCCCCCCCCCCCCCCCCCCCCCCCCCCCCCCCCCCCC ++ bitsOf 64 0x9C3A61E5B04D27F8

/-- Delay of each transition on the line in 1/64 bit time, with its bit: the WritePrecomp value of the run of identical bits
before it, index 0 for a run of 1 to index 3 for 4 or more (R108, R181). -/
def precompDelays (precomp : List Int) : Bool → Nat → Nat → List Bool → List (Nat × Int)
  | _, _, _, [] => []
  | last, run, i, b :: r =>
    if b = last then precompDelays precomp last (run + 1) (i + 1) r
    else (i, precomp.getD (min run 4 - 1) 0) :: precompDelays precomp b 1 (i + 1) r

/-- Level and length of the run that ends a row of bits. -/
def lastRun (l : List Bool) : Bool × Nat :=
  let last := l.getLastD false
  (last, (l.reverse.takeWhile fun b => b = last).length)

end Sys2Proof.Machine
end

