-- ==== Sys2Proof/Machine/Digest.lean ====
section
/-! DEFINITION. SHA-384 (FIPS 180-4, cited by R5) over a byte list. The spec cites the standard without its text: the function is
PRESUMED from it (log entry 3). -/

namespace Sys2Proof.Machine

/-- Largest number whose `k`-th power is at most `n`, by bits from `b` down. -/
def rootFrom (k n : Nat) : Nat → Nat → Nat
  | 0, r => r
  | b + 1, r => rootFrom k n b (if (r + 2 ^ b) ^ k ≤ n then r + 2 ^ b else r)

/-- The first `n` primes from a number on, within some steps. -/
def primesFrom : Nat → Nat → Nat → List Nat
  | 0, _, _ => []
  | _, 0, _ => []
  | fuel + 1, n + 1, p =>
    if (List.range p).all fun d => decide (d < 2) || decide (p % d ≠ 0) then p :: primesFrom fuel n (p + 1)
    else primesFrom fuel (n + 1) (p + 1)

/-- The eighty round constants: fractions of the cube roots of the first primes. -/
def shaConstants : List Nat := (primesFrom 420 80 2).map fun p => rootFrom 3 (p * 2 ^ 192) 72 0 % 2 ^ 64

/-- The eight initial words of SHA-384: fractions of the square roots of the ninth to sixteenth prime. -/
def shaInitial : List Nat := ((primesFrom 420 16 2).drop 8).map fun p => rootFrom 2 (p * 2 ^ 128) 70 0 % 2 ^ 64

/-- A 64-bit word rotated right. -/
def rotr (n x : Nat) : Nat := (x / 2 ^ n + x * 2 ^ (64 - n)) % 2 ^ 64

/-- Exclusive or of two rotations and a third value. -/
def sigma (a b x y : Nat) : Nat := rotr a x ^^^ rotr b x ^^^ y

/-- The next word of the message schedule, from the sixteen before it, newest first. -/
def scheduleWord (w : List Nat) : Nat :=
  let a := w.getD 14 0
  let b := w.getD 1 0
  (sigma 19 61 b (b / 2 ^ 6) + w.getD 6 0 + sigma 1 8 a (a / 2 ^ 7) + w.getD 15 0) % 2 ^ 64

/-- The message schedule of a block: its sixteen words and the sixty-four after them. -/
def schedule (block : List Nat) : List Nat :=
  ((List.range 64).foldl (fun w _ => scheduleWord w :: w) block.reverse).reverse

/-- One round: the eight working words with a schedule word and a constant taken in. -/
def shaRound (h : List Nat) (wk : Nat × Nat) : List Nat :=
  match h with
  | [a, b, c, d, e, f, g, i] =>
    let t1 := i + sigma 14 18 e (rotr 41 e) + ((e &&& f) ^^^ ((2 ^ 64 - 1 - e) &&& g)) + wk.1 + wk.2
    let t2 := sigma 28 34 a (rotr 39 a) + ((a &&& b) ^^^ (a &&& c) ^^^ (b &&& c))
    [(t1 + t2) % 2 ^ 64, a, b, c, (d + t1) % 2 ^ 64, e, f, g]
  | _ => h

/-- One block taken into the eight chaining words. -/
def shaBlock (h block : List Nat) : List Nat :=
  (h.zip (((schedule block).zip shaConstants).foldl shaRound h)).map fun p => (p.1 + p.2) % 2 ^ 64

/-- Number of a big-endian byte list. -/
def ofBe (b : List Nat) : Nat := b.foldl (fun a x => 256 * a + x % 256) 0

/-- The padded message as blocks of sixteen words. -/
def shaBlocks (m : List Nat) : List (List Nat) :=
  let zeros := (239 - m.length % 128) % 128
  let padded := m ++ [0x80] ++ List.replicate zeros 0 ++ (leBytes 16 (8 * m.length)).reverse
  (List.range (padded.length / 128)).map fun i => (List.range 16).map fun j => ofBe ((padded.drop (128 * i + 8 * j)).take 8)

/-- SHA-384 of a byte list, its 48 bytes as a little-endian number. -/
def sha384 (m : List Nat) : Nat :=
  let h := (shaBlocks m).foldl shaBlock shaInitial
  ofLe ((h.take 6).flatMap fun w => (leBytes 8 w).reverse)

end Sys2Proof.Machine
end

