-- ==== Sys2Proof/Machine/ObjectTable.lean ====
section
/-! DEFINITION. The object dictionary as data: the key of every object (R8: index and sub-index), and one row for each
object of the spec's object tables and result objects with its type, access, default and range (R10, R37, R406, R409, R414). -/

namespace Sys2Proof.Machine

/-- The basic types of R10 that the objects use. -/
inductive ObjType where
  | u8 | u16 | u32 | u64 | i16 | i32 | visible | domain
  deriving DecidableEq, Repr

/-- Number of bytes of a basic type in a transfer (R408); 0 where the length is the object's own. -/
def ObjType.size : ObjType → Nat
  | .u8 => 1
  | .u16 => 2
  | .u32 => 4
  | .u64 => 8
  | .i16 => 2
  | .i32 => 4
  | .visible => 0
  | .domain => 0

/-- The access classes of R409. -/
inductive Access where
  | ro | rw | wo | const | rwk
  deriving DecidableEq, Repr

/-- One row of an object table: `count` entries from `key` on, with the range a write must keep and, for rwk, the key
that guards it (R419). -/
structure ObjRow where
  key : Nat
  count : Nat
  ty : ObjType
  access : Access
  dflt : Int
  lo : Int
  hi : Int
  guardKey : Option Nat
  deriving DecidableEq, Repr

/-! Keys of the objects: index times 256 plus the sub-index of the first entry; the entry of head, stream, loop slot or unit n of an
array is the first plus n (R118, R201, R560). -/
namespace O
/-- 1000h.00 DeviceType (12 R437). -/
abbrev deviceType : Nat := 0x100000
/-- 1001h.00 ErrorRegister (12 R437). -/
abbrev errorRegister : Nat := 0x100100
/-- 1005h.00 SyncCobId (12 R437). -/
abbrev syncCobId : Nat := 0x100500
/-- 1008h.00 DeviceName (12 R437). -/
abbrev deviceName : Nat := 0x100800
/-- 1010h.01 StoreParameters (12 R437). -/
abbrev storeParameters : Nat := 0x101001
/-- 1011h.01 RestoreDefaults (12 R437). -/
abbrev restoreDefaults : Nat := 0x101101
/-- 1012h.00 TimeCobId (12 R437). -/
abbrev timeCobId : Nat := 0x101200
/-- 1014h.00 EmcyCobId (12 R437). -/
abbrev emcyCobId : Nat := 0x101400
/-- 1015h.00 EmcyInhibit (12 R437). -/
abbrev emcyInhibit : Nat := 0x101500
/-- 1016h.01–1016h.04 ConsumerHeartbeat (12 R437). -/
abbrev consumerHeartbeat : Nat := 0x101601
/-- 1017h.00 ProducerHeartbeat (12 R437). -/
abbrev producerHeartbeat : Nat := 0x101700
/-- 1018h.01–1018h.04 Identity (12 R437). -/
abbrev identity : Nat := 0x101801
/-- 1400h.01 Rpdo1CobId (12 R433). -/
abbrev rpdo1CobId : Nat := 0x140001
/-- 1400h.02 Rpdo1Type (12 R433). -/
abbrev rpdo1Type : Nat := 0x140002
/-- 1401h.01 Rpdo2CobId (12 R433). -/
abbrev rpdo2CobId : Nat := 0x140101
/-- 1401h.02 Rpdo2Type (12 R433). -/
abbrev rpdo2Type : Nat := 0x140102
/-- 1600h.00 Rpdo1Count (12 R433). -/
abbrev rpdo1Count : Nat := 0x160000
/-- 1600h.01–1600h.40 Rpdo1Map (12 R433). -/
abbrev rpdo1Map : Nat := 0x160001
/-- 1601h.00 Rpdo2Count (12 R433). -/
abbrev rpdo2Count : Nat := 0x160100
/-- 1601h.01–1601h.40 Rpdo2Map (12 R433). -/
abbrev rpdo2Map : Nat := 0x160101
/-- 1800h.01 Tpdo1CobId (12 R433). -/
abbrev tpdo1CobId : Nat := 0x180001
/-- 1800h.02 Tpdo1Type (12 R433). -/
abbrev tpdo1Type : Nat := 0x180002
/-- 1800h.03 Tpdo1Inhibit (12 R433). -/
abbrev tpdo1Inhibit : Nat := 0x180003
/-- 1800h.05 Tpdo1EventTimer (12 R433). -/
abbrev tpdo1EventTimer : Nat := 0x180005
/-- 1801h.01 Tpdo2CobId (12 R433). -/
abbrev tpdo2CobId : Nat := 0x180101
/-- 1801h.02 Tpdo2Type (12 R433). -/
abbrev tpdo2Type : Nat := 0x180102
/-- 1801h.03 Tpdo2Inhibit (12 R433). -/
abbrev tpdo2Inhibit : Nat := 0x180103
/-- 1801h.05 Tpdo2EventTimer (12 R433). -/
abbrev tpdo2EventTimer : Nat := 0x180105
/-- 1802h.01 Tpdo3CobId (12 R433). -/
abbrev tpdo3CobId : Nat := 0x180201
/-- 1802h.02 Tpdo3Type (12 R433). -/
abbrev tpdo3Type : Nat := 0x180202
/-- 1802h.03 Tpdo3Inhibit (12 R433). -/
abbrev tpdo3Inhibit : Nat := 0x180203
/-- 1802h.05 Tpdo3EventTimer (12 R433). -/
abbrev tpdo3EventTimer : Nat := 0x180205
/-- 1803h.01 Tpdo4CobId (12 R433). -/
abbrev tpdo4CobId : Nat := 0x180301
/-- 1803h.02 Tpdo4Type (12 R433). -/
abbrev tpdo4Type : Nat := 0x180302
/-- 1803h.03 Tpdo4Inhibit (12 R433). -/
abbrev tpdo4Inhibit : Nat := 0x180303
/-- 1803h.05 Tpdo4EventTimer (12 R433). -/
abbrev tpdo4EventTimer : Nat := 0x180305
/-- 1A00h.00 Tpdo1Count (12 R433). -/
abbrev tpdo1Count : Nat := 0x1A0000
/-- 1A00h.01–1A00h.40 Tpdo1Map (12 R433). -/
abbrev tpdo1Map : Nat := 0x1A0001
/-- 1A01h.00 Tpdo2Count (12 R433). -/
abbrev tpdo2Count : Nat := 0x1A0100
/-- 1A01h.01–1A01h.40 Tpdo2Map (12 R433). -/
abbrev tpdo2Map : Nat := 0x1A0101
/-- 1A02h.00 Tpdo3Count (12 R433). -/
abbrev tpdo3Count : Nat := 0x1A0200
/-- 1A02h.01–1A02h.40 Tpdo3Map (12 R433). -/
abbrev tpdo3Map : Nat := 0x1A0201
/-- 1A03h.00 Tpdo4Count (12 R433). -/
abbrev tpdo4Count : Nat := 0x1A0300
/-- 1A03h.01–1A03h.40 Tpdo4Map (12 R433). -/
abbrev tpdo4Map : Nat := 0x1A0301
/-- 1F80h.00 NmtStartup (12 R437). -/
abbrev nmtStartup : Nat := 0x1F8000
/-- 2000h.01 Variant (17 R560). -/
abbrev variant : Nat := 0x200001
/-- 2000h.02 ActuatorsPresent (17 R560). -/
abbrev actuatorsPresent : Nat := 0x200002
/-- 2000h.03 HeadsPresent (17 R560). -/
abbrev headsPresent : Nat := 0x200003
/-- 2000h.04 HostPortsPresent (17 R560). -/
abbrev hostPortsPresent : Nat := 0x200004
/-- 2000h.05 PreampLinksPresent (17 R560). -/
abbrev preampLinksPresent : Nat := 0x200005
/-- 2000h.06 DecodersFitted (17 R560). -/
abbrev decodersFitted : Nat := 0x200006
/-- 2001h.01 StartupPhase (17 R560). -/
abbrev startupPhase : Nat := 0x200101
/-- 2001h.02 MediaReadyTick (17 R560). -/
abbrev mediaReadyTick : Nat := 0x200102
/-- 2001h.03 AdminReadyTick (17 R560). -/
abbrev adminReadyTick : Nat := 0x200103
/-- 2001h.04 LastResetKind (17 R560). -/
abbrev lastResetKind : Nat := 0x200104
/-- 2001h.05 PowerUpCause (17 R560). -/
abbrev powerUpCause : Nat := 0x200105
/-- 2010h.01–2010h.18 HeadService (17 R560). -/
abbrev headService : Nat := 0x201001
/-- 2011h.01–2011h.18 HeadFenceCause (17 R560). -/
abbrev headFenceCause : Nat := 0x201101
/-- 2012h.01–2012h.04 ActuatorService (17 R560). -/
abbrev actuatorService : Nat := 0x201201
/-- 2013h.01–2013h.04 ActuatorFenceCause (17 R560). -/
abbrev actuatorFenceCause : Nat := 0x201301
/-- 2014h.01 FenceHead (17 R560). -/
abbrev fenceHead : Nat := 0x201401
/-- 2014h.02 ReturnHead (17 R560). -/
abbrev returnHead : Nat := 0x201402
/-- 2014h.03 ReturnActuator (17 R560). -/
abbrev returnActuator : Nat := 0x201403
/-- 2015h.01 ReturnRunState (17 R561). -/
abbrev returnRunState : Nat := 0x201501
/-- 2015h.02 ReturnRunRunNumber (17 R561). -/
abbrev returnRunRunNumber : Nat := 0x201502
/-- 2015h.03 ReturnRunUnit (17 R561). -/
abbrev returnRunUnit : Nat := 0x201503
/-- 2015h.04 ReturnRunSteps (17 R561). -/
abbrev returnRunSteps : Nat := 0x201504
/-- 2015h.05 ReturnRunFailReason (17 R561). -/
abbrev returnRunFailReason : Nat := 0x201505
/-- 2100h.01 ActiveBus (12 R437). -/
abbrev activeBus : Nat := 0x210001
/-- 2100h.02 BusSelect (12 R437). -/
abbrev busSelect : Nat := 0x210002
/-- 2100h.03 BusRedundancy (12 R437). -/
abbrev busRedundancy : Nat := 0x210003
/-- 2101h.01–2101h.02 BusState (12 R437). -/
abbrev busState : Nat := 0x210101
/-- 2102h.01–2102h.02 TxErrorCounter (12 R437). -/
abbrev txErrorCounter : Nat := 0x210201
/-- 2103h.01–2103h.02 RxErrorCounter (12 R437). -/
abbrev rxErrorCounter : Nat := 0x210301
/-- 2104h.01–2104h.02 DuplicateNodeEvents (12 R437). -/
abbrev duplicateNodeEvents : Nat := 0x210401
/-- 2105h.01–2105h.02 ArbitrationLosses (12 R437). -/
abbrev arbitrationLosses : Nat := 0x210501
/-- 2106h.01–2106h.02 StaleFramesDropped (12 R437). -/
abbrev staleFramesDropped : Nat := 0x210601
/-- 2107h.01–2107h.02 ForeignFrames (12 R437). -/
abbrev foreignFrames : Nat := 0x210701
/-- 2108h.01–2108h.02 MbPortRestart (12 R437). -/
abbrev mbPortRestart : Nat := 0x210801
/-- 2109h.01–2109h.02 BusOffEvents (12 R437). -/
abbrev busOffEvents : Nat := 0x210901
/-- 2109h.03 RpdoWritesDropped (12 R437). -/
abbrev rpdoWritesDropped : Nat := 0x210903
/-- 2110h.01 NodeId (12 R437). -/
abbrev nodeId : Nat := 0x211001
/-- 2110h.02 NodeIdStrap (12 R437). -/
abbrev nodeIdStrap : Nat := 0x211002
/-- 2110h.03 BusOffRecoveryDelay (12 R437). -/
abbrev busOffRecoveryDelay : Nat := 0x211003
/-- 2110h.04 BusOffLimit (12 R437). -/
abbrev busOffLimit : Nat := 0x211004
/-- 2110h.05 UsdoTimeout (12 R437). -/
abbrev usdoTimeout : Nat := 0x211005
/-- 2111h.01 StoredSetSequence (12 R437). -/
abbrev storedSetSequence : Nat := 0x211101
/-- 2111h.02 StoredValuesReplaced (12 R437). -/
abbrev storedValuesReplaced : Nat := 0x211102
/-- 2200h.01 ShuntResistance (18 R583). -/
abbrev shuntResistance : Nat := 0x220001
/-- 2200h.02 SenseDivider (18 R583). -/
abbrev senseDivider : Nat := 0x220002
/-- 2210h.01 SensorFitted (18 R583). -/
abbrev sensorFitted : Nat := 0x221001
/-- 2210h.02 SensorCheckFailures0 (18 R583). -/
abbrev sensorCheckFailures0 : Nat := 0x221002
/-- 2210h.03 SensorCheckFailures1 (18 R583). -/
abbrev sensorCheckFailures1 : Nat := 0x221003
/-- 2220h.01–2220h.04 VcmFrameErrors (18 R583). -/
abbrev vcmFrameErrors : Nat := 0x222001
/-- 2230h.01 StrapImage (18 R583). -/
abbrev strapImage : Nat := 0x223001
/-- 2240h.01 DbgIdCode (18 R583). -/
abbrev dbgIdCode : Nat := 0x224001
/-- 3020h.01 DomainMapping (01 R37). -/
abbrev domainMapping : Nat := 0x302001
/-- 3020h.02 DomainUnitSectors (02 R81). -/
abbrev domainUnitSectors : Nat := 0x302002
/-- 3020h.03 MappedActuators (02 R81). -/
abbrev mappedActuators : Nat := 0x302003
/-- 3020h.04 InterleavedCapacity (02 R81). -/
abbrev interleavedCapacity : Nat := 0x302004
/-- 3020h.05 DomainCapacityA (02 R81). -/
abbrev domainCapacityA : Nat := 0x302005
/-- 3020h.06 DomainCapacityB (02 R81). -/
abbrev domainCapacityB : Nat := 0x302006
/-- 3020h.07 DomainCapacityC (02 R81). -/
abbrev domainCapacityC : Nat := 0x302007
/-- 3020h.08 DomainCapacityD (02 R81). -/
abbrev domainCapacityD : Nat := 0x302008
/-- 3022h.01 StripeChunkSectors (02 R81). -/
abbrev stripeChunkSectors : Nat := 0x302201
/-- 3022h.02 StripeSectors (02 R81). -/
abbrev stripeSectors : Nat := 0x302202
/-- 3030h.01 ZoneTableSurface (02 R81). -/
abbrev zoneTableSurface : Nat := 0x303001
/-- 3030h.02 ZoneTableImage (02 R81). -/
abbrev zoneTableImage : Nat := 0x303002
/-- 3031h.01 SpareTableSurface (02 R81). -/
abbrev spareTableSurface : Nat := 0x303101
/-- 3031h.02 SpareTableZone (02 R81). -/
abbrev spareTableZone : Nat := 0x303102
/-- 3031h.03 SpareTableImage (02 R81). -/
abbrev spareTableImage : Nat := 0x303103
/-- 3031h.04 SpareLanesFree (02 R81). -/
abbrev spareLanesFree : Nat := 0x303104
/-- 3032h.01 SectorBits (02 R81). -/
abbrev sectorBits : Nat := 0x303201
/-- 3032h.02 SyncMarkPattern (02 R81). -/
abbrev syncMarkPattern : Nat := 0x303202
/-- 3032h.03 LdpcBaseMatrix (02 R81). -/
abbrev ldpcBaseMatrix : Nat := 0x303203
/-- 3050h.01 MapLbaRequest (02 R81). -/
abbrev mapLbaRequest : Nat := 0x305001
/-- 3050h.02 MapNamespace (02 R81). -/
abbrev mapNamespace : Nat := 0x305002
/-- 3051h.01 MapState (02 R83). -/
abbrev mapState : Nat := 0x305101
/-- 3051h.02 MapRunNumber (02 R83). -/
abbrev mapRunNumber : Nat := 0x305102
/-- 3051h.03 MapLba (02 R83). -/
abbrev mapLba : Nat := 0x305103
/-- 3051h.04 MapNsid (02 R83). -/
abbrev mapNsid : Nat := 0x305104
/-- 3051h.05 MapActuator (02 R83). -/
abbrev mapActuator : Nat := 0x305105
/-- 3051h.06 MapSurface (02 R83). -/
abbrev mapSurface : Nat := 0x305106
/-- 3051h.07 MapZone (02 R83). -/
abbrev mapZone : Nat := 0x305107
/-- 3051h.08 MapLane (02 R83). -/
abbrev mapLane : Nat := 0x305108
/-- 3051h.09 MapTrack (02 R83). -/
abbrev mapTrack : Nat := 0x305109
/-- 3051h.0A MapSector (02 R83). -/
abbrev mapSector : Nat := 0x30510A
/-- 3051h.0B MapStartBit (02 R83). -/
abbrev mapStartBit : Nat := 0x30510B
/-- 3051h.0C MapRemapped (02 R83). -/
abbrev mapRemapped : Nat := 0x30510C
/-- 3051h.0D MapFailReason (02 R83). -/
abbrev mapFailReason : Nat := 0x30510D
/-- 3100h.01–3100h.48 RslState (03 R116). -/
abbrev rslState : Nat := 0x310001
/-- 3101h.01–3101h.48 RslHeaderErrors (03 R116). -/
abbrev rslHeaderErrors : Nat := 0x310101
/-- 3102h.01–3102h.48 RslIntervalCrcErrors (03 R116). -/
abbrev rslIntervalCrcErrors : Nat := 0x310201
/-- 3103h.01–3103h.48 RslErasedBlocks (03 R116). -/
abbrev rslErasedBlocks : Nat := 0x310301
/-- 3104h.01–3104h.48 RslRetrains (03 R116). -/
abbrev rslRetrains : Nat := 0x310401
/-- 3105h.01–3105h.48 RslLaneSkew (03 R116). -/
abbrev rslLaneSkew : Nat := 0x310501
/-- 3106h.01–3106h.48 RslTxPreset (03 R116). -/
abbrev rslTxPreset : Nat := 0x310601
/-- 3110h.01–3110h.18 WrlState (03 R116). -/
abbrev wrlState : Nat := 0x311001
/-- 3111h.01–3111h.18 WrlArmMisses (03 R116). -/
abbrev wrlArmMisses : Nat := 0x311101
/-- 3112h.01–3112h.18 WrlRetrains (03 R116). -/
abbrev wrlRetrains : Nat := 0x311201
/-- 3120h.01–3120h.08 PclState (03 R116). -/
abbrev pclState : Nat := 0x312001
/-- 3121h.01–3121h.08 PclCrcErrors (03 R116). -/
abbrev pclCrcErrors : Nat := 0x312101
/-- 3122h.01–3122h.08 PclTimeouts (03 R116). -/
abbrev pclTimeouts : Nat := 0x312201
/-- 3123h.01–3123h.18 HeadStatusLatched (03 R116). -/
abbrev headStatusLatched : Nat := 0x312301
/-- 3124h.01–3124h.08 ChipStatusLatched (03 R116). -/
abbrev chipStatusLatched : Nat := 0x312401
/-- 3130h.01 DegradeCrcLimit (03 R116). -/
abbrev degradeCrcLimit : Nat := 0x313001
/-- 3130h.02 DegradeWindow (03 R116). -/
abbrev degradeWindow : Nat := 0x313002
/-- 3130h.03 RetrainAttempts (03 R116). -/
abbrev retrainAttempts : Nat := 0x313003
/-- 3130h.04 FailedRetryPeriod (03 R116). -/
abbrev failedRetryPeriod : Nat := 0x313004
/-- 3130h.05 CounterClear (03 R116). -/
abbrev counterClear : Nat := 0x313005
/-- 3140h.01 PreampAccessPcl (03 R116). -/
abbrev preampAccessPcl : Nat := 0x314001
/-- 3140h.02 PreampAccessHead (03 R116). -/
abbrev preampAccessHead : Nat := 0x314002
/-- 3140h.03 PreampAccessAddress (03 R116). -/
abbrev preampAccessAddress : Nat := 0x314003
/-- 3140h.04 PreampAccessData (03 R116). -/
abbrev preampAccessData : Nat := 0x314004
/-- 3140h.05 PreampAccessStart (03 R116). -/
abbrev preampAccessStart : Nat := 0x314005
/-- 3141h.01 PreampRunState (03 R117). -/
abbrev preampRunState : Nat := 0x314101
/-- 3141h.02 PreampRunRunNumber (03 R117). -/
abbrev preampRunRunNumber : Nat := 0x314102
/-- 3141h.03 PreampRunPcl (03 R117). -/
abbrev preampRunPcl : Nat := 0x314103
/-- 3141h.04 PreampRunHead (03 R117). -/
abbrev preampRunHead : Nat := 0x314104
/-- 3141h.05 PreampRunAddress (03 R117). -/
abbrev preampRunAddress : Nat := 0x314105
/-- 3141h.06 PreampRunData (03 R117). -/
abbrev preampRunData : Nat := 0x314106
/-- 3141h.07 PreampRunFailReason (03 R117). -/
abbrev preampRunFailReason : Nat := 0x314107
/-- 3200h.01 ClockLoopBandwidth (04 R164). -/
abbrev clockLoopBandwidth : Nat := 0x320001
/-- 3200h.02 ClockAmpLimit (04 R164). -/
abbrev clockAmpLimit : Nat := 0x320002
/-- 3200h.03 ClockFaultPeriods (04 R164). -/
abbrev clockFaultPeriods : Nat := 0x320003
/-- 3200h.04 ClockJitterLimit (04 R164). -/
abbrev clockJitterLimit : Nat := 0x320004
/-- 3200h.05 AcquireWindow (04 R164). -/
abbrev acquireWindow : Nat := 0x320005
/-- 3200h.06 FlywheelLimit (04 R164). -/
abbrev flywheelLimit : Nat := 0x320006
/-- 3200h.07 OffsetRunLimit (04 R164). -/
abbrev offsetRunLimit : Nat := 0x320007
/-- 3200h.08 OffsetTrackSectors (04 R164). -/
abbrev offsetTrackSectors : Nat := 0x320008
/-- 3201h.01–3201h.18 ClockState (04 R164). -/
abbrev clockState : Nat := 0x320101
/-- 3202h.01–3202h.18 ClockAmplitude (04 R164). -/
abbrev clockAmplitude : Nat := 0x320201
/-- 3203h.01–3203h.18 ClockJitter (04 R164). -/
abbrev clockJitter : Nat := 0x320301
/-- 3204h.01–3204h.18 ReaderOffsetD0 (04 R164). -/
abbrev readerOffsetD0 : Nat := 0x320401
/-- 3205h.01–3205h.18 ReaderOffsetD1 (04 R164). -/
abbrev readerOffsetD1 : Nat := 0x320501
/-- 3206h.01–3206h.18 CountSlips (04 R164). -/
abbrev countSlips : Nat := 0x320601
/-- 3207h.01–3207h.18 Acquisitions (04 R164). -/
abbrev acquisitions : Nat := 0x320701
/-- 3210h.01 EqAdaptEnable (04 R164). -/
abbrev eqAdaptEnable : Nat := 0x321001
/-- 3210h.02 EqStepShift (04 R164). -/
abbrev eqStepShift : Nat := 0x321002
/-- 3210h.03 EqBlockSectors (04 R164). -/
abbrev eqBlockSectors : Nat := 0x321003
/-- 3210h.04 EqTapStepLimit (04 R164). -/
abbrev eqTapStepLimit : Nat := 0x321004
/-- 3210h.05 EqIdleLimit (04 R164). -/
abbrev eqIdleLimit : Nat := 0x321005
/-- 3210h.06 EqRestore (04 R164). -/
abbrev eqRestore : Nat := 0x321006
/-- 3211h.01 EqSelectStream (04 R164). -/
abbrev eqSelectStream : Nat := 0x321101
/-- 3211h.02 EqSelectZone (04 R164). -/
abbrev eqSelectZone : Nat := 0x321102
/-- 3211h.03 EqImage (04 R164). -/
abbrev eqImage : Nat := 0x321103
/-- 3212h.01–3212h.30 EqSwaps (04 R164). -/
abbrev eqSwaps : Nat := 0x321201
/-- 3213h.01–3213h.30 EqReverts (04 R164). -/
abbrev eqReverts : Nat := 0x321301
/-- 3230h.01 IterLimit (04 R164). -/
abbrev iterLimit : Nat := 0x323001
/-- 3230h.02 StreamQueueDepth (04 R164). -/
abbrev streamQueueDepth : Nat := 0x323002
/-- 3230h.03 DecodeDeadline (04 R164). -/
abbrev decodeDeadline : Nat := 0x323003
/-- 3230h.04 DeferEnable (04 R164). -/
abbrev deferEnable : Nat := 0x323004
/-- 3230h.05 DeferSlotsMax (04 R164). -/
abbrev deferSlotsMax : Nat := 0x323005
/-- 3230h.06 DeferredDeadline (04 R164). -/
abbrev deferredDeadline : Nat := 0x323006
/-- 3230h.07 DeferExitSectors (04 R164). -/
abbrev deferExitSectors : Nat := 0x323007
/-- 3231h.01 DecodersInService (04 R164). -/
abbrev decodersInService : Nat := 0x323101
/-- 3231h.02 PoolBusy (04 R164). -/
abbrev poolBusy : Nat := 0x323102
/-- 3231h.03 PoolSaturations (04 R164). -/
abbrev poolSaturations : Nat := 0x323103
/-- 3231h.04 LateTurns (04 R164). -/
abbrev lateTurns : Nat := 0x323104
/-- 3232h.01–3232h.30 StreamMeanIterations (04 R164). -/
abbrev streamMeanIterations : Nat := 0x323201
/-- 3233h.01–3233h.30 StreamDeferredSectors (04 R164). -/
abbrev streamDeferredSectors : Nat := 0x323301
/-- 3240h.01 SyncWindow (04 R164). -/
abbrev syncWindow : Nat := 0x324001
/-- 3240h.02 SyncAcceptDistance (04 R164). -/
abbrev syncAcceptDistance : Nat := 0x324002
/-- 3240h.03 SyncExpectedDistance (04 R164). -/
abbrev syncExpectedDistance : Nat := 0x324003
/-- 3240h.04 CountFramingEnable (04 R164). -/
abbrev countFramingEnable : Nat := 0x324004
/-- 3241h.01–3241h.30 EarlyMarkEvents (04 R164). -/
abbrev earlyMarkEvents : Nat := 0x324101
/-- 3242h.01–3242h.30 CountFramedSectors (04 R164). -/
abbrev countFramedSectors : Nat := 0x324201
/-- 3250h.01 OutcomeSelectStream (04 R164). -/
abbrev outcomeSelectStream : Nat := 0x325001
/-- 3250h.02 OutcomeCountImage (04 R164). -/
abbrev outcomeCountImage : Nat := 0x325002
/-- 3250h.03 OutcomeCounterClear (04 R164). -/
abbrev outcomeCounterClear : Nat := 0x325003
/-- 3300h.01 LadderDepth (05 R199). -/
abbrev ladderDepth : Nat := 0x330001
/-- 3300h.02 LadderIterLimit (05 R199). -/
abbrev ladderIterLimit : Nat := 0x330002
/-- 3300h.03 AveragePasses (05 R199). -/
abbrev averagePasses : Nat := 0x330003
/-- 3300h.04 OffsetStep (05 R199). -/
abbrev offsetStep : Nat := 0x330004
/-- 3300h.05 HeaterStepPower (05 R199). -/
abbrev heaterStepPower : Nat := 0x330005
/-- 3300h.06 LadderTimeLimit (05 R199). -/
abbrev ladderTimeLimit : Nat := 0x330006
/-- 3300h.07 ClockWaitLimit (05 R199). -/
abbrev clockWaitLimit : Nat := 0x330007
/-- 3300h.08 RefreshStep (05 R199). -/
abbrev refreshStep : Nat := 0x330008
/-- 3300h.09 RetryStoreCodewords (05 R199). -/
abbrev retryStoreCodewords : Nat := 0x330009
/-- 3301h.01–3301h.06 LadderOutcomes (05 R199). -/
abbrev ladderOutcomes : Nat := 0x330101
/-- 3302h.01–3302h.18 HeadUnrecoverable (05 R199). -/
abbrev headUnrecoverable : Nat := 0x330201
/-- 3303h.01 CaptureSlots (05 R199). -/
abbrev captureSlots : Nat := 0x330301
/-- 3303h.02 CaptureSlotSectors (05 R199). -/
abbrev captureSlotSectors : Nat := 0x330302
/-- 3303h.03 CaptureSlotsInUse (05 R199). -/
abbrev captureSlotsInUse : Nat := 0x330303
/-- 3303h.04 CaptureWaits (05 R199). -/
abbrev captureWaits : Nat := 0x330304
/-- 3304h.01 MarkersWritten (05 R199). -/
abbrev markersWritten : Nat := 0x330401
/-- 3400h.01 PaceFloor (04 R164). -/
abbrev paceFloor : Nat := 0x340001
/-- 3400h.02 PaceWindow (04 R164). -/
abbrev paceWindow : Nat := 0x340002
/-- 3400h.03 PaceRecover (04 R164). -/
abbrev paceRecover : Nat := 0x340003
/-- 3400h.04 PaceRecoverWindow (04 R164). -/
abbrev paceRecoverWindow : Nat := 0x340004
/-- 3400h.05 PaceInterval (04 R164). -/
abbrev paceInterval : Nat := 0x340005
/-- 3400h.06 PaceMinSectors (04 R164). -/
abbrev paceMinSectors : Nat := 0x340006
/-- 3400h.07 NarrowEnable (04 R164). -/
abbrev narrowEnable : Nat := 0x340007
/-- 3401h.01–3401h.18 HeadPace (04 R164). -/
abbrev headPace : Nat := 0x340101
/-- 3402h.01–3402h.18 PaceRun (04 R164). -/
abbrev paceRun : Nat := 0x340201
/-- 3403h.01–3403h.18 NarrowEntries (04 R164). -/
abbrev narrowEntries : Nat := 0x340301
/-- 3404h.01–3404h.18 NarrowExits (04 R164). -/
abbrev narrowExits : Nat := 0x340401
/-- 3410h.01 NarrowHeadMask (01 R37). -/
abbrev narrowHeadMask : Nat := 0x341001
/-- 3800h.01 WriteInhibitLimit (05 R199). -/
abbrev writeInhibitLimit : Nat := 0x380001
/-- 3800h.02 AdjacentCheckLimit (05 R199). -/
abbrev adjacentCheckLimit : Nat := 0x380002
/-- 3800h.03 WriteRetryLimit (05 R199). -/
abbrev writeRetryLimit : Nat := 0x380003
/-- 3800h.04 HeaterLead (05 R199). -/
abbrev heaterLead : Nat := 0x380004
/-- 3801h.01–3801h.18 GateCuts (05 R199). -/
abbrev gateCuts : Nat := 0x380101
/-- 3802h.01–3802h.18 WriteFailures (05 R199). -/
abbrev writeFailures : Nat := 0x380201
/-- 3803h.01 ChunkFillReads (05 R199). -/
abbrev chunkFillReads : Nat := 0x380301
/-- 3810h.01–3810h.04 VerifyEnable (05 R199). -/
abbrev verifyEnable : Nat := 0x381001
/-- 3810h.05 VerifyIterMargin (05 R199). -/
abbrev verifyIterMargin : Nat := 0x381005
/-- 3810h.06 VerifyRewriteLimit (05 R199). -/
abbrev verifyRewriteLimit : Nat := 0x381006
/-- 3811h.01–3811h.18 VerifyRewrites (05 R199). -/
abbrev verifyRewrites : Nat := 0x381101
/-- 3820h.01 LedgerFlushPeriod (05 R199). -/
abbrev ledgerFlushPeriod : Nat := 0x382001
/-- 3820h.02 LedgerDirtyMax (05 R199). -/
abbrev ledgerDirtyMax : Nat := 0x382002
/-- 3820h.03 LedgerAuditEnable (05 R199). -/
abbrev ledgerAuditEnable : Nat := 0x382003
/-- 3820h.04 LedgerDirtyPages (05 R199). -/
abbrev ledgerDirtyPages : Nat := 0x382004
/-- 3820h.05 LedgerUntrustedChunks (05 R199). -/
abbrev ledgerUntrustedChunks : Nat := 0x382005
/-- 3820h.06 LedgerLevelledChunks (05 R199). -/
abbrev ledgerLevelledChunks : Nat := 0x382006
/-- 3820h.07 LedgerEntriesPerPage (05 R199). -/
abbrev ledgerEntriesPerPage : Nat := 0x382007
/-- 4000h.01 OnTrackLimit (07 R281). -/
abbrev onTrackLimit : Nat := 0x400001
/-- 4000h.02 SettleWindow (07 R281). -/
abbrev settleWindow : Nat := 0x400002
/-- 4000h.03 SettleSamples (07 R281). -/
abbrev settleSamples : Nat := 0x400003
/-- 4000h.04 OffStripeAmpLimit (07 R281). -/
abbrev offStripeAmpLimit : Nat := 0x400004
/-- 4000h.05 SeekVelocityMargin (07 R281). -/
abbrev seekVelocityMargin : Nat := 0x400005
/-- 4000h.06 LaneCheckSectors (07 R281). -/
abbrev laneCheckSectors : Nat := 0x400006
/-- 4000h.07 VcmFullScale (07 R281). -/
abbrev vcmFullScale : Nat := 0x400007
/-- 4000h.08 DesatWarnLimit (07 R281). -/
abbrev desatWarnLimit : Nat := 0x400008
/-- 4001h.01–4001h.18 PositionState (07 R281). -/
abbrev positionState : Nat := 0x400101
/-- 4002h.01–4002h.18 PositionError (07 R281). -/
abbrev positionError : Nat := 0x400201
/-- 4003h.01–4003h.18 PositionStatus (07 R281). -/
abbrev positionStatus : Nat := 0x400301
/-- 4004h.01–4004h.18 OffTrackEvents (07 R281). -/
abbrev offTrackEvents : Nat := 0x400401
/-- 4005h.01–4005h.18 PesGain (07 R281). -/
abbrev pesGain : Nat := 0x400501
/-- 4006h.01–4006h.18 MaoStroke (07 R281). -/
abbrev maoStroke : Nat := 0x400601
/-- 4007h.01–4007h.04 Seeks (07 R281). -/
abbrev seeks : Nat := 0x400701
/-- 4008h.01–4008h.04 LaneUncertainEvents (07 R281). -/
abbrev laneUncertainEvents : Nat := 0x400801
/-- 4009h.01–4009h.18 DesatWarnings (07 R281). -/
abbrev desatWarnings : Nat := 0x400901
/-- 4010h.01 CalibrationShare (01 R37). -/
abbrev calibrationShare : Nat := 0x401001
/-- 4010h.02 CalibrationCreditMax (07 R281). -/
abbrev calibrationCreditMax : Nat := 0x401002
/-- 4010h.03 RroEnable (07 R281). -/
abbrev rroEnable : Nat := 0x401003
/-- 4010h.04 LoopIdEnable (07 R281). -/
abbrev loopIdEnable : Nat := 0x401004
/-- 4010h.05 HeaterCalEnable (07 R281). -/
abbrev heaterCalEnable : Nat := 0x401005
/-- 4010h.06 RroLearnRevs (07 R281). -/
abbrev rroLearnRevs : Nat := 0x401006
/-- 4010h.07 RroGain (07 R281). -/
abbrev rroGain : Nat := 0x401007
/-- 4010h.08 LoopIdPeriod (07 R281). -/
abbrev loopIdPeriod : Nat := 0x401008
/-- 4010h.09 ExcitationAmplitude (07 R281). -/
abbrev excitationAmplitude : Nat := 0x401009
/-- 4010h.0A GainChangeLimit (07 R281). -/
abbrev gainChangeLimit : Nat := 0x40100A
/-- 4010h.0B ModeShiftLimit (07 R281). -/
abbrev modeShiftLimit : Nat := 0x40100B
/-- 4010h.0C HeaterCalPeriod (07 R281). -/
abbrev heaterCalPeriod : Nat := 0x40100C
/-- 4010h.0D HeaterTrimLimit (07 R281). -/
abbrev heaterTrimLimit : Nat := 0x40100D
/-- 4010h.0E CalCheckRevs (07 R281). -/
abbrev calCheckRevs : Nat := 0x40100E
/-- 4011h.01–4011h.18 CalibrationCredit (07 R281). -/
abbrev calibrationCredit : Nat := 0x401101
/-- 4012h.01–4012h.18 CalibrationRevs (07 R281). -/
abbrev calibrationRevs : Nat := 0x401201
/-- 4013h.01–4013h.18 HeaterTrim (07 R281). -/
abbrev heaterTrim : Nat := 0x401301
/-- 4014h.01–4014h.18 RroResidual (07 R281). -/
abbrev rroResidual : Nat := 0x401401
/-- 4015h.01–4015h.18 CalibrationReverts (07 R281). -/
abbrev calibrationReverts : Nat := 0x401501
/-- 4020h.01 ShockAxisEnable (07 R281). -/
abbrev shockAxisEnable : Nat := 0x402001
/-- 4020h.02 ShockInhibitLimit (07 R281). -/
abbrev shockInhibitLimit : Nat := 0x402002
/-- 4020h.03 ShockHold (07 R281). -/
abbrev shockHold : Nat := 0x402003
/-- 4020h.04 ShockParkLimit (07 R281). -/
abbrev shockParkLimit : Nat := 0x402004
/-- 4020h.05 ShockReloadDelay (07 R281). -/
abbrev shockReloadDelay : Nat := 0x402005
/-- 4020h.06 FeedForwardEnable (07 R281). -/
abbrev feedForwardEnable : Nat := 0x402006
/-- 4020h.07 SensorFullScale0 (07 R281). -/
abbrev sensorFullScale0 : Nat := 0x402007
/-- 4020h.08 SensorFullScale1 (07 R281). -/
abbrev sensorFullScale1 : Nat := 0x402008
/-- 4021h.01–4021h.02 SensorState (07 R281). -/
abbrev sensorState : Nat := 0x402101
/-- 4022h.01 ShockInhibitEvents (07 R281). -/
abbrev shockInhibitEvents : Nat := 0x402201
/-- 4022h.02 ShockParks (07 R281). -/
abbrev shockParks : Nat := 0x402202
/-- 4030h.01 SafeParkCurrent (07 R281). -/
abbrev safeParkCurrent : Nat := 0x403001
/-- 4030h.02 SafeParkTime (07 R281). -/
abbrev safeParkTime : Nat := 0x403002
/-- 4030h.03 PowerLossParkStagger (07 R281). -/
abbrev powerLossParkStagger : Nat := 0x403003
/-- 4030h.04 LoadSpeedMin (07 R281). -/
abbrev loadSpeedMin : Nat := 0x403004
/-- 4030h.05 FlySpeedMin (07 R281). -/
abbrev flySpeedMin : Nat := 0x403005
/-- 4030h.06 LoadVelocity (07 R281). -/
abbrev loadVelocity : Nat := 0x403006
/-- 4030h.07 UnloadVelocity (07 R281). -/
abbrev unloadVelocity : Nat := 0x403007
/-- 4030h.08 LoadTimeout (07 R281). -/
abbrev loadTimeout : Nat := 0x403008
/-- 4031h.01–4031h.04 SafeParks (07 R281). -/
abbrev safeParks : Nat := 0x403101
/-- 4032h.01–4032h.04 ParkFailures (07 R281). -/
abbrev parkFailures : Nat := 0x403201
/-- 4040h.01 BorrowDriftLimit (07 R281). -/
abbrev borrowDriftLimit : Nat := 0x404001
/-- 4040h.02 ReadOnlyHold (07 R281). -/
abbrev readOnlyHold : Nat := 0x404002
/-- 4041h.01–4041h.18 Lender (07 R281). -/
abbrev lender : Nat := 0x404101
/-- 4042h.01–4042h.18 SkewDrift (07 R281). -/
abbrev skewDrift : Nat := 0x404201
/-- 4043h.01–4043h.18 BorrowEvents (07 R281). -/
abbrev borrowEvents : Nat := 0x404301
/-- 4060h.01 LoopIdRequest (07 R281). -/
abbrev loopIdRequest : Nat := 0x406001
/-- 4061h.01 LoopIdRunState (07 R282). -/
abbrev loopIdRunState : Nat := 0x406101
/-- 4061h.02 LoopIdRunRunNumber (07 R282). -/
abbrev loopIdRunRunNumber : Nat := 0x406102
/-- 4061h.03 LoopIdRunSlot (07 R282). -/
abbrev loopIdRunSlot : Nat := 0x406103
/-- 4061h.04 LoopIdRunGainChange (07 R282). -/
abbrev loopIdRunGainChange : Nat := 0x406104
/-- 4061h.05 LoopIdRunModeFrequency (07 R282). -/
abbrev loopIdRunModeFrequency : Nat := 0x406105
/-- 4061h.06 LoopIdRunApplied (07 R282). -/
abbrev loopIdRunApplied : Nat := 0x406106
/-- 4061h.07 LoopIdRunFailReason (07 R282). -/
abbrev loopIdRunFailReason : Nat := 0x406107
/-- 4100h.01 RafterState (06 R236). -/
abbrev rafterState : Nat := 0x410001
/-- 4100h.02 MicrocodeBankActive (06 R236). -/
abbrev microcodeBankActive : Nat := 0x410002
/-- 4100h.03 MicrocodeSwaps (06 R236). -/
abbrev microcodeSwaps : Nat := 0x410003
/-- 4100h.04 MicrocodeReverts (06 R236). -/
abbrev microcodeReverts : Nat := 0x410004
/-- 4100h.05 MicrocodeHealthFrames (06 R236). -/
abbrev microcodeHealthFrames : Nat := 0x410005
/-- 4100h.06 FastCycleBudget (06 R236). -/
abbrev fastCycleBudget : Nat := 0x410006
/-- 4100h.07 SlackWarnLimit (06 R236). -/
abbrev slackWarnLimit : Nat := 0x410007
/-- 4100h.08 StatsClear (06 R236). -/
abbrev statsClear : Nat := 0x410008
/-- 4101h.01–4101h.25 LoopState (06 R236). -/
abbrev loopState : Nat := 0x410101
/-- 4102h.01–4102h.25 LoopActiveBank (06 R236). -/
abbrev loopActiveBank : Nat := 0x410201
/-- 4103h.01–4103h.25 LoopBankState (06 R236). -/
abbrev loopBankState : Nat := 0x410301
/-- 4104h.01–4104h.25 LoopSwaps (06 R236). -/
abbrev loopSwaps : Nat := 0x410401
/-- 4105h.01–4105h.25 LoopLateSamples (06 R236). -/
abbrev loopLateSamples : Nat := 0x410501
/-- 4106h.01–4106h.25 LoopMinSlack (06 R236). -/
abbrev loopMinSlack : Nat := 0x410601
/-- 4107h.01–4107h.25 LoopCycles (06 R236). -/
abbrev loopCycles : Nat := 0x410701
/-- 4108h.01–4108h.25 LoopSaturations (06 R236). -/
abbrev loopSaturations : Nat := 0x410801
/-- 4109h.01–4109h.25 LoopSwapGroup (06 R236). -/
abbrev loopSwapGroup : Nat := 0x410901
/-- 410Ah.01–410Ah.25 LoopClaim (06 R236). -/
abbrev loopClaim : Nat := 0x410A01
/-- 4110h.01 CoefLoop (06 R236). -/
abbrev coefLoop : Nat := 0x411001
/-- 4110h.02 CoefClaim (06 R236). -/
abbrev coefClaim : Nat := 0x411002
/-- 4110h.03 CoefCopyActive (06 R236). -/
abbrev coefCopyActive : Nat := 0x411003
/-- 4110h.04 CoefIndex (06 R236). -/
abbrev coefIndex : Nat := 0x411004
/-- 4110h.05 CoefValue (06 R236). -/
abbrev coefValue : Nat := 0x411005
/-- 4110h.06 CoefSeal (06 R236). -/
abbrev coefSeal : Nat := 0x411006
/-- 4110h.07 InactiveImage (06 R236). -/
abbrev inactiveImage : Nat := 0x411007
/-- 4110h.08 ActiveImage (06 R236). -/
abbrev activeImage : Nat := 0x411008
/-- 4110h.09 SwapRequest (06 R236). -/
abbrev swapRequest : Nat := 0x411009
/-- 4110h.0A GroupSwapRequest (06 R236). -/
abbrev groupSwapRequest : Nat := 0x41100A
/-- 4111h.01 SwapRunState (06 R238). -/
abbrev swapRunState : Nat := 0x411101
/-- 4111h.02 SwapRunRunNumber (06 R238). -/
abbrev swapRunRunNumber : Nat := 0x411102
/-- 4111h.03 SwapRunTarget (06 R238). -/
abbrev swapRunTarget : Nat := 0x411103
/-- 4111h.04 SwapRunTick (06 R238). -/
abbrev swapRunTick : Nat := 0x411104
/-- 4111h.05 SwapRunSubTick (06 R238). -/
abbrev swapRunSubTick : Nat := 0x411105
/-- 4111h.06 SwapRunBank (06 R238). -/
abbrev swapRunBank : Nat := 0x411106
/-- 4111h.07 SwapRunFailReason (06 R238). -/
abbrev swapRunFailReason : Nat := 0x411107
/-- 4180h.01 TraceState (06 R236). -/
abbrev traceState : Nat := 0x418001
/-- 4180h.02 TraceCommand (06 R236). -/
abbrev traceCommand : Nat := 0x418002
/-- 4180h.03 PreTrigger (06 R236). -/
abbrev preTrigger : Nat := 0x418003
/-- 4180h.04 TriggerSource (06 R236). -/
abbrev triggerSource : Nat := 0x418004
/-- 4180h.05 TriggerCondition (06 R236). -/
abbrev triggerCondition : Nat := 0x418005
/-- 4180h.06 TriggerLevel (06 R236). -/
abbrev triggerLevel : Nat := 0x418006
/-- 4180h.07 TriggerLoop (06 R236). -/
abbrev triggerLoop : Nat := 0x418007
/-- 4180h.08 TraceReserved (06 R236). -/
abbrev traceReserved : Nat := 0x418008
/-- 4180h.09 TriggerTick (06 R236). -/
abbrev triggerTick : Nat := 0x418009
/-- 4181h.01–4181h.08 TraceSource (06 R236). -/
abbrev traceSource : Nat := 0x418101
/-- 4182h.01–4182h.08 TraceDecimation (06 R236). -/
abbrev traceDecimation : Nat := 0x418201
/-- 4183h.01 TraceReadChannel (06 R236). -/
abbrev traceReadChannel : Nat := 0x418301
/-- 4183h.02 TraceImage (06 R236). -/
abbrev traceImage : Nat := 0x418302
/-- 4800h.01 SpindleState (08 R321). -/
abbrev spindleState : Nat := 0x480001
/-- 4800h.02 SpindleSpeed (08 R321). -/
abbrev spindleSpeed : Nat := 0x480002
/-- 4800h.03 AngleSource (08 R321). -/
abbrev angleSource : Nat := 0x480003
/-- 4800h.04 StartAttemptsUsed (08 R321). -/
abbrev startAttemptsUsed : Nat := 0x480004
/-- 4800h.05 SpindleRetry (08 R321). -/
abbrev spindleRetry : Nat := 0x480005
/-- 4810h.01 SpindleNominalRpm (08 R321). -/
abbrev spindleNominalRpm : Nat := 0x481001
/-- 4810h.02 PolePairs (08 R321). -/
abbrev polePairs : Nat := 0x481002
/-- 4810h.03 PwmFrequency (08 R321). -/
abbrev pwmFrequency : Nat := 0x481003
/-- 4810h.04 DeadTime (08 R321). -/
abbrev deadTime : Nat := 0x481004
/-- 4810h.05 SpindleCurrentFullScale (08 R321). -/
abbrev spindleCurrentFullScale : Nat := 0x481005
/-- 4810h.06 OvercurrentLimit (08 R321). -/
abbrev overcurrentLimit : Nat := 0x481006
/-- 4810h.07 ChopperSenseScale (08 R321). -/
abbrev chopperSenseScale : Nat := 0x481007
/-- 4810h.08 BusNominal (08 R321). -/
abbrev busNominal : Nat := 0x481008
/-- 4810h.09 ReducedSpeed (08 R321). -/
abbrev reducedSpeed : Nat := 0x481009
/-- 4810h.0A SpinDownMode (08 R321). -/
abbrev spinDownMode : Nat := 0x48100A
/-- 4810h.0B RotorAngleOffset (08 R321). -/
abbrev rotorAngleOffset : Nat := 0x48100B
/-- 4810h.0C IndexAngleImage (08 R321). -/
abbrev indexAngleImage : Nat := 0x48100C
/-- 4820h.01 SpinUpSurge (08 R321). -/
abbrev spinUpSurge : Nat := 0x482001
/-- 4820h.02 InjectionFrequency (08 R321). -/
abbrev injectionFrequency : Nat := 0x482002
/-- 4820h.03 InjectionAmplitude (08 R321). -/
abbrev injectionAmplitude : Nat := 0x482003
/-- 4820h.04 SaliencyMinRatio (08 R321). -/
abbrev saliencyMinRatio : Nat := 0x482004
/-- 4820h.05 HandoverSpeed (08 R321). -/
abbrev handoverSpeed : Nat := 0x482005
/-- 4820h.06 InjectionSpeedLimit (08 R321). -/
abbrev injectionSpeedLimit : Nat := 0x482006
/-- 4820h.07 HandoverCrossings (08 R321). -/
abbrev handoverCrossings : Nat := 0x482007
/-- 4820h.08 StartAttempts (08 R321). -/
abbrev startAttempts : Nat := 0x482008
/-- 4820h.09 LockedRotorTimeout (08 R321). -/
abbrev lockedRotorTimeout : Nat := 0x482009
/-- 4820h.0A LockedRotorRetryDelay (08 R321). -/
abbrev lockedRotorRetryDelay : Nat := 0x48200A
/-- 4820h.0B SpinUpTimeLimit (08 R321). -/
abbrev spinUpTimeLimit : Nat := 0x48200B
/-- 4830h.01 SlopeWidth (08 R321). -/
abbrev slopeWidth : Nat := 0x483001
/-- 4830h.02 CommutationAdvance (08 R321). -/
abbrev commutationAdvance : Nat := 0x483002
/-- 4830h.03 ZcBlanking (08 R321). -/
abbrev zcBlanking : Nat := 0x483003
/-- 4830h.04 ZcWindow (08 R321). -/
abbrev zcWindow : Nat := 0x483004
/-- 4830h.05 ZcMissLimit (08 R321). -/
abbrev zcMissLimit : Nat := 0x483005
/-- 4830h.06 MinSampleWindow (08 R321). -/
abbrev minSampleWindow : Nat := 0x483006
/-- 4830h.07 SineTable (08 R321). -/
abbrev sineTable : Nat := 0x483007
/-- 4830h.08 SineTableRestore (08 R321). -/
abbrev sineTableRestore : Nat := 0x483008
/-- 4830h.09 ShiftedPeriods (08 R321). -/
abbrev shiftedPeriods : Nat := 0x483009
/-- 4830h.0A UnsampledPeriods (08 R321). -/
abbrev unsampledPeriods : Nat := 0x48300A
/-- 4840h.01 FlywheelCycles (08 R321). -/
abbrev flywheelCycles : Nat := 0x484001
/-- 4840h.02 FloatWindow (08 R321). -/
abbrev floatWindow : Nat := 0x484002
/-- 4840h.03 ReacquireCrossings (08 R321). -/
abbrev reacquireCrossings : Nat := 0x484003
/-- 4840h.04 MaxCoastTime (08 R321). -/
abbrev maxCoastTime : Nat := 0x484004
/-- 4840h.05 RotorLossEvents (08 R321). -/
abbrev rotorLossEvents : Nat := 0x484005
/-- 4840h.06 CoastRestarts (08 R321). -/
abbrev coastRestarts : Nat := 0x484006
/-- 4850h.01 Ov1Percent (08 R321). -/
abbrev ov1Percent : Nat := 0x485001
/-- 4850h.02 Ov2Percent (08 R321). -/
abbrev ov2Percent : Nat := 0x485002
/-- 4850h.03 ChopperOnPercent (08 R321). -/
abbrev chopperOnPercent : Nat := 0x485003
/-- 4850h.04 ChopperOffPercent (08 R321). -/
abbrev chopperOffPercent : Nat := 0x485004
/-- 4850h.05 ChopperRiseSamples (08 R321). -/
abbrev chopperRiseSamples : Nat := 0x485005
/-- 4850h.06 ChopperMinCurrent (08 R321). -/
abbrev chopperMinCurrent : Nat := 0x485006
/-- 4850h.07 BrakeCurrentLimit (08 R321). -/
abbrev brakeCurrentLimit : Nat := 0x485007
/-- 4850h.08 BrakeEndSpeed (08 R321). -/
abbrev brakeEndSpeed : Nat := 0x485008
/-- 4850h.09 ChopperState (08 R321). -/
abbrev chopperState : Nat := 0x485009
/-- 4850h.0A BrakePhase (08 R321). -/
abbrev brakePhase : Nat := 0x48500A
/-- 4850h.0B BrakeEvents (08 R321). -/
abbrev brakeEvents : Nat := 0x48500B
/-- 4860h.01 HoldUpCapacitance (08 R321). -/
abbrev holdUpCapacitance : Nat := 0x486001
/-- 4860h.02 HoldUpMinVoltage (08 R321). -/
abbrev holdUpMinVoltage : Nat := 0x486002
/-- 4860h.03 HoldUpVoltage (08 R321). -/
abbrev holdUpVoltage : Nat := 0x486003
/-- 4860h.04 HoldUpEnergy (08 R321). -/
abbrev holdUpEnergy : Nat := 0x486004
/-- 4860h.05 HoldUpRequired (08 R321). -/
abbrev holdUpRequired : Nat := 0x486005
/-- 4860h.06 HoldUpMargin (08 R321). -/
abbrev holdUpMargin : Nat := 0x486006
/-- 4860h.07 PowerLossThreshold (08 R321). -/
abbrev powerLossThreshold : Nat := 0x486007
/-- 4860h.08 PowerLossFilter (08 R321). -/
abbrev powerLossFilter : Nat := 0x486008
/-- 4860h.09 ParkEnergy (08 R321). -/
abbrev parkEnergy : Nat := 0x486009
/-- 4860h.0A ElectronicsEnergy (08 R321). -/
abbrev electronicsEnergy : Nat := 0x48600A
/-- 4860h.0B PowerLossEvents (08 R321). -/
abbrev powerLossEvents : Nat := 0x48600B
/-- 4870h.01 SpinUpTokenMode (08 R321). -/
abbrev spinUpTokenMode : Nat := 0x487001
/-- 4870h.02 SpinUpTokenWait (08 R321). -/
abbrev spinUpTokenWait : Nat := 0x487002
/-- 4870h.03 SpinUpTokenState (08 R321). -/
abbrev spinUpTokenState : Nat := 0x487003
/-- 4870h.04 SpinUpTokenGrant (08 R321). -/
abbrev spinUpTokenGrant : Nat := 0x487004
/-- 4870h.05 SpinUpSlotUnit (08 R321). -/
abbrev spinUpSlotUnit : Nat := 0x487005
/-- 5000h.01–5000h.02 HostLinkSpeed (09 R349). -/
abbrev hostLinkSpeed : Nat := 0x500001
/-- 5001h.01–5001h.02 HostLinkWidth (09 R349). -/
abbrev hostLinkWidth : Nat := 0x500101
/-- 5002h.01 SerialNumber (09 R349). -/
abbrev serialNumber : Nat := 0x500201
/-- 5002h.02 ModelNumber (09 R349). -/
abbrev modelNumber : Nat := 0x500202
/-- 5002h.03 SubsystemVendorId (09 R349). -/
abbrev subsystemVendorId : Nat := 0x500203
/-- 5002h.04 SubsystemId (09 R349). -/
abbrev subsystemId : Nat := 0x500204
/-- 5002h.05 IeeeOui (09 R349). -/
abbrev ieeeOui : Nat := 0x500205
/-- 5002h.06 NqnAuthority (09 R349). -/
abbrev nqnAuthority : Nat := 0x500206
/-- 5003h.01–5003h.02 ControllerState (09 R349). -/
abbrev controllerState : Nat := 0x500301
/-- 5004h.01–5004h.02 PowerStateRequested (09 R349). -/
abbrev powerStateRequested : Nat := 0x500401
/-- 5005h.01–5005h.04 SpdmSessions (09 R349). -/
abbrev spdmSessions : Nat := 0x500501
/-- 5010h.01 LarderEnable (01 R37). -/
abbrev larderEnable : Nat := 0x501001
/-- 5010h.02 LarderInvalidate (11 R405). -/
abbrev larderInvalidate : Nat := 0x501002
/-- 5010h.03 LarderLines (11 R405). -/
abbrev larderLines : Nat := 0x501003
/-- 5010h.04 LarderWays (11 R405). -/
abbrev larderWays : Nat := 0x501004
/-- 5010h.05 LarderSets (11 R405). -/
abbrev larderSets : Nat := 0x501005
/-- 5010h.06 InvalidateSinceDisable (11 R405). -/
abbrev invalidateSinceDisable : Nat := 0x501006
/-- 5011h.01 InvalidateRunState (11 R404). -/
abbrev invalidateRunState : Nat := 0x501101
/-- 5011h.02 InvalidateRunRunNumber (11 R404). -/
abbrev invalidateRunRunNumber : Nat := 0x501102
/-- 5011h.03 InvalidateRunLarderLines (11 R404). -/
abbrev invalidateRunLarderLines : Nat := 0x501103
/-- 5011h.04 InvalidateRunPantryLines (11 R404). -/
abbrev invalidateRunPantryLines : Nat := 0x501104
/-- 5011h.05 InvalidateRunTick (11 R404). -/
abbrev invalidateRunTick : Nat := 0x501105
/-- 5011h.06 InvalidateRunFailReason (11 R404). -/
abbrev invalidateRunFailReason : Nat := 0x501106
/-- 5012h.01 LarderHits (11 R405). -/
abbrev larderHits : Nat := 0x501201
/-- 5012h.02 LarderMisses (11 R405). -/
abbrev larderMisses : Nat := 0x501202
/-- 5012h.03 EvictionsCancelled (11 R405). -/
abbrev evictionsCancelled : Nat := 0x501203
/-- 5012h.04 UncachedFills (11 R405). -/
abbrev uncachedFills : Nat := 0x501204
/-- 5012h.05 LarderLinesValid (11 R405). -/
abbrev larderLinesValid : Nat := 0x501205
/-- 5012h.06 LarderLinesLeaving (11 R405). -/
abbrev larderLinesLeaving : Nat := 0x501206
/-- 5013h.01 ReadAheadEnable (11 R405). -/
abbrev readAheadEnable : Nat := 0x501301
/-- 5013h.02 ReadAheadDepth (11 R405). -/
abbrev readAheadDepth : Nat := 0x501302
/-- 5013h.03 ReadAheadStreams (11 R405). -/
abbrev readAheadStreams : Nat := 0x501303
/-- 5013h.04 SequentialTrigger (11 R405). -/
abbrev sequentialTrigger : Nat := 0x501304
/-- 5013h.05 ReadAheadOpsMax (11 R405). -/
abbrev readAheadOpsMax : Nat := 0x501305
/-- 5013h.06 PantryUnusedDiscards (11 R405). -/
abbrev pantryUnusedDiscards : Nat := 0x501306
/-- 5013h.07 PantryPromotions (11 R405). -/
abbrev pantryPromotions : Nat := 0x501307
/-- 5013h.08 ReadAheadFillsDiscarded (11 R405). -/
abbrev readAheadFillsDiscarded : Nat := 0x501308
/-- 5013h.09 PantryLinesValid (11 R405). -/
abbrev pantryLinesValid : Nat := 0x501309
/-- 5014h.01 MergeWindow (11 R405). -/
abbrev mergeWindow : Nat := 0x501401
/-- 5014h.02 MergeBuffers (11 R405). -/
abbrev mergeBuffers : Nat := 0x501402
/-- 5014h.03 MergeBuffersInUse (11 R405). -/
abbrev mergeBuffersInUse : Nat := 0x501403
/-- 5014h.04 MergedWrites (11 R405). -/
abbrev mergedWrites : Nat := 0x501404
/-- 5014h.05 MergeBufferWaits (11 R405). -/
abbrev mergeBufferWaits : Nat := 0x501405
/-- 5100h.01 ContextPool (10 R380). -/
abbrev contextPool : Nat := 0x510001
/-- 5100h.02 ContextReserve (10 R380). -/
abbrev contextReserve : Nat := 0x510002
/-- 5100h.03–5100h.04 ContextsInUse (10 R380). -/
abbrev contextsInUse : Nat := 0x510003
/-- 5100h.05 ContextsSharedFree (10 R380). -/
abbrev contextsSharedFree : Nat := 0x510005
/-- 5100h.06 ContextFetchPauses (10 R380). -/
abbrev contextFetchPauses : Nat := 0x510006
/-- 5101h.01 RangeLockEntries (10 R380). -/
abbrev rangeLockEntries : Nat := 0x510101
/-- 5101h.02 RangeLockHostLimit (10 R380). -/
abbrev rangeLockHostLimit : Nat := 0x510102
/-- 5101h.03 RangeLocksInUse (10 R380). -/
abbrev rangeLocksInUse : Nat := 0x510103
/-- 5101h.04 RangeLockWaits (10 R380). -/
abbrev rangeLockWaits : Nat := 0x510104
/-- 5101h.05 RangeLockFullPauses (10 R380). -/
abbrev rangeLockFullPauses : Nat := 0x510105
/-- 5102h.01–5102h.04 MediaOpsInFlight (10 R380). -/
abbrev mediaOpsInFlight : Nat := 0x510201
/-- 5102h.05 ScheduleAgeLimit (10 R380). -/
abbrev scheduleAgeLimit : Nat := 0x510205
/-- 5103h.01 HostCommandDeadline (10 R380). -/
abbrev hostCommandDeadline : Nat := 0x510301
/-- 5110h.01–5110h.04 CellarFreeSectors (10 R380). -/
abbrev cellarFreeSectors : Nat := 0x511001
/-- 5111h.01–5111h.04 CellarLiveSlots (10 R380). -/
abbrev cellarLiveSlots : Nat := 0x511101
/-- 5112h.01–5112h.04 CellarWatermark (10 R380). -/
abbrev cellarWatermark : Nat := 0x511201
/-- 5113h.01 CellarLowWater (10 R380). -/
abbrev cellarLowWater : Nat := 0x511301
/-- 5113h.02 CellarCommitCopies (10 R380). -/
abbrev cellarCommitCopies : Nat := 0x511302
/-- 5113h.03 AtomicMaxSectors (10 R380). -/
abbrev atomicMaxSectors : Nat := 0x511303
/-- 5114h.01 SlotsStaged (10 R380). -/
abbrev slotsStaged : Nat := 0x511401
/-- 5114h.02 SlotsAbandoned (10 R380). -/
abbrev slotsAbandoned : Nat := 0x511402
/-- 5114h.03 ChunksRestocked (10 R380). -/
abbrev chunksRestocked : Nat := 0x511403
/-- 5114h.04 RestockRedos (10 R380). -/
abbrev restockRedos : Nat := 0x511404
/-- 5120h.01 AbortsAborted (10 R380). -/
abbrev abortsAborted : Nat := 0x512001
/-- 5120h.02 AbortsNotAborted (10 R380). -/
abbrev abortsNotAborted : Nat := 0x512002
/-- 5121h.01 ResetDrainLimit (10 R380). -/
abbrev resetDrainLimit : Nat := 0x512101
/-- 5121h.02 ActivationDrainLimit (10 R380). -/
abbrev activationDrainLimit : Nat := 0x512102
/-- 5122h.01 FormatProgress (10 R380). -/
abbrev formatProgress : Nat := 0x512201
/-- 5800h.01 CaseTemperature (13 R466). -/
abbrev caseTemperature : Nat := 0x580001
/-- 5800h.02 CoreVoltage (13 R466). -/
abbrev coreVoltage : Nat := 0x580002
/-- 5800h.03 ThermalLimit (13 R466). -/
abbrev thermalLimit : Nat := 0x580003
/-- 5810h.01 SleepStateCurrent (01 R37). -/
abbrev sleepStateCurrent : Nat := 0x581001
/-- 5810h.02 SleepStateRequest (13 R466). -/
abbrev sleepStateRequest : Nat := 0x581002
/-- 5810h.03 SleepIdleTime (13 R466). -/
abbrev sleepIdleTime : Nat := 0x581003
/-- 5810h.04 PrepareLimit (13 R466). -/
abbrev prepareLimit : Nat := 0x581004
/-- 5810h.05 WakeTimer (13 R466). -/
abbrev wakeTimer : Nat := 0x581005
/-- 5810h.06 SpindleStopLimit (13 R466). -/
abbrev spindleStopLimit : Nat := 0x581006
/-- 5811h.01 SleepEntryState (13 R466). -/
abbrev sleepEntryState : Nat := 0x581101
/-- 5811h.02 SleepEntryTarget (13 R466). -/
abbrev sleepEntryTarget : Nat := 0x581102
/-- 5811h.03 SleepRefusalCode (13 R466). -/
abbrev sleepRefusalCode : Nat := 0x581103
/-- 5811h.04 SleepRefusingBlock (13 R466). -/
abbrev sleepRefusingBlock : Nat := 0x581104
/-- 5811h.05 ArbiterOutcome (13 R466). -/
abbrev arbiterOutcome : Nat := 0x581105
/-- 5811h.06 WakeSources (13 R466). -/
abbrev wakeSources : Nat := 0x581106
/-- 5811h.07 SleepEntryTick (13 R466). -/
abbrev sleepEntryTick : Nat := 0x581107
/-- 5811h.08 SleepEntries (13 R466). -/
abbrev sleepEntries : Nat := 0x581108
/-- 5811h.09 SleepAborts (13 R466). -/
abbrev sleepAborts : Nat := 0x581109
/-- 5820h.01 PerformanceLevelCurrent (01 R37). -/
abbrev performanceLevelCurrent : Nat := 0x582001
/-- 5820h.02 PerformanceLevelRequest (01 R37). -/
abbrev performanceLevelRequest : Nat := 0x582002
/-- 5820h.03 LevelCap (13 R466). -/
abbrev levelCap : Nat := 0x582003
/-- 5820h.04 ThermalLevelLimit (13 R466). -/
abbrev thermalLevelLimit : Nat := 0x582004
/-- 5820h.05 StreamsAdmitted (13 R466). -/
abbrev streamsAdmitted : Nat := 0x582005
/-- 5820h.06 StreamsWanted (13 R466). -/
abbrev streamsWanted : Nat := 0x582006
/-- 5820h.07 DetectionCapacity (13 R466). -/
abbrev detectionCapacity : Nat := 0x582007
/-- 5820h.08 DetectionRatio (13 R466). -/
abbrev detectionRatio : Nat := 0x582008
/-- 5820h.09 LevelChanges (13 R466). -/
abbrev levelChanges : Nat := 0x582009
/-- 5821h.01–5821h.06 LevelNominalVoltage (13 R466). -/
abbrev levelNominalVoltage : Nat := 0x582101
/-- 5822h.01–5822h.06 AgeingRaise (13 R466). -/
abbrev ageingRaise : Nat := 0x582201
/-- 5823h.01–5823h.06 TokenCeiling (13 R466). -/
abbrev tokenCeiling : Nat := 0x582301
/-- 5824h.01–5824h.06 LastMeasured (13 R466). -/
abbrev lastMeasured : Nat := 0x582401
/-- 5830h.01 AvsState (13 R466). -/
abbrev avsState : Nat := 0x583001
/-- 5830h.02 AvsTimeouts (13 R466). -/
abbrev avsTimeouts : Nat := 0x583002
/-- 5830h.03 AvsSettleTime (13 R466). -/
abbrev avsSettleTime : Nat := 0x583003
/-- 5830h.04 AvsRetryDelay (13 R466). -/
abbrev avsRetryDelay : Nat := 0x583004
/-- 5830h.05 AvsFailLimit (13 R466). -/
abbrev avsFailLimit : Nat := 0x583005
/-- 5830h.06 AvsRestart (13 R466). -/
abbrev avsRestart : Nat := 0x583006
/-- 5830h.07 AvsAckTimeout (13 R466). -/
abbrev avsAckTimeout : Nat := 0x583007
/-- 5840h.01 SurgeBudget (13 R466). -/
abbrev surgeBudget : Nat := 0x584001
/-- 5840h.02 LoadSurge (13 R466). -/
abbrev loadSurge : Nat := 0x584002
/-- 5840h.03 HeaterSurge (13 R466). -/
abbrev heaterSurge : Nat := 0x584003
/-- 5840h.04 LevelSurge (13 R466). -/
abbrev levelSurge : Nat := 0x584004
/-- 5840h.05 SurgeGranted (13 R466). -/
abbrev surgeGranted : Nat := 0x584005
/-- 5840h.06 SurgeQueued (13 R466). -/
abbrev surgeQueued : Nat := 0x584006
/-- 5840h.07 SurgeWaits (13 R466). -/
abbrev surgeWaits : Nat := 0x584007
/-- 5850h.01–5850h.09 DeadlineMisses (13 R466). -/
abbrev deadlineMisses : Nat := 0x585001
/-- 5858h.01 AgeingPeriod (13 R466). -/
abbrev ageingPeriod : Nat := 0x585801
/-- 5858h.02 AgeingStep (13 R466). -/
abbrev ageingStep : Nat := 0x585802
/-- 5858h.03 AgeingRaiseMax (13 R466). -/
abbrev ageingRaiseMax : Nat := 0x585803
/-- 5858h.04 ReplicaMonitors (13 R466). -/
abbrev replicaMonitors : Nat := 0x585804
/-- 5858h.05 AgeingMeasurements (13 R466). -/
abbrev ageingMeasurements : Nat := 0x585805
/-- 5860h.01 MarginSelectHead (13 R466). -/
abbrev marginSelectHead : Nat := 0x586001
/-- 5860h.02 MarginSelectZone (13 R466). -/
abbrev marginSelectZone : Nat := 0x586002
/-- 5860h.03 MarginImage (13 R466). -/
abbrev marginImage : Nat := 0x586003
/-- 5860h.04 MarginWarnLimit (13 R466). -/
abbrev marginWarnLimit : Nat := 0x586004
/-- 5C00h.01–5C00h.04 ReactionMask (14 R490). -/
abbrev reactionMask : Nat := 0x5C0001
/-- 5C01h.01 FaultPulseWidth (14 R490). -/
abbrev faultPulseWidth : Nat := 0x5C0101
/-- 5C01h.02 FaultPinState (14 R490). -/
abbrev faultPinState : Nat := 0x5C0102
/-- 5C01h.03 FaultPinRelease (14 R490). -/
abbrev faultPinRelease : Nat := 0x5C0103
/-- 5C01h.04 FaultPulses (14 R490). -/
abbrev faultPulses : Nat := 0x5C0104
/-- 5C02h.01 FaultClear (14 R490). -/
abbrev faultClear : Nat := 0x5C0201
/-- 5C02h.02 FaultsStanding (14 R490). -/
abbrev faultsStanding : Nat := 0x5C0202
/-- 5C02h.03 FaultRaisings (14 R490). -/
abbrev faultRaisings : Nat := 0x5C0203
/-- 5C03h.01 FaultResetLimit (14 R490). -/
abbrev faultResetLimit : Nat := 0x5C0301
/-- 5C03h.02 FaultResets (14 R490). -/
abbrev faultResets : Nat := 0x5C0302
/-- 5C03h.03 FaultResetsSuppressed (14 R490). -/
abbrev faultResetsSuppressed : Nat := 0x5C0303
/-- 5C10h.01–5C10h.C0 SeverityLow (14 R490). -/
abbrev severityLow : Nat := 0x5C1001
/-- 5C11h.01–5C11h.C0 SeverityHigh (14 R490). -/
abbrev severityHigh : Nat := 0x5C1101
/-- 5C12h.01–5C12h.C0 FaultStateLow (14 R490). -/
abbrev faultStateLow : Nat := 0x5C1201
/-- 5C13h.01–5C13h.C0 FaultStateHigh (14 R490). -/
abbrev faultStateHigh : Nat := 0x5C1301
/-- 5C14h.01–5C14h.C0 FaultCountLow (14 R490). -/
abbrev faultCountLow : Nat := 0x5C1401
/-- 5C15h.01–5C15h.C0 FaultCountHigh (14 R490). -/
abbrev faultCountHigh : Nat := 0x5C1501
/-- 5C20h.01 ShelfRecords (15 R516). -/
abbrev shelfRecords : Nat := 0x5C2001
/-- 5C20h.02 ShelfNextSequence (15 R516). -/
abbrev shelfNextSequence : Nat := 0x5C2002
/-- 5C20h.03 ShelfClear (15 R516). -/
abbrev shelfClear : Nat := 0x5C2003
/-- 5C20h.04 LastClearSequence (15 R516). -/
abbrev lastClearSequence : Nat := 0x5C2004
/-- 5C21h.01 ShelfClearChallenge (15 R516). -/
abbrev shelfClearChallenge : Nat := 0x5C2101
/-- 5C21h.02 ShelfClearToken (15 R516). -/
abbrev shelfClearToken : Nat := 0x5C2102
/-- 5C21h.03 ShelfTokenRefusals (15 R516). -/
abbrev shelfTokenRefusals : Nat := 0x5C2103
/-- 5C22h.01 ShelfReadSequence (15 R516). -/
abbrev shelfReadSequence : Nat := 0x5C2201
/-- 5C22h.02 ShelfRecordImage (15 R516). -/
abbrev shelfRecordImage : Nat := 0x5C2202
/-- 5C22h.03 ShelfSummaryImage (15 R516). -/
abbrev shelfSummaryImage : Nat := 0x5C2203
/-- 5C30h.01 WallTime (15 R516). -/
abbrev wallTime : Nat := 0x5C3001
/-- 5C30h.02 WallTimeSet (15 R516). -/
abbrev wallTimeSet : Nat := 0x5C3002
/-- 5C30h.03 WallTimeStepLimit (15 R516). -/
abbrev wallTimeStepLimit : Nat := 0x5C3003
/-- 5C30h.04 WallTimeSteps (15 R516). -/
abbrev wallTimeSteps : Nat := 0x5C3004
/-- 5C40h.01 SnapshotSelectCode (15 R516). -/
abbrev snapshotSelectCode : Nat := 0x5C4001
/-- 5C40h.02 SnapshotListImage (15 R516). -/
abbrev snapshotListImage : Nat := 0x5C4002
/-- 5D00h.01 TrunkNextSequence (15 R516). -/
abbrev trunkNextSequence : Nat := 0x5D0001
/-- 5D00h.02 TrunkOldestSequence (15 R516). -/
abbrev trunkOldestSequence : Nat := 0x5D0002
/-- 5D00h.03 BootNumber (15 R516). -/
abbrev bootNumber : Nat := 0x5D0003
/-- 5D00h.04 TrunkUnitsRetired (15 R516). -/
abbrev trunkUnitsRetired : Nat := 0x5D0004
/-- 5D00h.05 TrunkAppendFailures (15 R516). -/
abbrev trunkAppendFailures : Nat := 0x5D0005
/-- 5D00h.06 TrunkMirrorPeriod (15 R516). -/
abbrev trunkMirrorPeriod : Nat := 0x5D0006
/-- 5D00h.07 TrunkFaultBurst (15 R516). -/
abbrev trunkFaultBurst : Nat := 0x5D0007
/-- 5D00h.08 TrunkMirrorState (15 R516). -/
abbrev trunkMirrorState : Nat := 0x5D0008
/-- 5D00h.09 TrunkEraseLimit (15 R516). -/
abbrev trunkEraseLimit : Nat := 0x5D0009
/-- 5D01h.01 TrunkReadSequence (15 R516). -/
abbrev trunkReadSequence : Nat := 0x5D0101
/-- 5D01h.02 TrunkReadArea (15 R516). -/
abbrev trunkReadArea : Nat := 0x5D0102
/-- 5D01h.03 TrunkRecordImage (15 R516). -/
abbrev trunkRecordImage : Nat := 0x5D0103
/-- 6000h.01 CrateOffset (16 R544). -/
abbrev crateOffset : Nat := 0x600001
/-- 6000h.02 CrateBlock (16 R544). -/
abbrev crateBlock : Nat := 0x600002
/-- 6000h.03 CrateBytesReceived (16 R544). -/
abbrev crateBytesReceived : Nat := 0x600003
/-- 6000h.04 StageRequest (16 R544). -/
abbrev stageRequest : Nat := 0x600004
/-- 6000h.05 StagingAreaSize (16 R544). -/
abbrev stagingAreaSize : Nat := 0x600005
/-- 6001h.01 StagingRunState (16 R545). -/
abbrev stagingRunState : Nat := 0x600101
/-- 6001h.02 StagingRunRunNumber (16 R545). -/
abbrev stagingRunRunNumber : Nat := 0x600102
/-- 6001h.03 StagingRunSlot (16 R545). -/
abbrev stagingRunSlot : Nat := 0x600103
/-- 6001h.04 StagingRunRevision (16 R545). -/
abbrev stagingRunRevision : Nat := 0x600104
/-- 6001h.05 StagingRunFailReason (16 R545). -/
abbrev stagingRunFailReason : Nat := 0x600105
/-- 6010h.01 UpdateState (01 R37). -/
abbrev updateState : Nat := 0x601001
/-- 6010h.02 ActivateRequest (16 R544). -/
abbrev activateRequest : Nat := 0x601002
/-- 6010h.03 ScheduledPulse (16 R544). -/
abbrev scheduledPulse : Nat := 0x601003
/-- 6010h.04 ScheduleLead (16 R544). -/
abbrev scheduleLead : Nat := 0x601004
/-- 6010h.05 TbiPulseLabel (16 R544). -/
abbrev tbiPulseLabel : Nat := 0x601005
/-- 6010h.06 ActiveSlot (16 R544). -/
abbrev activeSlot : Nat := 0x601006
/-- 6010h.07 ActiveRevision (16 R544). -/
abbrev activeRevision : Nat := 0x601007
/-- 6010h.08 Activations (16 R544). -/
abbrev activations : Nat := 0x601008
/-- 6010h.09 FiringLead (16 R544). -/
abbrev firingLead : Nat := 0x601009
/-- 6011h.01–6011h.06 ActiveInterfaceVersion (16 R544). -/
abbrev activeInterfaceVersion : Nat := 0x601101
/-- 6012h.01 ActivationRunState (16 R545). -/
abbrev activationRunState : Nat := 0x601201
/-- 6012h.02 ActivationRunRunNumber (16 R545). -/
abbrev activationRunRunNumber : Nat := 0x601202
/-- 6012h.03 ActivationRunKind (16 R545). -/
abbrev activationRunKind : Nat := 0x601203
/-- 6012h.04 ActivationRunSteps (16 R545). -/
abbrev activationRunSteps : Nat := 0x601204
/-- 6012h.05 ActivationRunFirstTick (16 R545). -/
abbrev activationRunFirstTick : Nat := 0x601205
/-- 6012h.06 ActivationRunEndTick (16 R545). -/
abbrev activationRunEndTick : Nat := 0x601206
/-- 6012h.07 ActivationRunFailReason (16 R545). -/
abbrev activationRunFailReason : Nat := 0x601207
/-- 6020h.01 OwnerLockState (01 R37). -/
abbrev ownerLockState : Nat := 0x602001
/-- 6020h.02 OwnerLockChallenge (16 R544). -/
abbrev ownerLockChallenge : Nat := 0x602002
/-- 6020h.03 OwnerLockToken (16 R544). -/
abbrev ownerLockToken : Nat := 0x602003
/-- 6020h.04 OwnerLockRefusals (16 R544). -/
abbrev ownerLockRefusals : Nat := 0x602004
/-- 6030h.01 UpdateGuards (16 R544). -/
abbrev updateGuards : Nat := 0x603001
/-- 6030h.02 HoldUpGuardMargin (16 R544). -/
abbrev holdUpGuardMargin : Nat := 0x603002
/-- 6040h.01–6040h.10 KeyControl (12 R437). -/
abbrev keyControl : Nat := 0x604001
/-- 6041h.01 KeyLeaseTime (12 R437). -/
abbrev keyLeaseTime : Nat := 0x604101
/-- 6042h.01–6042h.10 KeyLeaseRemaining (12 R437). -/
abbrev keyLeaseRemaining : Nat := 0x604201
/-- 6043h.01–6043h.10 KeyExpiries (12 R437). -/
abbrev keyExpiries : Nat := 0x604301
/-- 6044h.01–6044h.10 KeyImplicit (12 R437). -/
abbrev keyImplicit : Nat := 0x604401
/-- 6050h.01 BootRecordSelect (16 R544). -/
abbrev bootRecordSelect : Nat := 0x605001
/-- 6050h.02 BootRecordImage (16 R544). -/
abbrev bootRecordImage : Nat := 0x605002
/-- 6050h.03 ChainValue (16 R544). -/
abbrev chainValue : Nat := 0x605003
/-- 6050h.04 MeasurementMismatches (16 R544). -/
abbrev measurementMismatches : Nat := 0x605004
/-- 6060h.01 IdentityCertChainEcdsa (16 R544). -/
abbrev identityCertChainEcdsa : Nat := 0x606001
/-- 6060h.02 IdentityCertChainMlDsa (16 R544). -/
abbrev identityCertChainMlDsa : Nat := 0x606002
/-- 6060h.03 IdentityDigest (16 R544). -/
abbrev identityDigest : Nat := 0x606003
/-- 6070h.01 FusedSecurityVersion (16 R544). -/
abbrev fusedSecurityVersion : Nat := 0x607001
/-- 6070h.02 SvnCommit (16 R544). -/
abbrev svnCommit : Nat := 0x607002
/-- 6070h.03 ActiveSetSecurityVersion (16 R544). -/
abbrev activeSetSecurityVersion : Nat := 0x607003
/-- 6080h.01 TrapdoorChallenge (14 R490). -/
abbrev trapdoorChallenge : Nat := 0x608001
/-- 6080h.02 TrapdoorToken (14 R490). -/
abbrev trapdoorToken : Nat := 0x608002
/-- 6080h.03 TrapdoorState (14 R490). -/
abbrev trapdoorState : Nat := 0x608003
/-- 6080h.04 TrapdoorRefusals (14 R490). -/
abbrev trapdoorRefusals : Nat := 0x608004
/-- 6401h.01 InjectKind (14 R490). -/
abbrev injectKind : Nat := 0x640101
/-- 6401h.02 InjectSource (14 R490). -/
abbrev injectSource : Nat := 0x640102
/-- 6401h.03 InjectCause (14 R490). -/
abbrev injectCause : Nat := 0x640103
/-- 6401h.04 InjectPoint (14 R490). -/
abbrev injectPoint : Nat := 0x640104
/-- 6401h.05 InjectCount (14 R490). -/
abbrev injectCount : Nat := 0x640105
/-- 6401h.06 InjectInterval (14 R490). -/
abbrev injectInterval : Nat := 0x640106
/-- 6401h.07 InjectCommand (14 R490). -/
abbrev injectCommand : Nat := 0x640107
/-- 6401h.08 InjectTarget (14 R490). -/
abbrev injectTarget : Nat := 0x640108
/-- 6402h.01 InjectRunState (14 R489). -/
abbrev injectRunState : Nat := 0x640201
/-- 6402h.02 InjectRunRunNumber (14 R489). -/
abbrev injectRunRunNumber : Nat := 0x640202
/-- 6402h.03 InjectRunMade (14 R489). -/
abbrev injectRunMade : Nat := 0x640203
/-- 6402h.04 InjectRunFirstTick (14 R489). -/
abbrev injectRunFirstTick : Nat := 0x640204
/-- 6402h.05 InjectRunLastTick (14 R489). -/
abbrev injectRunLastTick : Nat := 0x640205
/-- 6402h.06 InjectRunFailReason (14 R489). -/
abbrev injectRunFailReason : Nat := 0x640206
end O

/-- Rows of the object tables, part 1. -/
def objTable1 : List ObjRow :=
  [⟨0x100000, 1, .u32, .const, 0, 0, 4294967295, none⟩,
   ⟨0x100100, 1, .u8, .ro, 0, 0, 255, none⟩,
   ⟨0x100500, 1, .u32, .rw, 128, 0, 4294967295, none⟩,
   ⟨0x100800, 1, .visible, .const, 0, 0, 0, none⟩,
   ⟨0x101001, 1, .u32, .rw, 1, 1702257011, 1702257011, none⟩,
   ⟨0x101101, 1, .u32, .rw, 1, 1684107116, 1684107116, none⟩,
   ⟨0x101200, 1, .u32, .rw, 2147483904, 0, 4294967295, none⟩,
   ⟨0x101400, 1, .u32, .rw, 129, 0, 4294967295, none⟩,
   ⟨0x101500, 1, .u16, .rw, 10, 0, 65535, none⟩,
   ⟨0x101601, 4, .u32, .rw, 0, 0, 16777215, none⟩,
   ⟨0x101700, 1, .u16, .rw, 1000, 0, 65535, none⟩,
   ⟨0x101801, 4, .u32, .const, 0, 0, 4294967295, none⟩,
   ⟨0x140001, 1, .u32, .rw, 2147484160, 0, 4294967295, none⟩,
   ⟨0x140002, 1, .u8, .rw, 254, 0, 255, none⟩,
   ⟨0x140101, 1, .u32, .rw, 2147484416, 0, 4294967295, none⟩,
   ⟨0x140102, 1, .u8, .rw, 254, 0, 255, none⟩,
   ⟨0x160000, 1, .u8, .rw, 0, 0, 64, none⟩,
   ⟨0x160001, 64, .u32, .rw, 0, 0, 4294967295, none⟩,
   ⟨0x160100, 1, .u8, .rw, 0, 0, 64, none⟩,
   ⟨0x160101, 64, .u32, .rw, 0, 0, 4294967295, none⟩,
   ⟨0x180001, 1, .u32, .rw, 384, 0, 4294967295, none⟩,
   ⟨0x180002, 1, .u8, .rw, 254, 0, 255, none⟩,
   ⟨0x180003, 1, .u16, .rw, 100, 0, 65535, none⟩,
   ⟨0x180005, 1, .u16, .rw, 1000, 0, 65535, none⟩,
   ⟨0x180101, 1, .u32, .rw, 640, 0, 4294967295, none⟩,
   ⟨0x180102, 1, .u8, .rw, 254, 0, 255, none⟩,
   ⟨0x180103, 1, .u16, .rw, 1000, 0, 65535, none⟩,
   ⟨0x180105, 1, .u16, .rw, 1000, 0, 65535, none⟩,
   ⟨0x180201, 1, .u32, .rw, 2147484544, 0, 4294967295, none⟩,
   ⟨0x180202, 1, .u8, .rw, 254, 0, 255, none⟩,
   ⟨0x180203, 1, .u16, .rw, 0, 0, 65535, none⟩,
   ⟨0x180205, 1, .u16, .rw, 0, 0, 65535, none⟩,
   ⟨0x180301, 1, .u32, .rw, 2147484800, 0, 4294967295, none⟩,
   ⟨0x180302, 1, .u8, .rw, 254, 0, 255, none⟩,
   ⟨0x180303, 1, .u16, .rw, 0, 0, 65535, none⟩,
   ⟨0x180305, 1, .u16, .rw, 0, 0, 65535, none⟩,
   ⟨0x1A0000, 1, .u8, .rw, 6, 0, 64, none⟩,
   ⟨0x1A0001, 64, .u32, .rw, 0, 0, 4294967295, none⟩,
   ⟨0x1A0100, 1, .u8, .rw, 3, 0, 64, none⟩,
   ⟨0x1A0101, 64, .u32, .rw, 0, 0, 4294967295, none⟩]

/-- Rows of the object tables, part 2. -/
def objTable2 : List ObjRow :=
  [⟨0x1A0200, 1, .u8, .rw, 0, 0, 64, none⟩,
   ⟨0x1A0201, 64, .u32, .rw, 0, 0, 4294967295, none⟩,
   ⟨0x1A0300, 1, .u8, .rw, 0, 0, 64, none⟩,
   ⟨0x1A0301, 64, .u32, .rw, 0, 0, 4294967295, none⟩,
   ⟨0x1F8000, 1, .u32, .rw, 0, 0, 4, none⟩,
   ⟨0x200001, 1, .u8, .const, 0, 0, 2, none⟩,
   ⟨0x200002, 1, .u8, .const, 0, 0, 255, none⟩,
   ⟨0x200003, 1, .u32, .const, 0, 0, 4294967295, none⟩,
   ⟨0x200004, 1, .u8, .const, 0, 0, 255, none⟩,
   ⟨0x200005, 1, .u8, .const, 0, 0, 255, none⟩,
   ⟨0x200006, 1, .u8, .const, 64, 0, 255, none⟩,
   ⟨0x200101, 1, .u8, .ro, 0, 0, 10, none⟩,
   ⟨0x200102, 1, .u64, .ro, 0, 0, 18446744073709551615, none⟩,
   ⟨0x200103, 1, .u64, .ro, 0, 0, 18446744073709551615, none⟩,
   ⟨0x200104, 1, .u8, .ro, 1, 0, 255, none⟩,
   ⟨0x200105, 1, .u8, .ro, 1, 0, 255, none⟩,
   ⟨0x201001, 24, .u8, .ro, 0, 0, 255, none⟩,
   ⟨0x201101, 24, .u8, .ro, 0, 0, 255, none⟩,
   ⟨0x201201, 4, .u8, .ro, 0, 0, 255, none⟩,
   ⟨0x201301, 4, .u8, .ro, 0, 0, 255, none⟩,
   ⟨0x201401, 1, .u8, .wo, 0, 0, 23, none⟩,
   ⟨0x201402, 1, .u8, .wo, 0, 0, 23, none⟩,
   ⟨0x201403, 1, .u8, .wo, 0, 0, 3, none⟩,
   ⟨0x201501, 1, .u8, .ro, 0, 0, 3, none⟩,
   ⟨0x201502, 1, .u32, .ro, 0, 0, 4294967295, none⟩,
   ⟨0x201503, 1, .u8, .ro, 0, 0, 255, none⟩,
   ⟨0x201504, 1, .u8, .ro, 0, 0, 255, none⟩,
   ⟨0x201505, 1, .u8, .ro, 0, 0, 255, none⟩,
   ⟨0x210001, 1, .u8, .ro, 0, 0, 255, none⟩,
   ⟨0x210002, 1, .u8, .wo, 0, 0, 1, none⟩,
   ⟨0x210003, 1, .u8, .rw, 1, 0, 1, none⟩,
   ⟨0x210101, 2, .u8, .ro, 1, 0, 255, none⟩,
   ⟨0x210201, 2, .u8, .ro, 0, 0, 255, none⟩,
   ⟨0x210301, 2, .u8, .ro, 0, 0, 255, none⟩,
   ⟨0x210401, 2, .u32, .ro, 0, 0, 4294967295, none⟩,
   ⟨0x210501, 2, .u32, .ro, 0, 0, 4294967295, none⟩,
   ⟨0x210601, 2, .u32, .ro, 0, 0, 4294967295, none⟩,
   ⟨0x210701, 2, .u64, .ro, 0, 0, 18446744073709551615, none⟩,
   ⟨0x210801, 2, .u8, .wo, 0, 1, 1, none⟩,
   ⟨0x210901, 2, .u32, .ro, 0, 0, 4294967295, none⟩]

/-- Rows of the object tables, part 3. -/
def objTable3 : List ObjRow :=
  [⟨0x210903, 1, .u32, .ro, 0, 0, 4294967295, none⟩,
   ⟨0x211001, 1, .u8, .ro, 0, 1, 127, none⟩,
   ⟨0x211002, 1, .u8, .ro, 0, 0, 127, none⟩,
   ⟨0x211003, 1, .u16, .rw, 100, 0, 10000, none⟩,
   ⟨0x211004, 1, .u8, .rw, 8, 1, 255, none⟩,
   ⟨0x211005, 1, .u16, .rw, 1000, 100, 10000, none⟩,
   ⟨0x211101, 1, .u32, .ro, 0, 0, 4294967295, none⟩,
   ⟨0x211102, 1, .u16, .ro, 0, 0, 65535, none⟩,
   ⟨0x220001, 1, .u16, .rw, 100, 10, 1000, none⟩,
   ⟨0x220002, 1, .u8, .const, 16, 0, 255, none⟩,
   ⟨0x221001, 1, .u8, .rw, 3, 0, 3, none⟩,
   ⟨0x221002, 1, .u32, .ro, 0, 0, 4294967295, none⟩,
   ⟨0x221003, 1, .u32, .ro, 0, 0, 4294967295, none⟩,
   ⟨0x222001, 4, .u32, .ro, 0, 0, 4294967295, none⟩,
   ⟨0x223001, 1, .u16, .ro, 0, 0, 65535, none⟩,
   ⟨0x224001, 1, .u32, .const, 0, 0, 4294967295, none⟩,
   ⟨0x302001, 1, .u8, .ro, 0, 0, 255, none⟩,
   ⟨0x302002, 1, .u32, .const, 16384, 0, 4294967295, none⟩,
   ⟨0x302003, 1, .u8, .ro, 0, 0, 255, none⟩,
   ⟨0x302004, 1, .u64, .ro, 0, 0, 18446744073709551615, none⟩,
   ⟨0x302005, 1, .u64, .ro, 0, 0, 18446744073709551615, none⟩,
   ⟨0x302006, 1, .u64, .ro, 0, 0, 18446744073709551615, none⟩,
   ⟨0x302007, 1, .u64, .ro, 0, 0, 18446744073709551615, none⟩,
   ⟨0x302008, 1, .u64, .ro, 0, 0, 18446744073709551615, none⟩,
   ⟨0x302201, 1, .u16, .const, 64, 0, 65535, none⟩,
   ⟨0x302202, 1, .u16, .const, 384, 0, 65535, none⟩,
   ⟨0x303001, 1, .u8, .rw, 0, 0, 23, none⟩,
   ⟨0x303002, 1, .domain, .ro, 0, 0, 0, none⟩,
   ⟨0x303101, 1, .u8, .rw, 0, 0, 23, none⟩,
   ⟨0x303102, 1, .u8, .rw, 0, 0, 63, none⟩,
   ⟨0x303103, 1, .domain, .ro, 0, 0, 0, none⟩,
   ⟨0x303104, 1, .u32, .ro, 0, 0, 4294967295, none⟩,
   ⟨0x303201, 1, .u32, .const, 37520, 0, 4294967295, none⟩,
   ⟨0x303202, 1, .u32, .const, 509250675, 0, 4294967295, none⟩,
   ⟨0x303203, 1, .domain, .const, 0, 0, 0, none⟩,
   ⟨0x305001, 1, .u64, .wo, 0, 0, 18446744073709551615, none⟩,
   ⟨0x305002, 1, .u32, .rw, 1, 1, 4, none⟩,
   ⟨0x305101, 1, .u8, .ro, 0, 0, 255, none⟩,
   ⟨0x305102, 1, .u32, .ro, 0, 0, 4294967295, none⟩,
   ⟨0x305103, 1, .u64, .ro, 0, 0, 18446744073709551615, none⟩]

/-- Rows of the object tables, part 4. -/
def objTable4 : List ObjRow :=
  [⟨0x305104, 1, .u32, .ro, 0, 0, 4294967295, none⟩,
   ⟨0x305105, 1, .u8, .ro, 0, 0, 3, none⟩,
   ⟨0x305106, 1, .u8, .ro, 0, 0, 23, none⟩,
   ⟨0x305107, 1, .u8, .ro, 0, 0, 63, none⟩,
   ⟨0x305108, 1, .u32, .ro, 0, 0, 4294967295, none⟩,
   ⟨0x305109, 1, .u8, .ro, 0, 0, 255, none⟩,
   ⟨0x30510A, 1, .u16, .ro, 0, 0, 65535, none⟩,
   ⟨0x30510B, 1, .u32, .ro, 0, 0, 4294967295, none⟩,
   ⟨0x30510C, 1, .u8, .ro, 0, 0, 255, none⟩,
   ⟨0x30510D, 1, .u8, .ro, 0, 0, 255, none⟩,
   ⟨0x310001, 72, .u8, .ro, 1, 0, 6, none⟩,
   ⟨0x310101, 72, .u32, .ro, 0, 0, 4294967295, none⟩,
   ⟨0x310201, 72, .u32, .ro, 0, 0, 4294967295, none⟩,
   ⟨0x310301, 72, .u32, .ro, 0, 0, 4294967295, none⟩,
   ⟨0x310401, 72, .u16, .ro, 0, 0, 65535, none⟩,
   ⟨0x310501, 72, .i16, .ro, 0, (-32768), 32767, none⟩,
   ⟨0x310601, 72, .u8, .ro, 5, 0, 10, none⟩,
   ⟨0x311001, 24, .u8, .ro, 1, 0, 6, none⟩,
   ⟨0x311101, 24, .u32, .ro, 0, 0, 4294967295, none⟩,
   ⟨0x311201, 24, .u16, .ro, 0, 0, 65535, none⟩,
   ⟨0x312001, 8, .u8, .ro, 1, 0, 6, none⟩,
   ⟨0x312101, 8, .u32, .ro, 0, 0, 4294967295, none⟩,
   ⟨0x312201, 8, .u32, .ro, 0, 0, 4294967295, none⟩,
   ⟨0x312301, 24, .u16, .ro, 0, 0, 65535, none⟩,
   ⟨0x312401, 8, .u16, .ro, 0, 0, 65535, none⟩,
   ⟨0x313001, 1, .u16, .rw, 4, 1, 255, none⟩,
   ⟨0x313002, 1, .u16, .rw, 256, 16, 4096, none⟩,
   ⟨0x313003, 1, .u8, .rw, 3, 1, 8, none⟩,
   ⟨0x313004, 1, .u16, .rw, 10, 1, 3600, none⟩,
   ⟨0x313005, 1, .u8, .wo, 0, 1, 1, none⟩,
   ⟨0x314001, 1, .u8, .rwk, 0, 0, 7, (some 4)⟩,
   ⟨0x314002, 1, .u8, .rwk, 0, 0, 3, (some 4)⟩,
   ⟨0x314003, 1, .u8, .rwk, 0, 0, 17, (some 4)⟩,
   ⟨0x314004, 1, .u16, .rwk, 0, 0, 65535, (some 4)⟩,
   ⟨0x314005, 1, .u8, .rwk, 0, 1, 2, (some 4)⟩,
   ⟨0x314101, 1, .u8, .ro, 0, 0, 3, none⟩,
   ⟨0x314102, 1, .u32, .ro, 0, 0, 4294967295, none⟩,
   ⟨0x314103, 1, .u8, .ro, 0, 0, 255, none⟩,
   ⟨0x314104, 1, .u8, .ro, 0, 0, 255, none⟩,
   ⟨0x314105, 1, .u8, .ro, 0, 0, 255, none⟩]

/-- Rows of the object tables, part 5. -/
def objTable5 : List ObjRow :=
  [⟨0x314106, 1, .u16, .ro, 0, 0, 65535, none⟩,
   ⟨0x314107, 1, .u8, .ro, 0, 0, 255, none⟩,
   ⟨0x320001, 1, .u16, .rw, 2000, 500, 8000, none⟩,
   ⟨0x320002, 1, .u8, .rw, 40, 10, 90, none⟩,
   ⟨0x320003, 1, .u16, .rw, 256, 16, 4096, none⟩,
   ⟨0x320004, 1, .u16, .rw, 60, 10, 500, none⟩,
   ⟨0x320005, 1, .u16, .rw, 1024, 64, 8192, none⟩,
   ⟨0x320006, 1, .u16, .rw, 500, 50, 5000, none⟩,
   ⟨0x320007, 1, .u8, .rw, 8, 2, 64, none⟩,
   ⟨0x320008, 1, .u16, .rw, 4096, 256, 65535, none⟩,
   ⟨0x320101, 24, .u8, .ro, 1, 0, 5, none⟩,
   ⟨0x320201, 24, .u8, .ro, 0, 0, 200, none⟩,
   ⟨0x320301, 24, .u16, .ro, 0, 0, 65535, none⟩,
   ⟨0x320401, 24, .i16, .ro, 0, (-4096), 4096, none⟩,
   ⟨0x320501, 24, .i16, .ro, 0, (-4096), 4096, none⟩,
   ⟨0x320601, 24, .u32, .ro, 0, 0, 4294967295, none⟩,
   ⟨0x320701, 24, .u32, .ro, 0, 0, 4294967295, none⟩,
   ⟨0x321001, 1, .u8, .rw, 1, 0, 1, none⟩,
   ⟨0x321002, 1, .u8, .rw, 10, 4, 16, none⟩,
   ⟨0x321003, 1, .u16, .rw, 64, 16, 4096, none⟩,
   ⟨0x321004, 1, .u16, .rw, 64, 1, 1024, none⟩,
   ⟨0x321005, 1, .u16, .rw, 600, 10, 65535, none⟩,
   ⟨0x321006, 1, .u8, .wo, 0, 1, 1, none⟩,
   ⟨0x321101, 1, .u8, .rw, 0, 0, 47, none⟩,
   ⟨0x321102, 1, .u8, .rw, 0, 0, 63, none⟩,
   ⟨0x321103, 1, .domain, .ro, 0, 0, 0, none⟩,
   ⟨0x321201, 48, .u32, .ro, 0, 0, 4294967295, none⟩,
   ⟨0x321301, 48, .u32, .ro, 0, 0, 4294967295, none⟩,
   ⟨0x323001, 1, .u8, .rw, 8, 1, 24, none⟩,
   ⟨0x323002, 1, .u8, .rw, 4, 2, 8, none⟩,
   ⟨0x323003, 1, .u16, .rw, 40, 20, 200, none⟩,
   ⟨0x323004, 1, .u8, .rw, 1, 0, 1, none⟩,
   ⟨0x323005, 1, .u8, .rw, 6, 0, 8, none⟩,
   ⟨0x323006, 1, .u16, .rw, 50, 5, 1000, none⟩,
   ⟨0x323007, 1, .u16, .rw, 64, 16, 4096, none⟩,
   ⟨0x323101, 1, .u8, .ro, 64, 0, 64, none⟩,
   ⟨0x323102, 1, .u16, .ro, 0, 0, 1000, none⟩,
   ⟨0x323103, 1, .u32, .ro, 0, 0, 4294967295, none⟩,
   ⟨0x323104, 1, .u32, .ro, 0, 0, 4294967295, none⟩,
   ⟨0x323201, 48, .u16, .ro, 0, 0, 65535, none⟩]

/-- Rows of the object tables, part 6. -/
def objTable6 : List ObjRow :=
  [⟨0x323301, 48, .u32, .ro, 0, 0, 4294967295, none⟩,
   ⟨0x324001, 1, .u8, .const, 6, 0, 255, none⟩,
   ⟨0x324002, 1, .u8, .const, 3, 0, 255, none⟩,
   ⟨0x324003, 1, .u8, .const, 5, 0, 255, none⟩,
   ⟨0x324004, 1, .u8, .rw, 1, 0, 1, none⟩,
   ⟨0x324101, 48, .u32, .ro, 0, 0, 4294967295, none⟩,
   ⟨0x324201, 48, .u32, .ro, 0, 0, 4294967295, none⟩,
   ⟨0x325001, 1, .u8, .rw, 0, 0, 47, none⟩,
   ⟨0x325002, 1, .domain, .ro, 0, 0, 0, none⟩,
   ⟨0x325003, 1, .u8, .wo, 0, 1, 1, none⟩,
   ⟨0x330001, 1, .u8, .rw, 5, 0, 5, none⟩,
   ⟨0x330002, 1, .u8, .rw, 24, 1, 24, none⟩,
   ⟨0x330003, 1, .u8, .rw, 8, 2, 8, none⟩,
   ⟨0x330004, 1, .u8, .const, 5, 0, 255, none⟩,
   ⟨0x330005, 1, .u16, .rw, 20, 1, 500, none⟩,
   ⟨0x330006, 1, .u16, .rw, 500, 50, 10000, none⟩,
   ⟨0x330007, 1, .u16, .rw, 200, 10, 5000, none⟩,
   ⟨0x330008, 1, .u8, .rw, 3, 1, 6, none⟩,
   ⟨0x330009, 1, .u16, .const, 1024, 0, 65535, none⟩,
   ⟨0x330101, 6, .u32, .ro, 0, 0, 4294967295, none⟩,
   ⟨0x330201, 24, .u32, .ro, 0, 0, 4294967295, none⟩,
   ⟨0x330301, 1, .u8, .const, 8, 0, 255, none⟩,
   ⟨0x330302, 1, .u16, .const, 2048, 0, 65535, none⟩,
   ⟨0x330303, 1, .u8, .ro, 0, 0, 8, none⟩,
   ⟨0x330304, 1, .u32, .ro, 0, 0, 4294967295, none⟩,
   ⟨0x330401, 1, .u32, .ro, 0, 0, 4294967295, none⟩,
   ⟨0x340001, 1, .u16, .rw, 900, 500, 1000, none⟩,
   ⟨0x340002, 1, .u16, .rw, 50, 5, 1000, none⟩,
   ⟨0x340003, 1, .u16, .rw, 980, 500, 1000, none⟩,
   ⟨0x340004, 1, .u16, .rw, 500, 50, 10000, none⟩,
   ⟨0x340005, 1, .u8, .rw, 1, 1, 10, none⟩,
   ⟨0x340006, 1, .u16, .rw, 32, 1, 1024, none⟩,
   ⟨0x340007, 1, .u8, .rw, 1, 0, 1, none⟩,
   ⟨0x340101, 24, .u16, .ro, 0, 0, 65535, none⟩,
   ⟨0x340201, 24, .u16, .ro, 0, 0, 65535, none⟩,
   ⟨0x340301, 24, .u32, .ro, 0, 0, 4294967295, none⟩,
   ⟨0x340401, 24, .u32, .ro, 0, 0, 4294967295, none⟩,
   ⟨0x341001, 1, .u32, .ro, 0, 0, 4294967295, none⟩,
   ⟨0x380001, 1, .u8, .rw, 8, 2, 20, none⟩,
   ⟨0x380002, 1, .u8, .rw, 15, 2, 40, none⟩]

/-- Rows of the object tables, part 7. -/
def objTable7 : List ObjRow :=
  [⟨0x380003, 1, .u8, .rw, 8, 1, 32, none⟩,
   ⟨0x380004, 1, .u16, .rw, 200, 50, 5000, none⟩,
   ⟨0x380101, 24, .u32, .ro, 0, 0, 4294967295, none⟩,
   ⟨0x380201, 24, .u32, .ro, 0, 0, 4294967295, none⟩,
   ⟨0x380301, 1, .u32, .ro, 0, 0, 4294967295, none⟩,
   ⟨0x381001, 4, .u8, .rw, 0, 0, 1, none⟩,
   ⟨0x381005, 1, .u8, .rw, 6, 1, 24, none⟩,
   ⟨0x381006, 1, .u8, .rw, 2, 0, 8, none⟩,
   ⟨0x381101, 24, .u32, .ro, 0, 0, 4294967295, none⟩,
   ⟨0x382001, 1, .u16, .rw, 30, 1, 3600, none⟩,
   ⟨0x382002, 1, .u16, .rw, 512, 16, 1024, none⟩,
   ⟨0x382003, 1, .u8, .rw, 1, 0, 1, none⟩,
   ⟨0x382004, 1, .u16, .ro, 0, 0, 65535, none⟩,
   ⟨0x382005, 1, .u64, .ro, 0, 0, 18446744073709551615, none⟩,
   ⟨0x382006, 1, .u32, .ro, 0, 0, 4294967295, none⟩,
   ⟨0x382007, 1, .u16, .const, 1792, 0, 65535, none⟩,
   ⟨0x400001, 1, .u8, .rw, 12, 2, 30, none⟩,
   ⟨0x400002, 1, .u8, .rw, 6, 1, 20, none⟩,
   ⟨0x400003, 1, .u16, .rw, 24, 4, 480, none⟩,
   ⟨0x400004, 1, .u8, .rw, 30, 10, 80, none⟩,
   ⟨0x400005, 1, .u8, .rw, 90, 50, 100, none⟩,
   ⟨0x400006, 1, .u8, .rw, 8, 2, 64, none⟩,
   ⟨0x400007, 1, .u16, .rw, 2000, 100, 10000, none⟩,
   ⟨0x400008, 1, .u8, .rw, 80, 50, 99, none⟩,
   ⟨0x400101, 24, .u8, .ro, 1, 0, 9, none⟩,
   ⟨0x400201, 24, .i16, .ro, 0, (-32768), 32767, none⟩,
   ⟨0x400301, 24, .u16, .ro, 0, 0, 65535, none⟩,
   ⟨0x400401, 24, .u32, .ro, 0, 0, 4294967295, none⟩,
   ⟨0x400501, 24, .i16, .ro, 0, (-32768), 32767, none⟩,
   ⟨0x400601, 24, .u16, .ro, 0, 0, 65535, none⟩,
   ⟨0x400701, 4, .u32, .ro, 0, 0, 4294967295, none⟩,
   ⟨0x400801, 4, .u32, .ro, 0, 0, 4294967295, none⟩,
   ⟨0x400901, 24, .u32, .ro, 0, 0, 4294967295, none⟩,
   ⟨0x401001, 1, .u8, .rw, 2, 0, 10, none⟩,
   ⟨0x401002, 1, .u8, .rw, 8, 1, 64, none⟩,
   ⟨0x401003, 1, .u8, .rw, 1, 0, 1, none⟩,
   ⟨0x401004, 1, .u8, .rw, 1, 0, 1, none⟩,
   ⟨0x401005, 1, .u8, .rw, 1, 0, 1, none⟩,
   ⟨0x401006, 1, .u8, .rw, 16, 4, 64, none⟩,
   ⟨0x401007, 1, .u8, .rw, 64, 1, 255, none⟩]

/-- Rows of the object tables, part 8. -/
def objTable8 : List ObjRow :=
  [⟨0x401008, 1, .u16, .rw, 600, 60, 65535, none⟩,
   ⟨0x401009, 1, .u8, .rw, 15, 1, 40, none⟩,
   ⟨0x40100A, 1, .u8, .rw, 25, 5, 50, none⟩,
   ⟨0x40100B, 1, .u8, .rw, 8, 1, 20, none⟩,
   ⟨0x40100C, 1, .u16, .rw, 3600, 60, 65535, none⟩,
   ⟨0x40100D, 1, .u16, .rw, 150, 0, 500, none⟩,
   ⟨0x40100E, 1, .u8, .rw, 32, 8, 255, none⟩,
   ⟨0x401101, 24, .u16, .ro, 0, 0, 65535, none⟩,
   ⟨0x401201, 24, .u32, .ro, 0, 0, 4294967295, none⟩,
   ⟨0x401301, 24, .i16, .ro, 0, (-32768), 32767, none⟩,
   ⟨0x401401, 24, .u16, .ro, 0, 0, 65535, none⟩,
   ⟨0x401501, 24, .u32, .ro, 0, 0, 4294967295, none⟩,
   ⟨0x402001, 1, .u8, .rw, 255, 0, 255, none⟩,
   ⟨0x402002, 1, .u16, .rw, 150, 10, 10000, none⟩,
   ⟨0x402003, 1, .u16, .rw, 2000, 100, 50000, none⟩,
   ⟨0x402004, 1, .u16, .rw, 4000, 500, 20000, none⟩,
   ⟨0x402005, 1, .u16, .rw, 200, 20, 5000, none⟩,
   ⟨0x402006, 1, .u8, .rw, 1, 0, 1, none⟩,
   ⟨0x402007, 1, .u16, .rw, 6400, 200, 20000, none⟩,
   ⟨0x402008, 1, .u16, .rw, 6400, 200, 20000, none⟩,
   ⟨0x402101, 2, .u8, .ro, 0, 0, 255, none⟩,
   ⟨0x402201, 1, .u32, .ro, 0, 0, 4294967295, none⟩,
   ⟨0x402202, 1, .u32, .ro, 0, 0, 4294967295, none⟩,
   ⟨0x403001, 1, .u8, .rw, 40, 10, 100, none⟩,
   ⟨0x403002, 1, .u16, .rw, 60, 10, 500, none⟩,
   ⟨0x403003, 1, .u16, .rw, 0, 0, 5000, none⟩,
   ⟨0x403004, 1, .u8, .rw, 98, 90, 100, none⟩,
   ⟨0x403005, 1, .u8, .rw, 85, 60, 95, none⟩,
   ⟨0x403006, 1, .u16, .rw, 150, 20, 500, none⟩,
   ⟨0x403007, 1, .u16, .rw, 200, 20, 500, none⟩,
   ⟨0x403008, 1, .u16, .rw, 50, 10, 500, none⟩,
   ⟨0x403101, 4, .u32, .ro, 0, 0, 4294967295, none⟩,
   ⟨0x403201, 4, .u32, .ro, 0, 0, 4294967295, none⟩,
   ⟨0x404001, 1, .u16, .rw, 192, 64, 384, none⟩,
   ⟨0x404002, 1, .u8, .rw, 2, 1, 64, none⟩,
   ⟨0x404101, 24, .u8, .ro, 255, 0, 23, none⟩,
   ⟨0x404201, 24, .i16, .ro, 0, (-32768), 32767, none⟩,
   ⟨0x404301, 24, .u32, .ro, 0, 0, 4294967295, none⟩,
   ⟨0x406001, 1, .u8, .rwk, 0, 0, 35, (some 2)⟩,
   ⟨0x406101, 1, .u8, .ro, 0, 0, 3, none⟩]

/-- Rows of the object tables, part 9. -/
def objTable9 : List ObjRow :=
  [⟨0x406102, 1, .u32, .ro, 0, 0, 4294967295, none⟩,
   ⟨0x406103, 1, .u8, .ro, 0, 0, 255, none⟩,
   ⟨0x406104, 1, .i16, .ro, 0, (-32768), 32767, none⟩,
   ⟨0x406105, 1, .u32, .ro, 0, 0, 4294967295, none⟩,
   ⟨0x406106, 1, .u8, .ro, 0, 0, 255, none⟩,
   ⟨0x406107, 1, .u8, .ro, 0, 0, 255, none⟩,
   ⟨0x410001, 1, .u8, .ro, 0, 0, 255, none⟩,
   ⟨0x410002, 1, .u8, .ro, 0, 0, 1, none⟩,
   ⟨0x410003, 1, .u32, .ro, 0, 0, 4294967295, none⟩,
   ⟨0x410004, 1, .u32, .ro, 0, 0, 4294967295, none⟩,
   ⟨0x410005, 1, .u16, .rwk, 1024, 64, 16384, (some 2)⟩,
   ⟨0x410006, 1, .u16, .const, 1260, 0, 65535, none⟩,
   ⟨0x410007, 1, .u8, .rwk, 20, 5, 50, (some 2)⟩,
   ⟨0x410008, 1, .u8, .rwk, 0, 1, 1, (some 2)⟩,
   ⟨0x410101, 37, .u8, .ro, 1, 0, 255, none⟩,
   ⟨0x410201, 37, .u8, .ro, 0, 0, 1, none⟩,
   ⟨0x410301, 37, .u8, .ro, 0, 0, 255, none⟩,
   ⟨0x410401, 37, .u32, .ro, 0, 0, 4294967295, none⟩,
   ⟨0x410501, 37, .u32, .ro, 0, 0, 4294967295, none⟩,
   ⟨0x410601, 37, .i16, .ro, 32767, (-32768), 32767, none⟩,
   ⟨0x410701, 37, .u16, .ro, 0, 0, 65535, none⟩,
   ⟨0x410801, 37, .u32, .ro, 0, 0, 4294967295, none⟩,
   ⟨0x410901, 37, .u8, .rwk, 0, 0, 16, (some 2)⟩,
   ⟨0x410A01, 37, .u8, .ro, 0, 0, 255, none⟩,
   ⟨0x411001, 1, .u8, .rwk, 0, 0, 36, (some 2)⟩,
   ⟨0x411002, 1, .u8, .rwk, 0, 0, 1, (some 2)⟩,
   ⟨0x411003, 1, .u8, .rwk, 0, 1, 1, (some 2)⟩,
   ⟨0x411004, 1, .u8, .rwk, 0, 0, 255, (some 2)⟩,
   ⟨0x411005, 1, .i32, .rwk, 0, (-2147483648), 2147483647, (some 2)⟩,
   ⟨0x411006, 1, .u8, .rwk, 0, 1, 1, (some 2)⟩,
   ⟨0x411007, 1, .domain, .rwk, 0, 1032, 1032, (some 2)⟩,
   ⟨0x411008, 1, .domain, .ro, 0, 0, 0, none⟩,
   ⟨0x411009, 1, .u64, .rwk, 0, 0, 18446744073709551615, (some 2)⟩,
   ⟨0x41100A, 1, .u8, .rwk, 0, 1, 16, (some 2)⟩,
   ⟨0x411101, 1, .u8, .ro, 0, 0, 3, none⟩,
   ⟨0x411102, 1, .u32, .ro, 0, 0, 4294967295, none⟩,
   ⟨0x411103, 1, .u8, .ro, 0, 0, 255, none⟩,
   ⟨0x411104, 1, .u64, .ro, 0, 0, 18446744073709551615, none⟩,
   ⟨0x411105, 1, .u8, .ro, 0, 0, 255, none⟩,
   ⟨0x411106, 1, .u8, .ro, 0, 0, 255, none⟩]

/-- Rows of the object tables, part 10. -/
def objTable10 : List ObjRow :=
  [⟨0x411107, 1, .u8, .ro, 0, 0, 255, none⟩,
   ⟨0x418001, 1, .u8, .ro, 0, 0, 3, none⟩,
   ⟨0x418002, 1, .u8, .rwk, 0, 1, 3, (some 2)⟩,
   ⟨0x418003, 1, .u16, .rwk, 8192, 0, 65535, (some 2)⟩,
   ⟨0x418004, 1, .u8, .rwk, 0, 0, 12, (some 2)⟩,
   ⟨0x418005, 1, .u8, .rwk, 0, 0, 3, (some 2)⟩,
   ⟨0x418006, 1, .i32, .rwk, 0, (-2147483648), 2147483647, (some 2)⟩,
   ⟨0x418007, 1, .u8, .rwk, 255, 0, 255, (some 2)⟩,
   ⟨0x418008, 1, .u8, .ro, 0, 0, 255, none⟩,
   ⟨0x418009, 1, .u64, .ro, 0, 0, 18446744073709551615, none⟩,
   ⟨0x418101, 8, .u16, .rwk, 0, 0, 9279, (some 2)⟩,
   ⟨0x418201, 8, .u8, .rwk, 0, 0, 10, (some 2)⟩,
   ⟨0x418301, 1, .u8, .rw, 0, 0, 7, none⟩,
   ⟨0x418302, 1, .domain, .ro, 0, 0, 0, none⟩,
   ⟨0x480001, 1, .u8, .ro, 0, 0, 13, none⟩,
   ⟨0x480002, 1, .u16, .ro, 0, 0, 65535, none⟩,
   ⟨0x480003, 1, .u8, .ro, 0, 0, 4, none⟩,
   ⟨0x480004, 1, .u8, .ro, 0, 0, 255, none⟩,
   ⟨0x480005, 1, .u8, .wo, 0, 1, 1, none⟩,
   ⟨0x481001, 1, .u16, .rw, 7200, 5400, 10000, none⟩,
   ⟨0x481002, 1, .u8, .rw, 4, 1, 12, none⟩,
   ⟨0x481003, 1, .u8, .rw, 40, 20, 80, none⟩,
   ⟨0x481004, 1, .u16, .rw, 100, 20, 1000, none⟩,
   ⟨0x481005, 1, .u16, .rw, 4000, 500, 20000, none⟩,
   ⟨0x481006, 1, .u16, .rw, 6000, 500, 30000, none⟩,
   ⟨0x481007, 1, .u16, .rw, 100, 10, 2000, none⟩,
   ⟨0x481008, 1, .u16, .rw, 12000, 5000, 14000, none⟩,
   ⟨0x481009, 1, .u8, .rw, 60, 30, 95, none⟩,
   ⟨0x48100A, 1, .u8, .rw, 1, 0, 1, none⟩,
   ⟨0x48100B, 1, .u16, .ro, 0, 0, 65535, none⟩,
   ⟨0x48100C, 1, .domain, .ro, 0, 0, 0, none⟩,
   ⟨0x482001, 1, .u16, .rw, 250, 10, 1000, none⟩,
   ⟨0x482002, 1, .u16, .rw, 5000, 1000, 10000, none⟩,
   ⟨0x482003, 1, .u8, .rw, 10, 2, 30, none⟩,
   ⟨0x482004, 1, .u8, .rw, 5, 1, 50, none⟩,
   ⟨0x482005, 1, .u8, .rw, 8, 2, 20, none⟩,
   ⟨0x482006, 1, .u8, .rw, 15, 4, 30, none⟩,
   ⟨0x482007, 1, .u8, .rw, 6, 3, 48, none⟩,
   ⟨0x482008, 1, .u8, .rw, 3, 1, 8, none⟩,
   ⟨0x482009, 1, .u8, .rw, 4, 2, 32, none⟩]

/-- Rows of the object tables, part 11. -/
def objTable11 : List ObjRow :=
  [⟨0x48200A, 1, .u16, .rw, 2000, 100, 60000, none⟩,
   ⟨0x48200B, 1, .u8, .rw, 20, 5, 60, none⟩,
   ⟨0x483001, 1, .u8, .rw, 10, 2, 25, none⟩,
   ⟨0x483002, 1, .u8, .rw, 0, 0, 15, none⟩,
   ⟨0x483003, 1, .u8, .rw, 5, 1, 20, none⟩,
   ⟨0x483004, 1, .u8, .rw, 15, 5, 30, none⟩,
   ⟨0x483005, 1, .u8, .rw, 3, 1, 12, none⟩,
   ⟨0x483006, 1, .u16, .rw, 1200, 500, 5000, none⟩,
   ⟨0x483007, 1, .domain, .rw, 0, 2048, 2048, none⟩,
   ⟨0x483008, 1, .u8, .wo, 0, 1, 1, none⟩,
   ⟨0x483009, 1, .u32, .ro, 0, 0, 4294967295, none⟩,
   ⟨0x48300A, 1, .u32, .ro, 0, 0, 4294967295, none⟩,
   ⟨0x484001, 1, .u8, .const, 24, 24, 24, none⟩,
   ⟨0x484002, 1, .u8, .rw, 8, 4, 20, none⟩,
   ⟨0x484003, 1, .u8, .rw, 6, 3, 24, none⟩,
   ⟨0x484004, 1, .u16, .rw, 60, 5, 300, none⟩,
   ⟨0x484005, 1, .u32, .ro, 0, 0, 4294967295, none⟩,
   ⟨0x484006, 1, .u32, .ro, 0, 0, 4294967295, none⟩,
   ⟨0x485001, 1, .u8, .const, 8, 0, 255, none⟩,
   ⟨0x485002, 1, .u8, .const, 15, 0, 255, none⟩,
   ⟨0x485003, 1, .u8, .rw, 4, 1, 7, none⟩,
   ⟨0x485004, 1, .u8, .rw, 2, 0, 6, none⟩,
   ⟨0x485005, 1, .u8, .const, 50, 0, 255, none⟩,
   ⟨0x485006, 1, .u16, .rw, 200, 50, 5000, none⟩,
   ⟨0x485007, 1, .u16, .rw, 3000, 100, 20000, none⟩,
   ⟨0x485008, 1, .u8, .rw, 2, 1, 10, none⟩,
   ⟨0x485009, 1, .u8, .ro, 0, 0, 255, none⟩,
   ⟨0x48500A, 1, .u8, .ro, 0, 0, 255, none⟩,
   ⟨0x48500B, 1, .u32, .ro, 0, 0, 4294967295, none⟩,
   ⟨0x486001, 1, .u32, .rw, 0, 0, 1000000, none⟩,
   ⟨0x486002, 1, .u16, .rw, 6000, 3000, 12000, none⟩,
   ⟨0x486003, 1, .u16, .ro, 0, 0, 65535, none⟩,
   ⟨0x486004, 1, .u32, .ro, 0, 0, 4294967295, none⟩,
   ⟨0x486005, 1, .u32, .ro, 0, 0, 4294967295, none⟩,
   ⟨0x486006, 1, .i32, .ro, (-2147483648), (-2147483648), 2147483647, none⟩,
   ⟨0x486007, 1, .u16, .rw, 10800, 6000, 13000, none⟩,
   ⟨0x486008, 1, .u16, .rw, 20, 5, 500, none⟩,
   ⟨0x486009, 1, .u16, .rw, 300, 10, 5000, none⟩,
   ⟨0x48600A, 1, .u16, .rw, 400, 10, 10000, none⟩,
   ⟨0x48600B, 1, .u32, .ro, 0, 0, 4294967295, none⟩]

/-- Rows of the object tables, part 12. -/
def objTable12 : List ObjRow :=
  [⟨0x487001, 1, .u8, .rw, 1, 0, 1, none⟩,
   ⟨0x487002, 1, .u16, .rw, 20, 1, 600, none⟩,
   ⟨0x487003, 1, .u8, .ro, 0, 0, 255, none⟩,
   ⟨0x487004, 1, .u8, .wo, 0, 1, 1, none⟩,
   ⟨0x487005, 1, .u16, .const, 250, 0, 65535, none⟩,
   ⟨0x500001, 2, .u8, .ro, 0, 0, 255, none⟩,
   ⟨0x500101, 2, .u8, .ro, 0, 0, 255, none⟩,
   ⟨0x500201, 1, .visible, .rw, 0, 0, 20, none⟩,
   ⟨0x500202, 1, .visible, .rw, 0, 0, 40, none⟩,
   ⟨0x500203, 1, .u16, .rw, 0, 0, 65535, none⟩,
   ⟨0x500204, 1, .u16, .rw, 0, 0, 65535, none⟩,
   ⟨0x500205, 1, .u32, .rw, 0, 0, 16777215, none⟩,
   ⟨0x500206, 1, .visible, .rw, 0, 0, 64, none⟩,
   ⟨0x500301, 2, .u8, .ro, 0, 0, 255, none⟩,
   ⟨0x500401, 2, .u8, .ro, 0, 0, 255, none⟩,
   ⟨0x500501, 4, .u32, .ro, 0, 0, 4294967295, none⟩,
   ⟨0x501001, 1, .u8, .rw, 0, 0, 1, none⟩,
   ⟨0x501002, 1, .u8, .wo, 0, 1, 1, none⟩,
   ⟨0x501003, 1, .u32, .const, 196608, 0, 4294967295, none⟩,
   ⟨0x501004, 1, .u8, .const, 16, 0, 255, none⟩,
   ⟨0x501005, 1, .u16, .const, 12288, 0, 65535, none⟩,
   ⟨0x501006, 1, .u8, .ro, 0, 0, 255, none⟩,
   ⟨0x501101, 1, .u8, .ro, 0, 0, 3, none⟩,
   ⟨0x501102, 1, .u32, .ro, 0, 0, 4294967295, none⟩,
   ⟨0x501103, 1, .u32, .ro, 0, 0, 4294967295, none⟩,
   ⟨0x501104, 1, .u32, .ro, 0, 0, 4294967295, none⟩,
   ⟨0x501105, 1, .u64, .ro, 0, 0, 18446744073709551615, none⟩,
   ⟨0x501106, 1, .u8, .ro, 0, 0, 255, none⟩,
   ⟨0x501201, 1, .u64, .ro, 0, 0, 18446744073709551615, none⟩,
   ⟨0x501202, 1, .u64, .ro, 0, 0, 18446744073709551615, none⟩,
   ⟨0x501203, 1, .u32, .ro, 0, 0, 4294967295, none⟩,
   ⟨0x501204, 1, .u32, .ro, 0, 0, 4294967295, none⟩,
   ⟨0x501205, 1, .u32, .ro, 0, 0, 196608, none⟩,
   ⟨0x501206, 1, .u32, .ro, 0, 0, 196608, none⟩,
   ⟨0x501301, 1, .u8, .rw, 1, 0, 1, none⟩,
   ⟨0x501302, 1, .u16, .rw, 16, 1, 256, none⟩,
   ⟨0x501303, 1, .u8, .const, 64, 0, 255, none⟩,
   ⟨0x501304, 1, .u8, .rw, 2, 1, 16, none⟩,
   ⟨0x501305, 1, .u8, .rw, 32, 1, 96, none⟩,
   ⟨0x501306, 1, .u32, .ro, 0, 0, 4294967295, none⟩]

/-- Rows of the object tables, part 13. -/
def objTable13 : List ObjRow :=
  [⟨0x501307, 1, .u32, .ro, 0, 0, 4294967295, none⟩,
   ⟨0x501308, 1, .u32, .ro, 0, 0, 4294967295, none⟩,
   ⟨0x501309, 1, .u16, .ro, 0, 0, 32768, none⟩,
   ⟨0x501401, 1, .u16, .rw, 100, 0, 2000, none⟩,
   ⟨0x501402, 1, .u16, .const, 4096, 0, 65535, none⟩,
   ⟨0x501403, 1, .u16, .ro, 0, 0, 4096, none⟩,
   ⟨0x501404, 1, .u32, .ro, 0, 0, 4294967295, none⟩,
   ⟨0x501405, 1, .u32, .ro, 0, 0, 4294967295, none⟩,
   ⟨0x510001, 1, .u16, .const, 40960, 0, 65535, none⟩,
   ⟨0x510002, 1, .u16, .const, 4096, 0, 65535, none⟩,
   ⟨0x510003, 2, .u16, .ro, 0, 0, 65535, none⟩,
   ⟨0x510005, 1, .u16, .ro, 0, 0, 65535, none⟩,
   ⟨0x510006, 1, .u32, .ro, 0, 0, 4294967295, none⟩,
   ⟨0x510101, 1, .u16, .const, 4096, 0, 65535, none⟩,
   ⟨0x510102, 1, .u16, .const, 4032, 0, 65535, none⟩,
   ⟨0x510103, 1, .u16, .ro, 0, 0, 4096, none⟩,
   ⟨0x510104, 1, .u32, .ro, 0, 0, 4294967295, none⟩,
   ⟨0x510105, 1, .u32, .ro, 0, 0, 4294967295, none⟩,
   ⟨0x510201, 4, .u8, .ro, 0, 0, 192, none⟩,
   ⟨0x510205, 1, .u16, .rw, 500, 50, 5000, none⟩,
   ⟨0x510301, 1, .u16, .rw, 30, 1, 600, none⟩,
   ⟨0x511001, 4, .u32, .ro, 0, 0, 4294967295, none⟩,
   ⟨0x511101, 4, .u32, .ro, 0, 0, 4294967295, none⟩,
   ⟨0x511201, 4, .u64, .ro, 0, 0, 18446744073709551615, none⟩,
   ⟨0x511301, 1, .u8, .rw, 25, 5, 75, none⟩,
   ⟨0x511302, 1, .u8, .const, 2, 0, 255, none⟩,
   ⟨0x511303, 1, .u8, .const, 64, 0, 255, none⟩,
   ⟨0x511401, 1, .u32, .ro, 0, 0, 4294967295, none⟩,
   ⟨0x511402, 1, .u32, .ro, 0, 0, 4294967295, none⟩,
   ⟨0x511403, 1, .u32, .ro, 0, 0, 4294967295, none⟩,
   ⟨0x511404, 1, .u32, .ro, 0, 0, 4294967295, none⟩,
   ⟨0x512001, 1, .u32, .ro, 0, 0, 4294967295, none⟩,
   ⟨0x512002, 1, .u32, .ro, 0, 0, 4294967295, none⟩,
   ⟨0x512101, 1, .u16, .const, 200, 0, 65535, none⟩,
   ⟨0x512102, 1, .u16, .const, 2000, 0, 65535, none⟩,
   ⟨0x512201, 1, .u16, .ro, 0, 0, 65535, none⟩,
   ⟨0x580001, 1, .i16, .ro, 0, (-32768), 32767, none⟩,
   ⟨0x580002, 1, .u16, .ro, 0, 0, 65535, none⟩,
   ⟨0x580003, 1, .u8, .rw, 100, 90, 105, none⟩,
   ⟨0x581001, 1, .u8, .ro, 1, 1, 4, none⟩]

/-- Rows of the object tables, part 14. -/
def objTable14 : List ObjRow :=
  [⟨0x581002, 1, .u8, .rw, 0, 0, 4, none⟩,
   ⟨0x581003, 1, .u16, .rw, 10, 1, 3600, none⟩,
   ⟨0x581004, 1, .u16, .rw, 1000, 200, 10000, none⟩,
   ⟨0x581005, 1, .u32, .rw, 0, 0, 4294967295, none⟩,
   ⟨0x581006, 1, .u8, .rw, 30, 10, 120, none⟩,
   ⟨0x581101, 1, .u8, .ro, 0, 0, 255, none⟩,
   ⟨0x581102, 1, .u8, .ro, 0, 2, 4, none⟩,
   ⟨0x581103, 1, .u8, .ro, 0, 0, 255, none⟩,
   ⟨0x581104, 1, .u8, .ro, 0, 1, 8, none⟩,
   ⟨0x581105, 1, .u8, .ro, 0, 0, 255, none⟩,
   ⟨0x581106, 1, .u8, .ro, 0, 0, 255, none⟩,
   ⟨0x581107, 1, .u64, .ro, 0, 0, 18446744073709551615, none⟩,
   ⟨0x581108, 1, .u32, .ro, 0, 0, 4294967295, none⟩,
   ⟨0x581109, 1, .u32, .ro, 0, 0, 4294967295, none⟩,
   ⟨0x582001, 1, .u8, .ro, 4, 0, 5, none⟩,
   ⟨0x582002, 1, .u8, .rw, 4, 0, 5, none⟩,
   ⟨0x582003, 1, .u8, .ro, 5, 0, 5, none⟩,
   ⟨0x582004, 1, .u8, .ro, 5, 1, 5, none⟩,
   ⟨0x582005, 1, .u8, .ro, 0, 0, 48, none⟩,
   ⟨0x582006, 1, .u8, .ro, 0, 0, 48, none⟩,
   ⟨0x582007, 1, .u16, .ro, 0, 0, 65535, none⟩,
   ⟨0x582008, 1, .u16, .const, 1392, 0, 65535, none⟩,
   ⟨0x582009, 1, .u32, .ro, 0, 0, 4294967295, none⟩,
   ⟨0x582101, 6, .u16, .const, 0, 0, 65535, none⟩,
   ⟨0x582201, 6, .u8, .ro, 0, 0, 60, none⟩,
   ⟨0x582301, 6, .u16, .const, 0, 0, 65535, none⟩,
   ⟨0x582401, 6, .u64, .ro, 0, 0, 18446744073709551615, none⟩,
   ⟨0x583001, 1, .u8, .ro, 0, 0, 255, none⟩,
   ⟨0x583002, 1, .u32, .ro, 0, 0, 4294967295, none⟩,
   ⟨0x583003, 1, .u16, .rw, 100, 10, 2000, none⟩,
   ⟨0x583004, 1, .u16, .rw, 10, 1, 1000, none⟩,
   ⟨0x583005, 1, .u8, .rw, 3, 1, 16, none⟩,
   ⟨0x583006, 1, .u8, .wo, 0, 1, 1, none⟩,
   ⟨0x583007, 1, .u16, .const, 200, 0, 65535, none⟩,
   ⟨0x584001, 1, .u16, .rw, 300, 10, 2000, none⟩,
   ⟨0x584002, 1, .u16, .rw, 40, 1, 500, none⟩,
   ⟨0x584003, 1, .u16, .rw, 2, 0, 100, none⟩,
   ⟨0x584004, 1, .u16, .rw, 15, 0, 200, none⟩,
   ⟨0x584005, 1, .u16, .ro, 0, 0, 65535, none⟩,
   ⟨0x584006, 1, .u8, .ro, 0, 0, 255, none⟩]

/-- Rows of the object tables, part 15. -/
def objTable15 : List ObjRow :=
  [⟨0x584007, 1, .u32, .ro, 0, 0, 4294967295, none⟩,
   ⟨0x585001, 9, .u32, .ro, 0, 0, 4294967295, none⟩,
   ⟨0x585801, 1, .u16, .rw, 24, 1, 168, none⟩,
   ⟨0x585802, 1, .u8, .const, 5, 0, 255, none⟩,
   ⟨0x585803, 1, .u8, .const, 60, 0, 255, none⟩,
   ⟨0x585804, 1, .u8, .const, 64, 0, 255, none⟩,
   ⟨0x585805, 1, .u32, .ro, 0, 0, 4294967295, none⟩,
   ⟨0x586001, 1, .u8, .rw, 0, 0, 23, none⟩,
   ⟨0x586002, 1, .u8, .rw, 0, 0, 63, none⟩,
   ⟨0x586003, 1, .domain, .ro, 0, 0, 0, none⟩,
   ⟨0x586004, 1, .u16, .rw, 500, 1, 65535, none⟩,
   ⟨0x5C0001, 4, .u8, .rw, 0, 0, 63, none⟩,
   ⟨0x5C0101, 1, .u16, .rw, 100, 10, 10000, none⟩,
   ⟨0x5C0102, 1, .u8, .ro, 0, 0, 255, none⟩,
   ⟨0x5C0103, 1, .u8, .wo, 0, 1, 1, none⟩,
   ⟨0x5C0104, 1, .u32, .ro, 0, 0, 4294967295, none⟩,
   ⟨0x5C0201, 1, .u16, .wo, 0, 0, 65535, none⟩,
   ⟨0x5C0202, 1, .u16, .ro, 0, 0, 384, none⟩,
   ⟨0x5C0203, 1, .u32, .ro, 0, 0, 4294967295, none⟩,
   ⟨0x5C0301, 1, .u8, .rw, 3, 0, 16, none⟩,
   ⟨0x5C0302, 1, .u32, .ro, 0, 0, 4294967295, none⟩,
   ⟨0x5C0303, 1, .u32, .ro, 0, 0, 4294967295, none⟩,
   ⟨0x5C1001, 192, .u8, .rw, 2, 0, 3, none⟩,
   ⟨0x5C1101, 192, .u8, .rw, 2, 0, 3, none⟩,
   ⟨0x5C1201, 192, .u8, .ro, 1, 0, 255, none⟩,
   ⟨0x5C1301, 192, .u8, .ro, 1, 0, 255, none⟩,
   ⟨0x5C1401, 192, .u32, .ro, 0, 0, 4294967295, none⟩,
   ⟨0x5C1501, 192, .u32, .ro, 0, 0, 4294967295, none⟩,
   ⟨0x5C2001, 1, .u16, .ro, 0, 0, 16383, none⟩,
   ⟨0x5C2002, 1, .u64, .ro, 1, 0, 18446744073709551615, none⟩,
   ⟨0x5C2003, 1, .u64, .rwk, 0, 0, 18446744073709551615, (some 3)⟩,
   ⟨0x5C2004, 1, .u64, .ro, 0, 0, 18446744073709551615, none⟩,
   ⟨0x5C2101, 1, .domain, .ro, 0, 0, 0, none⟩,
   ⟨0x5C2102, 1, .domain, .wo, 0, 5550, 5550, none⟩,
   ⟨0x5C2103, 1, .u16, .ro, 0, 0, 65535, none⟩,
   ⟨0x5C2201, 1, .u64, .rw, 1, 0, 18446744073709551615, none⟩,
   ⟨0x5C2202, 1, .domain, .ro, 0, 0, 0, none⟩,
   ⟨0x5C2203, 1, .domain, .ro, 0, 0, 0, none⟩,
   ⟨0x5C3001, 1, .u64, .ro, 18446744073709551615, 0, 18446744073709551615, none⟩,
   ⟨0x5C3002, 1, .u64, .wo, 0, 0, 18446744073709551615, none⟩]

/-- Rows of the object tables, part 16. -/
def objTable16 : List ObjRow :=
  [⟨0x5C3003, 1, .u16, .rw, 10, 0, 60000, none⟩,
   ⟨0x5C3004, 1, .u32, .ro, 0, 0, 4294967295, none⟩,
   ⟨0x5C4001, 1, .u16, .rw, 1, 1, 65535, none⟩,
   ⟨0x5C4002, 1, .domain, .rw, 0, 204, 204, none⟩,
   ⟨0x5D0001, 1, .u64, .ro, 0, 0, 18446744073709551615, none⟩,
   ⟨0x5D0002, 1, .u64, .ro, 0, 0, 18446744073709551615, none⟩,
   ⟨0x5D0003, 1, .u32, .ro, 0, 0, 4294967295, none⟩,
   ⟨0x5D0004, 1, .u16, .ro, 0, 0, 512, none⟩,
   ⟨0x5D0005, 1, .u32, .ro, 0, 0, 4294967295, none⟩,
   ⟨0x5D0006, 1, .u16, .rw, 60, 10, 3600, none⟩,
   ⟨0x5D0007, 1, .u8, .rw, 16, 1, 255, none⟩,
   ⟨0x5D0008, 1, .u8, .ro, 0, 0, 255, none⟩,
   ⟨0x5D0009, 1, .u32, .const, 100000, 0, 4294967295, none⟩,
   ⟨0x5D0101, 1, .u64, .rw, 0, 0, 18446744073709551615, none⟩,
   ⟨0x5D0102, 1, .u8, .rw, 1, 0, 1, none⟩,
   ⟨0x5D0103, 1, .domain, .ro, 0, 0, 0, none⟩,
   ⟨0x600001, 1, .u32, .rwk, 0, 0, 7864319, (some 1)⟩,
   ⟨0x600002, 1, .domain, .rwk, 0, 1, 4096, (some 1)⟩,
   ⟨0x600003, 1, .u32, .ro, 0, 0, 4294967295, none⟩,
   ⟨0x600004, 1, .u8, .rwk, 0, 1, 1, (some 1)⟩,
   ⟨0x600005, 1, .u32, .const, 7864320, 0, 4294967295, none⟩,
   ⟨0x600101, 1, .u8, .ro, 0, 0, 3, none⟩,
   ⟨0x600102, 1, .u32, .ro, 0, 0, 4294967295, none⟩,
   ⟨0x600103, 1, .u8, .ro, 0, 0, 255, none⟩,
   ⟨0x600104, 1, .visible, .ro, 0, 0, 0, none⟩,
   ⟨0x600105, 1, .u8, .ro, 0, 0, 255, none⟩,
   ⟨0x601001, 1, .u8, .ro, 0, 0, 255, none⟩,
   ⟨0x601002, 1, .u8, .rwk, 0, 1, 3, (some 1)⟩,
   ⟨0x601003, 1, .u64, .rwk, 0, 0, 18446744073709551615, (some 1)⟩,
   ⟨0x601004, 1, .u8, .rwk, 3, 3, 60, (some 1)⟩,
   ⟨0x601005, 1, .u64, .ro, 0, 0, 18446744073709551615, none⟩,
   ⟨0x601006, 1, .u8, .ro, 0, 1, 2, none⟩,
   ⟨0x601007, 1, .visible, .ro, 0, 0, 0, none⟩,
   ⟨0x601008, 1, .u32, .ro, 0, 0, 4294967295, none⟩,
   ⟨0x601009, 1, .u8, .const, 2, 0, 255, none⟩,
   ⟨0x601101, 6, .u16, .ro, 0, 0, 65535, none⟩,
   ⟨0x601201, 1, .u8, .ro, 0, 0, 3, none⟩,
   ⟨0x601202, 1, .u32, .ro, 0, 0, 4294967295, none⟩,
   ⟨0x601203, 1, .u8, .ro, 0, 0, 255, none⟩,
   ⟨0x601204, 1, .u8, .ro, 0, 0, 255, none⟩]

/-- Rows of the object tables, part 17. -/
def objTable17 : List ObjRow :=
  [⟨0x601205, 1, .u64, .ro, 0, 0, 18446744073709551615, none⟩,
   ⟨0x601206, 1, .u64, .ro, 0, 0, 18446744073709551615, none⟩,
   ⟨0x601207, 1, .u8, .ro, 0, 0, 255, none⟩,
   ⟨0x602001, 1, .u8, .ro, 0, 0, 255, none⟩,
   ⟨0x602002, 1, .domain, .ro, 0, 0, 0, none⟩,
   ⟨0x602003, 1, .domain, .rwk, 0, 5550, 5550, (some 5)⟩,
   ⟨0x602004, 1, .u16, .ro, 0, 0, 65535, none⟩,
   ⟨0x603001, 1, .u8, .rwk, 15, 0, 15, (some 1)⟩,
   ⟨0x603002, 1, .i32, .rwk, 0, 0, 1000000, (some 1)⟩,
   ⟨0x604001, 16, .u8, .rw, 0, 0, 1, none⟩,
   ⟨0x604101, 1, .u16, .rw, 30, 5, 600, none⟩,
   ⟨0x604201, 16, .u32, .ro, 0, 0, 4294967295, none⟩,
   ⟨0x604301, 16, .u32, .ro, 0, 0, 4294967295, none⟩,
   ⟨0x604401, 16, .u8, .ro, 0, 0, 255, none⟩,
   ⟨0x605001, 1, .u32, .rw, 0, 0, 4294967295, none⟩,
   ⟨0x605002, 1, .domain, .ro, 0, 0, 0, none⟩,
   ⟨0x605003, 1, .domain, .ro, 0, 0, 0, none⟩,
   ⟨0x605004, 1, .u32, .ro, 0, 0, 4294967295, none⟩,
   ⟨0x606001, 1, .domain, .ro, 0, 0, 0, none⟩,
   ⟨0x606002, 1, .domain, .ro, 0, 0, 0, none⟩,
   ⟨0x606003, 1, .domain, .ro, 0, 0, 0, none⟩,
   ⟨0x607001, 1, .u8, .ro, 0, 0, 64, none⟩,
   ⟨0x607002, 1, .u8, .rwk, 0, 1, 1, (some 1)⟩,
   ⟨0x607003, 1, .u32, .ro, 0, 0, 64, none⟩,
   ⟨0x608001, 1, .domain, .ro, 0, 0, 0, none⟩,
   ⟨0x608002, 1, .domain, .wo, 0, 5550, 5550, none⟩,
   ⟨0x608003, 1, .u8, .ro, 0, 0, 255, none⟩,
   ⟨0x608004, 1, .u8, .ro, 0, 0, 3, none⟩,
   ⟨0x640101, 1, .u8, .rwk, 0, 0, 1, (some 6)⟩,
   ⟨0x640102, 1, .u16, .rwk, 0, 0, 383, (some 6)⟩,
   ⟨0x640103, 1, .u8, .rwk, 0, 0, 255, (some 6)⟩,
   ⟨0x640104, 1, .u8, .rwk, 1, 1, 7, (some 6)⟩,
   ⟨0x640105, 1, .u16, .rwk, 1, 1, 65535, (some 6)⟩,
   ⟨0x640106, 1, .u32, .rwk, 1000, 5, 10000000, (some 6)⟩,
   ⟨0x640107, 1, .u8, .rwk, 0, 1, 2, (some 6)⟩,
   ⟨0x640108, 1, .u8, .rwk, 0, 0, 71, (some 6)⟩,
   ⟨0x640201, 1, .u8, .ro, 0, 0, 3, none⟩,
   ⟨0x640202, 1, .u32, .ro, 0, 0, 4294967295, none⟩,
   ⟨0x640203, 1, .u16, .ro, 0, 0, 65535, none⟩,
   ⟨0x640204, 1, .u64, .ro, 0, 0, 18446744073709551615, none⟩]

/-- Rows of the object tables, part 18. -/
def objTable18 : List ObjRow :=
  [⟨0x640205, 1, .u64, .ro, 0, 0, 18446744073709551615, none⟩,
   ⟨0x640206, 1, .u8, .ro, 0, 0, 255, none⟩]

/-- Every row of the object tables, in rising order of key. -/
def objTable : List ObjRow :=
  objTable1 ++ (objTable2 ++ (objTable3 ++ (objTable4 ++ (objTable5 ++ (objTable6 ++ (objTable7 ++ (objTable8 ++
    (objTable9 ++ (objTable10 ++ (objTable11 ++ (objTable12 ++ (objTable13 ++ (objTable14 ++ (objTable15 ++ (objTable16
    ++ (objTable17 ++ objTable18))))))))))))))))

end Sys2Proof.Machine
end

