-- ==== Sys2Proof/Machine/State.lean ====
section
/-! DEFINITION. The state of the block as plain data: the object dictionary's values, and everything the spec
describes that no object holds. A field's default is its value at reset. -/

namespace Sys2Proof.Machine

/-- One message the block has sent outward. -/
inductive Output where
  /-- An NVMe completion entry: port, submission queue, command identifier, status type and code, whether Do Not Retry is set,
  dword 0 (R334, R359). -/
  | completion (port sqid cid sct sc : Nat) (dnr : Bool) (dw0 : Nat)
  /-- Data of an admin command or a Get moved to the host (R336 to R343). -/
  | hostData (port cid : Nat) (data : List Int)
  /-- Sector data of a Read moved to the host as it becomes final (R360). -/
  | readData (port sqid cid lba data : Nat)
  /-- A dictionary read answered over CANopen (R408). -/
  | sdoData (data : List Int)
  /-- A dictionary write answered over CANopen. -/
  | sdoDone
  /-- The answer to a dictionary write, by holder code: 0 accepted, else the NVMe status code on a host port or the SDO
  abort code on the management bus (R344). -/
  | dict (holder status : Nat)
  /-- An SDO abort code (R344, R432). -/
  | sdoAbort (code : Nat)
  /-- An EMCY message: bus, error code, error register, eight manufacturer bytes (R434). -/
  | emcy (bus code register : Nat) (bytes : List Nat)
  /-- A heartbeat or boot-up message: bus and NMT state (R428). -/
  | heartbeat (bus state : Nat)
  /-- A TPDO: bus, number 1 to 4, values in mapped order (R433). -/
  | tpdo (bus number : Nat) (values : List Int)
  /-- An LSS response: bus, command specifier, value (R431). -/
  | lss (bus cs value : Nat)
  /-- An SPDM response on a transport, by name and content (R347). -/
  | spdm (transport response : Nat) (content : List Nat)
  /-- An MCTP control response (R346). -/
  | mctp (port command : Nat) (content : List Nat)
  /-- An asynchronous event: port, request identifier, type, information, log page (R342). -/
  | asyncEvent (port cid type info page : Nat)
  /-- A 64-bit downstream frame of a preamplifier control link (R87, R89). -/
  | pclRequest (pcl frame : Nat)
  /-- The preamble of a write burst leaving a writer link: head, clock count of its first bit, its 256 bits (R108, R109). -/
  | preamble (head start bits : Nat)
  /-- A sector written through a writer link: head, lane, track, sector, its header's Lba, WriteGeneration and Flags with its
  user data, its 37,520 recorded bits, first bit most significant, and the delay of each transition on the line in 1/64 bit
  time (R48 to R54, R108, R181, R190). -/
  | burst (head lane track sector lba generation flags data bits : Nat) (delays : List (Nat × Int))
  /-- PRBS-15 leaving a writer link in training: head, transmit de-emphasis, bits, bit rate in bit/s (R111). -/
  | wrlPattern (head setting bits rate : Nat)
  /-- A table, page or record written to a surface's system area: surface, kind, number, copy, Lba of its first sector, Flags of its
  sectors, and its bytes where the spec gives them a layout. Kinds: 1 zone table, 2 spare table, 4 ledger page, 5 saved sets, 6 mirrored Trunk
  unit (R53, R54, R61, R64, R69, R139, R191). -/
  | system (surface kind number copy lba flags : Nat) (content : List Nat)
  /-- Every sector of a surface's zones written whole: surface, Flags beside those of the kind of lane, whether each sector's
  WriteGeneration is its own advanced by 1 and not 0, user data (R53, R54, R56, R377, R378). -/
  | wiped (surface flags : Nat) (advanced : Bool) (data : Nat)
  /-- An AVSBus voltage write in millivolts, and a voltage read (R446). -/
  | avs (millivolts : Nat)
  | avsRead
  /-- A PWM period of the bridge: for each gate line that is on in it, 0 to 5 for UH, UL, VH, VL, WH, WL, the span of its on-time, and
  the instants at which the shunt is sampled, all in 2^-28 of the period (R283, R304). -/
  | pwm (gates : List (Nat × Int × Int)) (samples : List Int)
  /-- The voltage that injection adds in a PWM period: axis in 2^-16 of an electrical cycle, percent of the bus, frequency (R294). -/
  | injection (axis percent frequency : Nat)
  /-- The line to a voice-coil amplifier in 112 half bits: the preamble and the CMD frame (R568, R570). -/
  | vcm (act line : Nat)
  /-- The 88 bits sent to a sensor in an SPI transaction (R573). -/
  | spi (sensor bits : Nat)
  /-- A milliactuator code (R217). -/
  | mao (head : Nat) (code : Int)
  /-- A shifted-out value of the DBG port (R579). -/
  | dbg (value : Nat)
  deriving DecidableEq, Repr

/-- One key of the Key Cupboard (R419 to R421). Holders are 0 none, 1 HP0, 2 HP1, 3 MB. -/
structure KeySlot where
  /-- Holder by a write of 1 to KeyControl. -/
  explicit : Nat := 0
  /-- Port holding the key through its commands (R327). -/
  implicit : Nat := 0
  /-- Commands of that port that hold the key. -/
  uses : Nat := 0
  /-- Tick at which the lease ends, while the key is held explicitly or a download waits for its Commit. -/
  leaseEnd : Nat := 0
  deriving DecidableEq, Repr

/-- One standing fault (R469, R470). -/
structure Standing where
  src : Nat
  severity : Nat
  active : Bool
  /-- Actuators its park reaction holds on the ramp (R474). -/
  parkMask : Nat
  deriving DecidableEq, Repr

/-- The fault collector (R467 to R480). -/
structure Faults where
  standing : List Standing := []
  /-- Shelf sequence number of each source's last written record (R474). -/
  lastRecord : List (Nat × Nat) := []
  /-- Ticks of the fault resets of the last 3,600 s (R475). -/
  resetTicks : List Nat := []
  /-- A fault reset waits to start, with the tick at which it starts at the latest (R475). -/
  resetDue : Option Nat := none
  /-- Sources whose suppressed reset is recorded (R476). -/
  suppressed : List Nat := []
  /-- FAULT pin: 0 released, 1 pulse, 2 held (R480). -/
  pin : Nat := 0
  pulseEnd : Nat := 0
  releasePending : Bool := false
  /-- Tick of the last write that released the pin or left its release pending: a raising of that tick counts as before it (R480). -/
  released : Option Nat := none
  /-- ErrorRegister as last reported, to see its return to 0 (R434). -/
  reported : Nat := 0
  /-- Injection run: command accepted, raisings left, next tick (R488). -/
  injectLeft : Nat := 0
  injectNext : Nat := 0
  deriving DecidableEq, Repr

/-- An event record of the Shelf (R492). -/
structure ShelfRecord where
  slot : Nat
  seq : Nat
  tick : Nat
  wall : Nat
  code : Nat
  source : Nat
  severity : Nat
  cause : Nat
  injected : Bool
  unreadable : Bool
  words : List Nat
  fixed : Nat
  listVersion : Nat
  deriving DecidableEq, Repr

/-- Snapshot list, rate limit and bucket of one event code (R494, R497, R516). -/
structure CodeConfig where
  code : Nat
  rate : Nat := 16
  burst : Nat := 64
  version : Nat := 0
  limited : Nat := 0
  entries : List Nat := []
  /-- Bucket level in millionths of a token, and the tick it was computed for. -/
  level : Nat := 64000000
  filled : Nat := 0
  deriving DecidableEq, Repr

/-- The Shelf event recorder: slots 1 to 16,383 hold records, slot 0 the summary (R491, R492 to R502). -/
structure Shelf where
  records : List ShelfRecord := []
  nextSeq : Nat := 1
  /-- Slot 0: updates, drops by severity, refusals, first and latest tick (R499). -/
  updates : Nat := 0
  drops : List Nat := [0, 0, 0, 0]
  refused : Nat := 0
  firstDrop : Nat := 0
  lastDrop : Nat := 0
  /-- Wall time at the latest update of slot 0. -/
  lastWall : Nat := 2 ^ 64 - 1
  codes : List CodeConfig := []
  /-- Number of the ShelfClearChallenge in force (R502). -/
  challenge : Nat := 0
  deriving DecidableEq, Repr

/-- A Trunk record (R505). -/
structure TrunkRecord where
  kind : Nat
  boot : Nat
  seq : Nat
  tick : Nat
  wall : Nat
  payload : List Nat
  carried : Bool
  restored : Bool
  deriving DecidableEq, Repr

/-- One of the 512 erase units (R503, R504). -/
structure TrunkUnit where
  /-- 0 while free. -/
  seq : Nat := 0
  erases : Nat := 0
  retired : Bool := false
  /-- Bytes programmed after the header; a unit whose tail holds an absent record is full. -/
  used : Nat := 0
  records : List TrunkRecord := []
  deriving DecidableEq, Repr

/-- An append that waits for the program engine (R507). -/
structure TrunkAppend where
  kind : Nat
  /-- Boot in which it was requested. -/
  boot : Nat
  tick : Nat
  wall : Nat
  payload : List Nat
  powerLoss : Bool
  deriving DecidableEq, Repr

/-- The Trunk record (R503 to R515). -/
structure Trunk where
  /-- Units as the mirrors of the actuators hold them (R513). -/
  mirrors : List (Nat × List (Nat × TrunkUnit)) := []
  /-- Units 0 to 343 form the boot area, 344 to 511 the log area. A missing number is a free, never erased unit. -/
  units : List (Nat × TrunkUnit) := []
  bootUnit : Nat := 0
  logUnit : Nat := 344
  nextSeq : Nat := 1
  bootNumber : Nat := 0
  queue : List TrunkAppend := []
  /-- Consecutive failures of the append at the front. -/
  failures : Nat := 0
  /-- Per source: ticks of its appends in the last 3,600 s, and raisings not appended (R507). -/
  bursts : List (Nat × (List Nat × Nat)) := []
  /-- Per actuator: units changed since their mirror write (R513). -/
  dirty : List (Nat × List Nat) := []
  /-- Ledger flush records are no longer carried (R508). -/
  carryStopped : Bool := false
  deriving DecidableEq, Repr

/-- Wall time (R500). -/
structure Wall where
  set : Bool := false
  /-- Milliseconds since 1 January 1984 at `baseTick`. -/
  base : Nat := 0
  baseTick : Nat := 0
  /-- Milliseconds still to slew; negative when wall time runs slow. -/
  slew : Int := 0
  deriving DecidableEq, Repr

/-- One CAN FD port of the management bus (R423 to R427). -/
structure BusPort where
  /-- A duplicate node-ID put it into listen-only (R427). -/
  listenOnly : Bool := false
  /-- Ticks of the bus-off events of the last 60 s (R424). -/
  offTicks : List Nat := []
  /-- Tick at which recovery starts (R424). -/
  recoverAt : Nat := 0
  /-- Entries 0 to 3 of 1016h heard here: tick of the last heartbeat; and those lost (R425). -/
  seen : List (Nat × Nat) := []
  lost : List Nat := []
  deriving DecidableEq, Repr

/-- The one USDO transfer (R432). -/
structure Usdo where
  client : Nat
  key : Nat
  isWrite : Bool
  gathered : List Nat
  lastFrame : Nat
  deriving DecidableEq, Repr

/-- One copy of the stored set in the NOR (R411, R413): its sequence, values of the objects that are not at their default,
the sine table, and the snapshot list, rate and burst of every event code. -/
structure StoredCopy where
  seq : Nat
  values : List (Nat × Int)
  sine : List Nat
  lists : List CodeConfig
  deriving DecidableEq, Repr

/-- CANopen FD and the management bus (R423 to R436). NMT states: 0 Initialisation, 4 Stopped, 5 Operational,
127 Pre-operational, the values the heartbeat carries. -/
structure MgmtBus where
  nmt : Nat := 0
  nodeId : Nat := 255
  /-- Node-ID that LSS configured, taking effect at the next Reset Communication. -/
  pendingNode : Option Nat := none
  /-- Node-ID that LSS stored in NOR. -/
  storedNode : Option Nat := none
  lssConfig : Bool := false
  fastscanSub : Nat := 0
  ports : List BusPort := [{}, {}]
  usdo : Option Usdo := none
  emcyQueue : List (Nat × Nat × List Nat) := []
  emcyLast : Option Nat := none
  heartbeatNext : Nat := 0
  /-- Per TPDO 0 to 3: tick of the last transmission, values last sent, and SYNC messages since. -/
  tpdoLast : List (Nat × Nat) := []
  tpdoValues : List (Nat × List Int) := []
  tpdoSyncs : List (Nat × Nat) := []
  /-- RPDO data held for the next SYNC. -/
  rpdoHeld : List (Nat × List Nat) := []
  /-- Redundancy, recovery delay and bus-off limit in force, taken at Reset Communication (R437). -/
  redundancy : Nat := 1
  recoveryDelay : Nat := 100
  offLimit : Nat := 8
  /-- Mode changes accepted that wait for the one under way, in order; for each object key whose mode change was accepted last, its
  tick and its requester's place in the order MB, HP0, HP1 (R38). -/
  modes : List (Nat × Int) := []
  modeWrites : List (Nat × Nat × Nat) := []
  /-- The two copies of the stored set; none is blank (R413). -/
  storedA : Option StoredCopy := none
  storedB : Option StoredCopy := none
  deriving DecidableEq, Repr

/-- One submission or completion queue of a controller (R332, R351). -/
structure IoQueue where
  id : Nat
  size : Nat
  cqid : Nat
  tail : Nat
  head : Nat
  deriving DecidableEq, Repr

/-- One host port and its controller (R322 to R342). -/
structure Port where
  linkUp : Bool := false
  perst : Bool := true
  d3hot : Bool := false
  linkL23 : Bool := false
  enabled : Bool := false
  crime : Bool := false
  ready : Bool := false
  shutdown : Nat := 0
  enableTick : Nat := 0
  crwmt : Nat := 0
  /-- Reset drain of R372 in progress. -/
  draining : Bool := false
  fetchPaused : Bool := false
  sqs : List IoQueue := []
  cqs : List IoQueue := []
  /-- The admin submission queue, with its entries; the I/O submission queue served last, and the commands fetched from it in its turn
  (R351). -/
  adminTail : Nat := 0
  adminHead : Nat := 0
  adminSize : Nat := 2
  served : Nat := 0
  burst : Nat := 0
  /-- Outstanding Asynchronous Event Requests, oldest first. -/
  aer : List Nat := []
  /-- Events waiting for a request: type, information, log page. -/
  held : List (Nat × Nat × Nat) := []
  /-- Event types posted and not yet read with RAE clear: type, log page. -/
  masked : List (Nat × Nat) := []
  eventMask : Nat := 783
  arbitration : Nat := 0
  /-- Value of Write Atomicity Normal, which has no effect (R340). -/
  atomicity : Nat := 0
  tempOver : Nat := 368
  tempUnder : Nat := 0
  coalescing : Nat := 0
  vectors : List (Nat × Nat) := []
  queuesGranted : Nat × Nat := (127, 127)
  /-- Log page 01h, newest first: queue, command, status, NSID, LBA; errors counted since power-up. -/
  errors : List (List Nat) := []
  errorCount : Nat := 0
  changedNamespaces : List Nat := []
  /-- Log page C3h: source, severity, tick, Shelf sequence (R338). -/
  faultSummary : List (Nat × Nat × Nat × Nat) := []
  /-- Set Features of Power Management that wait on an entry, newest first: command identifier and former state. -/
  powerWait : List (Nat × Nat) := []
  mctpEid : Nat := 0
  deriving DecidableEq, Repr

/-- Counts of the SMART / Health page and of Rotational Media Information, kept for the life of the device (R338, R339). -/
structure Smart where
  sectorsRead : Nat := 0
  sectorsWritten : Nat := 0
  reads : Nat := 0
  writes : Nat := 0
  /-- Ticks with a host I/O command outstanding, and the tick since which one is. -/
  busyTicks : Nat := 0
  busySince : Option Nat := none
  powerCycles : Nat := 0
  /-- Ticks of former power-ups. -/
  poweredTicks : Nat := 0
  spinUps : Nat := 0
  failedSpinUps : Nat := 0
  spinDowns : Nat := 0
  loads : Nat := 0
  failedLoads : Nat := 0
  deriving DecidableEq, Repr

/-- A running self-test: its code, port and command identifier, the link errors counted when it began, the lane rows still to read
with their heads, and whether a sector of one was unrecoverable (R345). -/
structure SelfTest where
  code : Nat
  port : Nat
  cid : Nat
  errors : Nat := 0
  rows : List (Nat × Nat) := []
  lost : Bool := false
  deriving DecidableEq, Repr

/-- A running Format NVM: its port, 2 for none, its command identifier and mapping, and the surfaces still to write once its tables
are written (R377). -/
structure FormatRun where
  port : Nat
  cid : Nat
  mapping : Nat
  left : Option (List Nat) := none
  lost : Bool := false
  deriving DecidableEq, Repr

/-- A running Sanitize: command dwords 10 and 11, passes complete, and the surfaces still to write in the present pass, none before it
has begun (R378). -/
structure SanitizeRun where
  dword10 : Nat
  pattern : Nat
  passes : Nat := 0
  left : Option (List Nat) := none
  deriving DecidableEq, Repr

/-- What the two controllers share (R338 to R345, R377, R378). -/
structure Subsystem where
  /-- Log page C0h: tick, reason, component, holder; newest first, at most 16. -/
  refusals : List (Nat × Nat × Nat × Nat) := []
  /-- Log page C1h: LBA, NSID, outcome word, tick; newest first, at most 256. -/
  unrecoverable : List (Nat × Nat × Nat × Nat) := []
  /-- Log page 06h: code, result, failing segment, power-on hours; newest first, at most 20. -/
  selfTests : List (Nat × Nat × Nat × Nat) := []
  selfTest : Option SelfTest := none
  format : Option FormatRun := none
  sanitize : Option SanitizeRun := none
  /-- Of the last Sanitize: 0 never, 1 completed, 2 in progress, 3 failed; passes complete and command dword 10 (R378). -/
  sanitizeStatus : Nat := 0
  sanitizePasses : Nat := 0
  sanitizeDword10 : Nat := 0
  /-- FormatId of the format in force; 0 before any format. -/
  formatId : Nat := 0
  /-- Namespaces that refuse writes, as last noticed (R342): bit n for NSID n. -/
  nsProtected : Nat := 0
  /-- Critical Warning bits as last noticed (R339). -/
  criticalWarning : Nat := 0
  /-- The running Format NVM, the running Sanitize holds the Format key implicitly (R327). -/
  formatHolds : Bool := false
  sanitizeHolds : Bool := false
  /-- Shutdown of the subsystem has unloaded the heads (R331). -/
  unloadedByShutdown : Bool := false
  spareTotal : Nat := 0
  smart : Smart := {}
  deriving DecidableEq, Repr

/-- Kinds of host command a context holds (R350). -/
inductive CmdKind where
  | read | write | writeZeroes | verify | flush | dataset | admin
  deriving DecidableEq, Repr

/-- The completion latch of a context (R359). -/
inductive Latch where
  | clear | completion | abort
  deriving DecidableEq, Repr

/-- A command context (R350). -/
structure Ctx where
  port : Nat
  sqid : Nat
  cid : Nat
  kind : CmdKind
  nsid : Nat := 0
  slba : Nat := 0
  count : Nat := 0
  fua : Bool := false
  limited : Bool := false
  fetchTick : Nat := 0
  latch : Latch := .clear
  atomic : Bool := false
  started : Bool := false
  /-- Media operations still to issue, in LBA order: first LBA and sectors of each (R357). -/
  toIssue : List (Nat × Nat) := []
  /-- LBAs of a Read or Verify that come from media and whose outcome is not final. -/
  want : List Nat := []
  /-- Pieces of a Read whose Larder lookup waits for a fill: first LBA and sectors (R387). -/
  waits : List (Nat × Nat) := []
  /-- Misses under way: line number, mask of its sectors still to come, and whether it is already counted as uncached
  (R389, R391). -/
  misses : List (Nat × Nat × Bool) := []
  /-- Chunks of a direct write, as LBA divided by 64, not yet on media, and those whose burst has not opened. -/
  chunks : List Nat := []
  unopened : List Nat := []
  failedSectors : Nat := 0
  status : Nat × Nat := (0, 0)
  deadlineRaised : Bool := false
  /-- Discarded at a reset: it finishes without a completion (R372). -/
  orphan : Bool := false
  /-- The command holds a key implicitly (R327). -/
  holdsKey : Bool := false
  data : List Nat := []
  deriving DecidableEq, Repr

/-- Owner of a range-lock entry. -/
inductive LockOwner where
  | host (port sqid cid : Nat)
  | remap (surface lane : Nat)
  | restock (stripe chunk : Nat)
  deriving DecidableEq, Repr

/-- A range-lock entry, with its place in the order of insertion and the tick it was inserted in (R352, R353). -/
structure RangeLock where
  number : Nat
  tick : Nat
  nsid : Nat
  first : Nat
  last : Nat
  exclusive : Bool
  owner : LockOwner
  deriving DecidableEq, Repr

/-- A media operation in flight or waiting on one actuator (R357, R358). -/
structure MediaOp where
  act : Nat
  port : Nat
  sqid : Nat
  cid : Nat
  nsid : Nat
  lba : Nat
  count : Nat
  isWrite : Bool
  issued : Nat
  readAhead : Bool
  overlapped : Bool
  deriving DecidableEq, Repr

/-- A slot of a Cellar ring (R363 to R367). Stage: 1 staging, 2 commit, 3 flipped, 4 retired, 5 abandoned. -/
structure CellarSlot where
  act : Nat
  ring : Nat
  seq : Nat
  /-- Ring position of the first data sector. -/
  first : Nat
  count : Nat
  nsid : Nat
  lba : Nat
  gen1 : Nat
  gen2 : Nat
  stage : Nat := 1
  /-- Commit-record copies on media. -/
  copies : Nat := 0
  zeroes : Bool
  /-- Home chunks, as LBA divided by 64, not restocked after the staging (R366). -/
  toRestock : List Nat
  port : Nat
  sqid : Nat
  cid : Nat
  /-- Restocked ahead of all other restocking (R365). -/
  urgent : Bool := false
  /-- Rewrites of both copies in place after failed verifies (R365). -/
  rewrites : Nat := 0
  /-- Both copies failed verify for good; the write is staged again (R365). -/
  failed : Bool := false
  /-- The slot is the write's second one (R365). -/
  second : Bool := false
  stagedAt : Nat := 0
  data : List Nat
  deriving DecidableEq, Repr

/-- Contexts, locks, media operations and the Cellar (chapter "Command Execution"). -/
structure Commands where
  ctxs : List Ctx := []
  locks : List RangeLock := []
  nextLock : Nat := 1
  ops : List MediaOp := []
  slots : List CellarSlot := []
  /-- Next SlotSequence of each actuator. -/
  nextSlot : List Nat := [1, 1, 1, 1]
  /-- Next free position of each ring: key actuator times 24 plus ring. -/
  ringHead : List (Nat × Nat) := []
  /-- Watermark last appended to the Trunk, per actuator, and the tick it changed since. -/
  watermarkDirty : List (Nat × Nat) := []
  /-- Fetching stopped for an activation (R373), since this tick. -/
  fetchStopped : Option Nat := none
  /-- Both ports have stopped fetching I/O commands for lack of a range-lock entry (R355). -/
  ioPaused : Bool := false
  deriving DecidableEq, Repr

/-- State of a Larder line (R384). -/
inductive LineState where
  | invalid | filling | valid | leaving
  deriving DecidableEq, Repr

/-- A Larder tag with its line's sectors (R384). -/
structure LarderLine where
  set : Nat
  way : Nat
  state : LineState
  nsid : Nat
  line : Nat
  valid : Nat
  /-- 0 filled by a host read, 1 promoted from the Side Pantry, 2 written by a host write since (R384). -/
  source : Nat := 0
  /-- Mask of the sectors of the misses under way that are still to be written into the line. -/
  awaiting : Nat := 0
  /-- Line number the reclaim of a Leaving line waits for (R389). -/
  wanted : Option (Nat × Nat) := none
  data : List (Nat × Nat) := []
  deriving DecidableEq, Repr

/-- A Side Pantry line (R393). -/
structure PantryLine where
  nsid : Nat
  line : Nat
  valid : Nat
  hit : Bool := false
  /-- Chosen for replacement and not yet reclaimed (R393). -/
  leaving : Bool := false
  data : List (Nat × Nat) := []
  deriving DecidableEq, Repr

/-- A read stream (R392). -/
structure ReadStream where
  nsid : Nat
  /-- Last LBA of its latest Read, and of its furthest one. -/
  last : Nat
  furthest : Nat
  /-- Continuing Reads so far. -/
  continuing : Nat
  sequential : Bool
  recency : Nat
  deriving DecidableEq, Repr

/-- A Merge Bin buffer (R395 to R397). -/
structure MergeBuffer where
  nsid : Nat
  chunk : Nat
  covered : Nat
  data : List (Nat × Nat)
  owners : List (Nat × Nat × Nat)
  lastData : Nat
  clean : Bool := false
  /-- Number of the buffer, rising with age. -/
  age : Nat
  /-- The chunk is covered or its window has ended: it is being written (R396). -/
  full : Bool := false
  /-- Mask of the sectors that come from Write Zeroes (R54). -/
  zeroes : Nat := 0
  deriving DecidableEq, Repr

/-- The buffer cache (chapter "Larder Buffer Cache"). -/
structure Larder where
  lines : List LarderLine := []
  /-- Pseudo-LRU bits of each set (R385). -/
  plru : List (Nat × Nat) := []
  /-- Insertion order, oldest first. -/
  pantry : List PantryLine := []
  streams : List ReadStream := []
  streamClock : Nat := 0
  /-- Ranges that Dataset Management marked for sequential reading: NSID, first LBA, sectors (R332, R392). -/
  hints : List (Nat × Nat × Nat) := []
  buffers : List MergeBuffer := []
  bufferClock : Nat := 1
  deriving DecidableEq, Repr

/-- A lane remap in progress (R72, R73): surface, zone, lane offset, number of the chosen spare, and stage: 0 asked for, 1 being read,
2 being written to the spare, 3 copied, 4 the table in copy 1, 5 in copies 1 and 2. -/
structure Remap where
  surface : Nat
  zone : Nat
  offset : Nat
  spare : Nat
  stage : Nat := 0
  deriving DecidableEq, Repr

/-- Layout in force (chapter "Recording Layout"). -/
structure Layout where
  tables : List ZoneTable := []
  spares : List SpareTable := []
  remaps : List Remap := []
  /-- LBA and NSID of a running mapping run (R83). -/
  mapping : Option (Nat × Nat) := none
  deriving DecidableEq, Repr

/-- A register access of a control link (R90): kind 1 write, 2 read, 3 write to all three heads. -/
structure PclAccess where
  tag : Nat
  kind : Nat
  head : Nat
  address : Nat
  data : Nat
  retries : Nat
  sent : Nat
  /-- The access is the run of 3141h. -/
  run : Bool
  deriving DecidableEq, Repr

/-- One preamplifier control link and its chip (R86 to R96, R114). -/
structure Pcl where
  outstanding : List PclAccess := []
  /-- Accesses not yet sent; one of 3141h comes last (R90). -/
  queue : List PclAccess := []
  /-- The bring-up after a chip flag is under way (R114); consecutive relocks that found no frames. -/
  recovering : Bool := false
  attempts : Nat := 0
  nextTag : Nat := 0
  lastValid : Nat := 0
  locked : Bool := false
  /-- Consecutive valid frames towards lock (R89). -/
  goodRun : Nat := 0
  /-- Bring-up of R112 done. -/
  broughtUp : Bool := false
  /-- Place in the bring-up: 0 heads off, 1 in read mode, 3 training, 4 lost with its chip (R112 to R114). -/
  phase : Nat := 0
  /-- Tick at which the reference started (R112). -/
  refStart : Nat := 0
  /-- No request has gone out since the last frame slot (R89); the last Summary (R88). -/
  idle : Bool := true
  summary : Nat := 0
  /-- Shadows of writable registers: key head times 32 plus address (R91). -/
  shadow : List (Nat × Nat) := []
  /-- Relocked, and the next chip status tells whether to restore; registers being written before ResetOccurred is
  cleared. -/
  restorePending : Bool := false
  restoring : Bool := false
  /-- Warning flags standing and the tick since which they are clear (R114). -/
  warning : Nat := 0
  clearSince : Option Nat := none
  upstreamLost : Bool := false
  deriving DecidableEq, Repr

/-- One reader link (R97 to R107). Lists by lane hold lane 0 first. -/
structure Rsl where
  /-- Consecutive header errors; scrambler states; CRC-16 of the interval so far; blocks since the last marker (R101 to R103). -/
  headerRun : List Nat := [0, 0]
  lfsr : List Nat := [0x155, 0x2AA]
  crc : List Nat := [0xFFFF, 0xFFFF]
  slots : List Nat := [0, 0]
  /-- Data blocks received or erased since the end of training, and header-error blocks since the last good data block (R100,
  R102, R104). -/
  blocks : Nat := 0
  suspects : Nat := 0
  /-- Latest samples, newest first, erased ones as zeros; numbers of the latest erased blocks (R104). -/
  samples : List Int := []
  erased : List Nat := []
  /-- Consecutive erased blocks (R104). -/
  eraseRun : Nat := 0
  badIntervals : List Nat := []
  intervals : Nat := 0
  attempts : Nat := 0
  failedAt : Nat := 0
  /-- Deadline of the running training. -/
  trainingEnd : Nat := 0
  skewAt : Int := 0
  deriving DecidableEq, Repr

/-- One writer link (R108 to R111). -/
structure Wrl where
  bursting : Bool := false
  deEmphasis : Nat := 0
  /-- The head is read-only for this link (R107, R114); the running training is the test burst after a flag. -/
  readOnly : Bool := false
  testing : Bool := false
  /-- To be trained once the head's reader links are not in training: in a bring-up, or for arm misses (R111, R112). -/
  due : Bool := false
  /-- WrlCheckErrors as read in the running training: before it, after each setting, and after the check (R111). -/
  checks : List Nat := []
  /-- A Summary bit has closed the gate, and the flag's content is not yet known to call for no reaction (R96). -/
  flagged : Bool := false
  /-- Arm outcomes of the last 16 bursts, newest first; true a miss. -/
  arms : List Bool := []
  attempts : Nat := 0
  failedAt : Nat := 0
  trainingEnd : Nat := 0
  deriving DecidableEq, Repr

/-- The head links (chapter "Head Links"). -/
structure Links where
  pcls : List Pcl := List.replicate 8 {}
  rsls : List Rsl := List.replicate 72 {}
  wrls : List Wrl := List.replicate 24 {}
  deriving DecidableEq, Repr

/-- A live heater calibration under way (R277): revolutions measured, the tick at which the present one began, the sums of the first
and third harmonic's amplitudes in it, and the ratios measured. -/
structure HeaterRun where
  stage : Nat := 0
  began : Nat
  first : Nat := 0
  third : Nat := 0
  ratios : List Int := []
  deriving DecidableEq, Repr

/-- A loop identification under way (R276, R282): its slot, whether 4060h.01 asked for it, its excited revolutions so far, and whether
the present revolution is one. -/
structure IdRun where
  slot : Nat
  requested : Bool
  revs : Nat := 0
  excited : Bool := false
  deriving DecidableEq, Repr

/-- What a read-margin record sums up (R465): Good first reads in line and their iterations, ladder entries, sectors read and sectors
unrecoverable. -/
structure Margin where
  goods : Nat := 0
  iterations : Nat := 0
  ladders : Nat := 0
  sectors : Nat := 0
  lost : Nat := 0
  deriving DecidableEq, Repr

/-- Per head: positioning, clock count, pace and calibration state no object holds. -/
structure Head where
  /-- Clock count in 1/64 bit time at sample `axis` of the head, and its advance to the sample in 2^-32 of 1/64 bit time, 16 bit
  times to 17 samples nominally (R119, R123). -/
  count : Nat := 0
  axis : Nat := 0
  rate : Nat := 64 * 16 * 2 ^ 32 / 17
  /-- Tick at which the count was last brought up. -/
  countedAt : Nat := 0
  /-- Consecutive clock periods below ClockAmpLimit; squared phase errors of the last 256 periods in 1/1,024 of a period (R130). -/
  lowRun : Nat := 0
  jitters : List Nat := []
  /-- Whether each of the last 64 periods was inverted, newest first, and the end of an index field recognised and not yet dealt
  with, by its distance from the wrap in 1/64 bit time (R122, R128). -/
  inverted : List Bool := []
  indexAt : Option Int := none
  /-- Amplitude of the clock pattern learnt for the head and zone (R122). -/
  clockRef : Nat := 0
  /-- Values of configuration objects still in force on the head until its next sector boundary (R164). -/
  oldConfig : List (Nat × Int) := []
  provisionalAt : Nat := 0
  /-- Tick at which the head last became Lost, or Off while loaded (R174). -/
  lostAt : Nat := 0
  /-- Sector number and offset of the last mark accepted in an acquisition (R127). -/
  acquire : Option (Nat × Int) := none
  /-- Criterion of R130 that fails, 0 none; the revolution since the last index field has kept the limits (R131). -/
  unhealthy : Nat := 0
  revClean : Bool := false
  /-- Current and target lane, zone (R243, R249); the target is a spare lane. -/
  lane : Nat := 0
  target : Nat := 0
  zone : Nat := 0
  onSpare : Bool := false
  /-- Reader C's samples up to the last stripe crossing, and between the last two; crossings since the seek started; it has crossed a
  stripe since the load began, and it has made a crossing against the expected direction (R243, R250, R254, R261). -/
  crossedAt : Nat := 0
  crossInterval : Nat := 0
  crossings : Int := 0
  crossed : Bool := false
  misstep : Bool := false
  /-- Tick since which the count flywheels (R126). -/
  flySince : Option Nat := none
  /-- It has been On track on this lane row, so its streams run (R253). -/
  onRow : Bool := false
  settleRun : Nat := 0
  desatRun : Nat := 0
  desatClear : Nat := 0
  offStripeRun : Nat := 0
  /-- Boundary in sub-ticks of the next position sample, once one has been formed (R240). -/
  sampleDue : Option Nat := none
  /-- Class 1 input (R243), and PES of the last Valid sample in 2^-30 of the track pitch (R241). -/
  position : Int := 0
  pes : Int := 0
  /-- Held for reader C (R267), and for a spare-lane pass (R249). -/
  held : Bool := false
  passHeld : Bool := false
  maoHistory : List Int := []
  /-- Tick since which the head is Confirmed with every sample Valid (R270). -/
  validSince : Option Nat := none
  readOnly : Bool := false
  awaitGood : Bool := false
  /-- Results of the calibration pass in its three zones, and heater trims of live calibration by zone (R271, R277); those in force in
  the present zone: amplitude sum, PesOffset in Q2.14, harmonic target in 2^-16. -/
  cal : List ZoneCal := []
  trims : List (Nat × Int) := []
  ampRef : Nat := 0
  pesOffset : Int := 0
  harmonicTarget : Int := 0
  /-- Runout tables by zone, their place in the loop's coefficient bank, and the sums, counts and revolutions of the learning
  (R275). -/
  rro : List (Nat × List Int) := []
  rroBase : Nat := 0
  rroSum : List Int := []
  rroCount : List Nat := []
  rroRevs : Nat := 0
  /-- The live heater calibration under way (R171, R277), and the tick of the last one by zone (R272). -/
  heaterCal : Option HeaterRun := none
  heaterAt : List (Nat × Nat) := []
  /-- Loop slot whose calibration swap is being checked, and revolutions since; sum of squares and number of the Valid samples On track
  since, and those of before the swap (R278). -/
  checkSlot : Option Nat := none
  checkRevs : Nat := 0
  squares : Nat := 0
  samples : Nat := 0
  formerSquares : Nat := 0
  formerSamples : Nat := 0
  /-- Count differences taken towards the next SkewDrift (R268). -/
  driftSum : Int := 0
  driftRevs : Nat := 0
  /-- Write gate open (R184). -/
  gate : Bool := false
  /-- Tick at which HeaterWrite was written ahead of a burst (R182); WriteInhibitLimit and AdjacentCheckLimit of the burst (R199). -/
  lead : Option Nat := none
  inhibitLimit : Nat := 8
  checkLimit : Nat := 15
  /-- A cut event under way: the lane, the track that was not being written and the bit time at which it began; its peak error in
  2^-30 of the track pitch (R187). -/
  cutLane : Option (Nat × Nat × Nat) := none
  cutPeak : Int := 0
  heaterPower : Nat := 0
  heaterPending : Bool := false
  /-- Tick at which the write of an enable under its grant was acknowledged (R458). -/
  heaterAck : Option Nat := none
  /-- Admitted now, and from the next stripe boundary (R443). -/
  admitted : Bool := false
  admitNext : Bool := false
  /-- Pace counts of the running interval (R158). -/
  presented : Nat := 0
  completed : Nat := 0
  paces : List Nat := []
  narrowPending : Bool := false
  leavePending : Bool := false
  /-- Read-margin records by zone, newest first, and what the present day has counted (R465). -/
  margins : List (Nat × List Margin) := []
  marginNow : List (Nat × Margin) := []
  deriving DecidableEq, Repr

/-- Per actuator: seek, load and park state (R249 to R264). -/
structure Act where
  /-- 0 on the ramp, 1 loading, 2 loaded, 3 unloading, 4 safe-parking. -/
  load : Nat := 0
  seeking : Bool := false
  zone : Nat := 0
  row : Nat := 0
  verified : Bool := false
  /-- Sector times counted towards LaneCheckSectors (R255). -/
  checks : Nat := 0
  /-- The seek under way is a move of one lane row from a verified row (R254); the head that steers alone, in a spare-lane
  pass (R249). -/
  oneRow : Bool := false
  only : Option Nat := none
  /-- Heads served in earlier passes of the lane row (R443). -/
  passed : List Nat := []
  /-- Target accepted during a seek, zone, row and steering head, which replaces the present one at the next 15 kHz boundary (R251). -/
  nextTarget : Option (Nat × Nat × Option Nat) := none
  /-- Heads on which a sector of the unverified row has failed since `checks` last rose (R255). -/
  tried : List Nat := []
  attempts : Nat := 0
  loadStart : Nat := 0
  parkEnd : Nat := 0
  /-- Tick at which an unload's drive at SafeParkCurrent began (R262); positive current drives outward, as the calibration pass
  measured (R263). -/
  unloadAt : Option Nat := none
  outward : Bool := false
  parkReruns : Nat := 0
  /-- Why the last safe-park happened: 1 late samples, 2 no position, 3 shock, 4 power loss, 5 spindle, 6 fault. -/
  parkCause : Nat := 0
  loadWanted : Bool := false
  calibrated : Bool := false
  lateRun : Nat := 0
  /-- Voice-coil link (R568 to R572): Sequence of the last CMD frame, consecutive failed MEAS frames, last measured
  current. -/
  vcmSeq : Nat := 0
  vcmFails : Nat := 0
  vcmMeas : Int := 0
  deriving DecidableEq, Repr

/-- The calibration results of a head as saved in its surface's system area (R280): values of its objects, runout tables, and the
coefficient banks of its loops, with those of the actuator's own loops on surface 6a. -/
structure SavedCal where
  values : List (Nat × Int)
  cal : List ZoneCal
  trims : List (Nat × Int)
  rro : List (Nat × List Int)
  rroBase : Nat
  banks : List (Nat × List (Nat × Int))
  margins : List (Nat × List Margin)
  indexAngle : Option Nat
  deriving DecidableEq, Repr

/-- Shock, sensors and shared positioning state (R257 to R260, R276). -/
structure Positioning where
  inhibit : Bool := false
  /-- Tick of the last sample at or above ShockInhibitLimit. -/
  lastShock : Nat := 0
  /-- Per sensor: consecutive samples at ShockParkLimit, consecutive failed transactions, Sequence of the last transaction, a
  transaction since it became active, and tick of the last retry. -/
  parkRun : List Nat := [0, 0]
  failRun : List Nat := [0, 0]
  sequence : List Nat := [0, 0]
  firstSeen : List Bool := [false, false]
  retryAt : List Nat := [0, 0]
  axes : List Int := [0, 0, 0, 0, 0, 0, 0, 0]
  /-- Saved calibration results by head. -/
  saved : List (Nat × SavedCal) := []
  /-- Identifications under way or asked for, oldest first, and the tick of the last one by slot (R272, R276, R282). -/
  identify : List IdRun := []
  identifiedAt : List (Nat × Nat) := []
  deriving DecidableEq, Repr

/-- One sector under detection (R152, R157). -/
structure SectorInFlight where
  lba : Nat
  nsid : Nat
  lane : Nat
  track : Nat
  sector : Nat
  /-- Its command; port 3 is the device's own, `cid` then the number of its read. -/
  port : Nat
  sqid : Nat
  cid : Nat
  /-- The sector lies in a Cellar slot, in a spare lane: what its header must say (R55). -/
  cellar : Bool := false
  spare : Bool := false
  countFramed : Bool := false
  earlyMark : Bool := false
  borrowed : Bool := false
  acquire : Bool := false
  /-- b - E and d(b) of its mark (R152), and where it is framed, f - E. -/
  offset : Int := 0
  distance : Nat := 0
  framed : Int := 0
  erased : Nat := 0
  /-- Deadline of its turn (R151). -/
  due : Nat := 0
  deferred : Bool := false
  /-- It was presented under an admitted head and counts in pace, in that PaceInterval (R158). -/
  paced : Bool := true
  interval : Nat := 0
  /-- Its operation has been withdrawn while its turn runs (R156). -/
  gone : Bool := false
  /-- Interpolated samples of both readers over its span, the bit time of the first (R149, R178); the head's zone; coefficients of
  both streams in force over it; only its own reader lies over its track (R144). -/
  first : Nat := 0
  y0 : List Int := []
  y1 : List Int := []
  zone : Nat := 0
  set0 : List Int := []
  set1 : List Int := []
  single : Bool := false
  /-- Framing offset and recorded bits of the partner sector where it ended Good (R150, R169). -/
  known : Option (Int × List Bool) := none
  deriving DecidableEq, Repr

/-- An in-line decoder turn (R146): decoder, stream, sector, tick at which it began. -/
structure Turn where
  decoder : Nat
  stream : Nat
  sector : SectorInFlight
  began : Nat
  deriving DecidableEq, Repr

/-- Per data stream: detection state no object holds. -/
structure Stream where
  /-- Interpolated samples, newest first, the bit time of the next one, and how many there have been (R134). -/
  out : List Int := []
  nextBit : Option Nat := none
  outputs : Nat := 0
  /-- Numbers of the interpolated samples at which a block was erased, and at which an alignment slip, a loss of block lock or a
  crossing overflow fell (R104, R121). -/
  erasedAt : List Nat := []
  cuts : List Nat := []
  queue : List SectorInFlight := []
  /-- The overflow slot: at most one codeword (R148). -/
  overflow : List SectorInFlight := []
  /-- The stream defers, with the captured sectors that wait (R149). -/
  capturing : Bool := false
  backlog : List SectorInFlight := []
  /-- Sector times since the pool was last saturated (R149). -/
  exitRun : Nat := 0
  /-- Last accepted mark offset and its run (R129), and the sum of fractional offsets (R135). -/
  offsetLast : Int := 0
  offsetRun : Nat := 0
  offsetSum : Int := 0
  offsetSectors : Nat := 0
  /-- Active equaliser bank, and the two banks of 16 taps, the interference coefficient and the leakage gain; an empty bank holds
  the detector-table values (R136 to R142). -/
  bank : Nat := 0
  taps : List (List Int) := [[], []]
  /-- Sets kept for other zones (R139). -/
  stored : List (Nat × List Int) := []
  /-- Swap requested: 0 none, 1 adaptation, 2 zone load, 3 back from an adaptation, 4 new detector tables. -/
  swap : Nat := 0
  blockSectors : Nat := 0
  lastError : Nat := 0
  /-- The block after an adaptation swap is running (R138). -/
  checking : Bool := false
  /-- Sums of the running block over its Good sectors: the gradient of each coefficient, the squared error, and the bit times
  summed over (R138). -/
  gradient : List Int := []
  squares : Nat := 0
  bits : Nat := 0
  /-- Good sectors of late: lane, sector, framing offset and recorded bits (R150, R169). -/
  good : List (Nat × Nat × Int × List Bool) := []
  /-- Swaps and reversions per zone (R165). -/
  zoneSwaps : List (Nat × Nat × Nat) := []
  lastGood : Nat := 0
  outcomes : List Nat := []
  /-- Decoder time in this PaceInterval and the last, in ticks of 100 MHz (R147); turns and iterations of this one. -/
  used : Nat := 0
  lastUsed : Nat := 0
  turns : Nat := 0
  iterations : Nat := 0
  deriving DecidableEq, Repr

/-- The settings a sector enters the ladder with: iterations of a turn, passes of step 3, power of step 5, ladder deadline and
clock wait in ms, and the step from which it is refreshed (R199). -/
structure LadderConfig where
  iterLimit : Nat
  average : Nat
  heaterStep : Nat
  timeLimit : Nat
  clockWait : Nat
  refresh : Nat
  deriving DecidableEq, Repr

/-- A ladder entry (R166 to R175). -/
structure Ladder where
  /-- Its number, rising in the order of entry (R177). -/
  id : Nat := 0
  stream : Nat
  sector : SectorInFlight
  /-- Outcome of the last pass (R155). -/
  outcome : Nat
  /-- Last step that ran or was skipped, and the step that runs, 0 for none (R173). -/
  step : Nat := 0
  running : Nat := 0
  entered : Nat
  /-- Steps that may run before step 6 (R173), and the settings it entered with. -/
  depth : Nat
  config : LadderConfig
  /-- Its codeword is held in the retry store, or its capture (R167). -/
  held : Bool := false
  capture : Bool := false
  /-- Streams whose capture slots it uses (R168, R177). -/
  slots : List Nat := []
  /-- Passes summed for step 3 or 5, and the sums of both readers' samples (R169, R171). -/
  passes : Nat := 0
  sum0 : List Int := []
  sum1 : List Int := []
  /-- Passes of step 4 or 5 begun or done, and the tick of the last change (R170, R171). -/
  sub : Nat := 0
  since : Nat := 0
  /-- It waits for capture slots (R177). -/
  waiting : Bool := false
  /-- Count slips of the head at its last pass; every pass was made Confirmed (R169). -/
  slips : Nat := 0
  confirmed : Bool := true
  /-- Outcome words of the last pass at each step that ran (R172). -/
  words : List Nat := []
  deriving DecidableEq, Repr

/-- A refresh due (R176): the recovered sector's data, and the streams whose capture slots are held until it is made. -/
structure Refresh where
  stream : Nat
  nsid : Nat
  lba : Nat
  data : Nat
  cellar : Bool
  slots : List Nat
  deriving DecidableEq, Repr

/-- A sector of a read of the device's own made final: its place, the ladder step that ended it (0 the first read), the iterations
of its turn, whether that was a deferred one, and what was read, none where it ended unrecoverable. -/
structure DeviceResult where
  lba : Nat
  lane : Nat
  track : Nat
  sector : Nat
  step : Nat
  iterations : Nat
  deferred : Bool
  found : Option SectorRead
  deriving DecidableEq, Repr

/-- A read of the device's own (R73, R140, R183, R187, R193, R196, R254, R366, R392): its number and purpose, its actuator, what it is for
by namespace and first LBA, or by surface and another number, the places still wanted, each with its head, and those final.
Purposes: 1 chunk fill, 2 learning, 3 adjacent check, 4 restocking, 5 lane remap, 6 calibration read, 7 lane check, 8 verify, 9 self-test,
10 read-ahead. -/
structure DeviceRead where
  id : Nat
  purpose : Nat
  act : Nat
  nsid : Nat
  lba : Nat
  want : List (Nat × SectorInFlight)
  results : List DeviceResult := []
  deriving DecidableEq, Repr

/-- Read detection, recovery and the write path. -/
structure Detect where
  streams : List Stream := List.replicate 48 {}
  /-- Firmware slot whose detector tables the detectors and the decoder pool run on (R145, R531). -/
  tables : Nat := 1
  turns : List Turn := []
  /-- Stream a decoder served last (R147). -/
  robin : Nat := 47
  /-- Decoders withdrawn (R146). -/
  withdrawn : List Nat := []
  ladders : List Ladder := []
  /-- Failed first reads of an unverified lane row: stream, sector, outcome, outcome word (R254). -/
  heldReads : List (Nat × SectorInFlight × Nat × Nat) := []
  /-- Codewords held in the retry store, oldest first, by their ladder; the number of the next ladder (R167). -/
  retry : List Nat := []
  nextLadder : Nat := 0
  /-- Capture slots: owner 1 deferral, 2 ladder; stream (R177). -/
  captures : List (Nat × Nat) := []
  /-- The device's own reads, and the number of the next. -/
  reads : List DeviceRead := []
  nextRead : Nat := 0
  /-- PaceIntervals ended (R158); tick of the last decoder self-test, none since power-up (R146). -/
  interval : Nat := 0
  testedAt : Option Nat := none
  refreshes : List Refresh := []
  /-- Streams that ask for a calibration read (R140). -/
  calReads : List Nat := []
  /-- Streams whose next sector's sync mark a condition injection suppresses (R488). -/
  unmarked : List Nat := []
  /-- Equaliser sets as last saved to the system areas: stream times 64 plus zone (R139). -/
  saved : List (Nat × List Int) := []
  paceStart : Nat := 0
  savedAt : Nat := 0
  deriving DecidableEq, Repr

/-- A sector on its way to media: its place on the surface, its header's fields and its user data (R48, R53, R58). -/
structure SectorOut where
  lane : Nat
  track : Nat
  sector : Nat
  lba : Nat
  gen : Nat
  flags : Nat
  data : Nat
  deriving DecidableEq, Repr

/-- Sectors being written to one surface (R183 to R188): a chunk, a Cellar slot, or what levels a chunk or fills a spare lane. -/
structure ChunkWrite where
  head : Nat
  stripe : Nat
  lane : Nat
  nsid : Nat
  lba : Nat
  /-- 0 direct chunk, 1 Cellar slot, 2 home chunk of a restocking or refresh, 3 levelling, 4 lane remap copy (namespace 0, `lba`
  the zone times 2^32 plus the lane offset). -/
  kind : Nat
  slotSeq : Nat := 0
  /-- Its sectors, commit-record copies apart, and those copies as far as they are to be written (R364). -/
  total : Nat
  copies : Nat := 0
  written : Nat := 0
  /-- Sectors written when its latest burst opened, sectors of that burst, and the tick at which it opened. -/
  opened : Nat := 0
  run : Nat := 0
  openedAt : Nat := 0
  /-- Every sector in recording order: fixed for kinds 3 and 4, else as its latest burst opened (R190). -/
  sectors : List SectorOut := []
  /-- Sectors already sent outward. -/
  emitted : Nat := 0
  open_ : Bool := false
  /-- A gate has closed inside a burst of it (R186); a Summary bit closed it (R96); its burst has ended and the next status frame
  is awaited (R110). -/
  cut : Bool := false
  flagged : Bool := false
  ended : Bool := false
  /-- Revolutions of bursts for the rest (R186). -/
  retries : Nat := 0
  verifying : Bool := false
  rewrites : Nat := 0
  /-- Sectors of the chunk whose data must still be read from media, and those that are unrecoverable markers (R179, R183). -/
  missing : List Nat := []
  markers : List Nat := []
  /-- Merge Bin buffer that the data comes from; 0 for none. -/
  buffer : Nat := 0
  /-- User data of its sectors, and the place of the first on its surface. -/
  data : List Nat := []
  track : Nat := 0
  sector : Nat := 0
  /-- Mask of the sectors written by Write Zeroes, by number in the chunk or slot (R54). -/
  zeroes : Nat := 0
  /-- Written home from a Cellar slot (R54). -/
  restocked : Bool := false
  /-- Verify is on for the write (R196). -/
  verify : Bool := false
  /-- The chunk lies in a spare lane (R71, R198). -/
  spare : Bool := false
  deriving DecidableEq, Repr

/-- An entry of the generation ledger (R189): key surface times 2^32 plus stripe. -/
structure LedgerEntry where
  gen : Nat := 0
  trusted : Bool := true
  deriving DecidableEq, Repr

/-- A check due after a cut (R187): head, lane, the track that was not being written, the span of the excursion in bit times of the
head's count, the read of the track under way, and whether reader C has been below ClockAmpLimit in the span. -/
structure AdjacentCheck where
  head : Nat
  lane : Nat
  track : Nat
  first : Nat
  last : Nat
  reading : Bool := false
  weak : Bool := false
  deriving DecidableEq, Repr

/-- The write path (R181 to R198). -/
structure WritePath where
  chunks : List ChunkWrite := []
  ledger : List (Nat × LedgerEntry) := []
  /-- Generation of the unlisted chunks of each surface, 0 unless Sanitize has written it (R56, R189, R378). -/
  base : List (Nat × Nat) := []
  /-- Dirty pages: surface and page. -/
  dirty : List (Nat × Nat) := []
  /-- Entries as the pages on media hold them; pages whose unlisted entries are untrusted (all of them), and those of the pages on
  media (R191, R192, R194). -/
  media : List (Nat × LedgerEntry) := []
  doubt : List (Nat × Nat) := []
  doubtAll : Bool := false
  flushedAt : Nat := 0
  pageSeq : List (Nat × Nat) := []
  /-- Chunks cut by the power loss: surface, sectors written, ledger entry, stripe (R188). -/
  cuts : List (Nat × Nat × Nat × Nat) := []
  /-- Home chunks that recovery restocks again before the media are ready: NSID, LBA divided by 64 (R368). -/
  again : List (Nat × Nat) := []
  adjacent : List AdjacentCheck := []
  deriving DecidableEq, Repr

/-- One sample of a loop (R203 to R205): its boundary in sub-ticks, the coefficient bank it runs on, its latched inputs by
class times 256 plus index, and whether it has been marked late. -/
structure LoopSample where
  boundary : Nat
  bank : Nat
  /-- Place in the microcode store of the next word it executes: 4,096 times the microcode bank plus the address (R214). -/
  pc : Nat := 0
  latched : List (Nat × Int) := []
  late : Bool := false
  deriving DecidableEq, Repr

/-- A loop slot of the Rafter engine (R200, R208, R222). -/
structure Loop where
  /-- Coefficient banks of 256 Q2.30 words, kept sparse: word number and value; their seal CRCs. -/
  bank0 : List (Nat × Int) := []
  bank1 : List (Nat × Int) := []
  seal0 : Nat := 0
  seal1 : Nat := 0
  /-- Copy of the active bank in control memory (R209), and its seal CRC. -/
  control : List (Nat × Int) := []
  controlSeal : Nat := 0
  /-- The active bank failed its check and is reloaded at the loop's next boundary (R210). -/
  reload : Bool := false
  /-- State words in 2^-40, nodes in 2^-30, kept sparse. -/
  states : List (Nat × Int) := []
  nodes : List (Nat × Int) := []
  /-- Outputs of the running or last sample, by class times 256 plus index. -/
  outputs : List (Nat × Int) := []
  /-- Pending swap: clear mask, requester, group, boundary in sub-ticks at which it takes effect (R225, R227). -/
  pending : Option (Nat × Nat × Nat × Nat) := none
  /-- The sample that runs, and those whose boundary has passed and that wait for it (R218). -/
  sample : Option LoopSample := none
  waiting : List LoopSample := []
  /-- Boundary of the last sample that ended by its deadline and whose outputs are still to be applied. -/
  ready : Option Nat := none
  lateRun : Nat := 0
  /-- EntryAddress of the loop in the two microcode banks (R215), and its DeclaredCycles in the bank that is not active. -/
  entry0 : Nat := 0
  entry1 : Nat := 0
  otherCycles : Nat := 0
  /-- States at the last microcode swap, where it did not carry them (R231). -/
  formerStates : Option (List (Nat × Int)) := none
  deriving DecidableEq, Repr

/-- A trace channel (R232, R233): samples to skip before the next recorded one, samples with the tick of their boundary,
newest first, samples still to record after the trigger, index of the trigger sample, and the last level seen. -/
structure TraceChannel where
  skip : Nat := 0
  samples : List (Int × Nat) := []
  after : Nat := 0
  trigger : Nat := 0
  last : Option Int := none
  deriving DecidableEq, Repr

/-- The Rafter control engine (chapter "Rafter Control Engine"). -/
structure Rafter where
  loops : List Loop := List.replicate 37 {}
  /-- Published exchange registers. -/
  exchange : List (Nat × Int) := []
  /-- Set-point registers: lane times 64 plus number. -/
  setPoints : List (Nat × Int) := []
  /-- Microcode words of both banks: bank times 4096 plus address. -/
  store : List (Nat × Nat) := []
  /-- Instant in sub-ticks of a microcode swap request (R230); a reversion is due at the next major frame; sub-tick at which
  the health window ends (R231). -/
  swapAt : Option Nat := none
  microSwap : Bool := false
  health : Nat := 0
  /-- The commutation engine holds the last set-point; consecutive samples of slot 36 in time since (R220). -/
  holdSpindle : Bool := false
  goodRun : Nat := 0
  /-- Sub-tick of the last bank check (R210). -/
  checkedAt : Nat := 0
  channels : List TraceChannel := List.replicate 8 {}
  /-- Channels whose image has been read since the trace stopped (R233). -/
  traceRead : Nat := 0
  /-- Applied outputs: milliactuator codes by head, current commands by actuator, and the spindle set-point. -/
  maoOut : List (Nat × Int) := []
  vcmOut : List (Nat × Int) := []
  spindleOut : Int := 0
  /-- Event flags to firmware: lane times 16 plus number. -/
  events : List (Nat × Int) := []
  deriving DecidableEq, Repr

/-- The commutation engine and the spindle (chapter "Spindle Drive and Braking"). -/
structure Spindle where
  /-- Phase of InjectionStart and its start: 0 resolve, 1 polarity, 2 accelerate (R294). -/
  phase : Nat := 0
  phaseStart : Nat := 0
  /-- Rotor angle resolved by injection, in 2^-16 of an electrical cycle; the tick since which the estimate has held, and its angle
  then (R294). -/
  startAngle : Nat := 0
  resolving : Option (Nat × Nat) := none
  /-- A spin-up is under way since Listening was entered at a tick (R292). -/
  starting : Bool := false
  spinUpStart : Nat := 0
  tokenAt : Nat := 0
  slotDelayEnd : Option Nat := none
  /-- Tick of the last commutation event or crossing (R296, R319); the instants in sub-ticks of the last 7 of them, newest first; the
  phases whose crossings have been seen since Listening or Coasting was entered (R288, R293). -/
  lastEvent : Nat := 0
  events : List Nat := []
  seen : List Nat := []
  /-- Six-step's step, numbered from the one that follows an angle of 30 degrees; the present step's crossing accepted; consecutive
  steps without one (R301, R306). -/
  step : Nat := 0
  accepted : Bool := false
  misses : Nat := 0
  /-- Sub-ticks of a step; the instants in sub-ticks of the last accepted crossing, of the present step's crossing as predicted or
  accepted, and of the last commutation (R301). -/
  stepTime : Nat := 0
  crossAt : Nat := 0
  crossNext : Nat := 0
  commutedAt : Nat := 0
  /-- Consecutive crossings that agree with the tracker or the prediction, and the change they bring at the next commutation
  instant (R295, R307). -/
  agree : Nat := 0
  takeOver : Bool := false
  /-- State in which the rotor was lost; steps of 60 degrees in Flywheel (R306). -/
  lostIn : Nat := 0
  flySteps : Nat := 0
  coastStart : Nat := 0
  coastForStop : Bool := false
  retryAt : Nat := 0
  /-- A spin-up asked for in a stop takes effect at the next PWM period (R310). -/
  restart : Bool := false
  /-- Slowed to ReducedSpeed (R309); consecutive major frames within 500 ppm (R290). -/
  slow : Bool := false
  errorRun : Nat := 0
  /-- Speed in 0.001 rpm; current set-point in 2^-30 of full scale (R288). -/
  mrpm : Nat := 0
  setPoint : Int := 0
  gates : Bool := false
  enable : Bool := false
  lowSides : Bool := false
  chopper : Bool := false
  /-- Tick at which the chopper test began (R314). -/
  chopperAt : Nat := 0
  /-- Learning of RotorAngleOffset: the first difference, and the sum and number of the differences from it (R287). -/
  offsetLearnt : Bool := false
  offsetFirst : Int := 0
  offsetSum : Int := 0
  offsetCount : Nat := 0
  /-- The last PWM period's shifts, for its compensation: the phases of most and least duty and the shortfalls, in 2^-28 of the period;
  last two shunt samples, and the predicted current in use (R304, R305). -/
  shifted : Option (Nat × Int × Nat × Int) := none
  lastSamples : Int × Int := (0, 0)
  predicted : Int := 0
  /-- Zero-vector pulse in this period, and a pause at OV1 (R317). -/
  zeroPulse : Bool := false
  ov1Pause : Bool := false
  /-- Last bus sample, chopper current, and consecutive rises while BRK is driven (R316). -/
  busSample : Nat := 0
  chopperCurrent : Nat := 0
  busRise : Nat := 0
  /-- Power loss (R311 to R313): its tick, what held at its detection, and actuators whose staggered park is still to start. -/
  powerLost : Bool := false
  lossTick : Nat := 0
  lossParks : List Nat := []
  lossMargin : Int := 0
  lossLoaded : Nat := 0
  lossAppended : Bool := false
  /-- Braking: its start, and its cause, 1 power loss, 2 S3, 3 S4 (R319, R320, R452). -/
  brakeStart : Nat := 0
  brakeCause : Nat := 0
  /-- Sine table as written; empty for the default one (R303). -/
  sine : List Nat := []
  /-- Angle from the clock track in 2^-30 revolution, the 240 kHz boundary in sub-ticks of the next update, whether a head supplies it,
  consecutive missed updates, and the angle at the last major frame (R286, R288, R460). -/
  theta : Int := 0
  angleDue : Option Nat := none
  headAngle : Bool := false
  angleMisses : Nat := 0
  frameTheta : Option Int := none
  /-- IndexAngle of each head in 2^-32 revolution. -/
  indexAngles : List (Nat × Nat) := []
  deriving DecidableEq, Repr

/-- A surge request: priority 1 spin-up, 2 load, 3 level raise, 4 heater; its unit; its units of current (R458). -/
structure Surge where
  priority : Nat
  item : Nat
  units : Nat
  deriving DecidableEq, Repr

/-- Power, levels, sleep and the surge budget (chapter "Power, Performance Levels"). -/
structure Power where
  /-- Level whose ceiling is in force (it may differ from 5820h.01, R447). -/
  ceiling : Nat := 4
  /-- Voltage change in progress: 0 none, 1 raise, 2 lowering, 3 ageing raise; its target level. -/
  stepKind : Nat := 0
  stepTarget : Nat := 0
  /-- Waits: 0 none, 1 surge, 2 acknowledgement, 3 settle, 5 boundary stop. -/
  stepWait : Nat := 0
  avsRequest : Nat := 0
  avsSent : Nat := 0
  avsFails : Nat := 0
  retryAt : Nat := 0
  settleEnd : Nat := 0
  /-- A failed lowering goes back to the old level; the outstanding request is a read (R447). -/
  restoring : Bool := false
  readBack : Bool := false
  /-- End of the hold of a raise's surge grant (R445). -/
  surgeReturnAt : Option Nat := none
  thermalAt : Nat := 0
  /-- Block 1 to 8 quiescing now, start of the prepare phase, and of the spindle block's braking (R452). -/
  block : Nat := 0
  prepareStart : Nat := 0
  spindleStart : Nat := 0
  /-- The target is taken again only after a change of request or SleepIdleTime from this tick (R451, R453). -/
  idleSince : Nat := 0
  blocked : Bool := false
  wakeAt : Option Nat := none
  heldWake : Nat := 0
  granted : List Surge := []
  queue : List Surge := []
  /-- Actuators in a narrow pass (R161, R442). -/
  narrowPass : List Nat := []
  /-- Actuator first served in the last admission (R442). -/
  firstServed : Nat := 3
  /-- A replica measurement is due; tick of the last one that a deadline miss asked for (R461, R462). -/
  measureDue : Bool := false
  lastDeadlineMeasure : Nat := 0
  /-- Planned counts of the 64 monitors by level, from the ageing plan (R463, R511). -/
  plans : List (Nat × List Nat) := []
  /-- Levels measured in the start-up's steps so far (R462). -/
  stepped : Nat := 0
  marginAt : Nat := 0
  overTemperature : Bool := false
  deriving DecidableEq, Repr

/-- A firmware slot (R517, R520). -/
structure FwSlot where
  valid : Bool := false
  /-- 1 staged, 2 the set the last activation replaced, 0 otherwise. -/
  kind : Nat := 0
  /-- Slot header: the manifest, the matrix and the signature block of the Crate that filled the slot (R517, R520). -/
  header : List Nat := []
  /-- Images of components 1 to 6. -/
  images : List (List Nat) := []
  deriving DecidableEq, Repr

/-- Firmware, boot record, owner lock (chapter "Firmware Update"). -/
structure Firmware where
  /-- Slots 1 and 2; as manufactured, slot 1 holds the set that runs. -/
  slots : List FwSlot := [{ valid := true, header := Config.factory 0, images := [1, 2, 3, 4, 5, 6].map Config.factory }, {}]
  active : Nat := 1
  /-- The Crate in the staging area, as far as it is received (R525); it has been started and not yet staged. -/
  crate : List Nat := []
  started : Bool := false
  /-- The image was downloaded by a port that holds the Firmware key implicitly for it (R327): its holder code. -/
  downloadHolder : Nat := 0
  /-- Staging under way: holder, the Crate it stages, and the Commit (port, cid), none for a run of 6001h. -/
  staging : Option (Nat × List Nat × Option (Nat × Nat)) := none
  /-- Activation (R531): 0 none, 1 armed, 2 draining, 3 waiting for the pulse, 4 in its steps. -/
  phase : Nat := 0
  /-- 1 immediate, 2 scheduled; holder; Commit (port, cid) that waits; it is a run of 6012h. -/
  kind : Nat := 0
  holder : Nat := 0
  commit : Option (Nat × Nat) := none
  run : Bool := false
  pulse : Nat := 0
  pulseSeen : Bool := false
  /-- Components still to switch, and those switched, latest first. -/
  steps : List Nat := []
  doneSteps : List Nat := []
  firedAt : Nat := 0
  stepStart : Nat := 0
  /-- Tick since which a failing motion guard is waited on at the end of the drain (R530). -/
  motionWait : Option Nat := none
  /-- A reset cut what was armed (1) or under way (2): recorded at this boot (R533, R535). -/
  cut : Nat := 0
  ownerChallenge : Nat := 0
  fusedVersion : Nat := 0
  ownerKeySet : Bool := true
  /-- Recovery state and boot halt (R548). -/
  recovery : Bool := false
  halted : Bool := false
  /-- Digests 1 to 9 of the last run of the chain, and its value (R538). -/
  measurements : List Nat := []
  chain : Nat := 0
  deriving DecidableEq, Repr

/-- SPDM responders, Trapdoor (R346 to R348, R482 to R486). Transports: 0, 1 MCTP on HP0, HP1; 2, 3 Security Send on HP0,
HP1. -/
structure Security where
  /-- Per transport: 0 none, 1 version, 2 capabilities, 3 algorithms. -/
  negotiated : List Nat := [0, 0, 0, 0]
  /-- A response of Security Send waits for its Security Receive: name and content. -/
  waiting : List (Option (Nat × List Nat)) := [none, none, none, none]
  /-- An activation ended the negotiated state; GET_VERSION ends this (R348). -/
  resync : List Bool := [false, false, false, false]
  trapdoorChallenge : Nat := 0
  deriving DecidableEq, Repr

/-- DBG port: boundary scan and the token register (R579). -/
structure Dbg where
  instruction : Nat := 2
  boundary : Nat := 0
  captured : Nat := 0
  drive : Nat := 0
  tokenStatus : Nat := 0
  deriving DecidableEq, Repr

/-- Fuse shadow, straps and supplies (R22, R581, R589). -/
structure Platform where
  /-- 0 VZ-RX2448, 1 VZ-RX1224, 2 VZ-RX0612 (R553). -/
  variant : Nat := 0
  straps : Nat := 128
  supplies : Nat := 0
  vregEnable : Bool := false
  /-- VDD_CORE start (R589): VREG_EN's rise, failed attempts, a start under way, and whether it is an exit from S4. -/
  coreStart : Nat := 0
  coreAttempts : Nat := 0
  coreWait : Bool := false
  fromSleep : Bool := false
  /-- Start-up runs after 1 a power-up, 2 a fault reset; its step 7 has ended (R546, R552). -/
  bootKind : Nat := 1
  recovered : Bool := false
  /-- Subsystem Vendor ID and Subsystem ID of both functions, read from 5002h.03 and 5002h.04 as the Loft domain came up (R323). -/
  subsystemIds : Nat × Nat := (0, 0)
  deriving DecidableEq, Repr

/-- The machine. Values of dictionary objects are `objs` (keys strictly rising, no entry equal to its default) and
`blobs`; everything else has a field of its own. -/
structure State where
  /-- Rim timebase, which the Loft domain counts (R18, R32). -/
  tick : Nat := 0
  /-- The model's own counter: the number of free values taken so far. -/
  freeIx : Nat := 0
  /-- Commands waiting, first in, first out. -/
  pending : List Instr := []
  /-- Messages sent outward, newest first. -/
  outbox : List Output := []
  objs : List (Nat × Int) := []
  blobs : List (Nat × List Nat) := []
  platform : Platform := {}
  keys : List KeySlot := List.replicate 16 {}
  faults : Faults := {}
  shelf : Shelf := {}
  trunk : Trunk := {}
  wall : Wall := {}
  mb : MgmtBus := {}
  ports : List Port := [{}, {}]
  sub : Subsystem := {}
  cmds : Commands := {}
  larder : Larder := {}
  layout : Layout := {}
  links : Links := {}
  heads : List Head := List.replicate 24 {}
  acts : List Act := List.replicate 4 {}
  pos : Positioning := {}
  detect : Detect := {}
  write : WritePath := {}
  rafter : Rafter := {}
  spindle : Spindle := {}
  power : Power := {}
  fw : Firmware := {}
  sec : Security := {}
  dbg : Dbg := {}
  deriving DecidableEq, Repr

/-- The machine when the Loft domain has come up: every field at its default, every object at the default of its
row. -/
def State.reset : State := {}

/-- Why the machine stops. -/
inductive Fault where
  /-- Raised by the microcode meanings for an instruction whose fields select a reserved encoding (R211, R213): the
  spec refuses such a set at admission (R216) and gives the instruction no effect. Safe: the machine stops where the
  hardware never runs. -/
  | reservedMicrocode
  deriving DecidableEq, Repr

/-- Why the machine refuses a command. -/
inductive Refusal where
  /-- Raised by the dispatcher for a command without a meaning. Safe: nothing is claimed about it. -/
  | notModelled (mnemonic : String)
  deriving DecidableEq, Repr

end Sys2Proof.Machine
end

