-- ==== Sys2Proof/Machine/Ops.lean ====
section
/-! DEFINITION. Named operations on the state: dictionary values, units present, free values, the records, the FAULT
pin and messages. -/

namespace Sys2Proof.Machine

/-! ### Dictionary values -/

/-- The row of an object key. -/
def findRow (k : Nat) : Option ObjRow :=
  objTable.find? fun r => decide (r.key ≤ k) && decide (k < r.key + r.count)

/-- Default identifier of a communication object, to which the node-ID is added (R428, R433, R437). -/
def cobBase (k : Nat) : Option Nat :=
  if k = O.emcyCobId then some 0x80
  else if k = O.tpdo1CobId then some 0x180
  else if k = O.tpdo2CobId then some 0x280
  else if k = O.tpdo3CobId then some 0x80000380
  else if k = O.tpdo4CobId then some 0x80000480
  else if k = O.rpdo1CobId then some 0x80000200
  else if k = O.rpdo2CobId then some 0x80000300
  else none

/-- Defaults that differ by entry: reaction masks (R473), default TPDO mappings (R433), level voltages and ceilings
(R438). An identifier at its default is held as -1 and read as `State.defaultCob` says. -/
def entryDefault (k : Nat) : Option Int :=
  if k = O.reactionMask then some 1
  else if k = O.reactionMask + 1 then some 3
  else if k = O.reactionMask + 2 then some 15
  else if k = O.reactionMask + 3 then some 31
  else if O.levelNominalVoltage ≤ k ∧ k < O.levelNominalVoltage + 6 then
    some (600 + 50 * ((k - O.levelNominalVoltage : Nat) : Int))
  else if O.tokenCeiling ≤ k ∧ k < O.tokenCeiling + 6 then some (800 + 300 * ((k - O.tokenCeiling : Nat) : Int))
  else if (cobBase k).isSome then some (-1)
  else if k = O.tpdo1Map then some 0x48700308
  else if k = O.tpdo1Map + 1 then some 0x48000108
  else if k = O.tpdo1Map + 2 then some 0x58100108
  else if k = O.tpdo1Map + 3 then some 0x58200108
  else if k = O.tpdo1Map + 4 then some 0x34100120
  else if k = O.tpdo1Map + 5 then some 0x60100108
  else if k = O.tpdo2Map then some 0x48600620
  else if k = O.tpdo2Map + 1 then some 0x48000210
  else if k = O.tpdo2Map + 2 then some 0x10010008
  else none

/-- Default of an object key (R10): the value it has when nothing has written it. -/
def objDefault (k : Nat) : Int :=
  match entryDefault k with
  | some v => v
  | none =>
    match findRow k with
    | some r => r.dflt
    | none => 0

/-- Value of a key in a store whose unlisted keys read as `d`. -/
def storeGet (d : Nat → Int) (l : List (Nat × Int)) (k : Nat) : Int :=
  match l with
  | [] => d k
  | (k', v) :: r => if k = k' then v else storeGet d r k

/-- `l` with `(k, v)` placed before the first entry of a greater key. -/
def storeInsert (l : List (Nat × Int)) (k : Nat) (v : Int) : List (Nat × Int) :=
  match l with
  | [] => [(k, v)]
  | (k', v') :: r => if k < k' then (k, v) :: (k', v') :: r else (k', v') :: storeInsert r k v

/-- Store with `k` set to `v`, in canonical form: an entry equal to the default is not listed. -/
def storePut (d : Nat → Int) (l : List (Nat × Int)) (k : Nat) (v : Int) : List (Nat × Int) :=
  let rest := l.filter fun p => p.1 ≠ k
  if v = d k then rest else storeInsert rest k v

/-- The canonical form: keys strictly rising and no entry equal to its default. -/
def storeWf (d : Nat → Int) (l : List (Nat × Int)) : Bool :=
  match l with
  | [] => true
  | (k, v) :: r => decide (v ≠ d k) && (r.all fun p => decide (k < p.1)) && storeWf d r

/-- Stored value of an object entry. -/
def State.obj (s : State) (k : Nat) : Int := storeGet objDefault s.objs k

/-- Stored value of an object entry of an unsigned type. -/
def State.nat (s : State) (k : Nat) : Nat := (s.obj k).toNat

/-- State with the stored value of an object entry replaced. -/
def State.setObj (s : State) (k : Nat) (v : Int) : State := { s with objs := storePut objDefault s.objs k v }

/-- State with the stored value of an object entry replaced by a natural number. -/
def State.setNat (s : State) (k v : Nat) : State := s.setObj k (v : Int)

/-- Bytes of a DOMAIN or VISIBLE_STRING that has no field of its own. -/
def State.blob (s : State) (k : Nat) : List Nat := (assoc? s.blobs k).getD []

/-- State with the bytes of a DOMAIN or VISIBLE_STRING replaced. -/
def State.setBlob (s : State) (k : Nat) (b : List Nat) : State := { s with blobs := putKey s.blobs k b }

/-! ### Free values and messages -/

/-- The next free value, and the state that has taken it (log entry 2). -/
def State.takeFree (s : State) : Nat × State := (Config.freeValue s.freeIx, { s with freeIx := s.freeIx + 1 })

/-- State after one outward message. -/
def State.emit (s : State) (o : Output) : State := { s with outbox := o :: s.outbox }

/-- Counters that stay at their greatest value (R106); the spec states no result for any other counter there. -/
def saturates (k : Nat) : Bool :=
  decide (O.rslHeaderErrors ≤ k) && decide (k < O.rslRetrains + 72)

/-- Greatest value of an unsigned object's type. -/
def typeMax (k : Nat) : Nat :=
  match findRow k with
  | some r => 2 ^ (8 * r.ty.size) - 1
  | none => 0

/-- One more event on a counter object. At the greatest value of its type a link counter stays (R106), and any other
takes a free value (log entry 4). -/
def State.bump (s : State) (k : Nat) : State :=
  if s.nat k < typeMax k then s.setNat k (s.nat k + 1)
  else if saturates k then s
  else
    let (v, s) := s.takeFree
    s.setNat k (v % (typeMax k + 1))

/-- `n` more events on a counter object. -/
def State.bumpBy (s : State) (k : Nat) : Nat → State
  | 0 => s
  | n + 1 => (s.bump k).bumpBy k n

/-! ### Units present (R1, R553) -/

/-- Actuators of the variant. -/
def State.actCount (s : State) : Nat :=
  if s.platform.variant = 0 then 4 else if s.platform.variant = 1 then 2 else 1

/-- Heads of the variant. -/
def State.headCount (s : State) : Nat := 6 * s.actCount

/-- Host ports of the variant. -/
def State.portCount (s : State) : Nat := if s.platform.variant = 2 then 1 else 2

/-- Whether a head is in the variant (R553, R554). -/
def State.hasHead (s : State) (h : Nat) : Bool := decide (h < s.headCount)

/-- Whether an actuator is in the variant. -/
def State.hasAct (s : State) (a : Nat) : Bool := decide (a < s.actCount)

/-- Whether a host port is in the variant. -/
def State.hasPort (s : State) (p : Nat) : Bool := decide (p < s.portCount)

/-- Whether a Rafter loop slot is in the variant (R200). -/
def State.hasSlot (s : State) (n : Nat) : Bool := decide (n = 36) || decide (n < 9 * s.actCount)

/-- Actuator of a head or surface (R7, R84). -/
def actOf (h : Nat) : Nat := h / 6

/-- Head numbers of an actuator. -/
def headsOf (a : Nat) : List Nat := (List.range 6).map (6 * a + ·)

/-! ### Units' records -/

/-- State of a head. -/
def State.head (s : State) (h : Nat) : Head := s.heads.getD h {}

/-- State with a head changed. -/
def State.modHead (s : State) (h : Nat) (f : Head → Head) : State := { s with heads := s.heads.modify h f }

/-- State of an actuator. -/
def State.act (s : State) (a : Nat) : Act := s.acts.getD a {}

/-- State with an actuator changed. -/
def State.modAct (s : State) (a : Nat) (f : Act → Act) : State := { s with acts := s.acts.modify a f }

/-- State of a host port. -/
def State.port (s : State) (p : Nat) : Port := s.ports.getD p {}

/-- State with a host port changed. -/
def State.modPort (s : State) (p : Nat) (f : Port → Port) : State := { s with ports := s.ports.modify p f }

/-- State of a data stream. -/
def State.stream (s : State) (n : Nat) : Stream := s.detect.streams.getD n {}

/-- State with a data stream changed. -/
def State.modStream (s : State) (n : Nat) (f : Stream → Stream) : State :=
  { s with detect := { s.detect with streams := s.detect.streams.modify n f } }

/-- State of a Rafter loop. -/
def State.loop (s : State) (n : Nat) : Loop := s.rafter.loops.getD n {}

/-- State with a Rafter loop changed. -/
def State.modLoop (s : State) (n : Nat) (f : Loop → Loop) : State :=
  { s with rafter := { s.rafter with loops := s.rafter.loops.modify n f } }

/-- Position of a set-point register: lane times 64 plus number (R208, R245). -/
def State.setPoint (s : State) (a n : Nat) (v : Int) : State :=
  { s with rafter := { s.rafter with setPoints := putKey s.rafter.setPoints (64 * a + n) v } }

/-- State of a control link. -/
def State.pcl (s : State) (k : Nat) : Pcl := s.links.pcls.getD k {}

/-- State with a control link changed. -/
def State.modPcl (s : State) (k : Nat) (f : Pcl → Pcl) : State :=
  { s with links := { s.links with pcls := s.links.pcls.modify k f } }

/-- State of a reader link. -/
def State.rsl (s : State) (n : Nat) : Rsl := s.links.rsls.getD n {}

/-- State with a reader link changed. -/
def State.modRsl (s : State) (n : Nat) (f : Rsl → Rsl) : State :=
  { s with links := { s.links with rsls := s.links.rsls.modify n f } }

/-- State of a writer link. -/
def State.wrl (s : State) (n : Nat) : Wrl := s.links.wrls.getD n {}

/-- State with a writer link changed. -/
def State.modWrl (s : State) (n : Nat) (f : Wrl → Wrl) : State :=
  { s with links := { s.links with wrls := s.links.wrls.modify n f } }

/-- State of a management-bus port. -/
def State.bus (s : State) (b : Nat) : BusPort := s.mb.ports.getD b {}

/-- State with a management-bus port changed. -/
def State.modBus (s : State) (b : Nat) (f : BusPort → BusPort) : State :=
  { s with mb := { s.mb with ports := s.mb.ports.modify b f } }

/-- State of a key. -/
def State.key (s : State) (k : Nat) : KeySlot := s.keys.getD k {}

/-- State with a key changed. -/
def State.modKey (s : State) (k : Nat) (f : KeySlot → KeySlot) : State := { s with keys := s.keys.modify k f }

/-- Holder of a key: 0 free, 1 HP0, 2 HP1, 3 MB (R420). -/
def KeySlot.holder (k : KeySlot) : Nat := if k.explicit ≠ 0 then k.explicit else k.implicit

/-- State with a firmware slot changed (slot 1 or 2). -/
def State.modFwSlot (s : State) (n : Nat) (f : FwSlot → FwSlot) : State :=
  { s with fw := { s.fw with slots := s.fw.slots.modify (n - 1) f } }

/-- A firmware slot (slot 1 or 2). -/
def State.fwSlot (s : State) (n : Nat) : FwSlot := s.fw.slots.getD (n - 1) {}

/-- Image of component 1 to 6 in a slot (R517). -/
def FwSlot.image (f : FwSlot) (c : Nat) : List Nat := f.images.getD (c - 1) []

/-- Field of a component's entry in a slot's manifest, at a byte of the entry (R520, R521). -/
def FwSlot.entryField (f : FwSlot) (c at_ n : Nat) : Nat := field f.header (32 + 120 * (c - 1) + at_) n

/-- Place of a component in the activation order; 0 unchanged. -/
def FwSlot.order (f : FwSlot) (c : Nat) : Nat := f.entryField c 1 1

/-- Interface version of a component. -/
def FwSlot.iface (f : FwSlot) (c : Nat) : Nat := f.entryField c 4 2

/-- Security version of a component. -/
def FwSlot.security (f : FwSlot) (c : Nat) : Nat := f.entryField c 8 4

/-- Revision and SetSecurityVersion of a set (R520). -/
def FwSlot.revision (f : FwSlot) : Nat := field f.header 8 8

def FwSlot.securityVersion (f : FwSlot) : Nat := field f.header 16 4

/-- The detector-tables image that the detectors and the decoder pool run on (R145, R531). -/
def State.tables (s : State) : List Nat := (s.fwSlot s.detect.tables).image 6

/-- State with `f` applied for each number of a list. -/
def State.each (s : State) (l : List Nat) (f : State → Nat → State) : State := l.foldl f s

/-! ### Wall time (R500) -/

/-- Wall time in milliseconds: the base advanced by the timebase and by the part of a slew already run, 500 ppm of
the elapsed time; all ones while unset. -/
def State.wallTime (s : State) : Nat :=
  if s.wall.set then
    let elapsed := s.tick - s.wall.baseTick
    let drift : Int := (elapsed * 500 / 1000000000 : Nat)
    let slewed := if s.wall.slew < 0 then max s.wall.slew (-drift) else min s.wall.slew drift
    ((s.wall.base : Int) + (elapsed / 1000 : Nat) + slewed).toNat
  else 2 ^ 64 - 1

/-! ### Fault states (R467 to R470) -/

/-- Whether the catalogue of R468 assigns a source number and its unit is in the variant (R467). -/
def State.sourcePresent (s : State) (n : Nat) : Bool :=
  if n < 14 then true
  else if n < 32 then false
  else if n < 36 then s.hasAct (n - 32)
  else if n < 40 then s.hasAct (n - 36)
  else if n < 47 then true
  else if n < 49 then s.hasPort (n - 47)
  else if n = 49 then true
  else if n < 64 then false
  else if n < 136 then s.hasHead ((n - 64) / 3)
  else if n < 160 then s.hasHead (n - 136)
  else if n < 168 then s.hasHead (3 * (n - 160))
  else if n < 176 then s.hasHead (3 * (n - 168))
  else if n < 200 then s.hasHead (n - 176)
  else if n < 209 then true
  else if n < 224 then false
  else if n < 232 then true
  else if n < 240 then false
  else if n < 272 then s.hasAct ((n - 240) / 8) && decide ((n - 240) % 8 ≠ 7)
  else if n < 280 then true
  else if n < 304 then false
  else if n < 306 then s.hasPort (n - 304)
  else if n < 308 then s.hasPort (n - 306)
  else if n = 308 then true
  else if n < 336 then false
  else if n < 343 then true
  else if n < 368 then false
  else decide (n < 374)

/-- Condition sources of the catalogue (kind C); every other source is an event source (R468, R470). -/
def isCondition (n : Nat) : Bool :=
  decide (n = 10 ∨ n = 11 ∨ (64 ≤ n ∧ n ≤ 175) ∨ n = 201 ∨ (203 ≤ n ∧ n ≤ 207) ∨ n = 227 ∨ n = 230 ∨ n = 231 ∨
    (240 ≤ n ∧ n < 272 ∧ ((n - 240) % 8 = 1 ∨ (n - 240) % 8 = 6)) ∨ n = 275 ∨ n = 277 ∨ n = 306 ∨ n = 307 ∨
    (336 ≤ n ∧ n ≤ 340) ∨ n = 368)

/-- Severity key of a source (R472, R490). -/
def severityKey (n : Nat) : Nat := if n < 192 then O.severityLow + n else O.severityHigh + (n - 192)

/-- Count key of a source (R490). -/
def faultCountKey (n : Nat) : Nat := if n < 192 then O.faultCountLow + n else O.faultCountHigh + (n - 192)

/-- The standing fault of a source. -/
def State.standing? (s : State) (n : Nat) : Option Standing := s.faults.standing.find? fun f => f.src = n

/-- State code of a source: 0 absent, 1 clear, 2 standing and active, 3 standing and ended (R490). -/
def State.faultState (s : State) (n : Nat) : Nat :=
  if s.sourcePresent n then
    match s.standing? n with
    | some f => if f.active then 2 else 3
    | none => 1
  else 0

/-- Actuator mask of a raising (R474): the actuator it belongs to, or every actuator of the variant. -/
def State.raisingActs (s : State) (n cause : Nat) : Nat :=
  let all := 2 ^ s.actCount - 1
  let one (a : Nat) : Nat := if a < s.actCount then 2 ^ a else all
  if 32 ≤ n ∧ n < 36 then one (n - 32)
  else if 36 ≤ n ∧ n < 40 then one (n - 36)
  else if n = 42 ∨ n = 43 then one (actOf (cause / 2))
  else if n = 44 then one (actOf (cause / 3))
  else if n = 45 then one (actOf cause)
  else if 64 ≤ n ∧ n < 136 then one (actOf ((n - 64) / 3))
  else if 136 ≤ n ∧ n < 160 then one (actOf (n - 136))
  else if 160 ≤ n ∧ n < 168 then one ((n - 160) / 2)
  else if 168 ≤ n ∧ n < 176 then one ((n - 168) / 2)
  else if 176 ≤ n ∧ n < 200 then one (actOf (n - 176))
  else if n = 200 ∨ (202 ≤ n ∧ n ≤ 208) ∨ n = 228 then one (actOf cause)
  else if (n = 224 ∨ n = 225 ∨ n = 229) ∧ cause < 36 then one (cause / 9)
  else if 240 ≤ n ∧ n < 272 then one ((n - 240) / 8)
  else all

/-! ### Units (R407, R467) -/

/-- Arrays by unit: first and last index, and the kind of unit: 0 RSL, 1 head, 2 stream, 3 control link or chip,
4 actuator, 5 loop slot, 6 host port. -/
def unitArrays : List (Nat × Nat × Nat) :=
  [(0x3100, 0x3106, 0), (0x3110, 0x3112, 1), (0x3120, 0x3122, 3), (0x3123, 0x3123, 1), (0x3124, 0x3124, 3),
   (0x3201, 0x3207, 1), (0x3212, 0x3213, 2), (0x3232, 0x3233, 2), (0x3241, 0x3242, 2), (0x3302, 0x3302, 1),
   (0x3401, 0x3404, 1), (0x3801, 0x3802, 1), (0x3811, 0x3811, 1), (0x4001, 0x4006, 1), (0x4007, 0x4008, 4),
   (0x4009, 0x4009, 1), (0x4011, 0x4015, 1), (0x4031, 0x4032, 4), (0x4041, 0x4043, 1), (0x4101, 0x410A, 5),
   (0x5000, 0x5001, 6), (0x5003, 0x5004, 6), (0x5110, 0x5112, 4), (0x2010, 0x2011, 1), (0x2012, 0x2013, 4),
   (0x2220, 0x2220, 4)]

/-- Whether entry `i` (from 0) of a kind of unit is in the variant. -/
def State.unitPresent (s : State) (kind i : Nat) : Bool :=
  match kind with
  | 0 => s.hasHead (i / 3)
  | 1 => s.hasHead i
  | 2 => s.hasHead (i / 2)
  | 3 => s.hasHead (3 * i)
  | 4 => s.hasAct i
  | 5 => s.hasSlot i
  | _ => s.hasPort i

/-- State arrays whose encoding includes an Absent value: they stay readable for an absent unit (R407). -/
def readsAbsent (index : Nat) : Bool :=
  decide (index ∈ [0x3100, 0x3110, 0x3120, 0x3201, 0x4001, 0x4101, 0x5003, 0x2010, 0x2012, 0x5C12, 0x5C13])

/-- Whether the unit a key describes is absent in the variant, where that makes the key absent (R407, R467). -/
def State.keyUnitAbsent (s : State) (k : Nat) : Bool :=
  let index := k / 256
  let sub := k % 256
  if readsAbsent index ∨ sub = 0 then false
  else if index = 0x5C10 ∨ index = 0x5C14 then !s.sourcePresent (sub - 1)
  else if index = 0x5C11 ∨ index = 0x5C15 then !s.sourcePresent (192 + (sub - 1))
  else
    match unitArrays.find? fun r => decide (r.1 ≤ index) && decide (index ≤ r.2.1) with
    | some (_, _, kind) => !s.unitPresent kind (sub - 1)
    | none => false

/-- Value of a state array for an absent unit: Absent (R407). -/
def State.absentState (s : State) (k : Nat) : Bool :=
  let index := k / 256
  let sub := k % 256
  readsAbsent index && decide (sub ≠ 0) && decide (index ≠ 0x5C12) && decide (index ≠ 0x5C13) &&
    decide (index ≠ 0x5003) &&
    (match unitArrays.find? fun r => decide (r.1 ≤ index) && decide (index ≤ r.2.1) with
    | some (_, _, kind) => !s.unitPresent kind (sub - 1)
    | none => false)

/-- Whether an index is served: in Trapdoor mode only for 6400h to 64FFh (R406, R486, R487), and only the reduced dictionary
in the recovery state (R548). -/
def State.indexServed (s : State) (index : Nat) : Bool :=
  let listed := objTable.any fun r => decide (r.key / 256 = index)
  let trap := decide (0x6400 ≤ index ∧ index ≤ 0x64FF)
  let reduced := decide ((0x1000 ≤ index ∧ index ≤ 0x2015) ∨ index = 0x6000 ∨ index = 0x6001 ∨
    (0x6040 ≤ index ∧ index ≤ 0x6044) ∨ index = 0x6070)
  listed && (!trap || decide (s.nat O.trapdoorState = 2)) && (!s.fw.recovery || reduced)

/-- Highest sub-index present of an index, the value of its sub-index 00h (R8, R407). -/
def highestSub (index : Nat) : Nat :=
  (objTable.filter fun r => decide (r.key / 256 = index)).foldl (fun m r => max m (r.key % 256 + r.count - 1)) 0

/-- Whether a key is the sub-index 00h of a record or array, which holds the highest sub-index (R8). -/
def isCountKey (k : Nat) : Bool :=
  decide (k % 256 = 0) && (findRow k).isNone && decide (highestSub (k / 256) ≠ 0)

/-! ### Dictionary values computed from other state -/

/-- Detection capacity of a level in 0.1 Gbit/s: token-rate ceiling in MHz times DetectionRatio (R30, R438). -/
def levelCapacity (level : Nat) : Nat := (800 + 300 * level) * 1392 / 1000

/-- Derating in hundredths at a case temperature in 0.1 degree (R441). -/
def derating (t : Int) : Nat := if t ≤ 850 then 100 else 100 - ((t + 9) / 10 - 85).toNat

/-- Bits of ErrorRegister (R435). -/
def State.errorRegister (s : State) : Nat :=
  let high := s.faults.standing.any fun f => decide (2 ≤ f.severity)
  let bad (b : Nat) : Bool := decide (2 ≤ s.nat (O.busState + b))
  let degraded := s.faults.standing.any fun f => decide (f.severity = 1)
  (if high then 1 else 0) + (if bad 0 || bad 1 then 16 else 0) + (if degraded then 128 else 0)

/-- Controller state code of a port (R349). -/
def State.controllerState (s : State) (p : Nat) : Nat :=
  if ¬ s.hasPort p then 0
  else if (s.port p).draining then 4
  else if (s.port p).shutdown = 2 then 3
  else if (s.port p).ready then 2
  else 1

/-- Contexts a port holds (R350). -/
def State.ctxUse (s : State) (p : Nat) : Nat := (s.cmds.ctxs.filter fun c => c.port = p).length

/-- Contexts free in the shared pool (R350). -/
def State.sharedFree (s : State) : Nat :=
  let excess (p : Nat) : Nat := s.ctxUse p - 4096
  40960 - 4096 * s.portCount - ((List.range s.portCount).map excess).sum

/-- Whether a Cellar slot is not retired; an abandoned slot counts as retired (R367). -/
def CellarSlot.live (c : CellarSlot) : Bool := decide (c.stage < 4)

/-- Watermark of an actuator (R367). -/
def State.watermark (s : State) (a : Nat) : Nat :=
  ((s.cmds.slots.filter fun c => decide (c.act = a) && c.live).map CellarSlot.seq).foldl min (s.cmds.nextSlot.getD a 1)

/-- Zone entry of a surface (R60). -/
def State.zoneOf (s : State) (surface zone : Nat) : Option ZoneEntry :=
  match s.layout.tables.find? fun t => t.surface = surface with
  | some t => t.entries[zone]?
  | none => none

/-- Positions of a ring: CellarLanes times 2 times SectorsPerTrack of its zone (R363). Ring 6z + i lies on local
surface i in the z-th Cellar zone. -/
def State.ringSize (s : State) (a ring : Nat) : Nat :=
  let surface := 6 * a + ring % 6
  match s.layout.tables.find? fun t => t.surface = surface with
  | some t =>
    match (t.entries.filter fun e => decide (0 < e.cellarLanes))[ring / 6]? with
    | some e => e.cellarLanes * 2 * e.sectorsPerTrack
    | none => 0
  | none => 0

/-- Next free position of a ring. -/
def State.ringNext (s : State) (a ring : Nat) : Nat := (assoc? s.cmds.ringHead (24 * a + ring)).getD 0

/-- Positions of a ring in use: from its oldest slot not yet freed to its next free position, with those skipped at the
end of a track (R363, R367). -/
def State.ringUsed (s : State) (a ring : Nat) : Nat :=
  match s.cmds.slots.find? fun c => decide (c.act = a) && decide (c.ring = ring) with
  | none => 0
  | some c =>
    let size := s.ringSize a ring
    let d := (s.ringNext a ring + size - c.first) % size
    if d = 0 then size else d

/-- Free sectors of an actuator's 24 rings (5110h). -/
def State.cellarFree (s : State) (a : Nat) : Nat :=
  ((List.range 24).map fun r => s.ringSize a r - s.ringUsed a r).sum

/-- Identifier a communication object reads while it is at its default, which follows the node-ID. -/
def State.defaultCob (s : State) (k : Nat) : Option Nat :=
  if s.obj k = -1 then (cobBase k).map (· + if s.mb.nodeId = 255 then 0 else s.mb.nodeId) else none

/-- Domain stripes of a surface's actuator (R74). -/
def State.surfaceStripes (s : State) (surface : Nat) : Nat := s.nat (O.domainCapacityA + actOf surface) / 384

/-- Surface and stripe of a ledger key. -/
def splitKey (k : Nat) : Nat × Nat := (k / 2 ^ 32, k % 2 ^ 32)

/-- Ledger entries that are untrusted (R189, R194): those listed so, and those of doubted pages that are not listed. -/
def State.untrustedCount (s : State) : Nat :=
  let w := s.write
  let listed := (w.ledger.filter fun e => !e.2.trusted).length
  let inPage (p : Nat × Nat) : Nat := (w.ledger.filter fun e => decide ((splitKey e.1).1 = p.1) && decide ((splitKey e.1).2 / 1792 = p.2)).length
  if w.doubtAll then
    let all := ((List.range s.headCount).map s.surfaceStripes).sum
    all - (w.ledger.filter fun e => e.2.trusted).length
  else
    listed + (w.doubt.map fun p => min 1792 (s.surfaceStripes p.1 - 1792 * p.2) - inPage p).sum

/-- Device ID of the variant (R553). -/
def State.deviceId (s : State) : Nat := if s.platform.variant = 0 then 0x2448 else if s.platform.variant = 1 then 0x1224 else 0x0612

/-- IDCODE of DBG: die revision, Device ID, JEDEC identity, 1 (R579). -/
def State.idCode (s : State) : Nat :=
  Config.identity 6 % 16 * 2 ^ 28 + s.deviceId * 2 ^ 12 + Config.identity 16 % 2048 * 2 + 1

/-- Values of objects that the device computes from other state; none where the object stores its own value. -/
def State.computed (s : State) (k : Nat) : Option Int :=
  let inArr (base n : Nat) : Bool := decide (base ≤ k) && decide (k < base + n)
  let nat (v : Nat) : Option Int := some (v : Int)
  let fenced (h : Nat) : Bool := decide (s.nat (O.headService + h) = 3)
  if k = O.errorRegister then nat s.errorRegister
  else if k = O.startupPhase ∧ s.nat O.spindleState = 13 then nat 10
  else if inArr O.rslState 72 ∧ fenced ((k - O.rslState) / 3) then nat 6
  else if inArr O.wrlState 24 ∧ fenced (k - O.wrlState) then nat 6
  else if inArr O.pclState 8 ∧ ([0, 1, 2].all fun i => fenced (3 * (k - O.pclState) + i)) then nat 6
  else if inArr O.faultStateLow 192 then nat (s.faultState (k - O.faultStateLow))
  else if inArr O.faultStateHigh 192 then nat (s.faultState (192 + (k - O.faultStateHigh)))
  else if k = O.faultsStanding then nat s.faults.standing.length
  else if k = O.faultPinState then nat s.faults.pin
  else if k = O.shelfRecords then nat s.shelf.records.length
  else if k = O.shelfNextSequence then nat s.shelf.nextSeq
  else if k = O.wallTime then nat s.wallTime
  else if inArr O.keyControl 16 then nat (s.key (k - O.keyControl)).holder
  else if inArr O.keyLeaseRemaining 16 then
    let key := s.key (k - O.keyLeaseRemaining)
    if key.holder = 0 then nat 0
    else if (if k = O.keyLeaseRemaining + 1 ∧ s.fw.downloadHolder ≠ 0 then 1 else 0) < key.uses then nat (s.nat O.keyLeaseTime * 1000) else nat ((key.leaseEnd - s.tick) / 1000)
  else if inArr O.keyImplicit 16 then nat (if (s.key (k - O.keyImplicit)).implicit = 0 then 0 else 1)
  else if k = O.coefValue then
    let n := s.nat O.coefLoop
    some ((assoc? (if s.nat (O.loopActiveBank + n) = 0 then (s.loop n).bank1 else (s.loop n).bank0) (s.nat O.coefIndex)).getD 0)
  else if (cobBase k).isSome then (s.defaultCob k).map fun v => (v : Int)
  else if k = O.nodeId then nat s.mb.nodeId
  else if k = O.nodeIdStrap then nat (s.platform.straps % 128)
  else if k = O.strapImage then nat (s.platform.straps % 512)
  else if k = O.variant then nat s.platform.variant
  else if k = O.actuatorsPresent then nat (2 ^ s.actCount - 1)
  else if k = O.headsPresent then nat (2 ^ s.headCount - 1)
  else if k = O.hostPortsPresent then nat (2 ^ s.portCount - 1)
  else if k = O.preampLinksPresent then nat (2 ^ (2 * s.actCount) - 1)
  else if inArr O.identity 4 then nat (Config.identity (k - O.identity + 1) % 2 ^ 32)
  else if k = O.dbgIdCode then nat s.idCode
  else if inArr O.controllerState 2 then nat (s.controllerState (k - O.controllerState))
  else if inArr O.contextsInUse 2 then nat (s.ctxUse (k - O.contextsInUse))
  else if k = O.contextsSharedFree then nat s.sharedFree
  else if k = O.rangeLocksInUse then nat s.cmds.locks.length
  else if inArr O.mediaOpsInFlight 4 then
    nat ((s.cmds.ops.filter fun o => o.act = k - O.mediaOpsInFlight).length)
  else if inArr O.cellarFreeSectors 4 then nat (s.cellarFree (k - O.cellarFreeSectors))
  else if inArr O.cellarLiveSlots 4 then
    nat ((s.cmds.slots.filter fun c => decide (c.act = k - O.cellarLiveSlots) && c.live).length)
  else if inArr O.cellarWatermark 4 then nat (s.watermark (k - O.cellarWatermark))
  else if k = O.larderLinesValid then nat ((s.larder.lines.filter fun l => l.state = .valid).length)
  else if k = O.larderLinesLeaving then nat ((s.larder.lines.filter fun l => l.state = .leaving).length)
  else if k = O.pantryLinesValid then nat s.larder.pantry.length
  else if k = O.mergeBuffersInUse then nat ((s.larder.buffers.filter fun b => !b.clean).length)
  else if k = O.surgeGranted then nat ((s.power.granted.map Surge.units).sum)
  else if k = O.surgeQueued then nat s.power.queue.length
  else if k = O.trunkNextSequence then nat s.trunk.nextSeq
  else if k = O.trunkOldestSequence then
    nat (((s.trunk.units.filter fun u => decide (344 ≤ u.1)).flatMap fun u => u.2.records.map TrunkRecord.seq).foldl min
      s.trunk.nextSeq)
  else if k = O.bootNumber then nat s.trunk.bootNumber
  else if k = O.trunkUnitsRetired then nat ((s.trunk.units.filter fun u => u.2.retired).length)
  else if k = O.captureSlotsInUse then nat s.detect.captures.length
  else if k = O.ledgerDirtyPages then nat s.write.dirty.length
  else if k = O.ledgerUntrustedChunks then nat s.untrustedCount
  else if k = O.activeSlot then nat s.fw.active
  else if inArr O.activeInterfaceVersion 6 then
    nat ((s.fwSlot s.fw.active).iface (k - O.activeInterfaceVersion + 1))
  else if k = O.fusedSecurityVersion then nat s.fw.fusedVersion
  else if k = O.activeSetSecurityVersion then nat (s.fwSlot s.fw.active).securityVersion
  else if k = O.crateBytesReceived then nat s.fw.crate.length
  else if k = O.spareLanesFree then
    nat ((s.layout.spares.map fun t => (t.entries.filter fun e => e.state = 0).length).sum)
  else if k = O.detectionCapacity then
    nat (levelCapacity (s.nat O.performanceLevelCurrent) * derating (s.obj O.caseTemperature) / 100)
  else none

/-- Value in force of an object entry (R410): Absent for the state of a unit that is absent (R407), the highest sub-index at
sub-index 00h of a record or array (R8). -/
def State.view (s : State) (k : Nat) : Int :=
  if s.absentState k then 0
  else if isCountKey k then (highestSub (k / 256) : Int)
  else (s.computed k).getD (s.obj k)

/-- Result objects (R414): first keys, and the key of each fail reason. -/
def runObjects : List (Nat × Nat) :=
  [(O.mapState, O.mapFailReason), (O.preampRunState, O.preampRunFailReason), (O.swapRunState, O.swapRunFailReason),
   (O.loopIdRunState, O.loopIdRunFailReason), (O.invalidateRunState, O.invalidateRunFailReason),
   (O.injectRunState, O.injectRunFailReason), (O.stagingRunState, O.stagingRunFailReason),
   (O.activationRunState, O.activationRunFailReason), (O.returnRunState, O.returnRunFailReason)]

/-- Value sub-indices the owning chapters keep valid after a failure: what a run counted or named as its target,
which R83, R489, R545 and R561 report for the last run (log entry 5). -/
def validAfterFailure (k : Nat) : Bool :=
  decide (k = O.injectRunMade ∨ k = O.injectRunFirstTick ∨ k = O.injectRunLastTick ∨ k = O.returnRunUnit ∨
    k = O.returnRunSteps ∨ k = O.activationRunKind ∨ k = O.activationRunSteps ∨ k = O.stagingRunSlot ∨
    k = O.mapLba ∨ k = O.mapNsid)

/-- Whether a key is a value sub-index of a result object whose value is invalid (R415, R416). -/
def State.runValueInvalid (s : State) (k : Nat) : Bool :=
  match runObjects.find? fun r => r.1 / 256 = k / 256 with
  | none => false
  | some (base, reason) =>
    if k = base ∨ k = base + 1 ∨ k = reason ∨ k % 256 = 0 then false
    else if s.nat base = 2 then false
    else if s.nat base = 3 then !validAfterFailure k
    else true

/-- State with a run of a result object started: a requester sees by the run number that a set of values is of one run (R415,
R417). -/
def State.startRun (s : State) (base : Nat) : State :=
  let n := s.nat (base + 1)
  let reason := ((runObjects.find? fun r => r.1 = base).map Prod.snd).getD base
  ((s.setNat (base + 1) (if n = 2 ^ 32 - 1 then 1 else n + 1)).setNat reason 0).setNat base 1

/-- State with the running run of a result object ended: done with reason 0, or failed with a reason (R415). -/
def State.endRun (s : State) (base reason : Nat) : State :=
  if s.nat base = 1 then
    let key := ((runObjects.find? fun r => r.1 = base).map Prod.snd).getD base
    (s.setNat key reason).setNat base (if reason = 0 then 2 else 3)
  else s

/-! ### The Shelf (R491 to R499) -/

/-- Whether a snapshot list may name an object: present, of a basic type and readable (R494). -/
def State.listable (s : State) (k : Nat) : Bool :=
  s.indexServed (k / 256) && (isCountKey k || (match findRow k with
    | none => false
    | some r => decide (r.access ≠ .wo ∧ r.ty ≠ .domain ∧ r.ty ≠ .visible) && !s.keyUnitAbsent k))

/-- One snapshot list entry read as a 32-bit word; none where it cannot be read (R494). -/
def State.snapshotWord (s : State) (entry : Nat) : Option Nat :=
  let k := entry / 65536 * 256 + entry / 256 % 256
  if ¬ s.listable k ∨ s.runValueInvalid k then none
  else
    let v := (s.view k % (2 ^ 64 : Int)).toNat
    some (if entry % 2 = 1 then v / 2 ^ 32 else v % 2 ^ 32)

/-- Configuration of an event code. -/
def State.codeConfig (s : State) (code : Nat) : CodeConfig :=
  (s.shelf.codes.find? fun c => c.code = code).getD { code := code }

/-- State with the configuration of an event code replaced. -/
def State.setCodeConfig (s : State) (c : CodeConfig) : State :=
  { s with shelf := { s.shelf with codes := c :: s.shelf.codes.filter fun d => d.code ≠ c.code } }

/-- Bucket level now, in millionths of a token (R497). -/
def State.bucket (s : State) (c : CodeConfig) : Nat :=
  min (c.burst * 1000000) (c.level + c.rate * (s.tick - c.filled))

/-- Slot 0 after one drop of a severity, or a refusal when `severity` is none (R498, R499). -/
def State.shelfDrop (s : State) (severity : Option Nat) : State :=
  let h := s.shelf
  { s with shelf := { h with
      updates := h.updates + 1
      drops := match severity with
        | some v => h.drops.modify v (· + 1)
        | none => h.drops
      refused := match severity with
        | some _ => h.refused
        | none => h.refused + 1
      firstDrop := if h.drops.sum + h.refused = 0 then s.tick else h.firstDrop
      lastDrop := s.tick
      lastWall := s.wallTime } }

/-- Lowest slot number from 1 up that no record takes. -/
def freeSlot (rs : List ShelfRecord) : Nat :=
  ((List.range (rs.length + 1)).find? fun i => rs.all fun r => r.slot ≠ i + 1).getD 0 + 1

/-- The record an event overwrites in a full Shelf: lowest sequence number of the lowest severity held (R498). -/
def victim (rs : List ShelfRecord) : Option ShelfRecord :=
  rs.foldl (fun b r =>
    match b with
    | none => some r
    | some q => if r.severity < q.severity ∨ (r.severity = q.severity ∧ r.seq < q.seq) then some r else b) none

/-- One event offered to the recorder: it is recorded and takes the next sequence number, or it is refused by its
bucket, or dropped (R495, R497, R498). The number given is answered. -/
def State.shelfEvent (s : State) (code source severity cause : Nat) (injected : Bool) (fixed : List Nat) :
    Option Nat × State :=
  let always := decide (code = 1) || decide (code = 2)
  let c := s.codeConfig code
  let level := s.bucket c
  if !always && decide (level < 1000000) then
    (none, (s.setCodeConfig { c with limited := (c.limited + 1) % 2 ^ 32, level := level, filled := s.tick }).shelfDrop none)
  else
    let s := if always then s else s.setCodeConfig { c with level := level - 1000000, filled := s.tick }
    let room := decide (s.shelf.records.length < 16383)
    let v := victim s.shelf.records
    let passes := room || always ||
      (match v with
        | some r => decide (r.severity ≤ severity)
        | none => true)
    if !passes then (none, s.shelfDrop (some severity))
    else
      let entries := (c.entries.takeWhile (· ≠ 0)).take (48 - fixed.length)
      let read := entries.map s.snapshotWord
      let kept := if room then s.shelf.records
        else s.shelf.records.filter fun r => some r.seq ≠ v.map ShelfRecord.seq
      let slot := if room then freeSlot kept else (v.map ShelfRecord.slot).getD 1
      let r : ShelfRecord :=
        { slot := slot, seq := s.shelf.nextSeq, tick := s.tick, wall := s.wallTime, code := code, source := source,
          severity := severity, cause := cause, injected := injected, unreadable := read.any Option.isNone,
          words := fixed ++ read.map (·.getD (2 ^ 32 - 1)), fixed := fixed.length, listVersion := c.version }
      (some r.seq, { s with shelf := { s.shelf with records := kept ++ [r], nextSeq := s.shelf.nextSeq + 1 } })

/-- An event that is no fault raising (R493). -/
def State.note (s : State) (code severity : Nat) (fixed : List Nat) : State :=
  (s.shelfEvent code 65535 severity 0 false fixed).2

/-! ### The Trunk (R503 to R508) -/

/-- An append requested (R507): power-loss appends go ahead of every other. -/
def State.trunk' (s : State) (kind : Nat) (payload : List Nat) (powerLoss : Bool) : State :=
  let a : TrunkAppend := { kind := kind, boot := s.trunk.bootNumber, tick := s.tick, wall := s.wallTime, payload := payload, powerLoss := powerLoss }
  let q := s.trunk.queue
  { s with trunk := { s.trunk with
      queue := if powerLoss then (q.filter (·.powerLoss)) ++ [a] ++ q.filter (fun b => !b.powerLoss) else q ++ [a] } }

/-- An ordinary append requested. -/
def State.append (s : State) (kind : Nat) (payload : List Nat) : State := s.trunk' kind payload false

/-- Append of a Serious or Fatal raising, limited per source to TrunkFaultBurst in 3,600 s (R473, R507). -/
def State.appendRaising (s : State) (src cause severity seq : Nat) : State :=
  let (ticks, missed) := (assoc? s.trunk.bursts src).getD ([], 0)
  let recent := ticks.filter fun t => decide (s.tick < t + 3600000000)
  if recent.length < s.nat O.trunkFaultBurst then
    let s := s.append 0x10 [src, cause, severity, seq, missed]
    { s with trunk := { s.trunk with bursts := putKey s.trunk.bursts src (s.tick :: recent, 0) } }
  else { s with trunk := { s.trunk with bursts := putKey s.trunk.bursts src (recent, missed + 1) } }

/-! ### EMCY and the FAULT pin (R434, R480) -/

/-- Whether NMT admits EMCY: Pre-operational or Operational (R429). -/
def State.nmtServes (s : State) : Bool := decide (s.mb.nmt = 5) || decide (s.mb.nmt = 127)

/-- An EMCY message queued, where the NMT state admits it (R429, R434). -/
def State.queueEmcy (s : State) (code : Nat) (bytes : List Nat) : State :=
  if s.nmtServes then
    { s with mb := { s.mb with emcyQueue := s.mb.emcyQueue ++ [(code, s.errorRegister, bytes)] } }
  else s

/-- EMCY 0000h queued where the error register has returned to 0 since it was last looked at (R434, R435). -/
def State.noteErrorRegister (s : State) : State :=
  let now := s.errorRegister
  let was := s.faults.reported
  let s := { s with faults := { s.faults with reported := now } }
  if now = 0 ∧ was ≠ 0 then s.queueEmcy 0 [] else s

/-- A FaultPin raising: FAULT low, a pulse from now, a pending release cancelled (R480). -/
def State.drivePin (s : State) : State :=
  { s with faults := { s.faults with
      pin := 1, pulseEnd := s.tick + s.nat O.faultPulseWidth, releasePending := decide (s.faults.released = some s.tick) } }

/-! ### Head control through the control links (R87 to R95) -/

/-- The first tag from the next one on that no outstanding access uses (R90). -/
def Pcl.freeTag (c : Pcl) : Nat :=
  (((List.range 5).map fun i => (c.nextTag + i) % 256).find? fun t => !c.outstanding.any fun a => decide (a.tag = t)).getD 0

/-- A 64-bit frame of a control link from its Sync, Type, Head, Summary, Address, Data and Tag, with its Crc8 (R85, R87, R88). -/
def linkFrame (sync type head summary address data tag : Nat) : Nat :=
  let v := sync % 256 * 2 ^ 56 + type % 16 * 2 ^ 52 + head % 4 * 2 ^ 50 + summary % 16 * 2 ^ 46 + address % 256 * 2 ^ 38 +
    data % 65536 * 2 ^ 22 + tag % 256 * 2 ^ 14
  v + crc8 v

/-- The downstream frame of a register access: Type 0001b write, 0010b read, 0011b write to all three heads (R87). -/
def pclFrame (k : Nat) (a : PclAccess) : Output :=
  .pclRequest k (linkFrame 0xA5 a.kind a.head 0 a.address (if a.kind = 2 then 0 else a.data) a.tag)

/-- The idle frame (R87, R89). -/
def idleFrame (k : Nat) : Output := .pclRequest k (linkFrame 0xA5 0 0 0 0 0 0)

/-- Whether a write of an access must wait for the end of a burst: WriterCurrent, WriterOvershoot or HeaterPower of a head whose
writer link is bursting (R92). -/
def State.burstHolds (s : State) (k : Nat) (a : PclAccess) : Bool :=
  decide (a.kind = 1) && [0x09, 0x0A, 0x0B].contains a.address && decide (a.head < 3) && (s.wrl (3 * k + a.head)).bursting

/-- Whether a write of ReaderGain must wait: it goes out while the head's streams are idle or its clock count is in the track gap
(R92). -/
def State.gainHolds (s : State) (k : Nat) (a : PclAccess) : Bool :=
  let x := s.head (3 * k + a.head)
  let gap : Bool := match (s.layout.tables.find? fun t => decide (t.surface = 3 * k + a.head)).bind fun t => t.entries[x.zone]? with
    | some e =>
      let rev := 32 * e.clockPeriods
      let base := e.trackStart + (x.lane - e.firstLane) * e.laneSkew
      decide (37520 * e.sectorsPerTrack ≤ (x.count / 64 + rev - base % max 1 rev) % max 1 rev)
    | none => true
  decide (a.kind = 1) && decide (a.address = 0x08) && decide (a.head < 3) && x.admitted && !gap

/-- Whether an access may go out now: the link active, fewer than four outstanding, one of 3141h only when none is (R90), no burst
or codeword in its way (R92). -/
def State.pclMay (s : State) (k : Nat) (a : PclAccess) : Bool :=
  let c := s.pcl k
  decide (c.outstanding.length < 4) && decide (s.nat (O.pclState + k) = 3) && (!a.run || c.outstanding.isEmpty) &&
    !s.burstHolds k a && !s.gainHolds k a

/-- The first queued access that may go out now sent, those that R92 holds back staying queued; accesses to one register keep
their order. -/
def State.pclIssueOne (s : State) (k : Nat) : State :=
  let c := s.pcl k
  match c.queue.findIdx? fun a => s.pclMay k a with
  | none => s
  | some i =>
    match c.queue[i]? with
    | none => s
    | some a =>
      let a : PclAccess := { a with tag := c.freeTag, sent := s.tick, retries := 0 }
      (s.modPcl k fun c => { c with
        queue := c.queue.eraseIdx i, outstanding := c.outstanding ++ [a], nextTag := (a.tag + 1) % 256
        idle := false }).emit (pclFrame k a)

/-- Queued accesses sent as far as they may be. -/
def State.pclIssue (s : State) (k : Nat) : State := (((s.pclIssueOne k).pclIssueOne k).pclIssueOne k).pclIssueOne k

/-- A register access handed to a control link: the device's own go before one of 3141h (R90). -/
def State.pclAsk (s : State) (k kind head address data : Nat) (run : Bool) : State :=
  let a : PclAccess := { tag := 0, kind := kind, head := head, address := address, data := data, retries := 0, sent := 0,
                         run := run }
  let place (q : List PclAccess) : List PclAccess :=
    if run then q ++ [a] else q.filter (fun x => !x.run) ++ [a] ++ q.filter (·.run)
  (s.modPcl k fun c => { c with queue := place c.queue }).pclIssue k

/-- A register of a head written through its control link. -/
def State.pclWrite (s : State) (h address data : Nat) : State := s.pclAsk (h / 3) 1 (h % 3) address data false

/-- Value of a preamplifier register as last acknowledged, else its reset value (R91, R93). -/
def Pcl.register (c : Pcl) (head address : Nat) : Nat :=
  (assoc? c.shadow (32 * head + address)).getD (if address = 0x0E then 5 else 0)

/-- Mode of a head as last acknowledged: 0 off, 1 read, 2 write, 3 train, with bits 2 and 3 its patterns (R93, R95). -/
def State.headMode (s : State) (h : Nat) : Nat := (s.pcl (h / 3)).register (h % 3) 0x04

/-- Heater of a head written to a power through its control link; 0 also drops a waiting enable (R92). -/
def State.writeHeater (s : State) (h power : Nat) : State :=
  (s.modHead h fun x => { x with heaterPower := power, heaterPending := false }).pclWrite h 0x0B power

/-- Heater power for reading in a zone: HeaterRead plus HeaterTrim, from 0 to HeaterWrite (R256). -/
def State.heaterRead (s : State) (h : Nat) (e : ZoneEntry) : Nat :=
  (clampInt 0 e.heaterWrite ((e.heaterRead : Int) + s.obj (O.heaterTrim + h))).toNat

/-! ### Bursts and their gate (R109, R110, R182, R185, R186) -/

/-- Zone number and entry of a lane of a surface; lanes are numbered from the outermost one, each a stripe and two tracks (R42, R43,
R60). -/
def State.zoneOfLane (s : State) (surface lane : Nat) : Option (Nat × ZoneEntry) :=
  (s.layout.tables.find? fun t => decide (t.surface = surface)).bind fun t =>
    (t.entries.findIdx? fun e => decide (e.firstLane ≤ lane) && decide (lane < e.firstLane + e.laneCount)).bind fun z =>
      (t.entries[z]?).map fun e => (z, e)

/-- Whether two chunk writes are the same one. -/
def ChunkWrite.same (a b : ChunkWrite) : Bool :=
  decide (a.head = b.head) && decide (a.kind = b.kind) && decide (a.nsid = b.nsid) && decide (a.lba = b.lba) &&
    decide (a.slotSeq = b.slotSeq) && decide (a.buffer = b.buffer)

/-- State with a chunk write replaced. -/
def State.putChunk (s : State) (w : ChunkWrite) : State :=
  { s with write := { s.write with chunks := s.write.chunks.map fun c => if c.same w then w else c } }

/-- Sectors of an open burst complete by now: one takes 37,520 bit times, and the last one ends with the burst (R57,
R109, R186). -/
def State.burstDone (s : State) (w : ChunkWrite) : Nat :=
  match s.layout.tables.find? fun t => decide (t.surface = w.head), s.zoneOfLane w.head w.lane with
  | some t, some (_, e) =>
    min ((s.tick - w.openedAt) * t.nominalRpm * 32 * e.clockPeriods / (60000000 * 37520)) (w.run - 1)
  | _, _ => 0

/-- An open burst brought up to the sectors complete by now. -/
def State.syncBurst (s : State) (w : ChunkWrite) : ChunkWrite :=
  if w.open_ then { w with written := max w.written (w.opened + s.burstDone w) } else w

/-- A sector leaving a writer link after the bits `before`: its recorded bits, and the delay of each transition (R48 to R54, R108,
R181). -/
def State.sendSector (s : State) (head : Nat) (before : List Bool) (o : SectorOut) : State :=
  let bits := sectorBits o.lane o.track o.sector o.lba o.gen o.flags o.data
  let precomp := ((s.zoneOfLane head o.lane).map fun z => z.2.precomp).getD []
  let (last, run) := lastRun before
  s.emit (.burst head o.lane o.track o.sector o.lba o.gen o.flags o.data (ofBits bits) (precompDelays precomp last run 0 bits))

/-- The sectors complete since the last ones sent outward, the first of a burst after its preamble; markers count as they are
written (R109, R179). -/
def State.emitSectors (s : State) (w : ChunkWrite) : State :=
  let send (s : State) (i : Nat) : State :=
    match w.sectors[i]? with
    | some o =>
      let s := s.sendSector w.head (if i = w.opened then burstPreamble else bitsOf 48 guardPattern) o
      if w.markers.contains i then s.bump O.markersWritten else s
    | none => s
  ((List.range w.written).filter fun i => decide (w.emitted ≤ i)).foldl send s

/-- The lead of a head's bursts over: HeaterRead again, and Mode 01b (R95, R182). -/
def State.endLead (s : State) (h : Nat) : State :=
  let s := (s.modHead h fun x => { x with lead := none }).pclWrite h 0x04 1
  match s.zoneOf h (s.head h).zone with
  | some e => s.writeHeater h (s.heaterRead h e)
  | none => s

/-- Write gate of a head closed: the writer link goes to electrical idle, the sectors complete stand and the one being
written is invalid (R110, R182, R185, R186). A cut inside a burst is counted, and its cut event begins (R187). -/
def State.closeGate (s : State) (h : Nat) : State :=
  if (s.head h).gate then
    let s := ((s.bump (O.gateCuts + h)).modHead h fun x => { x with gate := false }).modWrl h fun w => { w with bursting := false }
    let s := match s.write.chunks.find? fun w => decide (w.head = h) && w.open_ with
      | some w =>
        let w := s.syncBurst w
        let track := ((w.sectors[w.written]?).map SectorOut.track).getD 0
        let s := s.modHead h fun x => { x with cutLane := some (x.lane, 1 - track, x.count / 64), cutPeak := 0 }
        (s.emitSectors w).putChunk { w with open_ := false, cut := true, emitted := w.written }
      | none => s
    (s.endLead h).pclIssue (h / 3)
  else s

/-- A burst that ends as a failed write (R110, R114): what it has written does not count, and its gate closes. So does one that a
Summary bit has cut, or that awaits the next status frame. -/
def State.failBurst (s : State) (h : Nat) : State :=
  let lost := s.write.chunks.filter fun w => decide (w.head = h) && (w.open_ || w.flagged || w.ended)
  let s := s.closeGate h
  let fail (w : ChunkWrite) : ChunkWrite :=
    if lost.any w.same then { w with written := w.opened, emitted := w.opened, ended := false, flagged := false, cut := true } else w
  let back (c : CellarSlot) : CellarSlot :=
    match lost.find? fun w => decide (w.kind = 1) && decide (w.slotSeq = c.seq) && decide (actOf w.head = c.act) with
    | some w => { c with copies := w.opened - w.total }
    | none => c
  { s with
    write := { s.write with chunks := s.write.chunks.map fail }
    cmds := { s.cmds with slots := s.cmds.slots.map back } }

/-- A table, page or record written to a surface's system area, its sectors with the System flag (R53, R54, R61). -/
def State.systemWrite (s : State) (surface kind number copy : Nat) (content : List Nat) : State :=
  s.emit (.system surface kind number copy (15 * 2 ^ 44 + Config.systemSector kind number copy % 2 ^ 44) (4096 + 32) content)

/-- Surface on the other side of a surface's disk (R61). -/
def partnerSurface (surface : Nat) : Nat := surface + 1 - 2 * (surface % 2)

/-! ### The park sequence (R263) -/

/-- A frame of a voice-coil link from its Sync, Value, flags and Sequence, with its Crc8 (R568, R569). -/
def vcmLinkFrame (sync : Nat) (value : Int) (flags sequence : Nat) : Nat :=
  let v := sync % 256 * 2 ^ 40 + (value % 65536).toNat * 2 ^ 24 + flags % 256 * 2 ^ 16 + sequence % 256 * 2 ^ 8
  v + crc8Of 40 (v / 256)

/-- A CMD frame: Sync C3h, bit 17 Park, bit 16 Drive (R568). -/
def cmdFrame (value : Int) (park drive : Bool) (sequence : Nat) : Nat :=
  vcmLinkFrame 0xC3 value (2 * park.toNat + drive.toNat) sequence

/-- A CMD frame on its line: eight bits of 1010 1010b before it, each bit Manchester-coded (R568). -/
def cmdLine (value : Int) (park drive : Bool) (sequence : Nat) : Nat :=
  manchester 56 (0xAA * 2 ^ 48 + cmdFrame value park drive sequence)

/-- Value of a CMD frame that drives a coil at SafeParkCurrent outward (R262, R263, R570). -/
def State.parkDrive (s : State) (a : Nat) : Int :=
  let v : Int := (s.nat O.safeParkCurrent * 32767 / 100 : Nat)
  if (s.act a).outward then v else -v

/-- Rafter slots of an actuator. -/
def slotsOf (a : Nat) : List Nat := (List.range 9).map (9 * a + ·)

/-- Pending swaps of some slots cancelled, those of a whole group where one member is among them; the bank reads
Sealed again (R223, R229). A running run of 4111h on one of them fails with the reason. -/
def State.cancelSwaps (s : State) (slots : List Nat) (reason : Nat) : State :=
  let groups := (slots.filterMap fun n => (s.loop n).pending.map fun p => p.2.2.1).filter (· ≠ 0)
  let hit (n : Nat) : Bool :=
    match (s.loop n).pending with
    | none => false
    | some p => slots.contains n || groups.contains p.2.2.1
  let all := (List.range 37).filter hit
  let byHost := all.any fun n =>
    match (s.loop n).pending with
    | some p => decide (p.2.1 ≠ 0)
    | none => false
  let s := s.each all fun s n => (s.modLoop n fun l => { l with pending := none }).setNat (O.loopBankState + n) 1
  if byHost then s.endRun O.swapRunState reason else s

/-- The identifications of an actuator given up at a safe-park, a sleep entry or an activation, a requested one failing (R229, R279,
R282). -/
def State.dropIdentify (s : State) (a : Nat) : State :=
  let mine (r : IdRun) : Bool := decide (r.slot / 9 = a)
  let asked := s.pos.identify.any fun r => mine r && r.requested
  let s := { s with pos := { s.pos with identify := s.pos.identify.filter fun r => !mine r } }
  if asked then s.endRun O.loopIdRunState 4 else s

/-- The park sequencer of R263 started on an actuator: milliactuator codes to 0, coil outward, gates closed,
heaters 0, swaps and claims ended, the event counted (R219, R224, R229, R263). Without effect on an actuator that is
parked or parking. -/
def State.parkSequence (s : State) (a cause : Nat) : State :=
  if ¬ s.hasAct a ∨ (s.act a).load = 0 ∨ (s.act a).load = 4 then s
  else
    let s := s.each (headsOf a) fun s h =>
      let s := s.closeGate h
      let s := (if (s.head h).lead.isSome then s.endLead h else s).writeHeater h 0
      let s := (s.emit (.mao h 0)).modHead h fun x =>
        { x with held := false, passHeld := false, settleRun := 0, offStripeRun := 0, onRow := false,
                 admitted := false, admitNext := false, presented := 0, completed := 0 }
      if s.nat (O.positionState + h) = 8 then s else s.setNat (O.positionState + h) 9
    let s := s.emit (.vcm a (cmdLine (s.parkDrive a) true true (((s.act a).vcmSeq + 1) % 256)))
    let s := s.cancelSwaps (slotsOf a) 1
    let s := s.each (slotsOf a) fun s n =>
      ((s.setNat (O.loopState + n) 3).setNat (O.loopClaim + n) 0).modLoop n fun l => { l with
        sample := none, waiting := [], ready := none }
    let s := s.bump (O.safeParks + a)
    let s := s.dropIdentify a
    let s := if s.rafter.health ≠ 0 then { s with rafter := { s.rafter with microSwap := true } } else s
    s.modAct a fun x => { x with
      load := 4, vcmSeq := (x.vcmSeq + 1) % 256, parkEnd := s.tick + 1000 * s.nat O.safeParkTime, parkReruns := 0, parkCause := cause,
      seeking := false, nextTarget := none, unloadAt := none, verified := false, loadWanted := decide (cause ≠ 4 ∧ cause ≠ 2)
      lateRun := 0 }

/-! ### Asynchronous events (R342) -/

/-- One asynchronous event offered to a controller: posted to its oldest request, or held; nothing while its type is
held for its log page (R342). Events subject to a configuration bit are dropped while the bit is clear. -/
def State.postEvent (s : State) (p type info page : Nat) (maskBit : Option Nat) : State :=
  let port := s.port p
  let allowed : Bool := match maskBit with
    | some b => port.eventMask.testBit b
    | none => true
  if ¬ s.hasPort p ∨ ¬ port.enabled ∨ ¬ allowed ∨ port.masked.contains (type, page) then s
  else
    match port.aer with
    | cid :: rest =>
      let s := s.modPort p fun x => { x with aer := rest, masked := (type, page) :: x.masked }
      let s := { s with cmds := { s.cmds with
        ctxs := s.cmds.ctxs.filter fun c => ¬ (c.port = p ∧ c.sqid = 0 ∧ c.cid = cid) } }
      (s.emit (.asyncEvent p cid type info page)).emit (.completion p 0 cid 0 0 false (type + 256 * info + 65536 * page))
    | [] => s.modPort p fun x => { x with held := x.held ++ [(type, info, page)], masked := (type, page) :: x.masked }

/-- One event on every present controller. -/
def State.postAll (s : State) (type info page : Nat) (maskBit : Option Nat) : State :=
  s.each (List.range s.portCount) fun s p => s.postEvent p type info page maskBit

end Sys2Proof.Machine
end

