-- ==== Sys2Proof/Machine/Flags.lean ====
section
/-! DEFINITION. Flags the device computes: namespace write protection, Critical Warning, the bits of PositionStatus,
and the trigger of the trace. -/

namespace Sys2Proof.Machine

/-- Whether an actuator is in the mapped set (R75). -/
def State.mapped (s : State) (a : Nat) : Bool := (s.nat O.mappedActuators).testBit a

/-- Whether a namespace is active: NSID 1 in interleaved mapping once formatted, and the mapped actuators' own NSIDs
in split mapping (R76, R77). -/
def State.nsActive (s : State) (n : Nat) : Bool :=
  if s.nat O.domainMapping = 0 then decide (n = 1) && decide (s.nat O.mappedActuators ≠ 0)
  else decide (1 ≤ n) && decide (n ≤ 4) && s.mapped (n - 1)

/-- Capacity of a namespace in sectors (R76, R77). -/
def State.nsCapacity (s : State) (n : Nat) : Nat :=
  if ¬ s.nsActive n then 0
  else if s.nat O.domainMapping = 0 then s.nat O.interleavedCapacity
  else s.nat (O.domainCapacityA + (n - 1))

/-- Actuators whose domains a namespace holds. -/
def State.nsActs (s : State) (n : Nat) : List Nat :=
  if s.nat O.domainMapping = 0 then (List.range 4).filter fun a => s.mapped a
  else if 1 ≤ n ∧ n ≤ 4 then [n - 1] else []

/-- Whether a namespace refuses writes: it holds a fenced or write-protected domain (R75, R557). -/
def State.nsReadOnly (s : State) (n : Nat) : Bool :=
  s.nsActive n && (s.nsActs n).any fun a => decide (2 ≤ s.nat (O.actuatorService + a))

/-- NSATTR bit 0 of the four namespaces as a mask, bit n for NSID n (R337). -/
def State.protectMask (s : State) : Nat :=
  ([1, 2, 3, 4].map fun n => if s.nsReadOnly n then 2 ^ n else 0).sum

/-- Available Spare in percent of the spare lanes formatted (R339). -/
def State.availableSpare (s : State) : Nat :=
  if s.sub.spareTotal = 0 then 100 else (s.view O.spareLanesFree).toNat * 100 / s.sub.spareTotal

/-- Composite Temperature in kelvin (R339). -/
def State.kelvin (s : State) : Nat := (s.obj O.caseTemperature / 10 + 273).toNat

/-- Critical Warning bits (R339). -/
def State.criticalWarning (s : State) : Nat :=
  let fenced := (List.range s.headCount).any fun h => decide (s.nat (O.headService + h) = 3)
  let ageing := s.faults.standing.any fun f => decide (f.src = 11) && decide (f.severity = 1)
  (if s.sub.spareTotal ≠ 0 ∧ s.availableSpare < 10 then 1 else 0) +
  (if 368 < s.kelvin then 2 else 0) + (if fenced || ageing then 4 else 0) + (if s.protectMask ≠ 0 then 8 else 0)

/-- NSIDs entered in log page 04h of both controllers (R338, R342). -/
def State.noteNamespaces (s : State) (ids : List Nat) : State :=
  s.each [0, 1] fun s p => s.modPort p fun x =>
    { x with changedNamespaces := x.changedNamespaces ++ ids.filter fun n => !x.changedNamespaces.contains n }

/-- Notices for Critical Warning bits newly set and for namespaces whose write protection changed (R342). -/
def State.noteWarnings (s : State) : State :=
  let now := s.criticalWarning
  let was := s.sub.criticalWarning
  let protect := s.protectMask
  let protectWas := s.sub.nsProtected
  let s := { s with sub := { s.sub with criticalWarning := now, nsProtected := protect } }
  let s := s.each [0, 1, 2, 3] fun s b =>
    if now.testBit b ∧ ¬ was.testBit b then
      s.postAll 1 (if b = 0 then 2 else if b = 1 then 1 else 0) 2 (some b)
    else s
  if protect ≠ protectWas then
    (s.noteNamespaces ([1, 2, 3, 4].filter fun n => protect.testBit n != protectWas.testBit n)).postAll 2 0 4 (some 8)
  else s

/-- A bit of PositionStatus written (R242). -/
def State.setStatusBit (s : State) (h bit : Nat) (v : Bool) : State :=
  let m := s.nat (O.positionStatus + h)
  s.setNat (O.positionStatus + h) (if v then withBit m bit else withoutBit m bit)

/-- A bit of PositionStatus read. -/
def State.statusBit (s : State) (h bit : Nat) : Bool := (s.nat (O.positionStatus + h)).testBit bit

/-- The trace triggered at this tick (R233, R234): each channel keeps at most PreTrigger samples and records the
rest; a channel whose loop is stopped is complete at once. -/
def State.fireTrace (s : State) : State :=
  if s.nat O.traceState = 1 then
    let pre := s.nat O.preTrigger
    let chans := (List.range 8).map fun c =>
      let ch := s.rafter.channels.getD c {}
      let slot := s.nat (O.traceSource + c) / 256
      { ch with
        samples := ch.samples.take pre
        after := if s.nat (O.loopState + slot) = 2 then 65536 - pre else 0
        trigger := min pre ch.samples.length }
    let s := { s with rafter := { s.rafter with channels := chans } }
    let s := s.setNat O.triggerTick s.tick
    s.setNat O.traceState (if chans.all fun c => c.after = 0 then 3 else 2)
  else s

/-- An event of a loop offered to the trigger: source 9 late sample, 10 swap, 11 Rafter fault, 12 saturation
(R234). -/
def State.traceEvent (s : State) (source slot : Nat) : State :=
  let want := s.nat O.triggerLoop
  if s.nat O.triggerSource = source ∧ (want = 255 ∨ want = slot) then s.fireTrace else s

end Sys2Proof.Machine
end

