-- ==== Sys2Proof/Machine/Reactions.lean ====
section
/-! DEFINITION. The fault collector and its reactions (R467 to R480), deadline misses (R460, R481), safe-parks (R263)
and fences (R556, R557). -/

namespace Sys2Proof.Machine

/-- Sources whose Shelf record an owning chapter requires whatever the mask (R493). -/
def recordRequired (n : Nat) : Bool := decide ((32 ≤ n ∧ n ≤ 49) ∨ (176 ≤ n ∧ n ≤ 199) ∨ n = 202)

/-- Standing list with a raising entered: a higher severity replaces a lower one, and the actuators it parks are
added (R469, R474, R476). -/
def enterStanding (l : List Standing) (src severity : Nat) (active : Bool) (parks : Nat) : List Standing :=
  match l.find? fun f => f.src = src with
  | some f =>
    { f with severity := max f.severity severity, active := active || f.active, parkMask := f.parkMask ||| parks } ::
      l.filter fun g => g.src ≠ src
  | none => { src := src, severity := severity, active := active, parkMask := parks } :: l

/-- Whether a park held under R474 or R475 stands on an actuator. -/
def State.parkHeld (s : State) (a : Nat) : Bool := s.faults.standing.any fun f => f.parkMask.testBit a

/-- Park reaction on a mask of actuators (R474). -/
def State.parkMask (s : State) (mask : Nat) : State :=
  s.each (List.range s.actCount) fun s a => if mask.testBit a then s.parkSequence a 6 else s

/-- Fault resets that count in the last 3,600 s (R475). -/
def State.recentResets (s : State) : Nat :=
  (s.faults.resetTicks.filter fun t => decide (s.tick < t + 3600000000)).length

/-- The reset reaction of a raising: every actuator parked and a reset due within 10 ms, during which no port fetches,
or, beyond FaultResetLimit, a park of every actuator with the suppression recorded and counted once (R475, R476). -/
def State.resetReaction (s : State) (src severity : Nat) : State :=
  if s.faults.resetDue.isSome then s
  else if s.recentResets < s.nat O.faultResetLimit then
    let s := s.parkMask (2 ^ s.actCount - 1)
    { s with faults := { s.faults with resetDue := some (s.tick + 10000) } }
  else
    let s := s.parkMask (2 ^ s.actCount - 1)
    let s := { s with faults := { s.faults with
      standing := enterStanding s.faults.standing src severity false (2 ^ s.actCount - 1) } }
    if s.faults.suppressed.contains src then s
    else
      let s := (s.bump O.faultResetsSuppressed).note 0x17 2 [src]
      { s with faults := { s.faults with suppressed := src :: s.faults.suppressed } }

/-- An entry of log page C3h (R338). -/
def logFault (src severity tick seq : Nat) (p : Port) : Port :=
  { p with faultSummary := (src, severity, tick, seq) :: p.faultSummary }

/-- One raising of a fault source, with its cause byte, whether a test injected it, and the words its owning chapter
gives its record. The reactions follow in the order of R474; after a power loss only the record and the pin
(R478). What the owner of a source does to protect the device it does itself, whatever the mask (R471). -/
def State.raiseWith (s : State) (src cause : Nat) (injected : Bool) (words : List Nat) : State :=
  if ¬ s.sourcePresent src then s
  else
    let severity := s.nat (severityKey src)
    let mask := s.nat (O.reactionMask + severity)
    let lost := s.spindle.powerLost
    let s := (s.bump O.faultRaisings).bump (faultCountKey src)
    let parks := if mask.testBit 4 ∧ ¬ lost then s.raisingActs src cause else 0
    let s := { s with faults := { s.faults with
      standing := enterStanding s.faults.standing src severity (isCondition src && !injected) parks } }
    let (seq?, s) := if mask.testBit 0 || recordRequired src
      then s.shelfEvent (0x8000 + src) src severity cause injected words else (none, s)
    let s : State := match seq? with
      | some q => { s with faults := { s.faults with lastRecord := putKey s.faults.lastRecord src q } }
      | none => s
    let seq := (assoc? s.faults.lastRecord src).getD 0
    let s := s.each [0, 1] fun s p => s.modPort p (logFault src severity s.tick seq)
    let s := if 2 ≤ severity then s.appendRaising src cause severity seq else s
    let s := if mask.testBit 3 then (s.bump O.faultPulses).drivePin else s
    let s := if parks ≠ 0 then s.parkMask parks else s
    let s := if mask.testBit 2 ∧ ¬ lost then
        s.queueEmcy 0x1000 [src % 256, src / 256, severity, 0, seq % 256, seq / 256 % 256, seq / 65536 % 256,
          seq / 16777216 % 256]
      else s
    let s := if mask.testBit 1 ∧ ¬ lost then
        (if severity = 3 then s.postAll 0 1 1 none else s.postAll 7 0 0xC3 none) else s
    let s := if mask.testBit 5 ∧ ¬ lost then s.resetReaction src severity else s
    let s := if 224 ≤ src ∧ src ≤ 225 then s.traceEvent 11 cause
      else if 226 ≤ src ∧ src ≤ 227 then s.traceEvent 11 36 else s
    (s.noteErrorRegister).noteWarnings

/-- One raising of a fault source. -/
def State.raiseFault (s : State) (src cause : Nat) : State := s.raiseWith src cause false []

/-- The condition of a condition source has ended: its standing fault reads ended (R470). -/
def State.endCondition (s : State) (src : Nat) : State :=
  { s with faults := { s.faults with
      standing := s.faults.standing.map fun f => if f.src = src then { f with active := false } else f } }

/-- A deadline miss of a class of R460: counted, raised with a record of the deadline and the completion tick, and
for classes 1 to 3 a replica measurement falls due, at most one in 10 s (R461, R481). -/
def State.deadlineMiss (s : State) (cls src cause deadline completion : Nat) : State :=
  let s := s.bump (O.deadlineMisses + (cls - 1))
  let s := s.raiseWith src cause false
    [deadline % 2 ^ 32, deadline / 2 ^ 32, completion % 2 ^ 32, completion / 2 ^ 32]
  if cls ≤ 3 ∧ (s.power.lastDeadlineMeasure = 0 ∨ s.power.lastDeadlineMeasure + 10000000 ≤ s.tick) then
    { s with power := { s.power with measureDue := true, lastDeadlineMeasure := s.tick } }
  else s

/-- A safe-park by one of the triggers of R263: the sequence, and the actuator's safe-park source. -/
def State.safePark (s : State) (a cause : Nat) : State :=
  if ¬ s.hasAct a ∨ (s.act a).load = 0 ∨ (s.act a).load = 4 then s
  else (s.parkSequence a cause).raiseFault (240 + 8 * a) 255

/-- Every actuator safe-parked. -/
def State.safeParkAll (s : State) (cause : Nat) : State :=
  s.each (List.range s.actCount) fun s a => s.safePark a cause

/-- Borrowers of a head: heads whose lender it is (4041h). -/
def State.borrowers (s : State) (h : Nat) : List Nat :=
  (List.range s.headCount).filter fun b => decide (s.nat (O.lender + b) = h)

/-- Pair drift of two heads (R268). -/
def State.pairDrift (s : State) (a b : Nat) : Nat := (s.obj (O.skewDrift + a) - s.obj (O.skewDrift + b)).natAbs

/-- Lender of R266 for a borrower: the eligible head of the smallest pair drift, then the nearest, then the lowest
number; none where no head is eligible. -/
def State.bestLender (s : State) (h : Nat) : Option Nat :=
  let eligible := (headsOf (actOf h)).filter fun l =>
    decide (l ≠ h) && decide (s.nat (O.clockState + l) = 3) && decide (s.nat (O.lender + l) = 255) &&
      decide (s.nat (O.rslState + 3 * l + 2) ≠ 2) && decide (s.nat (O.rslState + 3 * l + 2) ≠ 4) && decide (s.nat (O.headService + l) ≠ 3) &&
      decide (s.pairDrift l h ≤ s.nat O.borrowDriftLimit)
  let dist (l : Nat) : Nat := ((l : Int) - h).natAbs
  eligible.foldl (fun b l =>
    match b with
    | none => some l
    | some m =>
      let d := s.pairDrift l h
      let e := s.pairDrift m h
      if d < e ∨ (d = e ∧ dist l < dist m) then some l else b) none

/-- A borrower given a lender, or Lost where none is eligible (R266). Clock states of R125: 0 absent, 1 Off,
2 Provisional, 3 Confirmed, 4 Borrowed, 5 Lost. -/
def State.assignLender (s : State) (h : Nat) : State :=
  match s.bestLender h with
  | some l => ((s.setNat (O.lender + h) l).setNat (O.clockState + h) 4).bump (O.borrowEvents + h)
  | none => ((s.setNat (O.lender + h) 255).setNat (O.clockState + h) 5).modHead h fun x => { x with lostAt := s.tick }

/-- Write protection of an actuator's domain recomputed: fenced, write-protected while a head is fenced or a spare
table lost, in service otherwise (R75, R556, R557, R559). -/
def State.refreshService (s : State) (a : Nat) : State :=
  let cur := s.nat (O.actuatorService + a)
  if cur = 0 ∨ cur = 3 then s
  else
    let fenced := (headsOf a).any fun h => decide (s.nat (O.headService + h) = 3)
    let lost := decide (s.nat (O.actuatorFenceCause + a) = 6)
    s.setNat (O.actuatorService + a) (if fenced || lost then 2 else 1)

/-- The return run of one of some units ended by a fence cause on it, with its fail reason (R559, R561). -/
def State.failReturn (s : State) (units : List Nat) (reason : Nat) : State :=
  if s.nat O.returnRunState = 1 ∧ units.contains (s.nat O.returnRunUnit) then s.endRun O.returnRunState reason else s

/-- Fail reason of a return run for a fence cause of a head: 1 link, 2 zone table, 3 stroke, 4 calibration (R560, R561). -/
def headReason (cause : Nat) : Nat := if cause = 1 then 1 else if cause = 2 then 4 else if cause = 3 ∨ cause = 4 then 3 else 5

/-- Fail reason of a return run for a fence cause of an actuator: 1 load, 4 table mismatch, 5 loop calibration (R560, R561). -/
def actReason (cause : Nat) : Nat := if cause = 1 then 2 else if cause = 4 then 4 else if cause = 5 then 3 else 5

/-- A head fenced (R41, R556), with its cause: streams withdrawn, calibration and lending ended, narrow bit and pace runs
cleared, gate closed, heater 0, domain write-protected, the mirror of surface 6a no longer kept. -/
def State.fenceHead (s : State) (h cause : Nat) : State :=
  if ¬ s.hasHead h then s
  else if s.nat (O.headService + h) = 3 then s.failReturn [h, 64 + actOf h] (headReason cause)
  else
    let a := actOf h
    let s := ((s.setNat (O.headService + h) 3).setNat (O.headFenceCause + h) cause).setNat (O.positionState + h) 8
    let s := s.modHead h fun x => { x with
      admitted := false, admitNext := false, presented := 0, completed := 0, paces := [],
      narrowPending := false, leavePending := false, rroRevs := 0, checkRevs := 0, checkSlot := none, heaterCal := none }
    let s := (s.setNat (O.paceRun + h) 0).setNat O.narrowHeadMask (withoutBit (s.nat O.narrowHeadMask) h)
    let s := (s.closeGate h).writeHeater h 0
    let s := s.each (s.borrowers h) State.assignLender
    let s := s.setNat (O.clockState + h) 1
    let s := if s.nat (O.actuatorService + a) = 1 then s.setNat (O.actuatorService + a) 2 else s
    let s := if h = 6 * a then s.setNat O.trunkMirrorState (withoutBit (s.nat O.trunkMirrorState) a) else s
    s.noteWarnings

/-- Media operations of an actuator taken out: scheduling has stopped (R557). -/
def State.dropOps (s : State) (a : Nat) : State :=
  { s with cmds := { s.cmds with ops := s.cmds.ops.filter fun o => o.act ≠ a } }

/-- Units of a surge request returned to the budget (R458). -/
def State.returnSurge (s : State) (priority item : Nat) : State :=
  { s with power := { s.power with
      granted := s.power.granted.filter (fun g => ¬ (g.priority = priority ∧ g.item = item)) } }

/-- A waiting surge request withdrawn. -/
def State.dropSurge (s : State) (priority item : Nat) : State :=
  { s with power := { s.power with
      queue := s.power.queue.filter (fun g => ¬ (g.priority = priority ∧ g.item = item)) } }

/-- An actuator fenced (R557), with its cause: safe-parked, its heads fenced with cause 5, its scheduling stopped, its
fence source raised, its load's surge returned. -/
def State.fenceAct (s : State) (a cause : Nat) : State :=
  if ¬ s.hasAct a then s
  else if s.nat (O.actuatorService + a) = 3 then (s.safePark a 2).failReturn ((64 + a) :: headsOf a) (actReason cause)
  else
    let s := s.safePark a 2
    let s := (s.setNat (O.actuatorService + a) 3).setNat (O.actuatorFenceCause + a) cause
    let s := s.each (headsOf a) fun s h => s.fenceHead h 5
    let s := ((s.dropOps a).returnSurge 2 a).dropSurge 2 a
    let s := s.modAct a fun x => { x with loadWanted := false }
    (s.raiseFault (240 + 8 * a + 6) 255).noteWarnings

/-- An actuator's domain write-protected for a lost spare table (cause 6 of 2013h). -/
def State.protectAct (s : State) (a : Nat) : State :=
  if s.nat (O.actuatorService + a) = 3 ∨ s.nat (O.actuatorService + a) = 0 then s
  else ((s.setNat (O.actuatorService + a) 2).setNat (O.actuatorFenceCause + a) 6).noteWarnings

end Sys2Proof.Machine
end

