-- ==== Sys2Proof/Machine/Operands.lean ====
section
/-! DEFINITION. What a dictionary access names and carries: refusals in the order of R344, units
absent in the variant (R407), ranges (R17) and the state conditions of the owning chapters. -/

namespace Sys2Proof.Machine

/-! ### Refusals (R344) -/

/-- Why a dictionary access is refused, in the order of R344; the last two are R501's and R433's. -/
inductive DictRefusal where
  | indexAbsent | subAbsent | getWriteOnly | putReadOnly | keyElsewhere | keyFree | length | range | state | denied
  | mapping
  deriving DecidableEq, Repr

/-- NVMe status code, of type 7h (R334, R344). -/
def DictRefusal.nvme : DictRefusal → Nat
  | .indexAbsent => 0xC0
  | .subAbsent => 0xC0
  | .getWriteOnly => 0xC4
  | .putReadOnly => 0xC4
  | .keyElsewhere => 0xC1
  | .keyFree => 0xC4
  | .length => 0xC5
  | .range => 0xC3
  | .state => 0xC2
  | .denied => 0xC4
  | .mapping => 0xC3

/-- SDO abort code (R344, R433). -/
def DictRefusal.sdo : DictRefusal → Nat
  | .indexAbsent => 0x06020000
  | .subAbsent => 0x06090011
  | .getWriteOnly => 0x06010001
  | .putReadOnly => 0x06010002
  | .keyElsewhere => 0x08000021
  | .keyFree => 0x08000021
  | .length => 0x06070010
  | .range => 0x06090030
  | .state => 0x08000022
  | .denied => 0x06010002
  | .mapping => 0x06040041

/-- Code a refusal takes on a requester's path. -/
def DictRefusal.code (r : Requester) (x : DictRefusal) : Nat :=
  match r with
  | .mb => x.sdo
  | _ => x.nvme

/-! ### Ranges and state conditions of a write -/

/-- Event codes of R493 that a snapshot list may be selected for. -/
def State.codeAssigned (c : Nat) : Bool :=
  decide ((1 ≤ c ∧ c ≤ 4) ∨ (0x10 ≤ c ∧ c ≤ 0x17) ∨ (0x8000 ≤ c ∧ c ≤ 0x817F))

/-- Whether a zone number lies beyond the zones of a surface's table in force (R82). -/
def State.zoneBeyond (s : State) (surface n : Nat) : Bool :=
  match s.layout.tables.find? fun t => t.surface = surface with
  | some t => decide (t.entries.length ≤ n)
  | none => false

/-- COB-ID objects of the communication profile. -/
def cobKeys : List Nat :=
  [O.syncCobId, O.timeCobId, O.emcyCobId, O.rpdo1CobId, O.rpdo2CobId, O.tpdo1CobId, O.tpdo2CobId, O.tpdo3CobId, O.tpdo4CobId]

/-- Transmission types of the PDOs. -/
def pdoTypeKeys : List Nat := [O.rpdo1Type, O.rpdo2Type, O.tpdo1Type, O.tpdo2Type, O.tpdo3Type, O.tpdo4Type]

/-- Limits that tie one object to another, or allow only some values of a range: R199, R281, R302, R321, R458, R473,
R530, R82, and the object tables; in CANopen FD's encodings the reserved PDO types 241 to 253, and bits 30 to 11 of a COB-ID, since the
device uses 11-bit identifiers and produces neither SYNC nor TIME (R5, R17, R423, R428; log entry 134). True where value `v` is refused as out of range. -/
def State.crossRange (s : State) (k : Nat) (v : Int) : Bool :=
  let n := v.toNat
  let zcLimit (slope window blank : Nat) : Bool := decide (3000 < 30 * slope + 100 * blank + 100 * window)
  if k = O.injectionSpeedLimit then decide (n ≤ s.nat O.handoverSpeed)
  else if k = O.handoverSpeed then decide (s.nat O.injectionSpeedLimit ≤ n)
  else if k = O.chopperOffPercent then decide (s.nat O.chopperOnPercent ≤ n)
  else if k = O.chopperOnPercent then decide (n ≤ s.nat O.chopperOffPercent)
  else if k = O.injectionFrequency then decide (250 * s.nat O.pwmFrequency < n)
  else if k = O.pwmFrequency then decide (250 * n < s.nat O.injectionFrequency)
  else if k = O.slopeWidth then zcLimit n (s.nat O.zcWindow) (s.nat O.zcBlanking)
  else if k = O.zcWindow then zcLimit (s.nat O.slopeWidth) n (s.nat O.zcBlanking)
  else if k = O.zcBlanking then zcLimit (s.nat O.slopeWidth) (s.nat O.zcWindow) n
  else if k = O.ladderIterLimit then decide (n < s.nat O.iterLimit)
  else if k = O.iterLimit then decide (s.nat O.ladderIterLimit < n ∨ n < s.nat O.verifyIterMargin)
  else if k = O.verifyIterMargin then decide (s.nat O.iterLimit < n)
  else if k = O.adjacentCheckLimit then decide (n < s.nat O.writeInhibitLimit)
  else if k = O.writeInhibitLimit then decide (s.nat O.adjacentCheckLimit < n)
  else if k = O.averagePasses then decide (n ≠ 2 ∧ n ≠ 4 ∧ n ≠ 8)
  else if O.verifyEnable ≤ k ∧ k < O.verifyEnable + 4 then !s.nsActive (k - O.verifyEnable + 1)
  else if k = O.settleWindow then decide (s.nat O.onTrackLimit < n)
  else if k = O.onTrackLimit then decide (n < s.nat O.settleWindow)
  else if k = O.paceFloor then decide (s.nat O.paceRecover < n)
  else if k = O.paceRecover then decide (n < s.nat O.paceFloor)
  else if k = O.surgeBudget then
    decide (n < s.nat O.spinUpSurge ∨ n < s.nat O.loadSurge ∨ n < s.nat O.heaterSurge ∨ n < s.nat O.levelSurge)
  else if k = O.spinUpSurge ∨ k = O.loadSurge ∨ k = O.heaterSurge ∨ k = O.levelSurge then
    decide (s.nat O.surgeBudget < n)
  else if k = O.reactionMask + 2 ∨ k = O.reactionMask + 3 then !n.testBit 0
  else if k = O.updateGuards then !n.testBit 0 && decide (s.nat O.trapdoorState ≠ 2)
  else if k = O.snapshotSelectCode then !State.codeAssigned n
  else if k = O.injectSource then !s.sourcePresent n
  else if k = O.triggerLoop then decide (36 < n ∧ n ≠ 255)
  else if O.traceSource ≤ k ∧ k < O.traceSource + 8 then decide (36 < n / 256 ∨ n % 256 / 64 ≠ 0)
  else if k = O.nmtStartup then decide (n ≠ 0 ∧ n ≠ 4)
  else if k = O.crateOffset then decide (n % 4096 ≠ 0)
  else if k = O.faultClear then decide (383 < n ∧ n ≠ 65535)
  else if k = O.fenceHead ∨ k = O.returnHead then !s.hasHead n
  else if k = O.returnActuator then !s.hasAct n
  else if cobKeys.contains k then decide (n / 2 ^ 11 % 2 ^ 20 ≠ 0)
  else if pdoTypeKeys.contains k then decide (240 < n ∧ n < 254)
  else if O.severityLow ≤ k ∧ k < O.severityLow + 192 then decide (3 < n)
  else if k = O.zoneTableSurface ∨ k = O.spareTableSurface ∨ k = O.marginSelectHead then !s.hasHead n
  else if k = O.eqSelectStream ∨ k = O.outcomeSelectStream then !s.hasHead (n / 2)
  else if k = O.spareTableZone then s.zoneBeyond (s.nat O.spareTableSurface) n
  else if k = O.eqSelectZone then s.zoneBeyond (s.nat O.eqSelectStream / 2) n
  else if k = O.marginSelectZone then s.zoneBeyond (s.nat O.marginSelectHead) n
  else false

/-- Whether any loop of the group that loop slot `n` belongs to is Pending (R227). -/
def State.groupPending (s : State) (g : Nat) : Bool :=
  decide (g ≠ 0) && (List.range 37).any fun n =>
    decide (s.nat (O.loopSwapGroup + n) = g) && decide (s.nat (O.loopBankState + n) = 2)

/-- State conditions of a write to a plain object (R321, R227, R349, R490, R530). True where it is refused as a state
conflict. -/
def State.stateRefuses (s : State) (k : Nat) (v : Int) : Bool :=
  if O.spindleNominalRpm ≤ k ∧ k < O.spindleNominalRpm + 7 then decide (s.nat O.spindleState ≠ 0)
  else if O.loopSwapGroup ≤ k ∧ k < O.loopSwapGroup + 37 then
    s.groupPending v.toNat || s.groupPending (s.nat k) || !s.hasSlot (k - O.loopSwapGroup)
  else if O.serialNumber ≤ k ∧ k < O.serialNumber + 6 then (assoc? s.blobs (k + 0x1000000)).isSome
  else if k / 256 = 0x6401 ∧ k ≠ O.injectCommand then decide (s.nat O.injectRunState = 1)
  else if k = O.updateGuards then !(v.toNat.testBit 3) && decide (s.nat O.ownerLockState = 1)
  else false

/-- Whether a value keeps the row's range (R17): the number, or the length of a DOMAIN or VISIBLE_STRING. -/
def inRow (r : ObjRow) (d : ObjData) : Bool :=
  match d with
  | .num _ v => decide (r.lo ≤ v) && decide (v ≤ r.hi)
  | .bytes b => decide (r.lo ≤ (b.length : Int)) && decide ((b.length : Int) ≤ r.hi)

/-- Whether the data has the length of the value (R343, R344). -/
def lengthOk (r : ObjRow) (d : ObjData) : Bool :=
  match d with
  | .num n _ => decide (r.ty.size = n) && decide (n ≠ 0)
  | .bytes b => decide (r.ty.size = 0) && decide (r.lo ≤ (b.length : Int)) && decide ((b.length : Int) ≤ r.hi)

/-- First row of R344 that refuses a read, if any. -/
def State.checkGet (s : State) (k : Nat) (bufferLength : Option Nat) : Option DictRefusal :=
  if ¬ s.indexServed (k / 256) then some .indexAbsent
  else if isCountKey k then none
  else
    match findRow k with
    | none => some .subAbsent
    | some r =>
      if s.keyUnitAbsent k then some .subAbsent
      else if r.access = .wo then some .getWriteOnly
      else
        match bufferLength with
        | some n => if n < r.ty.size then some .length else if s.runValueInvalid k then some .state else none
        | none => if s.runValueInvalid k then some .state else none

/-- First row of R344 that refuses a write, if any, from existence to the limits of the object; what the write itself
then requires belongs to its own operation. -/
def State.checkPut (s : State) (r : Requester) (k : Nat) (d : ObjData) : Option DictRefusal :=
  if ¬ s.indexServed (k / 256) then some .indexAbsent
  else if isCountKey k then some .putReadOnly
  else
    match findRow k with
    | none => some .subAbsent
    | some row =>
      if s.keyUnitAbsent k then some .subAbsent
      else if row.access = .ro ∨ row.access = .const then some .putReadOnly
      else
        let holder := match row.guardKey with
          | some g => (s.key g).holder
          | none => r.code
        if holder = 0 then some .keyFree
        else if holder ≠ r.code then some .keyElsewhere
        else if ¬ lengthOk row d then some .length
        else
          match d with
          | .num _ v =>
            if ¬ inRow row d ∨ s.crossRange k v then some .range
            else if s.stateRefuses k v then some .state else none
          | .bytes _ => if s.stateRefuses k 0 then some .state else none

/-- A write carried out for a requester by `op`, or refused: the answer goes to the requester, and a refused write
changes nothing (R344, R409). -/
def State.writeVia (s : State) (r : Requester) (k : Nat) (d : ObjData) (op : State → Except DictRefusal State) : State :=
  match s.checkPut r k d with
  | some x => s.emit (.dict r.code (x.code r))
  | none =>
    match op s with
    | .ok t => t.emit (.dict r.code 0)
    | .error x => s.emit (.dict r.code (x.code r))

/-! ### Sampled inputs (R283, R576) -/

/-- Millivolts of an SSP or HUM input, behind its divider of 1/16, that a 12-bit conversion reads: full scale 19.2 V (R576). -/
def inputMv (code : Nat) : Nat := code % 4096 * 19200 / 4096

/-- Millivolts of CHS, a 0 to 1.2 V input, that a 12-bit conversion reads (R576). -/
def senseMv (code : Nat) : Nat := code % 4096 * 1200 / 4096

/-- Milliamperes that a 12-bit conversion of the shunt, of −2,048 to +2,047 over ±150 mV, reports: the voltage divided by
ShuntResistance (R576). -/
def State.shuntMa (s : State) (code : Int) : Int :=
  roundDiv (clampInt (-2048) 2047 code * 1500000) (2048 * s.nat O.shuntResistance)

/-- The overcurrent comparator's limit in tenths of a microvolt across the shunt: the lower of OvercurrentLimit × ShuntResistance and
150 mV (R285, R576). -/
def State.overcurrentAt (s : State) : Nat := min (s.nat O.overcurrentLimit * s.nat O.shuntResistance) 1500000

end Sys2Proof.Machine
end

