-- ==== Sys2Proof/Machine/Layout.lean ====
section
/-! DEFINITION. From a namespace LBA to a place on the media and back to its chunk (R58, R71, R74 to R79). -/

namespace Sys2Proof.Machine

/-- Where a sector lies: actuator, domain-local LBA, domain stripe, chunk 0 to 5 and sector in chunk, then the place on
its surface. -/
structure Place where
  act : Nat
  dlba : Nat
  stripe : Nat
  chunk : Nat
  inChunk : Nat
  surface : Nat
  zone : Nat
  row : Nat
  lane : Nat
  track : Nat
  sector : Nat
  startBit : Nat
  remapped : Bool
  deriving DecidableEq, Repr

/-- Bit times of one revolution in a zone: 32 to the clock period. -/
def bitsPerRev (e : ZoneEntry) : Nat := 32 * e.clockPeriods

/-- Data lanes of a zone: its lanes that are neither Cellar nor spare lanes. -/
def dataLanes (e : ZoneEntry) : Nat := e.laneCount - e.cellarLanes - e.spareLanes

/-- Stripes of one lane row (R79). -/
def perLane (e : ZoneEntry) : Nat := e.sectorsPerTrack / 32

/-- Clock count at which sector `n` starts on lane `l` (R58). -/
def sectorStart (e : ZoneEntry) (l n : Nat) : Nat :=
  if bitsPerRev e = 0 then 0
  else
    let base := (e.trackStart + (l - e.firstLane) * e.laneSkew) % (bitsPerRev e)
    (base + 37520 * n) % (bitsPerRev e)

/-- Zone table in force of a surface (R66). -/
def State.zoneTable (s : State) (surface : Nat) : Option ZoneTable := s.layout.tables.find? fun t => t.surface = surface

/-- Zone entry under a head. -/
def State.headZone (s : State) (h : Nat) : ZoneEntry := (s.zoneOf h (s.head h).zone).getD {}

/-- Spare table in force of a surface and zone (R72). -/
def State.spareTable (s : State) (surface zone : Nat) : Option SpareTable :=
  s.layout.spares.find? fun t => decide (t.surface = surface) && decide (t.zone = zone)

/-- Lane that offset `x` of a zone resolves to, and whether it is a spare (R71). -/
def State.resolveSpare (s : State) (e : ZoneEntry) (surface zone x : Nat) : Nat × Bool :=
  match s.spareTable surface zone with
  | none => (e.firstLane + x, false)
  | some t =>
    match t.entries.findIdx? fun p => decide (p.state = 1) && decide (p.laneOffset = x) with
    | some i => (e.firstLane + e.laneCount - e.spareLanes + i, true)
    | none => (e.firstLane + x, false)

/-- Zone, lane row of its data lanes and stripe within the row of a domain stripe (R79). -/
def stripeRow (zones : List ZoneEntry) (stripe z : Nat) : Option (Nat × ZoneEntry × Nat × Nat) :=
  match zones with
  | [] => none
  | e :: rest =>
    let n := dataLanes e * perLane e
    if stripe < n then some (z, e, stripe / perLane e, stripe % perLane e) else stripeRow rest (stripe - n) (z + 1)

/-- Actuator and domain-local LBA of a namespace LBA (R76, R77). -/
def State.domainLba (s : State) (nsid lba : Nat) : Option (Nat × Nat) :=
  match s.nsActs nsid with
  | [] => none
  | acts =>
    if s.nat O.domainMapping = 0 then
      let u := lba / 16384
      some (acts.getD (u % acts.length) 0, u / acts.length * 16384 + lba % 16384)
    else some (acts.getD 0 0, lba)

/-- Place of a domain-local LBA of an actuator; none where no table in force covers it (R79). -/
def State.placeOf (s : State) (a d : Nat) : Option Place :=
  let stripe := d / 384
  let chunk := d % 384 / 64
  let q := d % 64
  let surface := 6 * a + chunk
  match s.zoneTable surface with
  | none => none
  | some t =>
    match stripeRow t.entries stripe 0 with
    | none => none
    | some (z, e, r, j) =>
      let k := 64 * j + q
      let (lane, remapped) := s.resolveSpare e surface z (e.cellarLanes + r)
      some { act := a, dlba := d, stripe := stripe, chunk := chunk, inChunk := q, surface := surface, zone := z, row := r,
             lane := lane, track := k / e.sectorsPerTrack, sector := k % e.sectorsPerTrack,
             startBit := sectorStart e lane (k % e.sectorsPerTrack), remapped := remapped }

/-- Place of a namespace LBA; no mode of a head or an actuator moves it (R80). -/
def State.locate (s : State) (nsid lba : Nat) : Option Place :=
  match s.domainLba nsid lba with
  | some (a, d) => s.placeOf a d
  | none => none

/-- Actuator of a namespace LBA. -/
def State.homeAct (s : State) (nsid lba : Nat) : Nat := ((s.domainLba nsid lba).map Prod.fst).getD 0

/-- Surface and domain stripe of the home chunk of a namespace LBA (R78). -/
def State.homeChunk (s : State) (nsid lba : Nat) : Nat × Nat :=
  match s.domainLba nsid lba with
  | some (a, d) => (6 * a + d % 384 / 64, d / 384)
  | none => (0, 0)

/-- Namespace and LBA of the first sector of a chunk, by surface and domain stripe: the inverse of `homeChunk`. -/
def State.chunkLba (s : State) (surface stripe : Nat) : Nat × Nat :=
  let a := actOf surface
  let d := 384 * stripe + 64 * (surface % 6)
  if s.nat O.domainMapping = 0 then
    let acts := s.nsActs 1
    (1, (d / 16384 * acts.length + acts.idxOf a) * 16384 + d % 16384)
  else (a + 1, d)

/-- The pieces of an LBA range that lie in one chunk each: first LBA and number of sectors, in LBA order (R357). -/
def chunkPieces : Nat → Nat → Nat → List (Nat × Nat)
  | 0, _, _ => []
  | fuel + 1, lba, n =>
    if n = 0 then []
    else
      let m := min n (64 - lba % 64)
      (lba, m) :: chunkPieces fuel (lba + m) (n - m)

/-- Chunk pieces of a range. -/
def piecesOf (lba n : Nat) : List (Nat × Nat) := chunkPieces (n / 64 + 2) lba n

/-! ### Tables as bytes (R64, R65, R69, R70) -/

/-- One zone entry. -/
def zoneEntryImage (surface : Nat) (e : ZoneEntry) : List Nat :=
  withCrc (fieldBytes [(1, e.zone), (1, surface), (2, if e.valid then 1 else 0), (4, e.firstLane), (4, e.laneCount), (4, e.clockPeriods),
    (2, e.sectorsPerTrack), (2, e.cellarLanes), (2, e.spareLanes), (2, 0), (4, e.nominalKbit)] ++ leInt 4 e.headSkew ++
    fieldBytes [(4, e.laneSkew), (4, e.trackStart), (2, e.trackPitch), (2, e.stripeWidth)] ++
    ((List.range 4).flatMap fun i => leInt 1 (e.precomp.getD i 0)) ++
    fieldBytes [(2, e.writerCurrent), (2, e.writerOvershoot), (2, e.heaterRead), (2, e.heaterWrite), (2, e.heaterIdle), (2, 0)])

/-- A zone table: its header and its entries. -/
def zoneTableBytes (t : ZoneTable) : List Nat :=
  withCrc (fieldBytes [(4, 0x5A544142), (2, 1), (1, t.surface), (1, t.entries.length), (2, t.nominalRpm), (2, 0), (4, t.totalLanes),
    (8, t.formatId), (36, 0)]) ++ t.entries.flatMap (zoneEntryImage t.surface)

/-- A spare table: its header, its entries and its CRC. -/
def spareTableBytes (t : SpareTable) : List Nat :=
  withCrc (fieldBytes [(1, t.surface), (1, t.zone), (2, t.entries.length), (4, t.sequence), (8, t.formatId)] ++
    t.entries.flatMap fun e => leBytes 8 (e.state * 2 ^ 62 + e.laneOffset % 2 ^ 24 * 2 ^ 32 + e.mapSequence % 2 ^ 16 * 2 ^ 16))

end Sys2Proof.Machine
end

