-- ==== Sys2Proof/Machine/RafterOps.lean ====
section
/-! DEFINITION. Operations of the Rafter engine: instants (R203, R204), number formats (R207), coefficient banks and swaps
(R223 to R229), starting and stopping loops (R202), and the memories after S4 (R209). -/

namespace Sys2Proof.Machine

/-! ### Instants (R203, R204) -/

/-- A moment in sub-ticks: 120 to a tick (R203). -/
def State.subTime (s : State) (sub : Nat) : Nat := 120 * s.tick + sub

/-- Period of a loop slot in sub-ticks (R200, R203). -/
def loopPeriod (n : Nat) : Nat := if n = 36 then 16000 else if n % 9 = 8 then 8000 else if n % 9 = 7 then 2000 else 500

/-- D − B of a loop slot in sub-ticks, the motion link included (R24, R204). -/
def loopDeadline (n : Nat) : Nat := if n = 36 then 9552 else if n % 9 = 8 then 4800 else if n % 9 = 7 then 1200 else 252

/-- P − B of a loop slot in sub-ticks (R204). -/
def loopApply (n : Nat) : Nat := if n = 36 then 9600 else if n % 9 = 8 then 4800 else if n % 9 = 7 then 1200 else 300

/-- Lane of a loop slot (R200). -/
def laneOf (n : Nat) : Nat := n / 9

/-- Whether a loop runs (4101h). -/
def State.loopRuns (s : State) (n : Nat) : Bool := decide (s.nat (O.loopState + n) = 2)

/-! ### Number formats (R207) -/

/-- Saturation at the limits of a signed format of `bits` bits. -/
def satTo (bits : Nat) (x : Int) : Int := clampInt (-(2 ^ (bits - 1) : Int)) (2 ^ (bits - 1) - 1) x

/-- The accumulator with a value added: 48-bit Q8.40, saturating. -/
def accAdd (a b : Int) : Int := satTo 48 (a + b)

/-- Product of a Q2.30 node and a Q2.30 coefficient (R12), rounded to 40 fraction bits. -/
def nodeProduct (x c : Int) : Int := roundDiv (x * c) (2 ^ 20)

/-- Product of a Q8.40 value and a Q2.30 coefficient, rounded to 40 fraction bits. -/
def accProduct (x c : Int) : Int := roundDiv (x * c) (2 ^ 30)

/-- A Q2.30 value in the accumulator's format. -/
def toAcc (x : Int) : Int := x * 2 ^ 10

/-- Accumulator times 2^Shift, rounded to 30 fraction bits: to nearest, or by dropping the bits below. -/
def scaleAcc (a : Int) (shift : Int) (nearest : Bool) : Int :=
  let d := 2 ^ (10 - shift).toNat
  if nearest then roundDiv a d else a / (d : Int)

/-! ### Coefficient banks (R208, R209, R223) -/

/-- A coefficient bank of a loop. -/
def Loop.bank (l : Loop) (b : Nat) : List (Nat × Int) := if b = 0 then l.bank0 else l.bank1

/-- A word of a sparse memory. -/
def memWord (m : List (Nat × Int)) (i : Nat) : Int := (assoc? m i).getD 0

/-- The 1,024 bytes of a bank. -/
def bankBytes (m : List (Nat × Int)) : List Nat := (List.range 256).flatMap fun i => leInt 4 (memWord m i)

/-- A loop with a bank and its seal CRC replaced. -/
def Loop.setBank (l : Loop) (b : Nat) (m : List (Nat × Int)) (crc : Nat) : Loop :=
  if b = 0 then { l with bank0 := m, seal0 := crc } else { l with bank1 := m, seal1 := crc }

/-- Seal CRC of a bank. -/
def Loop.seal (l : Loop) (b : Nat) : Nat := if b = 0 then l.seal0 else l.seal1

/-- Number of the active bank of a slot. -/
def State.activeBank (s : State) (n : Nat) : Nat := s.nat (O.loopActiveBank + n)

/-- Contents of the inactive bank of a slot. -/
def State.inactive (s : State) (n : Nat) : List (Nat × Int) := (s.loop n).bank (1 - s.activeBank n)

/-- The inactive bank written: it is Open (R223). -/
def State.openBank (s : State) (n : Nat) (m : List (Nat × Int)) : State :=
  (s.modLoop n fun l => l.setBank (1 - s.activeBank n) m 0).setNat (O.loopBankState + n) 0

/-- The inactive bank sealed (R223). -/
def State.sealBank (s : State) (n : Nat) : State :=
  let m := s.inactive n
  (s.modLoop n fun l => l.setBank (1 - s.activeBank n) m (crc32c (bankBytes m))).setNat (O.loopBankState + n) 1

/-- The other bank becomes the active one of a slot, with the control copy (R209). -/
def State.flipBank (s : State) (n : Nat) : State :=
  let b := 1 - s.activeBank n
  (s.modLoop n fun l => { l with control := l.bank b, controlSeal := l.seal b, reload := false }).setNat (O.loopActiveBank + n) b

/-- A pending swap takes effect at an instant (R223, R225, R226, R229): banks exchanged, the former active one Sealed, the
states of the mask cleared, the swap counted, and a host's run done with the boundary's tick and sub-tick and the new active
bank. -/
def State.takeSwap (s : State) (at_ n : Nat) : State :=
  match (s.loop n).pending with
  | none => s
  | some (mask, requester, _, _) =>
    let s := (s.flipBank n).setNat (O.loopBankState + n) 1
    let s := s.modLoop n fun l => { l with pending := none, states := l.states.filter fun w => !mask.testBit w.1 }
    let s := (s.bump (O.loopSwaps + n)).traceEvent 10 n
    if requester = 0 then s
    else
      (((s.setNat O.swapRunTick (at_ / 120)).setNat O.swapRunSubTick (at_ % 120)).setNat O.swapRunBank
        (s.activeBank n)).endRun O.swapRunState 0

/-- Members of a swap group (R227). -/
def State.groupMembers (s : State) (g : Nat) : List Nat :=
  (List.range 37).filter fun n => s.hasSlot n && decide (s.nat (O.loopSwapGroup + n) = g)

/-- The pending swaps due at an instant, those of stopped group members with them (R225, R227). -/
def State.takeSwaps (s : State) (at_ : Nat) : State :=
  s.each (List.range 37) fun s n =>
    match (s.loop n).pending with
    | some (_, _, _, due) => if due = at_ then s.takeSwap at_ n else s
    | none => s

/-- Boundary at which a request accepted at `now` takes effect for some slots: the first one strictly later of the slowest
running one; none where none runs (R225, R227). -/
def State.swapDue (s : State) (now : Nat) (slots : List Nat) : Option Nat :=
  let periods := (slots.filter fun n => s.loopRuns n).map loopPeriod
  if periods = [] then none
  else
    let p := periods.foldl max 1
    some ((now / p + 1) * p)

/-- A swap of some slots accepted at `now` by a requester, 0 for firmware (R225 to R227). Stopped loops swap at once. -/
def State.acceptSwap (s : State) (now mask requester group : Nat) (slots : List Nat) : State :=
  let due := s.swapDue now slots
  let s := s.each slots fun s n =>
    (s.modLoop n fun l => { l with pending := some (mask, requester, group, due.getD now) }).setNat (O.loopBankState + n) 2
  match due with
  | some _ => s
  | none => s.each slots fun s n => s.takeSwap now n

/-- Whether the inactive bank of a slot has the seal CRC it was given (R223). -/
def State.sealHolds (s : State) (n : Nat) : Bool :=
  decide ((s.loop n).seal (1 - s.activeBank n) = crc32c (bankBytes (s.inactive n)))

/-- Whether firmware may change a loop now (R224, R229, R278): no claim, nothing pending, no activation, no health
window. -/
def State.firmwareMay (s : State) (n : Nat) : Bool :=
  s.hasSlot n && decide (s.nat (O.loopClaim + n) = 0) && decide (s.nat (O.loopBankState + n) ≠ 2) &&
    decide (s.nat O.updateState ≠ 3) && decide (s.rafter.health = 0)

/-- A firmware change of some words of a loop (R278): from a copy of the active bank, sealed, its swap requested. A member of
a group swaps only with its group, so its change waits sealed (R227). -/
def State.firmwareChange (s : State) (n : Nat) (words : List (Nat × Int)) : State :=
  if ¬ s.firmwareMay n then s
  else
    let m := words.foldl (fun (m : List (Nat × Int)) w => putKey m w.1 w.2) ((s.loop n).bank (s.activeBank n))
    let s := (s.openBank n m).sealBank n
    if s.nat (O.loopSwapGroup + n) ≠ 0 then s else s.acceptSwap (s.subTime 0) 0 0 0 [n]

/-- The runout table of a zone loaded into a milliactuator loop: it goes ahead of any other firmware change, and one that is pending is
carried over into the bank it makes (R278). -/
def State.loadTable (s : State) (n : Nat) (words : List (Nat × Int)) : State :=
  let waits : Bool := match (s.loop n).pending with
    | some (_, requester, _, _) => decide (requester = 0)
    | none => false
  if waits ∧ s.nat (O.loopClaim + n) = 0 ∧ s.nat O.updateState ≠ 3 ∧ s.rafter.health = 0 then
    let m := words.foldl (fun (m : List (Nat × Int)) w => putKey m w.1 w.2) (s.inactive n)
    let s := ((s.modLoop n fun l => { l with pending := none }).openBank n m).sealBank n
    s.acceptSwap (s.subTime 0) 0 0 0 [n]
  else s.firmwareChange n words

/-! ### Starting and stopping loops (R202) -/

/-- A loop starts: its next boundary begins its first sample. -/
def State.startLoop (s : State) (n : Nat) : State :=
  (s.setNat (O.loopState + n) 2).modLoop n fun l => { l with sample := none, waiting := [], ready := none, lateRun := 0 }

/-- A loop stops; a swap pending on it takes effect, that of a group once no member runs (R225, R227). -/
def State.stopLoop (s : State) (n : Nat) : State :=
  let s := (s.setNat (O.loopState + n) 1).modLoop n fun l => { l with sample := none, waiting := [], ready := none }
  match (s.loop n).pending with
  | some (_, _, g, due) =>
    if g = 0 then s.takeSwap (s.subTime 0) n
    else if (s.groupMembers g).any fun m => s.loopRuns m then s
    else s.each (s.groupMembers g) fun s m =>
      match (s.loop m).pending with
      | some p => if p.2.2.2 = due then s.takeSwap (s.subTime 0) m else s
      | none => s
  | none => s

/-- The loops of an actuator start (R202, R261). -/
def State.startLoops (s : State) (a : Nat) : State := s.each (slotsOf a) State.startLoop

/-- The loops of an actuator stop (R202, R262). -/
def State.stopLoops (s : State) (a : Nat) : State := s.each (slotsOf a) State.stopLoop

/-- The spindle speed loop follows the commutation engine: it runs while the engine's gates are on (R202). -/
def State.speedLoop (s : State) (drives : Bool) : State :=
  if drives ∧ s.nat (O.loopState + 36) ≠ 2 then s.startLoop 36
  else if ¬ drives ∧ s.nat (O.loopState + 36) = 2 then s.stopLoop 36
  else s

/-- Firmware's pending swaps cancelled at a sleep entry, its results discarded (R229, R279). -/
def State.cancelFirmwareSwaps (s : State) : State :=
  s.each (List.range 37) fun s n =>
    match (s.loop n).pending with
    | some (_, 0, _, _) => (s.modLoop n fun l => { l with pending := none }).setNat (O.loopBankState + n) 1
    | _ => s

/-- Rafter's memories rebuilt after S4 (R209). -/
def State.rebuildLoops (s : State) : State :=
  let s := s.each (List.range 37) fun s n =>
    let b := s.activeBank n
    (s.modLoop n fun l => { (l.setBank b l.control l.controlSeal).setBank (1 - b) l.control 0 with
      states := [], nodes := [], outputs := [], reload := false }).setNat (O.loopBankState + n) 0
  { s with rafter := { s.rafter with exchange := [] } }

end Sys2Proof.Machine
end

