-- ==== Sys2Proof/Machine/Surge.lean ====
section
/-! DEFINITION. What power makes available: the surge budget (R458, R459), stream admission (R441, R442), performance
levels and AVSBus (R439 to R447), spin-ups and loads as requests (R261, R292, R298 to R300, R310). -/

namespace Sys2Proof.Machine

/-! ### AVSBus (R445 to R447) -/

/-- Planned voltage of a level in millivolts: nominal plus ageing raise (R438). -/
def State.plannedVoltage (s : State) (level : Nat) : Nat := s.nat (O.levelNominalVoltage + level) + s.nat (O.ageingRaise + level)

/-- The next voltage at most 50 mV from the rail's, towards a target (R445). -/
def avsNext (now target : Nat) : Nat :=
  if now < target then min target (now + 50) else max target (now - 50)

/-- One voltage write sent towards a target, while no request is outstanding, no retry is waited for and the interface has not failed
(R447). -/
def State.sendVoltage (s : State) (target : Nat) : State :=
  if s.nat O.avsState ≠ 0 then s
  else
    let mv := avsNext (s.nat O.coreVoltage) target
    let s := (s.setNat O.avsState 1).emit (.avs mv)
    { s with power := { s.power with avsRequest := mv, avsSent := s.tick, stepWait := 2 } }

/-! ### Stream admission (R441, R442) -/

/-- Whether an actuator has queued host, ladder or device work (R442). -/
def State.hasWork (s : State) (a : Nat) : Bool :=
  (s.cmds.ops.any fun o => decide (o.act = a)) ||
  (s.cmds.ctxs.any fun c => c.started && ((c.toIssue.any fun p => decide (s.homeAct c.nsid p.1 = a)) ||
    c.want.any fun x => decide (s.homeAct c.nsid x = a)) || c.atomic && !c.started && decide (s.homeAct c.nsid c.slba = a)) ||
  ((s.sub.format.isSome || s.sub.sanitize.isSome) && s.mapped a) ||
  (s.detect.ladders.any fun l => decide (actOf (l.stream / 2) = a)) ||
  (s.detect.reads.any fun d => decide (d.act = a) && !d.want.isEmpty) ||
  (s.write.chunks.any fun c => decide (actOf c.head = a)) ||
  (s.cmds.slots.any fun c => decide (c.act = a) && decide (c.stage = 3))

/-- Cost of a head in kbit/s: twice the nominal bit rate of its zone (R442). -/
def State.headCost (s : State) (h : Nat) : Nat := 2 * ((s.zoneOf h (s.head h).zone).map ZoneEntry.nominalKbit).getD 0

/-- Detection capacity of a level in kbit/s at the present temperature (R441). -/
def State.capacityKbit (s : State) (level : Nat) : Nat := levelCapacity level * derating (s.obj O.caseTemperature) * 1000

/-- Heads of an actuator that may be admitted in some pass, in head order: loaded, unfenced, their data links active (R107),
their heater not waiting for surge; in a narrow pass the heads in narrow service, outside one the others (R160, R161, R442, R459). -/
def State.passHeads (s : State) (a : Nat) : List Nat :=
  (headsOf a).filter fun h =>
    decide ((s.act a).load = 2) && decide (s.nat (O.headService + h) ≠ 3) && !(s.head h).heaterPending &&
      decide (s.nat (O.rslState + 3 * h) = 3) && decide (s.nat (O.rslState + 3 * h + 1) = 3) &&
      (s.power.narrowPass.contains a == (bitOf (s.nat O.narrowHeadMask) h && !(s.head h).narrowPending))

/-- Heads of an actuator that may be admitted now: those not served in an earlier pass of the lane row (R443). -/
def State.admissible (s : State) (a : Nat) : List Nat := (s.passHeads a).filter fun h => !(s.act a).passed.contains h

/-- One round of the admission procedure: at most one head of each actuator in order. -/
def admitRound (s : State) (cap : Nat) : List Nat → Nat × List Nat → Nat × List Nat
  | [], acc => acc
  | a :: rest, (used, got) =>
    match (s.admissible a).find? fun h => !got.contains h with
    | some h =>
      if used + s.headCost h ≤ cap then admitRound s cap rest (used + s.headCost h, got ++ [h])
      else admitRound s cap rest (used, got)
    | none => admitRound s cap rest (used, got)

/-- Rounds until one admits nothing: six rounds reach every head of every actuator. -/
def admitRounds (s : State) (cap : Nat) (order : List Nat) : Nat → Nat × List Nat → List Nat
  | 0, acc => acc.2
  | n + 1, acc =>
    let next := admitRound s cap order acc
    if next.2.length = acc.2.length then acc.2 else admitRounds s cap order n next

/-- Actuators with queued work, starting after the one first served last time (R442). -/
def State.admitOrder (s : State) : List Nat :=
  ((List.range 4).map fun i => (s.power.firstServed + 1 + i) % 4).filter fun a => s.hasAct a && s.hasWork a

/-- Whether a change of admission waits for a stripe boundary on some actuator. -/
def State.admissionWaits (s : State) : Bool := s.heads.any fun h => h.admitted && !h.admitNext

/-- Stream admission recomputed for a level (R442): the heads admitted from their actuators' next stripe boundaries,
with the counts of 5820h. -/
def State.admitStreams (s : State) (level : Nat) : State :=
  let order := s.admitOrder
  let got := admitRounds s (s.capacityKbit level) order 7 (0, [])
  let wanted := (order.flatMap fun a => s.passHeads a).length
  let s := { s with
    heads := s.heads.mapIdx (fun (h : Nat) (x : Head) => { x with admitNext := got.contains h })
    power := { s.power with firstServed := order.headD s.power.firstServed } }
  (s.setNat O.streamsAdmitted (2 * got.length)).setNat O.streamsWanted (2 * wanted)

/-! ### Performance levels (R439, R444, R445) -/

/-- Level that the request, the cap, the thermal limit and the sleep state leave (R439). -/
def State.levelTarget (s : State) : Nat :=
  if s.nat O.sleepStateCurrent = 2 ∨ s.nat O.sleepStateCurrent = 3 then 0
  else min (s.nat O.performanceLevelRequest) (min (s.nat O.levelCap) (s.nat O.thermalLevelLimit))

/-- Whether a level change is held: activation, a sleep entry before its commit point (R444). -/
def State.levelHeld (s : State) : Bool := decide (s.nat O.updateState = 3) || decide (s.nat O.sleepEntryState = 1)

/-- Ceiling and level in force changed by one step, counted; every pace window restarts (R39, R445). -/
def State.takeLevel (s : State) (level : Nat) : State :=
  let s := (s.setNat O.performanceLevelCurrent level).bump O.levelChanges
  let s := s.each (List.range 24) fun s h => s.setNat (O.paceRun + h) 0
  { s with
    power := { s.power with ceiling := level }
    heads := s.heads.map (fun (h : Head) => { h with presented := 0, completed := 0 }) }

/-- A lowering whose withdrawn heads have stopped: the ceiling falls, then the voltage follows in writes of at most
50 mV; with AVSBus failed the ceiling alone falls (R445, R447). -/
def State.lowerCeiling (s : State) : State :=
  let s := s.takeLevel s.power.stepTarget
  if s.nat O.avsState = 3 ∨ s.nat O.coreVoltage = s.plannedVoltage s.power.stepTarget then
    { s with power := { s.power with stepKind := 0, stepWait := 0 } }
  else State.sendVoltage { s with power := { s.power with stepWait := 1 } } (s.plannedVoltage s.power.stepTarget)

/-! ### Surge requests (R458, R459) -/

/-- Units granted and not yet returned. -/
def State.surgeSum (s : State) : Nat := (s.power.granted.map Surge.units).sum

/-- Queue with a request placed behind those of its own and higher priorities (R459). -/
def queueSurge (q : List Surge) (g : Surge) : List Surge :=
  q.filter (fun x => decide (x.priority ≤ g.priority)) ++ [g] ++ q.filter (fun x => decide (g.priority < x.priority))

/-- Angle source of a spindle state as it is entered (R291): Listening has one once crossings are seen, Braking by its phase. -/
def angleSourceOf (state : Nat) : Nat :=
  if state = 3 then 3
  else if state = 7 then 2
  else if state = 8 then 4
  else if state = 4 ∨ state = 5 ∨ state = 6 ∨ state = 9 ∨ state = 10 then 1
  else 0

/-- Spindle state entered, with its angle source and drive (R291): gates off in Stopped, WaitingToken, Listening,
Coasting, LockedRotor and Failed; EN low in Stopped, WaitingToken and Failed. -/
def State.spindleEnter (s : State) (state : Nat) : State :=
  let s := (s.setNat O.spindleState state).setNat O.angleSource (angleSourceOf state)
  let s := s.speedLoop (decide (state ∉ [0, 1, 2, 9, 12, 13]))
  { s with spindle := { s.spindle with
      gates := decide (state ∉ [0, 1, 2, 9, 12, 13]), enable := decide (state ∉ [0, 1, 13]) } }

/-- Listening entered (R292): 20 ms of it, and SpinUpTimeLimit runs from here. -/
def State.listen (s : State) : State :=
  let s := s.spindleEnter 2
  { s with spindle := { s.spindle with
      spinUpStart := s.tick, starting := true, slow := false, coastForStop := false, restart := false, agree := 0, misses := 0
      events := [], seen := [] } }

/-- What a granted request starts: a spin-up goes on (the chopper test from Stopped, Listening from a turning rotor,
acceleration from ReducedSpeed), a level raise sends its first voltage, a heater goes on; a load waits for its own
event (R292, R309, R310, R445, R459). -/
def State.afterGrant (s : State) (g : Surge) : State :=
  if g.priority = 1 then
    let st := s.nat O.spindleState
    if st = 1 then { s with spindle := { s.spindle with enable := true, chopper := true, chopperAt := s.tick } }
    else if st = 6 then s.spindleEnter 4
    else if (st = 9 ∧ s.spindle.coastForStop) ∨ st = 11 then { s with spindle := { s.spindle with restart := true } }
    else if st = 9 ∨ st = 12 then s.listen
    else s
  else if g.priority = 2 then s
  else if g.priority = 3 then
    if s.power.stepKind = 1 then s.sendVoltage (s.plannedVoltage s.power.stepTarget) else s
  else s.writeHeater g.item (s.head g.item).heaterPower

/-- A surge request (R458, R459): granted at once where nothing waits and it fits, otherwise queued and counted. -/
def State.requestSurge (s : State) (priority item units : Nat) : State :=
  let g : Surge := { priority := priority, item := item, units := units }
  if s.power.queue.isEmpty ∧ s.surgeSum + units ≤ s.nat O.surgeBudget then
    ({ s with power := { s.power with granted := g :: s.power.granted } }).afterGrant g
  else
    ({ s with power := { s.power with queue := queueSurge s.power.queue g } }).bump O.surgeWaits

/-- Whether a surge request of a priority and unit is granted and not returned. -/
def State.surgeGranted? (s : State) (priority item : Nat) : Bool :=
  s.power.granted.any fun g => decide (g.priority = priority) && decide (g.item = item)

/-- Whether it waits. -/
def State.surgeQueued? (s : State) (priority item : Nat) : Bool :=
  s.power.queue.any fun g => decide (g.priority = priority) && decide (g.item = item)

/-- A one-level step towards the target begun, where none runs and none is held (R444, R445): a raise asks for surge; a
lowering recomputes admission for the lower level and waits for the withdrawn heads. -/
def State.startLevelStep (s : State) : State :=
  let now := s.nat O.performanceLevelCurrent
  let target := s.levelTarget
  if s.power.stepKind ≠ 0 ∨ s.levelHeld ∨ now = target then s
  else if now < target then
    if s.nat O.avsState = 3 then s
    else
      let s := { s with power := { s.power with stepKind := 1, stepTarget := now + 1, stepWait := 1 } }
      s.requestSurge 3 0 (s.nat O.levelSurge)
  else
    let s := ({ s with power := { s.power with stepKind := 2, stepTarget := now - 1, stepWait := 5 } }).admitStreams (now - 1)
    if s.admissionWaits then s else s.lowerCeiling

/-! ### Spin-ups and loads as requests -/

/-- Whether a spin-up from Stopped needs a token (R298): the mode, a port of the bus error-active or error-passive
(1 or 2 in 2101h), and NMT Pre-operational or Operational. -/
def State.tokenRequired (s : State) : Bool :=
  decide (s.nat O.spinUpTokenMode = 1) &&
    (decide (s.nat O.busState ∈ [1, 2]) || decide (s.nat (O.busState + 1) ∈ [1, 2])) && s.nmtServes

/-- Surge asked for a spin-up, unless it is already granted or waiting. -/
def State.spinUpSurge (s : State) : State :=
  if s.surgeGranted? 1 0 ∨ s.surgeQueued? 1 0 then s
  else s.requestSurge 1 0 (s.nat O.spinUpSurge)

/-- A spin-up request (R292, R298 to R300, R309, R310): from Stopped through a token where one is required; one that
finds the spindle waiting joins it; a braking, coasting or slowed spindle restarts through the surge budget; a running
or starting spindle needs nothing. -/
def State.requestSpinUp (s : State) : State :=
  let st := s.nat O.spindleState
  if st = 0 then
    let s := (s.spindleEnter 1).setNat O.startAttemptsUsed 0
    if s.tokenRequired then
      ({ s with spindle := { s.spindle with tokenAt := s.tick } }).setNat O.spinUpTokenState 1
    else s.spinUpSurge
  else if s.spindle.slow then ({ s with spindle := { s.spindle with slow := false } }).spinUpSurge
  else if (st = 9 ∧ s.spindle.coastForStop) ∨ (st = 11 ∧ s.spindle.brakeCause ≠ 1) then s.spinUpSurge
  else s

/-- Whether a return run of an actuator is under way (R559): it loads though it is fenced. -/
def State.returning (s : State) (a : Nat) : Bool := decide (s.nat O.returnRunState = 1) && decide (s.nat O.returnRunUnit = 64 + a)

/-- A load requested for an actuator on the ramp, unless it is fenced or a park is held on it: its surge is asked for
(R458). -/
def State.requestLoad (s : State) (a : Nat) : State :=
  if ¬ s.hasAct a ∨ (s.nat (O.actuatorService + a) = 3 ∧ ¬ s.returning a) then s
  else if (s.act a).load ≠ 0 ∨ s.parkHeld a ∨ s.power.overTemperature ∨ s.obj O.caseTemperature < -400 ∨
      ((s.act a).parkCause = 3 ∧ s.tick < s.pos.lastShock + 1000 * s.nat O.shockReloadDelay) ∨
      s.surgeGranted? 2 a ∨ s.surgeQueued? 2 a then s.modAct a fun x => { x with loadWanted := true }
  else (s.modAct a fun x => { x with loadWanted := true }).requestSurge 2 a (s.nat O.loadSurge)

/-- Loads requested for every actuator that waits for one, while the spindle is AtSpeed. -/
def State.requestLoads (s : State) : State :=
  if s.nat O.spindleState = 5 then
    s.each (List.range s.actCount) fun s a => if (s.act a).loadWanted then s.requestLoad a else s
  else s

/-- HeaterPower of a head written (R458): from 0 to a power through the surge budget, the head not admitted while the
enable waits; any other write at once. -/
def State.setHeater (s : State) (h power : Nat) : State :=
  if power ≠ 0 ∧ (s.head h).heaterPower = 0 then
    (s.modHead h fun x => { x with heaterPower := power, heaterPending := true }).requestSurge 4 h (s.nat O.heaterSurge)
  else s.writeHeater h power

end Sys2Proof.Machine
end

