-- ==== Sys2Proof/Machine/LinkOps.lean ====
section
/-! DEFINITION. Bring-up and training of the head links (R94, R95, R105, R107, R111 to R113) as operations. Link states of R116:
1 down, 2 training, 3 active, 4 degraded, 5 failed; a link of a fenced head reads 6. -/

namespace Sys2Proof.Machine

/-- SynthInt and SynthFrac of a zone: 1.0625 times the bit rate, in 1/65,536 of 100 MHz, rounded (R94). -/
def synthWords (rpm : Nat) (e : ZoneEntry) : Nat × Nat :=
  let x := (roundDiv ((rpm * 32 * e.clockPeriods * 17 * 65536 : Nat) : Int) 96000000000).toNat
  (x / 65536, x % 65536)

/-- Register writes of a head for a zone: writer current and overshoot, heater, and the sample rate, SynthFrac last (R92 to
R94, R181). -/
def State.zoneWrites (s : State) (h : Nat) (rpm : Nat) (e : ZoneEntry) : State :=
  let (int, frac) := synthWords rpm e
  let s := (s.pclWrite h 0x09 e.writerCurrent).pclWrite h 0x0A e.writerOvershoot
  ((s.writeHeater h e.heaterRead).pclWrite h 0x0C int).pclWrite h 0x0D frac

/-- Registers of a head that its zone table does not hold, written again as last acknowledged: reader bias and gain, and the
transmit preset (R91, R93, R117). -/
def State.shadowWrites (s : State) (h : Nat) : State :=
  let kept := (s.pcl (h / 3)).shadow.filter fun x =>
    decide (x.1 / 32 = h % 3) && [0x05, 0x06, 0x07, 0x08, 0x0E].contains (x.1 % 32)
  kept.foldl (fun (s : State) x => s.pclWrite h (x.1 % 32) x.2) s

/-- Reader links of a head (R84). -/
def rslsOf (h : Nat) : List Nat := [3 * h, 3 * h + 1, 3 * h + 2]

/-- Heads of a control link's preamplifier (R84). -/
def headsOfPcl (k : Nat) : List Nat := [3 * k, 3 * k + 1, 3 * k + 2]

/-- Whether a reader link of a head is in training. -/
def State.rslsTrain (s : State) (h : Nat) : Bool := (rslsOf h).any fun n => decide (s.nat (O.rslState + n) = 2)

/-- A reader link as its training starts: nothing received, scramblers and checks at their start (R101, R102, R105). -/
def Rsl.training (r : Rsl) (due : Nat) : Rsl := { attempts := r.attempts, failedAt := r.failedAt, trainingEnd := due }

/-- Training of one reader link started, to complete within 2 ms (R105). A link that was in service counts a retrain (R106). -/
def State.startRsl (s : State) (n : Nat) : State :=
  let was := s.nat (O.rslState + n)
  let s := if was = 3 ∨ was = 4 then s.bump (O.rslRetrains + n) else s
  (s.setNat (O.rslState + n) 2).modRsl n fun r => r.training (s.tick + 2000)

/-- The three reader links of a head trained together, failed ones but `also` apart: Mode 11b with the PRBS-31 pattern, then each
transmit preset in turn (R95, R105). -/
def State.trainHead (s : State) (h : Nat) (also : Option Nat) : State :=
  let links := (rslsOf h).filter fun n => decide (s.nat (O.rslState + n) ≠ 5) || decide (also = some n)
  let s := (s.each links State.startRsl).pclWrite h 0x04 7
  s.each (List.range 11) fun s p => s.pclWrite h 0x0E p

/-- Bit rate of a head's zone 0 in bit/s (R111). -/
def State.firstZoneRate (s : State) (h : Nat) : Nat :=
  match s.zoneTable h with
  | some t => ((t.entries.head?.map fun e => bitsPerRev e * t.nominalRpm / 60).getD 0)
  | none => 0

/-- WrlCheckErrors of a head read (R93, R111). -/
def State.readChecks (s : State) (h : Nat) : State := s.pclAsk (h / 3) 2 (h % 3) 0x10 0 false

/-- Training of a writer link started: Mode 11b with the checker enabled; PRBS-15 over 2^17 bits at each de-emphasis setting, the
error count read before and after each (R95, R111). -/
def State.trainWrl (s : State) (h : Nat) : State :=
  let was := s.nat (O.wrlState + h)
  let s := if was = 3 ∨ was = 4 then s.bump (O.wrlRetrains + h) else s
  let s := (s.setNat (O.wrlState + h) 2).modWrl h fun w => { w with trainingEnd := s.tick + 2000, checks := [], due := false }
  let s := (s.pclWrite h 0x04 0x0B).readChecks h
  s.each (List.range 8) fun s i => (s.emit (.wrlPattern h i (2 ^ 17) (s.firstZoneRate h))).readChecks h

/-- Training of a writer link asked for: at once, or after the head's reader links. -/
def State.askWrl (s : State) (h : Nat) : State :=
  if s.rslsTrain h then s.modWrl h fun w => { w with due := true } else s.trainWrl h

/-- De-emphasis setting that a sweep chooses: the fewest errors, ties to the lower setting (R111). `checks` are the counts before
the sweep and after each setting. -/
def bestSetting (checks : List Nat) : Nat :=
  let errors (i : Nat) : Nat := checks.getD (i + 1) 0 - checks.getD i 0
  (List.range 8).foldl (fun b i => if errors i < errors b then i else b) 0

/-- One more reading of WrlCheckErrors in a training: after the eighth setting the best one is applied and checked over 2^20
bits (R111). -/
def State.wrlChecked (s : State) (h count : Nat) : State :=
  if s.nat (O.wrlState + h) ≠ 2 then s
  else
    let s := s.modWrl h fun w => { w with checks := w.checks ++ [count] }
    let c := (s.wrl h).checks
    if c.length = 9 then
      let s := s.modWrl h fun w => { w with deEmphasis := bestSetting c }
      (s.emit (.wrlPattern h (bestSetting c) (2 ^ 20) (s.firstZoneRate h))).readChecks h
    else s

/-- Best transmit preset of a sweep, and whether one gives zero errors: the sweep lists for each preset the errors over 10^6 bits
and the eye of each link; among presets without errors on the link, the one with the largest smallest eye over the links (R105).
The spec does not say which of two equal ones: the lower (log entry 103). -/
def bestPreset (sweep : List (List (Nat × Nat))) (own : Nat) : Option Nat :=
  let smallest (l : List (Nat × Nat)) : Nat := ((l.map Prod.snd).min?).getD 0
  let good := sweep.zipIdx.filter fun x => decide (x.2 ≤ 10) && decide ((x.1.getD own (1, 0)).1 = 0)
  (good.foldl (fun (b : Option (List (Nat × Nat) × Nat)) x =>
    match b with
    | none => some x
    | some y => if smallest y.1 < smallest x.1 then some x else some y) none).map Prod.snd

/-- Steps 5 to 7 of R112 begun on a preamplifier: its heads' reader links training together, head by head, the writer links due after
them. -/
def State.trainChip (s : State) (k : Nat) : State :=
  let s := s.modPcl k fun c => { c with broughtUp := false, phase := 3 }
  s.each (headsOfPcl k) fun s h => (s.modWrl h fun w => { w with due := true }).trainHead h none

/-- The run of 3141h ended where it was the access. -/
def State.endAccessRun (s : State) (a : PclAccess) (reason : Nat) : State :=
  if a.run then s.endRun O.preampRunState reason else s

/-- Every access of a control link dropped, a run among them failed with PCL not active (R117). -/
def State.dropAccesses (s : State) (k : Nat) : State :=
  let s := ((s.pcl k).outstanding ++ (s.pcl k).queue).foldl (fun (s : State) a => s.endAccessRun a 1) s
  s.modPcl k fun c => { c with outstanding := [], queue := [] }

/-- The links of a preamplifier's heads down (R113, R114). -/
def State.linksDown (s : State) (k : Nat) : State :=
  s.each (headsOfPcl k) fun s h => (s.each (rslsOf h) fun s n => s.setNat (O.rslState + n) 1).setNat (O.wrlState + h) 1

/-- Bring-up of a preamplifier from step 1 of R112: the reference starts, and frames count towards the lock after 200 µs; the rest
follows the lock. -/
def State.bringUp (s : State) (k : Nat) : State :=
  let s := ((s.dropAccesses k).setNat (O.pclState + k) 2).modPcl k fun c => { c with
    locked := false, goodRun := 0, upstreamLost := false, broughtUp := false, attempts := 0, lastValid := s.tick + 200, phase := 0
    refStart := s.tick, restoring := false, restorePending := false, summary := 0 }
  s.linksDown k

/-- Control links of the variant. -/
def State.pclCount (s : State) : Nat := 2 * s.actCount

/-- Steps after the lock of a preamplifier (R112): its identity and status are read and its flags cleared, its heads'
registers written for their zones, and its links trained. -/
def State.afterLock (s : State) (k : Nat) : State :=
  let s := s.setNat (O.pclState + k) 3
  let s := s.modPcl k fun c => { c with restoring := true, restorePending := false }
  let s := ((s.pclAsk k 2 3 0x00 0 false).pclAsk k 2 3 0x01 0 false).pclAsk k 1 3 0x02 0x7FFF false
  let s := s.each (headsOfPcl k) fun s h =>
    let s := s.pclWrite h 0x02 0x3FF
    let s := match s.zoneTable h with
      | some t => match t.entries[(s.head h).zone]? with
        | some e => s.zoneWrites h t.nominalRpm e
        | none => s
      | none => s
    s.shadowWrites h
  s.trainChip k

/-- A preamplifier whose heads are all in read mode is brought up (R112). -/
def State.chipProgress (s : State) (k : Nat) : State :=
  let ended (v : Nat) : Bool := decide (v = 3 ∨ v = 4 ∨ v = 5)
  let done := (headsOfPcl k).all fun h => ended (s.nat (O.wrlState + h)) && (rslsOf h).all fun n => ended (s.nat (O.rslState + n))
  if (s.pcl k).phase = 3 ∧ done then
    let s := s.modPcl k fun c => { c with broughtUp := true, phase := 1, recovering := false }
    s.endCondition (160 + k)
  else s

/-- After a training of a head: a failed attempt is tried again once none of its reader links is in training, the writer link
follows them where it is due, and Mode 01b ends it (R105, R107, R112). -/
def State.headProgress (s : State) (h : Nat) : State :=
  let phase := (s.pcl (h / 3)).phase
  if s.rslsTrain h ∨ (phase ≠ 1 ∧ phase ≠ 3) then s
  else if (rslsOf h).any fun n => decide (s.nat (O.rslState + n) = 1) && decide ((s.rsl n).attempts ≠ 0) then s.trainHead h none
  else if s.nat (O.wrlState + h) = 2 then s
  else if (s.wrl h).due then s.trainWrl h
  else (s.pclWrite h 0x04 1).chipProgress (h / 3)

end Sys2Proof.Machine
end

