-- ==== Sys2Proof/Machine/Execution.lean ====
section
/-! DEFINITION. Contexts, range locks, latches and completions (R350 to R360, R374), Key Cupboard holds (R327, R420 to
R422), sleep entry and wakes (R450 to R457), asked for by commands of every chapter. -/

namespace Sys2Proof.Machine

/-! ### Key Cupboard (R327, R420, R421) -/

/-- A key taken implicitly by a port's command: none where another holder has it. A port that holds it explicitly runs
under that hold; otherwise its command joins or begins the implicit hold, which the Bool tells (R327). -/
def State.takeKey (s : State) (k p : Nat) : Option (Bool × State) :=
  let key := s.key k
  let code := p + 1
  if key.holder ≠ 0 ∧ key.holder ≠ code then none
  else if key.explicit = code ∧ key.implicit ≠ code then some (false, s)
  else some (true, s.modKey k fun x => { x with implicit := code, uses := x.uses + 1 })

/-- One command's implicit hold ended; with the last one the key is free, or its explicit lease runs from now (R327,
R420). -/
def State.dropHold (s : State) (k : Nat) : State :=
  s.modKey k fun x =>
    if x.uses ≤ 1 then
      { x with uses := 0, implicit := 0, leaseEnd := s.tick + 1000000 * s.nat O.keyLeaseTime }
    else { x with uses := x.uses - 1 }

/-! ### Contexts and range locks -/

/-- Whether a context belongs to a command. -/
def Ctx.named (p q i : Nat) (c : Ctx) : Bool := decide (c.port = p) && decide (c.sqid = q) && decide (c.cid = i)

/-- Context of a command. -/
def State.ctx? (s : State) (p q i : Nat) : Option Ctx := s.cmds.ctxs.find? (Ctx.named p q i)

/-- State with a command's context changed. -/
def State.modCtx (s : State) (p q i : Nat) (f : Ctx → Ctx) : State :=
  { s with cmds := { s.cmds with ctxs := s.cmds.ctxs.map fun c => if c.named p q i then f c else c } }

/-- Whether two entries conflict (R353). -/
def RangeLock.conflicts (a b : RangeLock) : Bool :=
  decide (a.nsid = b.nsid) && decide (a.first ≤ b.last) && decide (b.first ≤ a.last) && (a.exclusive || b.exclusive)

/-- Whether an earlier entry conflicts with one (R353). -/
def State.lockBlocked (s : State) (l : RangeLock) : Bool :=
  s.cmds.locks.any fun m => decide (m.number < l.number) && m.conflicts l

/-- Whether an entry holds a host command. -/
def RangeLock.isHost (l : RangeLock) : Bool :=
  match l.owner with
  | .host _ _ _ => true
  | _ => false

/-- Entries that hold host commands, of at most 4,032 (R352). -/
def State.hostLocks (s : State) : Nat := (s.cmds.locks.filter RangeLock.isHost).length

/-- Entries of the device's own 64 in use (R352). -/
def State.deviceLocks (s : State) : Nat := (s.cmds.locks.filter fun l => !l.isHost).length

/-- Whether an owner is a command of a port. -/
def LockOwner.ofPort (p : Nat) : LockOwner → Bool
  | .host q _ _ => decide (q = p)
  | _ => false

/-- An entry inserted with the next insertion number, or, on HP0, before those that HP1 had inserted in the same tick; read-ahead
operations that an exclusive entry overlaps are marked (R38, R352, R353, R394). -/
def State.insertLock (s : State) (nsid first last : Nat) (exclusive : Bool) (owner : LockOwner) : State :=
  let after (m : RangeLock) : Bool := owner.ofPort 0 && m.owner.ofPort 1 && decide (m.tick = s.tick)
  let number := ((s.cmds.locks.find? after).map RangeLock.number).getD s.cmds.nextLock
  let l : RangeLock := { number := number, tick := s.tick, nsid := nsid, first := first, last := last, exclusive := exclusive,
                         owner := owner }
  { s with cmds := { s.cmds with
      locks := (s.cmds.locks.map fun m => if number ≤ m.number then { m with number := m.number + 1 } else m) ++ [l]
      nextLock := s.cmds.nextLock + 1
      ops := s.cmds.ops.map fun o =>
        if o.readAhead ∧ exclusive ∧ o.nsid = nsid ∧ o.lba ≤ last ∧ first < o.lba + o.count
        then { o with overlapped := true } else o } }

/-- The entry of an owner. -/
def State.lockOf (s : State) (owner : LockOwner) : Option RangeLock := s.cmds.locks.find? fun l => l.owner = owner

/-- Every entry of an owner released; I/O fetching resumes where the host's share was full (R353, R355). -/
def State.releaseLock (s : State) (owner : LockOwner) : State :=
  let s := { s with cmds := { s.cmds with locks := s.cmds.locks.filter fun l => l.owner ≠ owner } }
  if s.hostLocks < 4032 then { s with cmds := { s.cmds with ioPaused := false } } else s

/-- Whether the command of an owner may start: none of its entries is blocked (R353). -/
def State.mayStart (s : State) (owner : LockOwner) : Bool :=
  (s.cmds.locks.filter fun l => decide (l.owner = owner)).all fun l => !s.lockBlocked l

/-- Whether a port may take one more context (R350, R351). -/
def State.ctxFree (s : State) (p : Nat) : Bool := decide (s.ctxUse p < 4096) || decide (0 < s.sharedFree)

/-- Whether the device fetches from a queue of a port at all: enabled, ready, not draining a reset, no activation, no
fault reset due, no power loss, not shut down (R330, R331, R370, R372, R373, R475). -/
def State.fetches (s : State) (p : Nat) : Bool :=
  s.hasPort p && (s.port p).ready && !(s.port p).draining && s.cmds.fetchStopped.isNone && s.faults.resetDue.isNone &&
    !s.spindle.powerLost && decide ((s.port p).shutdown = 0) && decide (s.nat O.sleepStateCurrent ≠ 4) && !s.fw.halted

/-- Whether a submission queue holds entries not yet fetched. -/
def IoQueue.waiting (k : IoQueue) : Bool := decide (k.head ≠ k.tail)

/-- The I/O submission queue that is served next: round-robin, up to the arbitration burst from one queue (R340, R351). -/
def Port.nextQueue (x : Port) : Option Nat :=
  let open_ := (x.sqs.filter IoQueue.waiting).map IoQueue.id
  let least (l : List Nat) : Option Nat := l.min?
  if open_.contains x.served ∧ (x.arbitration = 7 ∨ x.burst < 2 ^ x.arbitration) then some x.served
  else (least (open_.filter fun q => decide (x.served < q))).or (least open_)

/-- Whether a queue's first entry is the next one to fetch: the admin queue is always served first (R351). -/
def Port.offers (x : Port) (q : Nat) : Bool :=
  if q = 0 then decide (x.adminHead ≠ x.adminTail) else decide (x.adminHead = x.adminTail) && decide (x.nextQueue = some q)

/-- A port's submission queue moved past the entry fetched. -/
def Port.advance (q : Nat) (x : Port) : Port :=
  if q = 0 then { x with adminHead := (x.adminHead + 1) % max 1 x.adminSize }
  else { x with
    served := q, burst := if x.served = q then x.burst + 1 else 1
    sqs := x.sqs.map fun k => if k.id = q ∧ 0 < k.size then { k with head := (k.head + 1) % k.size } else k }

/-- Whether a port that serves can fetch, and the pauses that begin where it cannot (R351, R355). An I/O command needs a context and
a range-lock entry, an admin command a context. -/
def State.roomFor (s : State) (p : Nat) (io : Bool) : Bool × State :=
  if ¬ s.fetches p then (false, s)
  else if ¬ s.ctxFree p then
    (false, if (s.port p).fetchPaused then s
      else (s.modPort p fun x => { x with fetchPaused := true }).bump O.contextFetchPauses)
  else if (s.port p).fetchPaused then (false, s)
  else if io ∧ 4032 ≤ s.hostLocks then
    (false, if s.cmds.ioPaused then s
      else ({ s with cmds := { s.cmds with ioPaused := true } }).bump O.rangeLockFullPauses)
  else (true, s)

/-- A command about to be fetched from a submission queue, 0 for the admin queue: whether it can be, its entry then being taken off
the queue (R351, R355). -/
def State.fetch (s : State) (p q : Nat) : Bool × State :=
  if ¬ (s.port p).offers q then (false, s)
  else
    let (ok, s) := s.roomFor p (decide (q ≠ 0))
    (ok, if ok then s.modPort p (Port.advance q) else s)

/-- State with the counts of R339 changed. -/
def State.modSmart (s : State) (f : Smart → Smart) : State := { s with sub := { s.sub with smart := f s.sub.smart } }

/-- Controller Busy Time starts or stops as the last I/O command comes or goes (R339). -/
def State.noteBusy (s : State) : State :=
  let busy := s.cmds.ctxs.any fun c => decide (c.kind ≠ .admin)
  s.modSmart fun x => match x.busySince with
    | some t => if busy then x else { x with busySince := none, busyTicks := x.busyTicks + (s.tick - t) }
    | none => if busy then { x with busySince := some s.tick } else x

/-- A completed Read or Write counted (R339). -/
def State.noteDone (s : State) (c : Ctx) (ok : Bool) : State :=
  let n := if ok then c.count else 0
  s.modSmart fun x =>
    if c.kind = .read then { x with reads := x.reads + 1, sectorsRead := x.sectorsRead + n }
    else if c.kind = .write then { x with writes := x.writes + 1, sectorsWritten := x.sectorsWritten + n }
    else x

/-- A context taken (R350). -/
def State.addCtx (s : State) (c : Ctx) : State :=
  ({ s with cmds := { s.cmds with ctxs := s.cmds.ctxs ++ [{ c with fetchTick := s.tick }] } }).noteBusy

/-- The context of an admin command whose execution starts and so commits its completion (R350, R359). -/
def State.addAdmin (s : State) (p i : Nat) (holds : Bool) : State :=
  s.addCtx { port := p, sqid := 0, cid := i, kind := .admin, latch := .completion, holdsKey := holds }

/-! ### Latches and completions (R359, R360, R370) -/

/-- A command's latch set, once, by its completion or an Abort (R359). -/
def State.latch (s : State) (p q i : Nat) (l : Latch) : State :=
  match s.ctx? p q i with
  | some c =>
    if c.latch = .clear then
      s.modCtx p q i fun c => { c with latch := l }
    else s
  | none => s

/-- A command's context and entries given up without a completion. -/
def State.dropCtx (s : State) (p q i : Nat) : State :=
  ({ s with cmds := { s.cmds with
      ctxs := s.cmds.ctxs.filter (fun c => !c.named p q i)
      ops := s.cmds.ops.filter (fun o => !(decide (o.port = p) && decide (o.sqid = q) && decide (o.cid = i) &&
        !o.readAhead)) } }).noteBusy.releaseLock (.host p q i)

/-- Whether a completion entry can be posted now: the port serves, and after a power loss only while HoldUpMargin is
positive and the port's link is up (R370). -/
def State.canPost (s : State) (p : Nat) : Bool :=
  !s.spindle.powerLost || (decide (0 < s.obj O.holdUpMargin) && (s.port p).linkUp)

/-- An entry of log page 01h for a completion with an error status (R338): 64 entries, newest first. -/
def logError (q i sct sc nsid lba : Nat) (p : Port) : Port :=
  { p with errors := ([q, i, sct, sc, nsid, lba, p.errorCount + 1] :: p.errors).take 64, errorCount := p.errorCount + 1 }

/-- Whether Do Not Retry is set with a status: where R334 and R335 say so. -/
def dnrOf (sct sc : Nat) : Bool :=
  decide ((sct, sc) ∈ [(0, 0x02), (0, 0x20), (1, 0x13), (7, 0xC0), (7, 0xC3), (7, 0xC4), (7, 0xC5)])

/-- A command completed exactly once (R359): its completion entry is posted, its context becomes free and its entry is
released. The status is Command Abort Requested where an Abort set the latch. A command discarded by a reset posts
nothing (R372). -/
def State.finish (s : State) (p q i sct sc dw0 : Nat) : State :=
  match s.ctx? p q i with
  | none => s
  | some c =>
    let (sct, sc) := if c.latch = .abort then (0, 7) else (sct, sc)
    let s := if c.orphan ∨ ¬ s.canPost p then s
      else
        let s := (s.emit (.completion p q i sct sc (dnrOf sct sc) dw0)).noteDone c (decide (sct = 0) && decide (sc = 0))
        if sct = 0 ∧ sc = 0 then s else s.modPort p (logError q i sct sc c.nsid c.slba)
    s.dropCtx p q i

/-- A command refused at fetch or ended with a status as soon as it is executed: it takes a context for that time only
(R350, R376). -/
def State.answer (s : State) (p q i sct sc dw0 : Nat) : State :=
  let s := s.emit (.completion p q i sct sc (dnrOf sct sc) dw0)
  if sct = 0 ∧ sc = 0 then s else s.modPort p (logError q i sct sc 0 0)

/-- An admin command run whole in one step: `body` gives the status, dword 0 and the state (R332, R359). It is not run
where the port does not fetch. -/
def State.admin (s : State) (p i : Nat) (body : State → (Nat × Nat × Nat) × State) : State :=
  let (ok, s) := s.fetch p 0
  if ¬ ok then s
  else
    let ((sct, sc, dw0), s) := body s
    s.answer p 0 i sct sc dw0

/-- A Shelf-recorded and answered success. -/
def done : Nat × Nat × Nat := (0, 0, 0)

/-- Invalid Field in Command (R335). -/
def invalidField : Nat × Nat × Nat := (0, 2, 0)

/-! ### Sleep entry and wakes (R450 to R457) -/

/-- Sleep state one port asks for; none where it sets no constraint (R341, R450). -/
def State.portConstraint (s : State) (p : Nat) : Option Nat :=
  let x := s.port p
  if ¬ s.hasPort p ∨ ¬ x.linkUp ∨ (x.d3hot ∧ x.linkL23) ∨ x.perst then none
  else some (s.nat (O.powerStateRequested + p) + 1)

/-- The host ports' combined request as a sleep state; none where no port sets one (R341). -/
def State.hostConstraint (s : State) : Option Nat :=
  match s.portConstraint 0, s.portConstraint 1 with
  | some a, some b => some (min a b)
  | some a, none => some a
  | none, b => b

/-- The target state (R450). -/
def State.sleepTarget (s : State) : Nat :=
  let own := s.nat O.sleepStateRequest
  match s.hostConstraint with
  | some h => if own = 0 then h else min h own
  | none => if own = 0 then 1 else own

/-- Completions of Set Features commands that wait on the entry: success at the commit point, Sleep Entry Aborted
after an abort, with the requested state put back (R341). -/
def State.endPowerWaits (s : State) (aborted : Bool) : State :=
  s.each [0, 1] fun s p =>
    let waits := (s.port p).powerWait
    let s := s.modPort p fun x => { x with powerWait := [] }
    waits.foldl (fun (s : State) w =>
      if aborted then (s.setNat (O.powerStateRequested + p) w.2).finish p 0 w.1 7 0xC6 0
      else s.finish p 0 w.1 0 0 0) s

/-- A sleep entry begun (R450, R452): the prepare phase starts with its first block. -/
def State.beginEntry (s : State) (target : Nat) : State :=
  let s := (((s.setNat O.sleepEntryState 1).setNat O.sleepEntryTarget target).setNat O.sleepEntryTick s.tick).bump O.sleepEntries
  let s := ((s.setNat O.arbiterOutcome 0).setNat O.sleepRefusalCode 0).setNat O.sleepRefusingBlock 0
  let s := s.setNat O.wakeSources 0
  { s with power := { s.power with block := 1, prepareStart := s.tick, blocked := false } }

/-- The target state looked at again: an entry begins where it is deeper than the current state, no entry or exit
runs, no activation runs, and no earlier abort holds it back (R450, R451, R453). -/
def State.considerSleep (s : State) : State :=
  let now := s.nat O.sleepStateCurrent
  if s.nat O.sleepEntryState = 1 ∨ s.nat O.sleepEntryState = 2 ∨ s.power.blocked ∨ s.nat O.updateState = 3 ∨
      s.spindle.powerLost ∨ s.sleepTarget ≤ now then s
  else s.beginEntry s.sleepTarget

/-- Blocks that have quiesced resume (R453): the spindle returns to speed, preamplifier modes return, the unloaded
actuators load again, one whose unload has begun when it has ended. -/
def State.resumeBlocks (s : State) : State :=
  let block := s.power.block
  let s := if 7 ≤ block ∧ s.nat O.sleepEntryTarget = 4 then s.requestSpinUp else s
  let s := if 6 ≤ block then s.each (List.range s.pclCount) fun s k => if (s.pcl k).phase = 0 then s.trainChip k else s else s
  let s := if 5 ≤ block then
      s.each (List.range s.actCount) fun s a =>
        if s.nat (O.actuatorService + a) = 3 then s
        else if (s.act a).load = 0 ∧ s.nat O.spindleState = 5 then s.requestLoad a
        else if (s.act a).load = 2 then s
        else s.modAct a fun x => { x with loadWanted := true }
    else s
  { s with power := { s.power with block := 0, blocked := true, idleSince := s.tick } }

/-- A sleep entry aborted before its commit point, by refusal with its code and block or by wake, with its Shelf record
(R453, R455). -/
def State.abortEntry (s : State) (code block : Nat) : State :=
  if s.nat O.sleepEntryState ≠ 1 then s
  else
    let s := s.setNat O.sleepEntryState (if code = 0 then 5 else 4)
    let s := if code = 0 then s else (s.setNat O.sleepRefusalCode code).setNat O.sleepRefusingBlock block
    let s := (s.bump O.sleepAborts).note 0x16 0 [s.nat O.sleepEntryTarget, code, block]
    (s.resumeBlocks.endPowerWaits true).startLevelStep

/-- What an exit does once the core runs: preamplifiers, spindle and level return, loads follow the spindle (R361, R457). -/
def State.goOn (s : State) (bringUp : Bool) : State :=
  let s := s.each (List.range s.pclCount) fun s k => if bringUp then s.bringUp k else s.trainChip k
  s.requestSpinUp.startLevelStep

/-- Exit from a sleep state (R455, R457): S1 is in force and the actuators are to load. From S4 the regulator enable rises
first, and the rest waits for VDD_CORE (R589). -/
def State.startExit (s : State) : State :=
  let from_ := s.nat O.sleepStateCurrent
  let s := s.setNat O.sleepStateCurrent 1
  let s := { s with power := { s.power with blocked := true, idleSince := s.tick, heldWake := 0 } }
  let s := s.each (List.range s.actCount) fun s a =>
    if s.nat (O.actuatorService + a) = 3 ∨ (s.act a).load = 2 then s
    else s.modAct a fun x => { x with loadWanted := true }
  if from_ = 4 then
    { s with platform := { s.platform with
        vregEnable := true, coreWait := true, coreStart := s.tick, coreAttempts := 0, fromSleep := true } }
  else s.goOn false

/-- A wake source latched (R455): it aborts an entry before the commit point, is held after it until the state is
reached, and starts the exit from a state reached. In S1 without an entry there is nothing for it to end. -/
def State.wake (s : State) (bit : Nat) : State :=
  let latched := s.setNat O.wakeSources (withBit (s.nat O.wakeSources) bit)
  if s.nat O.sleepEntryState = 1 then latched.abortEntry 0 0
  else if s.nat O.sleepEntryState = 2 then
    { latched with power := { latched.power with heldWake := withBit latched.power.heldWake bit } }
  else if 2 ≤ s.nat O.sleepStateCurrent then latched.startExit
  else s

/-- A change of a request that bears on the target (R450, R455): shallower wakes with its bit, deeper begins an entry. -/
def State.requestChanged (s : State) (bit : Nat) : State :=
  let s := { s with power := { s.power with blocked := false } }
  let inForce := if s.nat O.sleepEntryState = 1 ∨ s.nat O.sleepEntryState = 2 then s.nat O.sleepEntryTarget
    else s.nat O.sleepStateCurrent
  if s.sleepTarget < inForce then s.wake bit else s.considerSleep

/-- An I/O command fetched (R341, R361, R455): in a sleep entry or a sleep state it is a wake, and both controllers
return to PS0. -/
def State.ioWake (s : State) : State :=
  let s := { s with power := { s.power with idleSince := s.tick } }
  if s.nat O.sleepEntryState = 1 ∨ s.nat O.sleepEntryState = 2 ∨ 2 ≤ s.nat O.sleepStateCurrent then
    let s := s.wake 0
    (s.setNat O.powerStateRequested 0).setNat (O.powerStateRequested + 1) 0
  else s

end Sys2Proof.Machine
end

