-- ==== Sys2Proof/Machine/Cache.lean ====
section
/-! DEFINITION. The Larder and the Side Pantry (R384 to R394, R398, R403): tags, lookup, allocation, reclaim, promotion,
and what a write does to cached copies. -/

namespace Sys2Proof.Machine

/-! ### Division of buffer memory (R381, R382) -/

/-- Base and bytes of the regions of buffer memory: the Larder, the Side Pantry, the Merge Bin, control and firmware (R381). -/
def bufferRegions : List (Nat × Nat) :=
  [(0, 12 * 2 ^ 30), (0x300000000, 2 * 2 ^ 30), (0x380000000, 2 ^ 30), (0x3C0000000, 2 ^ 30)]

/-- Areas of the control region in MiB: firmware images, capture slots, retry store, ledger page cache, line tags, Cellar map, detection
and positioning sets, other control structures (R382). -/
def controlAreas : List Nat := [96, 600, 28, 64, 4, 32, 16, 184]

/-! ### Tags and replacement (R384, R385) -/

/-- Code of a line's state in its tag (R384). -/
def LineState.code : LineState → Nat
  | .invalid => 0
  | .valid => 1
  | .filling => 2
  | .leaving => 3

/-- A 64-bit tag from its fields (R384). -/
def tagWord (state nsid line valid source : Nat) : Nat :=
  state * 2 ^ 62 + (nsid - 1) % 4 * 2 ^ 60 + line % 2 ^ 36 * 2 ^ 24 + valid % 2 ^ 16 * 2 ^ 8 + source % 16 * 2 ^ 4

/-- Tag of a Larder line (R384). -/
def LarderLine.tag (l : LarderLine) : Nat := tagWord l.state.code l.nsid l.line l.valid l.source

/-- Tag of a Side Pantry line, whose Source is always 0 (R384). -/
def PantryLine.tag (l : PantryLine) : Nat := tagWord (if l.leaving then 3 else 1) l.nsid l.line l.valid 0

/-- Set of a line (R384). -/
def larderSet (nsid line : Nat) : Nat := (line + 4096 * (nsid - 1)) % 12288

/-- Mask of `n` sectors from sector `first` of a line. -/
def sectorMask (first n : Nat) : Nat := (2 ^ n - 1) * 2 ^ first

/-- Sectors of a mask of 16, rising. -/
def maskSectors (m : Nat) : List Nat := (List.range 16).filter fun i => m.testBit i

/-- Bits of `a` that are not in `b`, of 16. -/
def maskMinus (a b : Nat) : Nat := a &&& (65535 ^^^ (b &&& 65535))

/-- Pseudo-LRU bits of a set (R385): 15 nodes of a tree over 16 ways, node 1 the root. -/
def State.plruBits (s : State) (set : Nat) : Nat := (assoc? s.larder.plru set).getD 0

/-- Tree bits after a way was used: every node on its path points away from it (R385). -/
def plruTouch (bits way : Nat) : Nat → Nat → Nat
  | 0, _ => bits
  | n + 1, node =>
    let right := way.testBit n
    plruTouch (if right then withoutBit bits node else withBit bits node) way n (2 * node + (if right then 1 else 0))

/-- The way the tree points at among the eligible ones: at each node the half it names, or the other where that half
has no eligible way (log entry 6). -/
def plruPick (bits : Nat) (eligible : List Nat) : Nat → Nat → Nat → Option Nat
  | 0, _, way => if eligible.contains way then some way else none
  | n + 1, node, way =>
    let right := 2 * way + 1
    let left := 2 * way
    if bits.testBit node then
      match plruPick bits eligible n (2 * node + 1) right with
      | some w => some w
      | none => plruPick bits eligible n (2 * node) left
    else
      match plruPick bits eligible n (2 * node) left with
      | some w => some w
      | none => plruPick bits eligible n (2 * node + 1) right

/-- A way marked used (R385). -/
def State.touchWay (s : State) (set way : Nat) : State :=
  { s with larder := { s.larder with plru := putKey s.larder.plru set (plruTouch (s.plruBits set) way 4 1) } }

/-- The Larder line of a namespace line, whatever its state but Invalid. -/
def State.larderLine (s : State) (nsid line : Nat) : Option LarderLine :=
  s.larder.lines.find? fun l => decide (l.nsid = nsid) && decide (l.line = line) && decide (l.state ≠ .invalid)

/-- The Leaving line whose slot is allocated to a namespace line (R389). -/
def State.allocatedTo (s : State) (nsid line : Nat) : Option LarderLine :=
  s.larder.lines.find? fun l => decide (l.state = .leaving) && decide (l.wanted = some (nsid, line))

/-- State with the tag of a set and way replaced. -/
def State.putLine (s : State) (l : LarderLine) : State :=
  { s with larder := { s.larder with
      lines := l :: s.larder.lines.filter fun m => !(decide (m.set = l.set) && decide (m.way = l.way)) } }

/-- Lowest way of a set whose tag is Invalid. -/
def State.invalidWay (s : State) (set : Nat) : Option Nat :=
  (List.range 16).find? fun w =>
    !s.larder.lines.any fun l => decide (l.set = set) && decide (l.way = w) && decide (l.state ≠ .invalid)

/-- The pseudo-LRU victim of a set that is neither Filling, Leaving nor taking sectors of a miss; no line can be locked, and one whose
data is on its way to a host is not taken, for a transfer is one step (R386, R389). -/
def State.larderVictim (s : State) (set : Nat) : Option LarderLine :=
  let ok := s.larder.lines.filter fun l => decide (l.set = set) && decide (l.state = .valid) && decide (l.awaiting = 0)
  match plruPick (s.plruBits set) (ok.map LarderLine.way) 4 1 0 with
  | some w => ok.find? fun l => l.way = w
  | none => none

/-- A slot retagged for a line as Filling with no valid sector, marked used (R385, R389). -/
def State.retag (s : State) (set way nsid line awaiting source : Nat) : State :=
  (s.putLine { set := set, way := way, state := .filling, nsid := nsid, line := line, valid := 0, source := source,
               awaiting := awaiting }).touchWay set way

/-- Allocation for a miss on a line (R389): an Invalid way is retagged at once; else the victim is marked Leaving and
allocated to the line; else nothing, and the miss is uncached. -/
def State.allocate (s : State) (nsid line awaiting : Nat) : Bool × State :=
  let set := larderSet nsid line
  match s.invalidWay set with
  | some w => (true, s.retag set w nsid line awaiting 0)
  | none =>
    match s.larderVictim set with
    | some v => (true, s.putLine { v with state := .leaving, wanted := some (nsid, line) })
    | none => (false, s)

/-- A sector written into a line: its valid bit set; a Filling line becomes Valid with the last sector of the miss
(R387, R389). -/
def fillLine (sector data : Nat) (l : LarderLine) : LarderLine :=
  let left := withoutBit l.awaiting sector
  { l with valid := withBit l.valid sector, awaiting := left, data := putKey l.data sector data
           state := if l.state = .filling ∧ left = 0 then .valid else l.state }

/-- A sector of a miss that will not come: nothing of it stays awaited. -/
def skipSector (sector : Nat) (l : LarderLine) : LarderLine :=
  let left := withoutBit l.awaiting sector
  { l with awaiting := left, state := if l.state = .filling ∧ left = 0 then .valid else l.state }

/-! ### The Side Pantry (R393) -/

/-- Pantry line of a namespace line. -/
def State.pantryLine (s : State) (nsid line : Nat) : Option PantryLine :=
  s.larder.pantry.find? fun l => decide (l.nsid = nsid) && decide (l.line = line)

/-- Pantry line taken out. -/
def State.dropPantry (s : State) (nsid line : Nat) : State :=
  { s with larder := { s.larder with
      pantry := s.larder.pantry.filter fun l => !(decide (l.nsid = nsid) && decide (l.line = line)) } }

/-- Pantry line changed in place, its insertion order kept. -/
def State.modPantry (s : State) (nsid line : Nat) (f : PantryLine → PantryLine) : State :=
  { s with larder := { s.larder with
      pantry := s.larder.pantry.map fun l => if l.nsid = nsid ∧ l.line = line then f l else l } }

/-- First host hit of a Pantry line: copied into a Larder line allocated under R389 with Source 1, then invalidated.
With no eligible way it stays in the Pantry (R393). -/
def State.promote (s : State) (p : PantryLine) : State :=
  let set := larderSet p.nsid p.line
  let slot := match s.invalidWay set with
    | some w => some w
    | none => (s.larderVictim set).map LarderLine.way
  match slot with
  | some w =>
    let s := s.putLine { set := set, way := w, state := .valid, nsid := p.nsid, line := p.line, valid := p.valid,
                         source := 1, data := p.data }
    ((s.touchWay set w).dropPantry p.nsid p.line).bump O.pantryPromotions
  | none => s.modPantry p.nsid p.line fun l => { l with hit := true, leaving := false }

/-! ### Lookup (R387, R390) -/

/-- Data of cached sectors moved to the host. -/
def State.serve (s : State) (c : Ctx) (line mask : Nat) (data : List (Nat × Nat)) : State :=
  s.each (maskSectors mask) fun s i =>
    s.emit (.readData c.port c.sqid c.cid (16 * line + i) ((assoc? data i).getD 0))

/-- Whether the caches are looked up and filled for a Read (R388, R400). -/
def State.caching (s : State) (c : Ctx) : Bool :=
  decide (c.kind = .read) && !c.fua && decide (s.nat O.larderEnable = 1)

/-- One line of a Read looked up (R387): `first` and `n` are its piece of the command. A hit is served, a Leaving line
found has its eviction cancelled (R390), a fill under way is waited for, and a miss adds its sectors to those wanted
from media. -/
def State.lookup (s : State) (c : Ctx) (first n : Nat) : State :=
  let line := first / 16
  let mask := sectorMask (first % 16) n
  let lbas (m : Nat) : List Nat := (maskSectors m).map (16 * line + ·)
  let want (s : State) (m : Nat) (uncached : Bool) : State :=
    s.modCtx c.port c.sqid c.cid fun c => { c with
      want := c.want ++ lbas m, misses := c.misses ++ [(line, m, uncached)] }
  let wait (s : State) : State := s.modCtx c.port c.sqid c.cid fun c => { c with waits := c.waits ++ [(first, n)] }
  let miss (s : State) : State :=
    let (cached, s) := (s.bump O.larderMisses).allocate c.nsid line mask
    want (if cached then s else s.bump O.uncachedFills) mask (!cached)
  match s.larderLine c.nsid line with
  | some l =>
    if l.state = .filling ∨ maskMinus mask l.valid &&& l.awaiting ≠ 0 then wait s
    else
      let s := if l.state = .leaving then s.bump O.evictionsCancelled else s
      let l : LarderLine := { l with state := .valid, wanted := none }
      let missing := maskMinus mask l.valid
      let s := (s.dropPantry c.nsid line).serve c line (mask &&& l.valid) l.data
      if missing = 0 then ((s.bump O.larderHits).putLine l).touchWay l.set l.way
      else
        let s := (s.bump O.larderMisses).putLine { l with awaiting := l.awaiting ||| missing }
        want (s.touchWay l.set l.way) missing false
  | none =>
    if (s.allocatedTo c.nsid line).isSome then wait s
    else
      match s.pantryLine c.nsid line with
      | some p =>
        if s.nat O.readAheadEnable = 1 then
          if maskMinus mask p.valid = 0 then (s.serve c line mask p.data).promote p
          else miss (s.modPantry c.nsid line fun p => { p with leaving := false })
        else miss s
      | none => miss s

/-- The pieces of a range that lie in one line each. -/
def linePieces : Nat → Nat → Nat → List (Nat × Nat)
  | 0, _, _ => []
  | fuel + 1, lba, n =>
    if n = 0 then []
    else
      let m := min n (16 - lba % 16)
      (lba, m) :: linePieces fuel (lba + m) (n - m)

/-- Lookups of a command that waited for a fill are repeated (R387). -/
def State.relookup (s : State) (nsid line : Nat) : State :=
  s.cmds.ctxs.foldl (fun s c =>
    if c.nsid = nsid ∧ c.waits.any (fun w => decide (w.1 / 16 = line)) then
      let again := c.waits.filter fun w => decide (w.1 / 16 = line)
      let s := s.modCtx c.port c.sqid c.cid fun c => { c with waits := c.waits.filter fun w => decide (w.1 / 16 ≠ line) }
      again.foldl (fun s w => match s.ctx? c.port c.sqid c.cid with
        | some c => s.lookup c w.1 w.2
        | none => s) s
    else s) s

/-! ### Filling (R388, R389, R391) -/

/-- A recovered sector of a host Read written into its line (R387 to R391): into the line that awaits it, into the slot
allocated to it, now reclaimed, or, where the victim's eviction was cancelled, into a new victim reclaimed at once; with
no eligible way the miss is uncached and counted once. -/
def State.cacheFill (s : State) (c : Ctx) (lba data : Nat) : State :=
  let line := lba / 16
  let sector := lba % 16
  match c.misses.find? fun m => decide (m.1 = line) && m.2.1.testBit sector with
  | none => s
  | some (_, mask, uncached) =>
    if uncached ∨ ¬ s.caching c then s
    else
      match s.larderLine c.nsid line with
      | some l => if l.awaiting.testBit sector then s.putLine (fillLine sector data l) else s
      | none =>
        let set := larderSet c.nsid line
        let slot := match s.allocatedTo c.nsid line with
          | some v => some v.way
          | none => match s.invalidWay set with
            | some w => some w
            | none => (s.larderVictim set).map LarderLine.way
        match slot with
        | some w =>
          let s := s.retag set w c.nsid line mask 0
          match s.larderLine c.nsid line with
          | some l => s.putLine (fillLine sector data l)
          | none => s
        | none =>
          (s.bump O.uncachedFills).modCtx c.port c.sqid c.cid fun c => { c with
            misses := c.misses.map fun m => if m.1 = line then (m.1, m.2.1, true) else m }

/-- A sector of a host Read that will not reach the caches: unrecoverable, cancelled or discarded (R388). An allocation
that was still waiting for its first sector falls back with the last one. -/
def State.cacheSkip (s : State) (c : Ctx) (lba : Nat) : State :=
  let line := lba / 16
  let sector := lba % 16
  match c.misses.find? fun m => decide (m.1 = line) && m.2.1.testBit sector with
  | none => s
  | some (_, mask, _) =>
    match s.larderLine c.nsid line with
    | some l => if l.awaiting.testBit sector then s.putLine (skipSector sector l) else s
    | none =>
      match s.allocatedTo c.nsid line with
      | some v => if withoutBit mask sector = 0 then s.putLine { v with state := .valid, wanted := none } else s
      | none => s

/-- A miss with one sector fewer to come. -/
def shrinkMiss (line sector : Nat) (m : Nat × Nat × Bool) : Nat × Nat × Bool :=
  if m.1 = line then (m.1, withoutBit m.2.1 sector, m.2.2) else m

/-- One sector of a command whose outcome is final taken off its list; its miss shrinks, and lookups that waited for the
line are repeated when nothing of it is awaited any more. -/
def State.settleSector (s : State) (c : Ctx) (lba : Nat) : State :=
  let line := lba / 16
  let s := s.modCtx c.port c.sqid c.cid fun c => { c with
    want := c.want.filter fun x => decide (x ≠ lba)
    misses := (c.misses.map (shrinkMiss line (lba % 16))).filter fun m => decide (m.2.1 ≠ 0) }
  let s := { s with cmds := { s.cmds with
    ops := s.cmds.ops.filter fun o => !(decide (o.port = c.port) && decide (o.sqid = c.sqid) && decide (o.cid = c.cid) &&
      !o.isWrite && !o.readAhead &&
      (List.range o.count).all fun i => !((s.ctx? c.port c.sqid c.cid).map Ctx.want |>.getD []).contains (o.lba + i)) } }
  match s.larderLine c.nsid line with
  | some l => if l.awaiting = 0 then s.relookup c.nsid line else s
  | none => if (s.allocatedTo c.nsid line).isNone then s.relookup c.nsid line else s

/-! ### Copies kept in step with writes (R398) -/

/-- A written sector copied into a Larder line that holds its line, whose Source then says so, and invalidated in the Side Pantry (R384,
R398). -/
def State.cacheWrite (s : State) (nsid lba data : Nat) : State :=
  let line := lba / 16
  let sector := lba % 16
  let s := s.modPantry nsid line fun p => { p with valid := withoutBit p.valid sector }
  let s := match s.pantryLine nsid line with
    | some p => if p.valid = 0 then s.dropPantry nsid line else s
    | none => s
  match s.larderLine nsid line with
  | some l => s.putLine { l with valid := withBit l.valid sector, source := 2, data := putKey l.data sector data }
  | none => s

/-- A sector invalidated in both caches; a line without a valid bit left becomes Invalid (R398). -/
def State.cacheDrop (s : State) (nsid lba : Nat) : State :=
  let line := lba / 16
  let sector := lba % 16
  let s := s.modPantry nsid line fun p => { p with valid := withoutBit p.valid sector }
  let s := match s.pantryLine nsid line with
    | some p => if p.valid = 0 then s.dropPantry nsid line else s
    | none => s
  match s.larderLine nsid line with
  | some l =>
    let valid := withoutBit l.valid sector
    s.putLine { l with valid := valid, state := if valid = 0 ∧ l.state ≠ .filling then .invalid else l.state }
  | none => s

/-- A range invalidated in both caches (R398). -/
def State.cacheDropRange (s : State) (nsid lba n : Nat) : State :=
  s.each ((List.range n).map (lba + ·)) fun s x => s.cacheDrop nsid x

/-- Every Larder and Side Pantry tag Invalid (R402, R403). -/
def State.cacheClear (s : State) : State := { s with larder := { s.larder with lines := [], pantry := [] } }

/-- A sector's data where a cache holds it: the Merge Bin first, then the Larder, then the Side Pantry (R183, R366). -/
def State.cachedSector (s : State) (nsid lba : Nat) : Option Nat :=
  let merge := (s.larder.buffers.reverse.filter fun b => decide (b.nsid = nsid) && decide (b.chunk = lba / 64) && (b.clean || b.full)).findSome?
    fun b => assoc? b.data (lba % 64)
  let line := match s.larderLine nsid (lba / 16) with
    | some l => if s.nat O.larderEnable = 1 ∧ l.valid.testBit (lba % 16) then assoc? l.data (lba % 16) else none
    | none => none
  let pantry := match s.pantryLine nsid (lba / 16) with
    | some p => if s.nat O.larderEnable = 1 ∧ p.valid.testBit (lba % 16) then assoc? p.data (lba % 16) else none
    | none => none
  (merge.or line).or pantry

end Sys2Proof.Machine
end

