-- ==== Sys2Proof/Machine/MediaOps.lean ====
section
/-! DEFINITION. What host commands do to the media path: final sectors of a Read (R360), the Merge Bin (R395 to R399),
the generation ledger (R189 to R193), Cellar slots (R363 to R367), markers and commit records (R179, R364), and the ends
of commands under a reset, an Abort or a fence (R372, R375, R599). -/

namespace Sys2Proof.Machine

/-! ### Records written as user data -/

/-- User data of an unrecoverable marker (R179) as a little-endian number. -/
def markerData (lba reason tick : Nat) : Nat :=
  let body := [0x56, 0x5A, 0x4D, 0x41, 0x52, 0x4B, 0x45, 0x52] ++ leBytes 8 lba ++ [reason] ++ List.replicate 7 0 ++
    leBytes 8 tick ++ List.replicate 4060 0x6D
  ofLe (body ++ leBytes 4 (crc32c body))

/-- User data of a commit-record copy (R364). -/
def commitRecord (c : CellarSlot) (copy : Nat) : Nat :=
  let body := [0x43, 0x45, 0x4C, 0x4C, 0x41, 0x52, 0x43, 0x52] ++ leBytes 8 c.seq ++ leBytes 8 c.lba ++ leBytes 4 c.nsid ++
    leBytes 2 c.count ++ [copy, if c.zeroes then 1 else 0] ++ leBytes 4 c.first ++ leBytes 2 c.gen1 ++ leBytes 2 c.gen2 ++
    leBytes 8 c.stagedAt ++ List.replicate 4032 0
  ofLe (body ++ leBytes 4 (crc32c body) ++ List.replicate 4 0 ++ [0x43, 0x4F, 0x4D, 0x4D, 0x49, 0x54, 0x54, 0x44])

/-! ### Final sectors of a Read or Verify (R360) -/

/-- A Read or Verify whose every sector is final completes (R359, R360): Unrecovered Read Error where one was
unrecoverable. -/
def State.readDone (s : State) (p q i : Nat) : State :=
  match s.ctx? p q i with
  | some c =>
    if c.started ∧ (c.kind = .read ∨ c.kind = .verify) ∧ c.want = [] ∧ c.waits = [] then
      let s := s.latch p q i .completion
      if c.failedSectors = 0 then s.finish p q i 0 0 0 else s.finish p q i 2 0x81 0
    else s
  | none => s

/-- A place of a read of the device's own made final. A calibration read or a lane check is over with its last place. -/
def State.deviceSector (s : State) (id : Nat) (r : DeviceResult) : State :=
  let here (x : Nat × SectorInFlight) : Bool :=
    decide (x.2.lane = r.lane) && decide (x.2.track = r.track) && decide (x.2.sector = r.sector)
  let put (d : DeviceRead) : DeviceRead :=
    if d.id = id ∧ d.want.any here then { d with want := d.want.filter fun x => !here x, results := d.results ++ [r] } else d
  let ended (d : DeviceRead) : Bool := (decide (d.purpose = 6) || decide (d.purpose = 7)) && d.want.isEmpty
  { s with detect := { s.detect with reads := (s.detect.reads.map put).filter fun d => !ended d } }

/-- The final entry of a sector in a read of the device's own. -/
def SectorInFlight.result (x : SectorInFlight) (step iterations : Nat) (found : Option SectorRead) : DeviceResult :=
  { lba := x.lba, lane := x.lane, track := x.track, sector := x.sector, step := step, iterations := iterations
    deferred := x.deferred, found := found }

/-- A sector that ended Good at a ladder step, 0 being the first read: its data moves to the host for a Read, its line is filled,
and the command completes with its last sector (R360, R387); a read of the device's own keeps it. -/
def State.sectorGood (s : State) (x : SectorInFlight) (step iterations : Nat) (r : SectorRead) : State :=
  if x.port = 3 then s.deviceSector x.cid (x.result step iterations (some r))
  else
  match s.ctx? x.port x.sqid x.cid with
  | some c =>
    if ¬ c.want.contains x.lba then s
    else
      let s := if c.kind = .read ∧ c.latch ≠ .abort then s.emit (.readData x.port x.sqid x.cid x.lba r.data) else s
      ((s.cacheFill c x.lba r.data).settleSector c x.lba).readDone x.port x.sqid x.cid
  | none => s

/-- A sector of a command that ended unrecoverable: its line keeps its valid bit clear, and log page C1h gains the
sector with the outcome word of its last pass (R338, R360, R376, R388). -/
def State.sectorBad (s : State) (x : SectorInFlight) (step word : Nat) : State :=
  if x.port = 3 then s.deviceSector x.cid (x.result step 0 none)
  else
  match s.ctx? x.port x.sqid x.cid with
  | some c =>
    if ¬ c.want.contains x.lba then s
    else
      let s := { s with sub := { s.sub with
        unrecoverable := ((x.lba, c.nsid, word, s.tick) :: s.sub.unrecoverable).take 256 } }
      let s := s.modCtx x.port x.sqid x.cid fun c => { c with failedSectors := c.failedSectors + 1 }
      ((s.cacheSkip c x.lba).settleSector c x.lba).readDone x.port x.sqid x.cid
  | none => s

/-- A sector read as an unrecoverable marker: unrecoverable for a command (R180); a read of the device's own keeps its content. -/
def State.sectorMarker (s : State) (x : SectorInFlight) (step iterations word : Nat) (r : SectorRead) : State :=
  if x.port = 3 then s.deviceSector x.cid (x.result step iterations (some r)) else s.sectorBad x step word

/-! ### Reads withdrawn -/

/-- One more final outcome of a first read, saturating (R165). -/
def countOutcome (code : Nat) (l : List Nat) : List Nat :=
  (l ++ List.replicate (16 - l.length) 0).modify code fun n => min (n + 1) (2 ^ 32 - 1)

/-- Pace of a head credited with a sector that was presented in the running interval (R158). -/
def paceDone (x : Head) : Head := { x with completed := x.completed + 1 }

/-- The present day's read-margin counts of a head and zone changed (R465). -/
def State.noteMargin (s : State) (h zone : Nat) (f : Margin → Margin) : State :=
  s.modHead h fun x => { x with marginNow := putKey x.marginNow zone (f ((assoc? x.marginNow zone).getD {})) }

/-- A first read ended in an outcome: counted, and credited to its head's pace unless it is PoolOverrun (R158, R165, R465). -/
def State.countFirst (s : State) (stream : Nat) (x : SectorInFlight) (outcome : Nat) : State :=
  let s := s.modStream stream fun st => { st with outcomes := countOutcome outcome st.outcomes }
  let s := if outcome = 6 ∨ outcome = 7 then s else s.noteMargin (stream / 2) x.zone fun m => { m with sectors := m.sectors + 1 }
  if x.paced ∧ outcome ≠ 6 ∧ x.interval = s.detect.interval then s.modHead (stream / 2) paceDone else s

/-- The capture slot of a stream given back once no ladder and no refresh uses it any more (R176 to R178). -/
def State.freeCapture (s : State) (stream : Nat) : State :=
  if s.detect.ladders.any (fun l => l.slots.contains stream) ∨ s.detect.refreshes.any (fun r => r.slots.contains stream) then s
  else { s with detect := { s.detect with captures := s.detect.captures.filter fun c => decide (c ≠ (2, stream)) } }

/-- The offset of ladder step 4 taken off a head once none of its ladders is in that step (R170, R175, R245). -/
def State.endOffset (s : State) (h : Nat) : State :=
  if s.detect.ladders.any fun l => decide (l.stream / 2 = h) && decide (l.running = 4) then s
  else s.setPoint (actOf h) (2 + h % 6) 0

/-- The power of ladder step 5 taken off a head once none of its ladders is in that step (R171, R175). -/
def State.endRaise (s : State) (h : Nat) : State :=
  if s.detect.ladders.any fun l => decide (l.stream / 2 = h) && decide (l.running = 5) then s
  else
    match s.zoneOf h (s.head h).zone with
    | some e => s.writeHeater h (s.heaterRead h e)
    | none => s

/-- What a ladder leaves behind when it ends: its held codeword, its slots, and the offset or the heater power of its step. -/
def State.clearLadder (s : State) (l : Ladder) : State :=
  let s := { s with detect := { s.detect with
    retry := s.detect.retry.filter fun r => decide (r ≠ l.id) } }
  let s := l.slots.foldl State.freeCapture s
  let s := if l.running = 4 then s.endOffset (l.stream / 2) else s
  if l.running = 5 then s.endRaise (l.stream / 2) else s

/-- Sectors of a command taken out of the read channel (R156, R176): queued, captured and held first reads end Cancelled at once, a
ladder ends, and a turn under way runs to its end, where its result is discarded. -/
def State.cancelSectors (s : State) (p q i : Nat) : State :=
  let mine (x : SectorInFlight) : Bool := decide (x.port = p) && decide (x.sqid = q) && decide (x.cid = i)
  let s := s.each (List.range 48) fun s n =>
    let st := s.stream n
    let gone := (st.queue ++ st.overflow ++ st.backlog).filter mine
    let queue := st.queue.filter (fun x => !mine x) ++ st.overflow.filter (fun x => !mine x)
    let s := s.modStream n fun st => { st with
      queue := queue.take (max st.queue.length 1), overflow := queue.drop (max st.queue.length 1)
      backlog := st.backlog.filter (fun x => !mine x) }
    gone.foldl (fun (s : State) x => s.countFirst n x 7) s
  let gone := s.detect.ladders.filter fun l => mine l.sector
  let s : State := { s with detect := { s.detect with
    ladders := s.detect.ladders.filter (fun l => !mine l.sector)
    heldReads := s.detect.heldReads.filter (fun x => !mine x.2.1)
    turns := s.detect.turns.map fun t => if mine t.sector then { t with sector := { t.sector with gone := true } } else t } }
  gone.foldl State.clearLadder s

/-- A Read or Verify withdrawn: its sectors end Cancelled and its misses are given up (R372, R375). -/
def State.cancelRead (s : State) (c : Ctx) : State :=
  let s := c.want.foldl (fun s lba => s.cacheSkip c lba) s
  let lines := c.misses.map Prod.fst
  let s := (s.modCtx c.port c.sqid c.cid fun c => { c with want := [], waits := [], misses := [], toIssue := [] }).cancelSectors
    c.port c.sqid c.cid
  lines.foldl (fun s l => s.relookup c.nsid l) s

/-- Reads of the device's own given up. -/
def State.cancelReads (s : State) (hit : DeviceRead → Bool) : State :=
  let gone := s.detect.reads.filter hit
  let s : State := { s with detect := { s.detect with reads := s.detect.reads.filter fun d => !hit d } }
  gone.foldl (fun (s : State) d => s.cancelSectors 3 d.purpose d.id) s

/-- The open burst of a write given up ends after the sector being written (R375). -/
def State.stopBurst (s : State) (w : ChunkWrite) : State :=
  if w.open_ then
    let w := s.syncBurst w
    let s := s.emitSectors { w with written := min w.sectors.length (w.written + 1) }
    ((s.modHead w.head fun x => { x with gate := false }).modWrl w.head fun l => { l with bursting := false }).endLead w.head
  else s

/-- Chunk writes given up, with the reads made for them; a head whose last one goes ends its lead (R182). -/
def State.dropChunks (s : State) (hit : ChunkWrite → Bool) : State :=
  let gone := s.write.chunks.filter hit
  let s : State := { s with write := { s.write with chunks := s.write.chunks.filter fun w => !hit w } }
  let s := s.cancelReads fun d => gone.any fun w => decide (d.nsid = w.nsid) && decide (d.lba = w.lba) &&
    ((decide (d.purpose = 1) && decide (w.kind = 0)) || (decide (d.purpose = 8) && w.verifying))
  gone.foldl (fun (s : State) w =>
    let s := s.stopBurst w
    if (s.head w.head).lead.isNone ∨ (s.write.chunks.any fun v => decide (v.head = w.head)) then s else s.endLead w.head) s

/-! ### The generation ledger (R189 to R192) -/

/-- Ledger key of a chunk. -/
def ledgerKey (surface stripe : Nat) : Nat := surface * 2 ^ 32 + stripe

/-- Ledger page of a stripe (R191). -/
def ledgerPage (stripe : Nat) : Nat := stripe / 1792

/-- Entry that an unlisted chunk has: its surface's, and trusted unless its page is doubted (R189, R194). -/
def State.plainEntry (s : State) (surface stripe : Nat) : LedgerEntry :=
  { gen := (assoc? s.write.base surface).getD 0, trusted := !(s.write.doubtAll || s.write.doubt.contains (surface, ledgerPage stripe)) }

/-- Ledger entry of a chunk (R189). -/
def State.entry (s : State) (surface stripe : Nat) : LedgerEntry :=
  (assoc? s.write.ledger (ledgerKey surface stripe)).getD (s.plainEntry surface stripe)

/-- Whether a change of a page would exceed LedgerDirtyMax: the write waits for a flush (R192). -/
def State.pageBlocked (s : State) (surface stripe : Nat) : Bool :=
  !s.write.dirty.contains (surface, ledgerPage stripe) && decide (s.nat O.ledgerDirtyMax ≤ s.write.dirty.length)

/-- A ledger entry replaced and its page marked dirty (R192). -/
def State.setEntry (s : State) (surface stripe : Nat) (e : LedgerEntry) : State :=
  let page := (surface, ledgerPage stripe)
  { s with write := { s.write with
      ledger := if e = s.plainEntry surface stripe then dropKey s.write.ledger (ledgerKey surface stripe)
                else putKey s.write.ledger (ledgerKey surface stripe) e
      dirty := if s.write.dirty.contains page then s.write.dirty else s.write.dirty ++ [page] } }

/-- Whether generation `g` is ahead of `h` (R193). -/
def genAhead (g h : Nat) : Bool := decide (1 ≤ (g + 65536 - h) % 65536) && decide ((g + 65536 - h) % 65536 ≤ 32767)

/-! ### Cellar slots (R363 to R367) -/

/-- Whether a slot's sectors serve its LBAs: flipped, not retired. -/
def CellarSlot.mapped (c : CellarSlot) : Bool := decide (c.stage = 3)

/-- Whether a slot covers an LBA. -/
def CellarSlot.covers (c : CellarSlot) (nsid lba : Nat) : Bool :=
  decide (c.nsid = nsid) && decide (c.lba ≤ lba) && decide (lba < c.lba + c.count)

/-- The live slot with the highest SlotSequence that covers an LBA (R366). -/
def State.slotFor (s : State) (nsid lba : Nat) : Option CellarSlot :=
  s.cmds.slots.foldl (fun b c =>
    if c.mapped ∧ c.covers nsid lba then
      match b with
      | none => some c
      | some d => if d.seq < c.seq then some c else some d
    else b) none

/-- Slots whose ring positions are free again leave the list: those at the front of their ring that are retired or
abandoned (R367). -/
def State.freeSlots (s : State) : State :=
  let keep (all : List CellarSlot) (c : CellarSlot) : Bool :=
    c.live || all.any fun d => decide (d.act = c.act) && decide (d.ring = c.ring) && decide (d.seq < c.seq) && d.live
  { s with cmds := { s.cmds with slots := s.cmds.slots.filter (keep s.cmds.slots) } }

/-- A watermark that changed is noted with the tick since which it must reach the Trunk (R367). -/
def State.noteWatermark (before s : State) : State :=
  s.each (List.range 4) fun s a =>
    if before.watermark a ≠ s.watermark a ∧ (assoc? s.cmds.watermarkDirty a).isNone then
      { s with cmds := { s.cmds with watermarkDirty := putKey s.cmds.watermarkDirty a s.tick } }
    else s

/-- A slot changed by its actuator and sequence number; retirement and freeing follow (R367). -/
def State.modSlot (s : State) (a seq : Nat) (f : CellarSlot → CellarSlot) : State :=
  let change (c : CellarSlot) : CellarSlot := if c.act = a ∧ c.seq = seq then f c else c
  s.noteWatermark ({ s with cmds := { s.cmds with slots := s.cmds.slots.map change } }).freeSlots

/-- A slot after one home chunk was written: retired with its last (R366, R367). -/
def restockedSlot (nsid chunk : Nat) (c : CellarSlot) : CellarSlot :=
  if c.stage = 3 ∧ c.nsid = nsid then
    let left := c.toRestock.filter fun x => decide (x ≠ chunk)
    { c with toRestock := left, stage := if left = [] then 4 else 3 }
  else c

/-- A home chunk written whole counts as restocking for every flipped slot that covers it (R366, R367). -/
def State.chunkRestocked (s : State) (nsid chunk : Nat) : State :=
  let t := ({ s with
    cmds := { s.cmds with slots := s.cmds.slots.map (restockedSlot nsid chunk) }
    write := { s.write with again := s.write.again.filter fun x => decide (x ≠ (nsid, chunk)) } }).freeSlots
  s.noteWatermark t

/-- A slot abandoned before its copy 1 is on media (R365): counted, its fault source raised, its burst given up. -/
def State.abandonSlot (s : State) (a seq : Nat) : State :=
  let s := s.modSlot a seq fun c => { c with stage := 5 }
  let s := s.dropChunks fun c => decide (c.kind = 1) && decide (c.slotSeq = seq) && decide (actOf c.head = a)
  (s.bump O.slotsAbandoned).raiseFault 308 a

/-! ### The Merge Bin (R395 to R399) -/

/-- The open buffer of a chunk: not clean, and its burst not opened. -/
def State.openBuffer (s : State) (nsid chunk : Nat) : Option MergeBuffer :=
  s.larder.buffers.find? fun b => decide (b.nsid = nsid) && decide (b.chunk = chunk) && !b.clean &&
    !s.write.chunks.any fun c => decide (c.buffer = b.age) && (c.open_ || decide (0 < c.written))

/-- State with a buffer changed by its number. -/
def State.modBuffer (s : State) (age : Nat) (f : MergeBuffer → MergeBuffer) : State :=
  { s with larder := { s.larder with buffers := s.larder.buffers.map fun b => if b.age = age then f b else b } }

/-- A chunk's data as far as it is known: sectors covered by `given`, then what the Merge Bin, the Larder or the Side Pantry holds;
the rest is missing and must be read from media, from the newest slot or the home chunk (R183, R366). -/
def State.chunkData (s : State) (nsid chunk : Nat) (given : Nat → Option Nat) : List Nat × List Nat :=
  let cells := (List.range 64).map fun i => (i, (given i).or (s.cachedSector nsid (64 * chunk + i)))
  (cells.map fun x => x.2.getD 0, (cells.filter fun x => x.2.isNone).map Prod.fst)

/-- A chunk made ready to be written whole at its home (R183, R190), from a buffer or from given sectors. -/
def State.readyChunk (s : State) (nsid chunk buffer zeroes : Nat) (given : Nat → Option Nat) : State :=
  match s.locate nsid (64 * chunk) with
  | none => s
  | some p =>
    let (data, missing) := s.chunkData nsid chunk given
    let w : ChunkWrite := {
      head := p.surface, stripe := p.stripe, lane := p.lane, nsid := nsid, lba := 64 * chunk,
      kind := 0, total := 64, missing := missing, buffer := buffer, data := data, track := p.track, sector := p.sector,
      zeroes := zeroes, verify := decide (s.nat (O.verifyEnable + (nsid - 1)) = 1),
      spare := p.remapped }
    { s with write := { s.write with chunks := s.write.chunks ++ [w] } }

/-- A buffer whose chunk is covered or whose window has ended is written (R396). -/
def State.readyBuffer (s : State) (age : Nat) : State :=
  match s.larder.buffers.find? fun b => decide (b.age = age) with
  | some b =>
    if b.full ∨ b.clean then s
    else
      (s.modBuffer age fun b => { b with full := true }).readyChunk b.nsid b.chunk age
        b.zeroes (fun i => if b.covered.testBit i then assoc? b.data i else none)
  | none => s

/-- Mask of `n` sectors of a chunk from LBA `first` on. -/
def chunkMask (first n : Nat) : Nat := (2 ^ n - 1) * 2 ^ (first % 64)

/-- A mask with the sectors of a piece set or cleared. -/
def markMask (m first n : Nat) (on : Bool) : Nat :=
  ((List.range 64).filter fun i =>
    if first % 64 ≤ i ∧ i < first % 64 + n then on else m.testBit i).foldl withBit 0

/-- Data of a chunk piece put into a buffer. -/
def mergeData (first : Nat) (data : List Nat) (zeroes : Bool) (b : MergeBuffer) : MergeBuffer :=
  { b with
    covered := b.covered ||| chunkMask first data.length, zeroes := markMask b.zeroes first data.length zeroes
    data := data.zipIdx.foldl (fun d x => putKey d ((first + x.2) % 64) x.1) b.data }

/-- Buffers holding data that is not clean (5014h.03). -/
def State.buffersUsed (s : State) : Nat := (s.larder.buffers.filter fun b => !b.clean).length

/-- Data of one chunk piece of a direct write arriving at the Merge Bin (R395, R396): it joins the chunk's buffer, or
takes a free one (the oldest clean one where none is unused), or waits for one. The flag tells whether it arrived. -/
def State.arrive (s : State) (c : Ctx) (first : Nat) (data : List Nat) : Bool × State :=
  let chunk := first / 64
  let owner := (c.port, c.sqid, c.cid)
  let zeroes := decide (c.kind = .writeZeroes)
  match s.openBuffer c.nsid chunk with
  | some b =>
    let s := if b.owners.contains owner then s else s.bump O.mergedWrites
    let s := s.modBuffer b.age fun b => { mergeData first data zeroes b with
      owners := if b.owners.contains owner then b.owners else b.owners ++ [owner], lastData := s.tick }
    let s := { s with write := { s.write with chunks := s.write.chunks.map fun w =>
      if w.buffer = b.age then
        { w with missing := w.missing.filter (fun i => !(decide (first % 64 ≤ i) && decide (i < first % 64 + data.length)))
                 markers := w.markers.filter (fun i => !(decide (first % 64 ≤ i) && decide (i < first % 64 + data.length)))
                 zeroes := markMask w.zeroes first data.length zeroes
                 data := (List.range 64).map fun i =>
                   if first % 64 ≤ i ∧ i < first % 64 + data.length then data.getD (i - first % 64) 0 else w.data.getD i 0 }
      else w } }
    (true, s)
  | none =>
    if 4096 ≤ s.buffersUsed then (false, s)
    else
      let age := s.larder.bufferClock
      let empty : MergeBuffer :=
        { nsid := c.nsid, chunk := chunk, covered := 0, data := [], owners := [owner], lastData := s.tick, age := age }
      let b := mergeData first data zeroes empty
      let kept := if s.larder.buffers.length < 4096 then s.larder.buffers
        else match s.larder.buffers.find? MergeBuffer.clean with
          | some o => s.larder.buffers.filter fun x => decide (x.age ≠ o.age)
          | none => s.larder.buffers
      (true, { s with larder := { s.larder with buffers := kept ++ [b], bufferClock := age + 1 } })

/-- After data has arrived for a chunk: written at once where it is covered, or where no window holds it (R396). -/
def State.mergeSettle (s : State) (nsid chunk : Nat) : State :=
  match s.openBuffer nsid chunk with
  | some b => if b.covered = 2 ^ 64 - 1 ∨ s.nat O.mergeWindow = 0 then s.readyBuffer b.age else s
  | none => s

/-- The pieces of a direct write that can be transferred now; the rest waits for buffers, each wait counted (R395). -/
def State.transfer (s : State) (c : Ctx) (pieces : List (Nat × Nat)) : State :=
  pieces.foldl (fun s p =>
    let data := (List.range p.2).map fun i => c.data.getD (p.1 + i - c.slba) 0
    match s.arrive c p.1 data with
    | (true, s) => s.mergeSettle c.nsid (p.1 / 64)
    | (false, s) =>
      (s.bump O.mergeBufferWaits).modCtx c.port c.sqid c.cid fun c => { c with waits := c.waits ++ [p] }) s

/-- Sectors of a write withdrawn from buffers whose burst has not opened: they count as uncovered, a chunk no write
needs any more is given up (R399). -/
def State.withdraw (s : State) (c : Ctx) : State :=
  let owner := (c.port, c.sqid, c.cid)
  let mine (b : MergeBuffer) : Bool := b.owners.contains owner && !b.clean &&
    !s.write.chunks.any fun w => decide (w.buffer = b.age) && (w.open_ || decide (0 < w.written))
  let own (b : MergeBuffer) (i : Nat) : Bool := decide (c.slba ≤ 64 * b.chunk + i) && decide (64 * b.chunk + i < c.slba + c.count)
  (s.larder.buffers.filter mine).foldl (fun s b =>
    let left := b.owners.filter fun o => decide (o ≠ owner)
    if left = [] then
      ({ s with larder := { s.larder with buffers := s.larder.buffers.filter (fun x => decide (x.age ≠ b.age)) } }).dropChunks
        fun w => decide (w.buffer = b.age)
    else
      let s := s.modBuffer b.age fun b => { b with
        owners := left, data := b.data.filter (fun x => !own b x.1)
        zeroes := ((List.range 64).filter fun i => b.zeroes.testBit i && !own b i).foldl withBit 0
        covered := ((List.range 64).filter fun i => b.covered.testBit i && !own b i).foldl withBit 0 }
      { s with write := { s.write with chunks := s.write.chunks.map fun w =>
        if w.buffer = b.age then
          { w with missing := (List.range 64).filter (fun i => w.missing.contains i || own b i)
                   zeroes := ((List.range 64).filter fun i => w.zeroes.testBit i && !own b i).foldl withBit 0 } else w } }) s

/-! ### Ends of writes (R359, R360, R398) -/

/-- A write that failed or was cut short: its range is invalidated in both caches (R398). -/
def State.writeLost (s : State) (c : Ctx) : State := s.cacheDropRange c.nsid c.slba c.count

/-- A write that succeeded: its sectors are copied into cached lines (R398). -/
def State.writeLanded (s : State) (c : Ctx) : State :=
  s.each (List.range c.count) fun s i => s.cacheWrite c.nsid (c.slba + i) (c.data.getD i 0)

/-- An atomic write takes one buffer for its slot sectors, or waits for one (R395). -/
def State.takeSlotBuffer (s : State) (c : Ctx) : State :=
  if 4096 ≤ s.buffersUsed then
    (s.bump O.mergeBufferWaits).modCtx c.port c.sqid c.cid fun c => { c with waits := [(c.slba, c.count)] }
  else
    let age := s.larder.bufferClock
    let b : MergeBuffer :=
      { nsid := 0, chunk := 0, covered := 0, data := [], owners := [(c.port, c.sqid, c.cid)], lastData := s.tick, age := age,
        full := true }
    { s with larder := { s.larder with buffers := s.larder.buffers ++ [b], bufferClock := age + 1 } }

/-- The buffer of an atomic write given back. -/
def State.dropSlotBuffer (s : State) (c : Ctx) : State :=
  { s with larder := { s.larder with
      buffers := s.larder.buffers.filter fun b => !(decide (b.nsid = 0) && b.owners.contains (c.port, c.sqid, c.cid)) } }

/-- A write whose work has ended completes with the status it has gathered (R359, R360). -/
def State.writeDone (s : State) (p q i : Nat) : State :=
  match s.ctx? p q i with
  | some c =>
    if c.started ∧ c.chunks = [] ∧ c.waits = [] ∧ (c.kind = .write ∨ c.kind = .writeZeroes) then
      let s := s.latch p q i .completion
      let s := if c.status = (0, 0) ∧ c.latch ≠ .abort then s.writeLanded c else s.writeLost c
      let s := if c.atomic then s.dropSlotBuffer c else s
      s.finish p q i c.status.1 c.status.2 0
    else s
  | none => s

/-- Open bursts brought up to now, and atomic writes whose commit-record copy 1 has begun committed: their slot is in
stage 2 and their latch is set by completion (R359, R365). -/
def State.syncSlots (s : State) : State :=
  let s := { s with write := { s.write with chunks := s.write.chunks.map s.syncBurst } }
  (s.write.chunks.filter fun w => decide (w.kind = 1) && (decide (w.total < w.written) || (decide (w.total = w.written) && w.open_))).foldl
    (fun (s : State) w =>
      let a := actOf w.head
      match s.cmds.slots.find? fun c => decide (c.act = a) && decide (c.seq = w.slotSeq) && decide (c.stage ≤ 2) with
      | some c =>
        (s.modSlot a w.slotSeq fun c => { c with stage := 2, copies := max c.copies (w.written - w.total) }).latch
          c.port c.sqid c.cid .completion
      | none => s) s

/-- A write stopped (R372, R375, R599): a direct write keeps only the chunks whose burst has opened; an atomic write's
slot is abandoned unless its copy 1 has begun. It ends with `status` once the kept chunks are on media; an atomic write
ends at once. -/
def State.stopWrite (s : State) (c : Ctx) (status : Nat × Nat) : State :=
  let s := s.modCtx c.port c.sqid c.cid fun c => { c with
    status := status, toIssue := [], waits := [], unopened := []
    chunks := c.chunks.filter fun k => !c.unopened.contains k, started := true }
  if c.atomic then
    let s := match s.cmds.slots.find? fun x =>
        decide (x.port = c.port) && decide (x.sqid = c.sqid) && decide (x.cid = c.cid) && decide (x.stage < 3) with
      | some x => s.abandonSlot x.act x.seq
      | none => s
    (s.modCtx c.port c.sqid c.cid fun c => { c with chunks := [] }).writeDone c.port c.sqid c.cid
  else (s.withdraw c).writeDone c.port c.sqid c.cid

/-! ### Places (R68, R71, R363, R366) -/

/-- Zone entry of the z-th Cellar zone of a surface, with its zone number. -/
def State.cellarZone (s : State) (surface z : Nat) : Option (Nat × ZoneEntry) :=
  match s.zoneTable surface with
  | some t => ((t.entries.zipIdx.filter fun e => decide (0 < e.1.cellarLanes)).map fun e => (e.2, e.1))[z]?
  | none => none

/-- Place of a Cellar slot's sector `i`, its commit-record copies counted after its data: head, lane, track, sector and whether in a
spare lane (R68, R71, R363). -/
def State.slotPlace (s : State) (c : CellarSlot) (i : Nat) : Option (Nat × Nat × Nat × Nat × Bool) :=
  let h := 6 * c.act + c.ring % 6
  match s.cellarZone h (c.ring / 6) with
  | none => none
  | some (z, e) =>
    if e.sectorsPerTrack = 0 then none
    else
      let pos := c.first + i
      let (lane, spare) := s.resolveSpare e h z (pos / (2 * e.sectorsPerTrack))
      some (h, lane, pos / e.sectorsPerTrack % 2, pos % e.sectorsPerTrack, spare)

/-- A sector at its home place: head and what its header must say (R55, R58, R71). -/
def State.homePlace (s : State) (nsid lba : Nat) : Option (Nat × SectorInFlight) :=
  (s.locate nsid lba).map fun p =>
    (p.surface, { lba := lba, nsid := nsid, lane := p.lane, track := p.track, sector := p.sector, port := 0, sqid := 0, cid := 0,
                  spare := p.remapped })

/-- Where a command's sector is read from: the slot of R366, else its home. -/
def State.readPlace (s : State) (nsid lba : Nat) : Option (Nat × SectorInFlight) :=
  match s.slotFor nsid lba with
  | some c => (s.slotPlace c (lba - c.lba)).map fun p =>
      (p.1, { lba := lba, nsid := nsid, lane := p.2.1, track := p.2.2.1, sector := p.2.2.2.1, port := 0, sqid := 0, cid := 0
              cellar := true, spare := p.2.2.2.2 })
  | none => s.homePlace nsid lba

/-- Whether two reads are of one sector for one command. -/
def SectorInFlight.same (x y : SectorInFlight) : Bool :=
  decide (x.port = y.port) && decide (x.sqid = y.sqid) && decide (x.cid = y.cid) && decide (x.lba = y.lba) &&
    decide (x.lane = y.lane) && decide (x.track = y.track) && decide (x.sector = y.sector)

/-- Whether a sector of a command is already under detection, in the ladder or held. -/
def State.underRead (s : State) (x : SectorInFlight) : Bool :=
  s.detect.streams.any (fun st => st.queue.any x.same || st.overflow.any x.same || st.backlog.any x.same) ||
    s.detect.turns.any (fun t => !t.sector.gone && x.same t.sector) || s.detect.ladders.any (fun l => x.same l.sector) ||
    s.detect.heldReads.any (fun y => x.same y.2.1)

/-- Whether an operation in flight covers a sector of a command. -/
def State.opCovers (s : State) (p q i lba : Nat) : Bool :=
  s.cmds.ops.any fun o => decide (o.port = p) && decide (o.sqid = q) && decide (o.cid = i) && !o.readAhead && !o.isWrite &&
    decide (o.lba ≤ lba) && decide (lba < o.lba + o.count)

/-! ### Outcome words (R155 to R157) -/

/-- Two's complement of an offset in 4 bits. An offset outside -8 to 7, which only an acquisition window wider than the field can
give, keeps its low 4 bits (log entry 111). -/
def nibble (v : Int) : Nat := (v % 16).toNat

/-- The outcome word of a read (R157). -/
def outcomeWord (outcome iterations stream step : Nat) (x : SectorInFlight) : Nat :=
  let bit (b : Bool) (n : Nat) : Nat := if b then 2 ^ n else 0
  outcome * 2 ^ 60 + min iterations 24 * 2 ^ 55 + bit x.countFramed 54 + bit x.earlyMark 53 + bit x.borrowed 52 +
    bit x.deferred 51 + bit x.acquire 50 + (if x.countFramed then 0 else nibble x.offset) * 2 ^ 46 +
    min x.distance 32 * 2 ^ 40 + min x.erased 255 * 2 ^ 32 + stream * 2 ^ 26 + step * 2 ^ 23 + x.sector % 2048

/-! ### What a fence ends (R75, R174, R376, R599) -/

/-- Whether a head's reads cannot be made at all any more: it or its actuator is fenced (R174). -/
def State.headFenced (s : State) (h : Nat) : Bool :=
  decide (s.nat (O.headService + h) = 3) || decide (s.nat (O.actuatorService + actOf h) = 3)

/-- A sector that no pass can read is unrecoverable at once: its word holds outcome Pending and step 6 (R75, R174, R376, log entry
118). -/
def State.fencedSector (s : State) (head : Nat) (x : SectorInFlight) : State :=
  s.sectorBad x 6 (outcomeWord 1 0 (2 * head + x.track) 6 x)

/-- Reads in flight of sectors whose head or actuator is fenced end unrecoverable (R75, R376). -/
def State.endFencedWants (s : State) : State :=
  let host := s.cmds.ctxs.flatMap fun c => (c.want.filter fun lba => s.opCovers c.port c.sqid c.cid lba).filterMap fun lba =>
    (s.readPlace c.nsid lba).map fun p => (p.1, { p.2 with port := c.port, sqid := c.sqid, cid := c.cid })
  let own := s.detect.reads.flatMap fun d => d.want.map fun x => (x.1, { x.2 with port := 3, sqid := d.purpose, cid := d.id })
  ((host ++ own).filter fun x => s.headFenced x.1 && !s.underRead x.2).foldl (fun (s : State) x => s.fencedSector x.1 x.2) s

/-- Uncommitted Writes with a sector in a domain that is fenced or write-protected end with Namespace Is Write Protected
(R599). -/
def State.endFencedWrites (s : State) : State :=
  let s := s.syncSlots
  let closed (nsid lba : Nat) : Bool := decide (2 ≤ s.nat (O.actuatorService + s.homeAct nsid lba))
  let hit (c : Ctx) : Bool := (decide (c.kind = .write) || decide (c.kind = .writeZeroes)) && decide (c.latch = .clear) &&
    ((piecesOf c.slba c.count).any fun p => closed c.nsid p.1) &&
    !(c.atomic && s.cmds.slots.any fun x => decide (x.port = c.port) && decide (x.sqid = c.sqid) && decide (x.cid = c.cid) &&
      decide (2 ≤ x.stage))
  (s.cmds.ctxs.filter hit).foldl (fun s c => s.stopWrite c (0, 0x20)) s

/-! ### Controller reset (R324, R348, R372) -/

/-- One port's fields after a controller reset: queues, features and events at their defaults (R332, R340, R342). -/
def resetPort (p : Port) : Port :=
  { p with
    enabled := false, crime := false, ready := false, shutdown := 0, draining := true
    fetchPaused := false, sqs := [], cqs := [], adminTail := 0, adminHead := 0, served := 0, burst := 0, atomicity := 0, aer := [], held := [], masked := []
    eventMask := 783, arbitration := 0, tempOver := 368, tempUnder := 0, coalescing := 0, vectors := []
    queuesGranted := (127, 127), powerWait := [] }

/-- Power On Hours (R339). -/
def State.powerOnHours (s : State) : Nat := (s.sub.smart.poweredTicks + s.tick) / 3600000000

/-- CRTO.CRWMT in units of 500 ms, from the node-ID, which counts as 0 while there is none (R330). -/
def State.crwmt (s : State) : Nat :=
  let n := if s.mb.nodeId = 255 then 0 else s.mb.nodeId
  (8 * (s.nat O.spinUpTokenWait + s.nat O.spinUpTimeLimit + 5) + 2 * n + 3) / 4

/-- The running self-test ended with a result code and the first segment that failed in log page 06h; its reads are given up
(R345). -/
def State.endSelfTest (s : State) (result segment : Nat) : State :=
  match s.sub.selfTest with
  | some t => ({ s with sub := { s.sub with
      selfTest := none, selfTests := ((t.code, result, segment, s.powerOnHours) :: s.sub.selfTests).take 20 } }).cancelReads
        fun d => decide (d.purpose = 9)
  | none => s

/-- An image downloaded but not committed discarded (R327, R372). -/
def State.discardImage (s : State) : State :=
  if s.fw.staging.isSome ∨ ¬ s.fw.started then s
  else { s with fw := { s.fw with crate := [], started := false, downloadHolder := 0 } }

/-- Controller reset of one port (R372): commands that wrote nothing are discarded, writes begun finish without a
completion, implicit keys other than that of a running Format NVM or Sanitize are released, and the port's SPDM states
end (R348). -/
def State.resetController (s : State) (p : Nat) : State :=
  if ¬ s.hasPort p then s
  else
    let s := s.syncSlots
    let s := match s.sub.selfTest with
      | some t => if t.port = p then s.endSelfTest 2 0 else s
      | none => s
    let s := s.modPort p fun x => { resetPort x with crwmt := s.crwmt }
    let s : State := { s with sub := { s.sub with
      format := s.sub.format.map fun (f : FormatRun) => if f.port = p then { f with port := 2, cid := 0 } else f } }
    let s := (s.cmds.ctxs.filter fun c => decide (c.port = p)).foldl (fun s c =>
      let s := s.modCtx p c.sqid c.cid fun c => { c with orphan := true }
      if c.kind = .write ∨ c.kind = .writeZeroes then
        let begun := if c.atomic then s.write.chunks.any fun w => decide (w.kind = 1) && (w.open_ || decide (0 < w.written)) &&
            s.cmds.slots.any fun x => decide (x.seq = w.slotSeq) && decide (x.act = actOf w.head) &&
              decide (x.port = p) && decide (x.sqid = c.sqid) && decide (x.cid = c.cid)
          else false
        if begun ∨ (c.atomic ∧ s.cmds.slots.any fun x => decide (x.port = p) && decide (x.sqid = c.sqid) &&
            decide (x.cid = c.cid) && decide (x.stage = 2)) then s
        else s.stopWrite c (0, 7)
      else
        let s := if c.kind = .read ∨ c.kind = .verify then s.cancelRead c else s
        let s := if c.holdsKey then s.dropHold 1 else s
        s.dropCtx p c.sqid c.cid) s
    let s := if s.fw.downloadHolder = p + 1 then (s.dropHold 1).discardImage else s
    let mine (c : Option (Nat × Nat)) : Bool := decide (c.map Prod.fst = some p)
    let cut := match s.fw.staging with
      | some (_, _, c) => mine c
      | none => false
    { s with
      sec := { s.sec with negotiated := (s.sec.negotiated.set p 0).set (p + 2) 0
                          waiting := (s.sec.waiting.set p none).set (p + 2) none }
      fw := { s.fw with
        downloadHolder := if s.fw.downloadHolder = p + 1 then 0 else s.fw.downloadHolder
        staging := if cut then none else s.fw.staging
        commit := if mine s.fw.commit then none else s.fw.commit } }

/-! ### Reads of the device's own -/

/-- The read of a purpose made for a namespace and LBA, or for a surface and another number. -/
def State.readFor (s : State) (purpose nsid lba : Nat) : Option DeviceRead :=
  s.detect.reads.find? fun d => decide (d.purpose = purpose) && decide (d.nsid = nsid) && decide (d.lba = lba)

/-- A read of the device's own begun; an actuator without work gains some (R442). A place on a fenced head ends at once (R376);
none begins while the media block quiesces (R452). -/
def State.startRead (s : State) (purpose act nsid lba : Nat) (want : List (Nat × SectorInFlight)) : State :=
  if decide (s.nat O.sleepEntryState = 1) && decide (4 ≤ s.power.block) then s
  else
  let idle := !s.hasWork act
  let d : DeviceRead := { id := s.detect.nextRead, purpose := purpose, act := act, nsid := nsid, lba := lba, want := want }
  let s : State := { s with detect := { s.detect with reads := s.detect.reads ++ [d], nextRead := s.detect.nextRead + 1 } }
  let s := s.endFencedWants
  if idle then s.admitStreams (s.nat O.performanceLevelCurrent) else s

/-- A read of the device's own over. -/
def State.endRead (s : State) (d : DeviceRead) : State := s.cancelReads fun x => decide (x.id = d.id)

/-- Places of some LBAs of a namespace as a read wants them: the newest slot's, or the home place (R366). -/
def State.wantLbas (s : State) (nsid : Nat) (lbas : List Nat) : List (Nat × SectorInFlight) := lbas.filterMap (s.readPlace nsid)

/-- Home places of some LBAs of a namespace. -/
def State.wantHome (s : State) (nsid : Nat) (lbas : List Nat) : List (Nat × SectorInFlight) := lbas.filterMap (s.homePlace nsid)

/-- Whether a read has a result for each of some LBAs. -/
def DeviceRead.covers (d : DeviceRead) (lbas : List Nat) : Bool := lbas.all fun x => d.results.any fun r => decide (r.lba = x)

/-- Sectors of a line that a read recovered, by their place in it, with their data. -/
def DeviceRead.sectors (d : DeviceRead) : List (Nat × Nat) :=
  (List.range 16).filterMap fun i => (d.results.find? fun r => decide (r.lba = d.lba + i)).bind fun r => r.found.map fun x => (i, x.data)

/-- What a read found of an LBA; none where it ended unrecoverable. -/
def DeviceRead.found (d : DeviceRead) (lba : Nat) : Option SectorRead := (d.results.find? fun r => decide (r.lba = lba)).bind DeviceResult.found

/-! ### Mode changes (R38) -/

/-- Read-ahead operations in flight discarded, with their reads (R400, R405). -/
def State.dropAhead (s : State) : State :=
  ({ s with cmds := { s.cmds with ops := s.cmds.ops.filter fun o => !o.readAhead } } : State).cancelReads fun d => decide (d.purpose = 10)

/-- Fills and read-ahead in flight discarded; lookups that waited for a fill read their sectors from media (R400). -/
def State.dropFills (s : State) : State :=
  let lines := s.larder.lines.map fun l =>
    if l.state = .filling then { l with state := .invalid, valid := 0, awaiting := 0, wanted := none }
    else { l with awaiting := 0, wanted := none }
  let free (c : Ctx) : Ctx :=
    if c.kind = .read then
      { c with want := c.want ++ (c.waits.flatMap fun w => (List.range w.2).map (w.1 + ·)), waits := [], misses := [] }
    else c
  ({ s with larder := { s.larder with lines := lines }, cmds := { s.cmds with ctxs := s.cmds.ctxs.map free } } : State).dropAhead

/-- Place of a requester in the order of requests accepted at the same tick: MB, HP0, HP1 (R38). -/
def requesterPlace (r : Requester) : Nat := r.code % 3

/-- Whether a mode change is under way: a level step, or a sleep entry before its state is reached (R38, R444). -/
def State.modeBusy (s : State) : Bool :=
  decide (s.power.stepKind = 1 ∨ s.power.stepKind = 2) || decide (s.nat O.sleepEntryState = 1 ∨ s.nat O.sleepEntryState = 2)

/-- A mode change applied: the Larder's switch, or the object alone (R38, R400). -/
def State.applyMode (s : State) (k : Nat) (v : Int) : State :=
  if k = O.larderEnable ∧ v = 0 then ((s.setNat O.larderEnable 0).setNat O.invalidateSinceDisable 0).dropFills else s.setObj k v

/-- Mode changes that wait are applied in the order in which they were accepted, once none is under way (R38). -/
def State.applyModes (s : State) : State :=
  if s.modeBusy ∨ s.mb.modes = [] then s
  else s.mb.modes.foldl (fun (s : State) m => s.applyMode m.1 m.2) { s with mb := { s.mb with modes := [] } }

/-- Whether a request of this tick for an object comes before one already accepted, in the order MB, HP0, HP1, and so has been
superseded by it (R38). -/
def State.superseded (s : State) (r : Requester) (k : Nat) : Bool :=
  s.mb.modeWrites.any fun w => decide (w.1 = k) && decide (w.2.1 = s.tick) && decide (requesterPlace r < w.2.2)

/-- State with a requester's mode change of an object noted. -/
def State.noteMode (s : State) (r : Requester) (k : Nat) : State :=
  { s with mb := { s.mb with modeWrites := putKey s.mb.modeWrites k (s.tick, requesterPlace r) } }

/-- A mode change accepted: applied at once, or after those accepted before it and the one under way (R38). -/
def State.acceptMode (s : State) (r : Requester) (k : Nat) (v : Int) : State :=
  if s.superseded r k then s
  else
    let s := s.noteMode r k
    if s.modeBusy ∨ s.mb.modes ≠ [] then { s with mb := { s.mb with modes := s.mb.modes ++ [(k, v)] } } else s.applyMode k v

end Sys2Proof.Machine
end

