-- ==== Sys2Proof/Machine/CommandExec.lean ====
section
/-! DEFINITION. Host I/O commands, range locks, media operations, the read-ahead and the Merge Bin, Abort (R350 to R399).
An event that names a command, a queue or a unit the device does not have, or whose condition does not hold, does not
occur: it leaves the state as it is (log entry 7). -/

namespace Sys2Proof.Machine

/-! ### Fetching I/O commands (R351 to R355, R376) -/

/-- Whether the media are ready (R547). -/
def State.mediaReady (s : State) : Bool := decide (s.nat O.mediaReadyTick ≠ 0)

/-- Kinds that access sectors. -/
def CmdKind.media (k : CmdKind) : Bool := decide (k = .read ∨ k = .write ∨ k = .writeZeroes ∨ k = .verify)

/-- Kinds that write sectors. -/
def CmdKind.writes (k : CmdKind) : Bool := decide (k = .write ∨ k = .writeZeroes)

/-- Status of an I/O command that the device's state does not allow, by the first row of R376 that applies; a transfer
beyond MDTS is an invalid field (R336). -/
def State.ioRefusal (s : State) (k : CmdKind) (nsid slba count : Nat) : Option (Nat × Nat) :=
  if s.sub.sanitize.isSome ∧ k ≠ .flush then some (0, 0x1D)
  else if s.sub.format.isSome ∧ k ≠ .flush then some (0, 0x84)
  else if ¬ s.nsActive nsid then some (0, 0x0B)
  else if k.media ∧ s.nsCapacity nsid < slba + count then some (0, 0x80)
  else if k.media ∧ (s.nat O.spindleState = 13 ∨ ¬ s.mediaReady) then some (0, 0x82)
  else if k.writes ∧ s.nsReadOnly nsid then some (0, 0x20)
  else if (k = .read ∨ k = .write) ∧ 256 < count then some (0, 2)
  else none

/-- An I/O command fetched (R350 to R355, R376): not where fetching is stopped or paused; refused with its status where
the state does not allow it; else `body` runs, after the wake that its fetch is (R361, R455). -/
def State.ioFetch (s : State) (p q i : Nat) (k : CmdKind) (nsid slba count : Nat) (body : State → State) : State :=
  let (ok, s) := s.fetch p q
  if ¬ ok then s
  else
    match s.ioRefusal k nsid slba count with
    | some (sct, sc) => s.answer p q i sct sc 0
    | none => body (if k.media then s.ioWake else s)

/-! ### Read streams and read-ahead (R392) -/

/-- Operations in flight on an actuator, of at most 192 (R25, R357). -/
def State.opsOn (s : State) (a : Nat) : Nat := (s.cmds.ops.filter fun o => decide (o.act = a)).length

/-- Read-ahead operations in flight on an actuator. -/
def State.aheadOn (s : State) (a : Nat) : Nat :=
  (s.cmds.ops.filter fun o => decide (o.act = a) && o.readAhead).length

/-- The oldest Side Pantry line marked for replacement where the Pantry and the lines on their way fill it (R393). -/
def State.markPantry (s : State) : State :=
  let coming := (s.cmds.ops.filter (·.readAhead)).length
  if s.larder.pantry.length + coming < 32768 then s
  else
    match s.larder.pantry.find? fun l => !l.leaving with
    | some l => s.modPantry l.nsid l.line fun l => { l with leaving := true }
    | none => s

/-- One line read ahead where it is held nowhere, not on its way, and the actuator has room: an operation, and the read of its 16
sectors (R357, R392, R394). -/
def State.readAhead (s : State) (nsid line : Nat) : State :=
  let a := s.homeAct nsid (16 * line)
  if s.nsCapacity nsid < 16 * line + 16 ∨ (s.larderLine nsid line).isSome ∨ (s.pantryLine nsid line).isSome ∨
      (s.cmds.ops.any fun o => o.readAhead && decide (o.nsid = nsid) && decide (o.lba = 16 * line)) ∨
      192 ≤ s.opsOn a ∨ s.nat O.readAheadOpsMax ≤ s.aheadOn a then s
  else
    let overlapped := s.cmds.locks.any fun l =>
      l.exclusive && decide (l.nsid = nsid) && decide (16 * line ≤ l.last) && decide (l.first < 16 * line + 16)
    let s := s.markPantry
    let o : MediaOp :=
      { act := a, port := 0, sqid := 0, cid := 0, nsid := nsid, lba := 16 * line, count := 16, isWrite := false,
        issued := s.tick, readAhead := true, overlapped := overlapped }
    ({ s with cmds := { s.cmds with ops := s.cmds.ops ++ [o] } } : State).startRead 10 a nsid (16 * line)
      (s.wantLbas nsid ((List.range 16).map (16 * line + ·)))

/-- A Read entered into its stream (R392): it continues the stream it follows, or starts one in place of the least
recently continued of 64. A sequential stream reads ahead of its furthest Read, up to ReadAheadDepth. -/
def State.noteStream (s : State) (nsid slba count : Nat) : State :=
  if s.nat O.readAheadEnable ≠ 1 ∨ s.nat O.larderEnable ≠ 1 then s
  else
    let clock := s.larder.streamClock + 1
    let last := slba + count - 1
    let hinted := s.larder.hints.any fun h =>
      decide (h.1 = nsid) && decide (h.2.1 ≤ slba) && decide (last < h.2.1 + h.2.2)
    let follows (x : ReadStream) : Bool := decide (x.nsid = nsid) && decide (slba = x.last + 1)
    let (mine, others) := match s.larder.streams.find? follows with
      | some x =>
        let n := x.continuing + 1
        (({ x with last := last, furthest := max x.furthest last, continuing := n, recency := clock
                   sequential := x.sequential || hinted || decide (s.nat O.sequentialTrigger ≤ n) } : ReadStream),
          s.larder.streams.filter fun y => decide (y.recency ≠ x.recency))
      | none =>
        let oldest := (s.larder.streams.map ReadStream.recency).foldl min clock
        (({ nsid := nsid, last := last, furthest := last, continuing := 0, sequential := hinted, recency := clock } :
            ReadStream),
          if s.larder.streams.length < 64 then s.larder.streams
          else s.larder.streams.filter fun y => decide (y.recency ≠ oldest))
    let s := { s with larder := { s.larder with streams := mine :: others, streamClock := clock } }
    if mine.sequential then
      let first := mine.furthest / 16 + 1
      (List.range (16 * s.nat O.readAheadDepth)).foldl (fun s k => s.readAhead nsid (first + k)) s
    else s

/-! ### Starting a command (R353, R357, R387, R395) -/

/-- A command whose entry is no longer blocked starts (R353): a Read looks its lines up or reads media, a Verify reads
media, a direct write transfers its data to the Merge Bin, an atomic write takes its buffer. -/
def State.startCtx (s : State) (c : Ctx) : State :=
  let s := s.modCtx c.port c.sqid c.cid fun c => { c with started := true }
  if c.kind = .read then
    let s := if s.caching c then
        (linePieces (c.count / 16 + 2) c.slba c.count).foldl (fun s x => s.lookup c x.1 x.2) s
      else s.modCtx c.port c.sqid c.cid fun c => { c with want := (List.range c.count).map (c.slba + ·) }
    s.readDone c.port c.sqid c.cid
  else if c.kind = .verify then
    s.modCtx c.port c.sqid c.cid fun c => { c with want := (List.range c.count).map (c.slba + ·) }
  else if c.atomic then
    (s.modCtx c.port c.sqid c.cid fun c => { c with toIssue := [(c.slba, c.count)], chunks := [c.slba / 64] }).takeSlotBuffer c
  else
    let pieces := piecesOf c.slba c.count
    let s := s.modCtx c.port c.sqid c.cid fun c => { c with
      toIssue := pieces, chunks := pieces.map fun x => x.1 / 64, unopened := pieces.map fun x => x.1 / 64 }
    s.transfer c pieces

/-- A command's context and range-lock entry taken at its fetch (R352, R353): it starts unless an earlier conflicting
entry stands, and then it waits and is counted. An atomic write is work of its actuator from its fetch on, and admission is
recomputed where it had none (R363, R442). -/
def State.enter (s : State) (c : Ctx) (exclusive : Bool) : State :=
  let owner : LockOwner := .host c.port c.sqid c.cid
  let idle := c.atomic && !s.hasWork (s.homeAct c.nsid c.slba)
  let s := (s.addCtx c).insertLock c.nsid c.slba (c.slba + c.count - 1) exclusive owner
  let s := if idle then s.admitStreams (s.nat O.performanceLevelCurrent) else s
  if s.mayStart owner then s.startCtx c else s.bump O.rangeLockWaits

/-- Whether a write is atomic (R362). -/
def isAtomic (slba count : Nat) : Bool := decide (count ≤ 64) && decide (slba / 256 = (slba + count - 1) / 256)

/-! ### Commands -/

/-- READ: shared entry, Larder lookup, media operations for the rest (R332, R353, R387, R392). -/
def execRead (port qid cid nsid slba count : Nat) (fua limited : Bool) (s : State) : Host.Outcome State Fault Refusal :=
  .next (s.ioFetch port qid cid .read nsid slba count fun s =>
    let c : Ctx := { port := port, sqid := qid, cid := cid, kind := .read, nsid := nsid, slba := slba, count := count,
                     fua := fua, limited := limited }
    (s.enter c false).noteStream nsid slba count)

/-- VERIFY: shared entry, every sector read through the ladder, no data transferred (R173, R332). -/
def execVerify (port qid cid nsid slba count : Nat) (limited : Bool) (s : State) : Host.Outcome State Fault Refusal :=
  .next (s.ioFetch port qid cid .verify nsid slba count fun s =>
    let c : Ctx := { port := port, sqid := qid, cid := cid, kind := .verify, nsid := nsid, slba := slba, count := count,
                     limited := limited }
    s.enter c false)

/-- WRITE: exclusive entry; atomic through the Cellar or direct through the Merge Bin (R353, R362, R395). FUA has no
further effect (R332). -/
def execWrite (port qid cid nsid slba count : Nat) (data : List Nat) (s : State) : Host.Outcome State Fault Refusal :=
  .next (s.ioFetch port qid cid .write nsid slba count fun s =>
    let c : Ctx := { port := port, sqid := qid, cid := cid, kind := .write, nsid := nsid, slba := slba, count := count,
                     data := data, atomic := isAtomic slba count }
    s.enter c true)

/-- WRITE_ZEROES: as a write of zero data, its sectors with ZeroFill set (R332, R362, R398). -/
def execWriteZeroes (port qid cid nsid slba count : Nat) (s : State) : Host.Outcome State Fault Refusal :=
  .next (s.ioFetch port qid cid .writeZeroes nsid slba count fun s =>
    let c : Ctx := { port := port, sqid := qid, cid := cid, kind := .writeZeroes, nsid := nsid, slba := slba,
                     count := count, data := [], atomic := isAtomic slba count }
    s.enter c true)

/-- FLUSH: completes at once (R371). -/
def execFlush (port qid cid nsid : Nat) (s : State) : Host.Outcome State Fault Refusal :=
  .next (s.ioFetch port qid cid .flush nsid 0 0 fun s => s.answer port qid cid 0 0 0)

/-- DATASET_MANAGEMENT: its sequential-read ranges reach read-ahead, no data changes, it completes at once (R332,
R371). -/
def execDatasetManagement (port qid cid nsid : Nat) (sequential : List (Nat × Nat)) (s : State) :
    Host.Outcome State Fault Refusal :=
  .next (s.ioFetch port qid cid .dataset nsid 0 0 fun s =>
    let s := { s with larder := { s.larder with
      hints := (sequential.map fun (r : Nat × Nat) => (nsid, r.1, r.2)) ++ s.larder.hints } }
    s.answer port qid cid 0 0 0)

/-- RANGE_LOCK_GRANTED: a waiting command whose last conflicting earlier entry is gone starts (R353). -/
def execRangeLockGranted (port qid cid : Nat) (s : State) : Host.Outcome State Fault Refusal :=
  .next (match s.ctx? port qid cid with
    | some c => if c.kind.media ∧ ¬ c.started ∧ s.mayStart (.host port qid cid) then s.startCtx c else s
    | none => s)

/-- The next media operation of a command, in LBA order (R357): for a Read or Verify the first chunk with a sector still
wanted and not in flight, for a write the next piece. -/
def State.nextOp (s : State) (c : Ctx) : Option (Nat × Nat) :=
  if c.kind.writes then c.toIssue.head?
  else
    let flying (x : Nat) : Bool := s.cmds.ops.any fun o =>
      decide (o.port = c.port) && decide (o.sqid = c.sqid) && decide (o.cid = c.cid) && !o.readAhead &&
        decide (o.lba ≤ x) && decide (x < o.lba + o.count)
    let open_ := c.want.filter fun x => !flying x
    match open_ with
    | [] => none
    | x :: r =>
      let first := r.foldl min x
      some (first, min (64 - first % 64) (c.slba + c.count - first))

/-- MEDIA_OP_ISSUE: a command issues its next operation while its actuator has room among 192; a read-ahead operation
gives way to a host operation (R357, R392). -/
def execMediaOpIssue (port qid cid : Nat) (s : State) : Host.Outcome State Fault Refusal :=
  .next (match s.ctx? port qid cid with
    | some c =>
      match s.nextOp c with
      | some (lba, n) =>
        let a := s.homeAct c.nsid lba
        let full := decide (192 ≤ s.opsOn a)
        let ahead := s.cmds.ops.find? fun o => decide (o.act = a) && o.readAhead
        if ¬ c.started ∨ s.nat (O.actuatorService + a) = 3 ∧ c.kind.writes ∨ (full ∧ ahead.isNone) then s
        else
          let ops := if full then match ahead with
              | some o => s.cmds.ops.filter fun x => decide (x ≠ o)
              | none => s.cmds.ops
            else s.cmds.ops
          let o : MediaOp :=
            { act := a, port := port, sqid := qid, cid := cid, nsid := c.nsid, lba := lba, count := n,
              isWrite := c.kind.writes, issued := s.tick, readAhead := false, overlapped := false }
          let s : State := { s with cmds := { s.cmds with ops := ops ++ [o] } }
          let s := s.cancelReads fun d => decide (d.purpose = 10) && full && (ahead.any fun x => decide (x.nsid = d.nsid) && decide (x.lba = d.lba))
          if c.kind.writes then s.modCtx port qid cid fun c => { c with toIssue := c.toIssue.tail } else s.endFencedWants
      | none => s
    | none => s)

/-- HOST_COMMAND_DEADLINE: an I/O command past HostCommandDeadline of its fetch raises the class 8 fault once and goes on
(R361, R460). -/
def execHostCommandDeadline (port qid cid : Nat) (s : State) : Host.Outcome State Fault Refusal :=
  .next (match s.ctx? port qid cid with
    | some c =>
      let deadline := c.fetchTick + 1000000 * s.nat O.hostCommandDeadline
      if c.kind = .admin ∨ c.deadlineRaised ∨ s.tick < deadline then s
      else
        (s.modCtx port qid cid fun c => { c with deadlineRaised := true }).deadlineMiss 8 (47 + port) 0 deadline (2 ^ 64 - 1)
    | none => s)

/-- READ_AHEAD_FILL: the data of a read-ahead operation, whose sectors are all final, lands in the Side Pantry, or is discarded and
counted where an exclusive entry overlapped it, or is discarded where read-ahead or the Larder is off (R393, R394, R400, R405). A sector
that did not decode leaves its valid bit clear. -/
def execReadAheadFill (nsid number : Nat) (s : State) : Host.Outcome State Fault Refusal :=
  let mine (o : MediaOp) : Bool := o.readAhead && decide (o.nsid = nsid) && decide (o.lba = 16 * number)
  let read := s.readFor 10 nsid (16 * number)
  .next (match s.cmds.ops.find? mine with
    | some o =>
      if read.any fun d => decide (d.want ≠ []) then s
      else
      let s : State := { s with cmds := { s.cmds with ops := s.cmds.ops.filter fun x => !mine x } }
      let s := match read with
        | some d => s.endRead d
        | none => s
      let found := (read.map DeviceRead.sectors).getD []
      if o.overlapped then s.bump O.readAheadFillsDiscarded
      else if s.nat O.readAheadEnable = 0 ∨ s.nat O.larderEnable = 0 ∨ found = [] ∨ (s.larderLine nsid number).isSome ∨
          (s.pantryLine nsid number).isSome then s
      else
        let victim := if s.larder.pantry.length < 32768 then none
          else (s.larder.pantry.find? PantryLine.leaving).or s.larder.pantry.head?
        let s := match victim with
          | some v =>
            let s := s.dropPantry v.nsid v.line
            if v.hit then s else s.bump O.pantryUnusedDiscards
          | none => s
        let p : PantryLine := { nsid := nsid, line := number, valid := found.foldl (fun m x => withBit m x.1) 0,
                                data := found }
        { s with larder := { s.larder with pantry := s.larder.pantry ++ [p] } }
    | none => s)

/-- MERGE_BUFFER_FREED: the oldest write waiting for a chunk buffer transfers its data (R395). -/
def execMergeBufferFreed (s : State) : Host.Outcome State Fault Refusal :=
  .next (if 4096 ≤ s.buffersUsed then s
    else
      match s.cmds.ctxs.find? fun c => c.kind.writes && decide (c.waits ≠ []) with
      | some c =>
        let s := s.modCtx c.port c.sqid c.cid fun c => { c with waits := [] }
        if c.atomic then s.takeSlotBuffer c else s.transfer c c.waits
      | none => s)

/-- MERGE_WINDOW_EXPIRY: MergeWindow has passed since the latest data of a partial chunk, and the chunk is written with
its other sectors filled (R396). -/
def execMergeWindowExpiry (nsid chunk : Nat) (s : State) : Host.Outcome State Fault Refusal :=
  .next (match s.openBuffer nsid chunk with
    | some b => if s.tick < b.lastData + s.nat O.mergeWindow then s else s.readyBuffer b.age
    | none => s)

/-! ### Cellar slots (R363, R367) -/

/-- Position in a ring at which a slot of `n` data sectors would start: the next free one, or position 0 of the next
track where the rest of the track cannot hold it (R363). -/
def slotStart (next perTrack n : Nat) : Nat :=
  if perTrack = 0 ∨ next % perTrack + n + 2 ≤ perTrack then next else (next / perTrack + 1) * perTrack

/-- Whether a head may write: loaded, Confirmed, admitted, not read-only, in service (R363). -/
def State.headWrites (s : State) (h : Nat) : Bool :=
  decide (s.nat (O.clockState + h) = 3) && (s.head h).admitted && !(s.head h).readOnly && !(s.head h).awaitGood &&
    decide (s.nat (O.headService + h) ≠ 3) && decide ((s.act (actOf h)).load = 2)

/-- Whether a ring can take a slot of `n` data sectors: its head may write and it has room, the positions skipped at the
end of a track included (R363). -/
def State.ringTakes (s : State) (a ring n : Nat) : Bool :=
  let h := 6 * a + ring % 6
  match s.cellarZone h (ring / 6) with
  | none => false
  | some (_, e) =>
    let size := s.ringSize a ring
    let next := s.ringNext a ring
    let skip := slotStart next e.sectorsPerTrack n - next
    s.headWrites h && decide (skip + n + 2 + s.ringUsed a ring ≤ size)

/-- Distance of a ring's zone from the actuator's current zone. -/
def State.ringDistance (s : State) (a ring : Nat) : Nat :=
  match s.cellarZone (6 * a + ring % 6) (ring / 6) with
  | some (z, _) => ((z : Int) - (s.act a).zone).natAbs
  | none => 64

/-- A slot placed in a ring for an atomic write, and its burst waiting on the ring's head (R363 to R365). -/
def State.placeSlot (s : State) (c : Ctx) (a ring : Nat) (second : Bool) : State :=
  let h := 6 * a + ring % 6
  match s.cellarZone h (ring / 6) with
  | none => s
  | some (_, e) =>
    let size := s.ringSize a ring
    let start := slotStart (s.ringNext a ring) e.sectorsPerTrack c.count % size
    let chunks := (piecesOf c.slba c.count).map fun x => x.1 / 64
    let gen (k : Nat) : Nat :=
      let (surface, stripe) := s.homeChunk c.nsid (64 * k)
      ((s.entry surface stripe).gen + 1) % 65536
    let verify := decide (s.nat (O.verifyEnable + (c.nsid - 1)) = 1)
    let seq := s.cmds.nextSlot.getD a 1
    let data := (List.range c.count).map fun i => c.data.getD i 0
    let slot : CellarSlot :=
      { act := a, ring := ring, seq := seq, first := start, count := c.count, nsid := c.nsid, lba := c.slba,
        gen1 := gen (chunks.getD 0 0), gen2 := if chunks.length < 2 then 0 else gen (chunks.getD 1 0),
        zeroes := decide (c.kind = .writeZeroes), toRestock := chunks, port := c.port, sqid := c.sqid, cid := c.cid,
        second := second, stagedAt := s.tick, data := data }
    let (_, lane, track, sector, spare) := (s.slotPlace slot 0).getD (h, 0, 0, 0, false)
    let w : ChunkWrite :=
      { head := h, stripe := 0, lane := lane, nsid := c.nsid, lba := c.slba, kind := 1, slotSeq := seq, total := c.count, data := data
        track := track, sector := sector, zeroes := if slot.zeroes then 2 ^ c.count - 1 else 0
        copies := if verify then 0 else 2, verify := verify, spare := spare }
    let s := s.bump O.slotsStaged
    { s with
      cmds := { s.cmds with
        slots := s.cmds.slots ++ [slot], nextSlot := s.cmds.nextSlot.set a (seq + 1)
        ringHead := putKey s.cmds.ringHead (24 * a + ring) ((start + c.count + 2) % size) }
      write := { s.write with chunks := s.write.chunks ++ [w] } }

/-- CELLAR_SLOT_PLACE: an atomic write whose operation is in flight and whose data has its buffer gets its slot in a ring
of its home actuator that can take it, in the nearest Cellar zone that has one (R363). -/
def execCellarSlotPlace (port qid cid ring : Nat) (s : State) : Host.Outcome State Fault Refusal :=
  .next (match s.ctx? port qid cid with
    | some c =>
      let a := s.homeAct c.nsid c.slba
      let inFlight := s.cmds.ops.any fun o => decide (o.port = port) && decide (o.sqid = qid) && decide (o.cid = cid) && !o.readAhead
      let placed := s.cmds.slots.filter fun x => decide (x.port = port) && decide (x.sqid = qid) && decide (x.cid = cid)
      let nearest := (List.range 24).all fun r => !s.ringTakes a r c.count || decide (s.ringDistance a ring ≤ s.ringDistance a r)
      if ¬ c.atomic ∨ ¬ c.started ∨ c.chunks = [] ∨ c.waits ≠ [] ∨ ¬ inFlight ∨ ¬ s.ringTakes a ring c.count ∨ ¬ nearest ∨
          placed.any (fun x => x.live && !x.failed) then s
      else s.placeSlot c a ring (decide (0 < c.failedSectors))
    | none => s)

/-- WATERMARK_APPEND: a changed watermark of an actuator is appended to the Trunk (R367). -/
def execWatermarkAppend (act : Nat) (s : State) : Host.Outcome State Fault Refusal :=
  .next (match assoc? s.cmds.watermarkDirty act with
    | some _ =>
      let s := { s with cmds := { s.cmds with watermarkDirty := dropKey s.cmds.watermarkDirty act } }
      s.append 0x60 [act, s.watermark act]
    | none => s)

/-! ### Queues, contexts and Abort -/

/-- DOORBELL_WRITE: the tail of a submission queue moves, and fetching proceeds or pauses (R351, R355). -/
def execDoorbellWrite (port qid tail : Nat) (s : State) : Host.Outcome State Fault Refusal :=
  .next (if ¬ s.hasPort port ∨ ¬ (s.port port).enabled then s
    else if qid = 0 then
      if (s.port port).adminSize ≤ tail then s else ((s.modPort port fun p => { p with adminTail := tail }).roomFor port false).2
    else if (s.port port).sqs.all fun k => decide (k.id ≠ qid ∨ k.size ≤ tail) then s
    else
      ((s.modPort port fun p => { p with
        sqs := p.sqs.map fun k => if k.id = qid then { k with tail := tail } else k }).roomFor port true).2)

/-- CONTEXT_FREED: a port paused for lack of a context fetches again (R351). -/
def execContextFreed (port : Nat) (s : State) : Host.Outcome State Fault Refusal :=
  .next (if (s.port port).fetchPaused ∧ s.ctxFree port then s.modPort port fun p => { p with fetchPaused := false } else s)

/-- A command an Abort has taken hold of stops its work (R375). -/
def State.abortCommand (s : State) (c : Ctx) : State :=
  let s := s.latch c.port c.sqid c.cid .abort
  if c.kind.writes then
    if c.started then s.stopWrite { c with latch := .abort } (0, 7) else (s.writeLost c).finish c.port c.sqid c.cid 0 7 0
  else if c.kind = .read ∨ c.kind = .verify then (s.cancelRead c).finish c.port c.sqid c.cid 0 7 0
  else
    let s := s.modPort c.port fun p => { p with aer := p.aer.filter fun x => decide (x ≠ c.cid) }
    s.finish c.port c.sqid c.cid 0 7 0

/-- ABORT: sets the latch of the command named, on its own controller, where the latch is clear; else bit 0 of dword 0 is
set. `outstanding` is the number of Aborts the controller holds at that moment: a fifth is refused (R374, R375). -/
def execAbort (port cid target targetCid outstanding : Nat) (s : State) : Host.Outcome State Fault Refusal :=
  .next (s.admin port cid fun s =>
    let s := s.syncSlots
    if 4 ≤ outstanding then ((1, 3, 0), s)
    else
      match s.ctx? port target targetCid with
      | some c =>
        if c.latch = .clear ∧ ¬ c.orphan then ((0, 0, 0), (s.bump O.abortsAborted).abortCommand c)
        else ((0, 0, 1), s.bump O.abortsNotAborted)
      | none => ((0, 0, 1), s.bump O.abortsNotAborted))

end Sys2Proof.Machine
end

