-- ==== Sys2Proof/Machine/Signal.lean ====
section
/-! DEFINITION. From samples to bits: clock phase, interpolation, equalisation, the joint two-track detector and the LDPC decoder
(R122, R123, R134, R136, R138, R141 to R144, R146). -/

namespace Sys2Proof.Machine

/-! ### Sample rows

A row of samples is kept newest first beside the number of samples received so far; sample `n` is the `n`-th received, from 0. -/

/-- Sample `n` of a row. -/
def sampleAt (row : List Int) (received n : Nat) : Int := if n < received then row.getD (received - 1 - n) 0 else 0

/-- Difference of two counts around a revolution, nearest to 0. -/
def aroundRev (rev : Nat) (d : Int) : Int :=
  if rev = 0 then d
  else
    let m := d % (rev : Int)
    if (rev : Int) ≤ 2 * m then m - rev else m

/-! ### Clock phase (R122) -/

/-- Correlation of a row of samples with a sine that has `cycles` periods over it and starts at a phase in 1/1,024 of a period. -/
def correlate (cycles phase : Nat) (x : List Int) : Int :=
  (x.zipIdx.map fun p => p.1 * Config.sine ((phase + 1024 * cycles * p.2 / max x.length 1) % 1024)).sum

/-- Phase in 1/1,024 of a period and amplitude of a pattern in a row of samples, from its correlations with a sine and a cosine:
the phase whose projection is greatest (R122). -/
def phaseOf (cycles : Nat) (x : List Int) : Nat × Int :=
  let si := correlate cycles 0 x
  let co := correlate cycles 256 x
  (List.range 1024).foldl (fun (b : Nat × Int) i =>
    let a := (si * Config.sine ((i + 256) % 1024) + co * Config.sine i) / 2 ^ 14
    if b.2 < a then (i, a) else b) (0, 0)

/-! ### Interpolation (R134) -/

/-- Position on the sample axis, in 1/64 sample, of a bit time `k` of a stream: the position that the loop, at a count in 1/64 bit
time for sample `axis` and a rate in 2^-32 of 1/64 bit time to the sample, gives count `k`, with the reader's offset in 1/64 bit
time (R134, R135). -/
def axisPosition (rev count axis rate : Nat) (offset : Int) (k : Nat) : Int :=
  let d := aroundRev (64 * rev) (64 * (k : Int) - count) + offset
  if rate = 0 then 64 * axis else 64 * axis + d * 64 * 2 ^ 32 / rate

/-- One 8-bit output: 8 consecutive samples from the integer part of a position on, through the phase filter of its fraction
(R134). -/
def interpolate (row : List Int) (received : Nat) (pos : Int) : Int :=
  let n := (pos / 64).toNat
  let phase := (pos % 64).toNat
  clampInt (-128) 127 (roundDiv (4 * ((List.range 8).map fun j =>
    Config.phaseFilter phase j * sampleAt row received (n + j)).sum) (2 ^ 14))

/-! ### Equalisation (R136, R142) -/

/-- Samples after the gain and offset loops, trained on the 64 of them from index `runIn` on, the run-in (R136). -/
def levelled (runIn : Nat) (x : List Int) : List Int :=
  let (gain, offset) := Config.runInLoops ((x.drop runIn).take 64)
  x.map fun v => (v - offset) * gain / 256

/-- Output of the 16-tap equaliser for each sample of a row, oldest first, in Q2.14 of a level (R136). -/
def equalise (taps : List Int) (x : List Int) : List Int :=
  x.zipIdx.map fun p => ((List.range 16).map fun j =>
    if j ≤ p.2 then taps.getD j 0 * x.getD (p.2 - j) 0 else 0).sum

/-- The clock pattern of a stripe at a bit time, in Q2.14, from a phase in 1/1,024 of its period of 32 bit times (R45). -/
def stripeWave (phase k : Nat) : Int := Config.sine ((phase + 32 * k) % 1024)

/-- A row less the leakage of a clock stripe: `k` is the bit time of its first sample, the gain is in Q2.14 (R142). -/
def withoutLeakage (gain : Int) (phase k : Nat) (y : List Int) : List Int :=
  y.zipIdx.map fun p => p.1 - gain * stripeWave phase (k + p.2) / 2 ^ 14

/-- Phase of the next lane's stripe in D1's own samples, from the bit time of the first one on (R142). -/
def leakagePhase (k : Nat) (y : List Int) : Nat :=
  let z := List.replicate (k % 32) 0 ++ y
  (phaseOf (z.length / 32) (z.take (z.length / 32 * 32))).1

/-! ### The joint detector (R141 to R144) -/

/-- A recorded bit as a level in Q2.14. -/
def levelOf (b : Bool) : Int := if b then 16384 else -16384

/-- A zone target (1, g1, g2) over a bit and its two predecessors, in Q2.14 (R141). -/
def targetOf (g : Int × Int) (b b1 b2 : Bool) : Int :=
  levelOf b + (g.1 * levelOf b1 + g.2 * levelOf b2) / 2 ^ 14

/-- Bit `i` of a trellis state: 0 and 1 the last two bits of T0, latest first, 2 and 3 those of T1. -/
def stateBit (st i : Nat) : Bool := st.testBit i

/-- State after a bit of each track. -/
def nextState (st : Nat) (a b : Bool) : Nat :=
  a.toNat + 2 * (stateBit st 0).toNat + 4 * b.toNat + 8 * (stateBit st 2).toNat

/-- Samples of both tracks at one bit time, and the bits of a track that are known: those of a partner that ended Good (R150,
R169). -/
structure DetectorInput where
  y0 : Int
  y1 : Int
  known0 : Option Bool := none
  known1 : Option Bool := none
  deriving DecidableEq, Repr

/-- Metric of a branch: squared distance of both samples from what the model of R141 gives; none where a known bit differs. -/
def branchMetric (g : Int × Int) (k0 k1 : Int) (i : DetectorInput) (st : Nat) (a b : Bool) : Option Int :=
  if (i.known0.getD a != a) || (i.known1.getD b != b) then none
  else
    let t0 := targetOf g a (stateBit st 0) (stateBit st 1)
    let t1 := targetOf g b (stateBit st 2) (stateBit st 3)
    let e0 := i.y0 - (t0 + k0 * t1 / 2 ^ 14)
    let e1 := i.y1 - (t1 + k1 * t0 / 2 ^ 14)
    some (e0 * e0 + e1 * e1)

/-- The lesser of two metrics, none counting as unreachable. -/
def better (a b : Option Int) : Option Int :=
  match a, b with
  | none, b => b
  | a, none => a
  | some x, some y => some (min x y)

/-- The four bit pairs of one bit time. -/
def bitPairs : List (Bool × Bool) := [(false, false), (false, true), (true, false), (true, true)]

/-- One step forward of the 16 state metrics. -/
def forwardStep (g : Int × Int) (k0 k1 : Int) (m : List (Option Int)) (i : DetectorInput) : List (Option Int) :=
  (List.range 16).map fun t => ((List.range 16).flatMap fun st => (bitPairs.filter fun p => decide (nextState st p.1 p.2 = t)).map fun p =>
    match m.getD st none, branchMetric g k0 k1 i st p.1 p.2 with
    | some x, some y => some (x + y)
    | _, _ => none).foldl better none

/-- One step backward of the 16 state metrics. -/
def backwardStep (g : Int × Int) (k0 k1 : Int) (i : DetectorInput) (m : List (Option Int)) : List (Option Int) :=
  (List.range 16).map fun st => (bitPairs.map fun p =>
    match branchMetric g k0 k1 i st p.1 p.2, m.getD (nextState st p.1 p.2) none with
    | some x, some y => some (x + y)
    | _, _ => none).foldl better none

/-- State metrics before each bit time of a row, oldest first. -/
def forwardMetrics (g : Int × Int) (k0 k1 : Int) : List (Option Int) → List DetectorInput → List (List (Option Int))
  | _, [] => []
  | m, i :: r => m :: forwardMetrics g k0 k1 (forwardStep g k0 k1 m i) r

/-- State metrics after each bit time of a row, oldest first. -/
def backwardMetrics (g : Int × Int) (k0 k1 : Int) : List DetectorInput → List (List (Option Int)) × List (Option Int)
  | [] => ([], List.replicate 16 (some 0))
  | i :: r =>
    let (l, m) := backwardMetrics g k0 k1 r
    (m :: l, backwardStep g k0 k1 i m)

/-- A log-likelihood ratio of 6 bits, signed, positive for a 0 (R143). -/
def llrOf (zero one : Option Int) : Int :=
  match zero, one with
  | some z, some o => clampInt (-32) 31 ((o - z) / (max Config.llrStep 1 : Nat))
  | some _, none => 31
  | none, _ => -32

/-- Log-likelihood ratios of both tracks over a row of bit times by max-log-MAP over 16 states (R141, R143). -/
def jointDetect (g : Int × Int) (k0 k1 : Int) (x : List DetectorInput) : List (Int × Int) :=
  let f := forwardMetrics g k0 k1 (List.replicate 16 (some 0)) x
  let b := (backwardMetrics g k0 k1 x).1
  (x.zip (f.zip b)).map fun (i, m, n) =>
    let best (want : Bool × Bool → Bool) : Option Int :=
      ((List.range 16).flatMap fun st => (bitPairs.filter want).map fun p =>
        match m.getD st none, branchMetric g k0 k1 i st p.1 p.2, n.getD (nextState st p.1 p.2) none with
        | some a, some c, some d => some (a + c + d)
        | _, _, _ => none).foldl better none
    (llrOf (best fun p => !p.1) (best fun p => p.1), llrOf (best fun p => !p.2) (best fun p => p.2))

/-- The single-track mode: the partner counts as noise and gets no values (R144). -/
def singleDetect (g : Int × Int) (y : List Int) (known : List (Option Bool)) : List Int :=
  (jointDetect g 0 0 ((y.zip known).map fun v => { y0 := v.1, y1 := 0, known0 := v.2, known1 := some false })).map Prod.fst

/-- Bits known of a track over a span of `n` bit times: those of a row that begins at an index (R150). -/
def knownAt (n : Nat) (k : Option (Int × List Bool)) : List (Option Bool) :=
  match k with
  | none => List.replicate n none
  | some (i, b) => (List.range n).map fun j => if (j : Int) < i then none else b[((j : Int) - i).toNat]?

/-- What a stream's detector needs of a span: the zone target, coefficients of both streams (0 to 15 taps, 16 interference, 17
leakage gain), the bit time of the first sample, the index of the run-in, the samples of both readers, and the bits known. -/
structure Detection where
  target : Int × Int
  set0 : List Int
  set1 : List Int
  first : Nat
  runIn : Nat
  y0 : List Int
  y1 : List Int
  known0 : Option (Int × List Bool) := none
  known1 : Option (Int × List Bool) := none
  deriving DecidableEq, Repr

/-- Equalised samples of D0, the leakage of the lane's own stripe taken out; its phase is that of the clock count (R136, R142). -/
def Detection.z0 (d : Detection) : List Int :=
  withoutLeakage (d.set0.getD 17 0) 0 d.first (equalise d.set0 (levelled d.runIn d.y0))

/-- Equalised samples of D1, the leakage of the next lane's stripe taken out; its phase is estimated from D1's samples (R136,
R142). -/
def Detection.z1 (d : Detection) : List Int :=
  let y := equalise d.set1 (levelled d.runIn d.y1)
  withoutLeakage (d.set1.getD 17 0) (leakagePhase d.first y) d.first y

/-- Log-likelihood ratios of a track over a span: by the joint detector, or by the single-track one (R141 to R144). -/
def Detection.soft (d : Detection) (track : Nat) (single : Bool) : List Int :=
  let z0 := d.z0
  let z1 := d.z1
  let k0 := knownAt z0.length d.known0
  let k1 := knownAt z1.length d.known1
  if single then (if track = 0 then singleDetect d.target z0 k0 else singleDetect d.target z1 k1)
  else
    let l := jointDetect d.target (d.set0.getD 16 0) (d.set1.getD 16 0)
      ((z0.zip (z1.zip (k0.zip k1))).map fun x => { y0 := x.1, y1 := x.2.1, known0 := x.2.2.1, known1 := x.2.2.2 })
    if track = 0 then l.map Prod.fst else l.map Prod.snd

/-- Bits as levels through a zone target (R141). -/
def throughTarget (g : Int × Int) (b : List Bool) : List Int :=
  b.zipIdx.map fun x => targetOf g x.1 (if x.2 = 0 then false else b.getD (x.2 - 1) false) (if x.2 < 2 then false else b.getD (x.2 - 2) false)

/-- Error of an equalised row against its recorded bits through the zone target (R138). -/
def bitErrors (g : Int × Int) (z : List Int) (b : List Bool) : List Int :=
  (z.zip (throughTarget g b)).map fun x => x.1 - x.2

/-- Sum of products of two rows. -/
def dot (a b : List Int) : Int := ((a.zip b).map fun x => x.1 * x.2).sum

/-- Gradient of the squared error of a row in each of its 18 coefficients (R138, R142): in a tap by the sample it weighs, in the
interference by the partner's bits through the target, none where they are not known, in the leakage by the stripe's wave. -/
def gradients (g : Int × Int) (y e : List Int) (partner : Option (List Bool)) (wave : List Int) : List Int :=
  ((List.range 16).map fun j => dot e (List.replicate j 0 ++ y)) ++
    [match partner with
      | some b => -(dot e (throughTarget g b)) / 2 ^ 14
      | none => 0,
     -(dot e wave) / 2 ^ 14]

/-- Hard decisions of a row of log-likelihood ratios (R143). -/
def hardBits (l : List Int) : List Bool := l.map fun v => decide (v < 0)

/-- Soft values descrambled by sign inversion (R52, R143). -/
def descramble (lane track sector : Nat) (l : List Int) : List Int :=
  (l.zip (scrambleBits lane track sector)).map fun p => if p.2 then -p.1 else p.1

/-! ### The LDPC decoder (R146) -/

/-- Codeword positions of check `r` of a row of the base matrix (R51). -/
def checkPositions (row r : Nat) : List Nat :=
  (List.range 292).filterMap fun j =>
    let v := ldpcShift row j
    if v < 0 then none else some (128 * j + (r + v.toNat) % 128)

/-- Least absolute value of the others, with the sign of their product: the message of a check to one of its bits. -/
def minSum (others : List Int) : Int :=
  let least := (others.map Int.natAbs).min?.getD 0
  if (others.filter fun v => decide (v < 0)).length % 2 = 1 then -(least : Int) else least

/-- One check of a layer: soft values and check messages before and after (R146). -/
def checkUpdate (row : Nat) (x : List Int × List (Nat × Int)) (r : Nat) : List Int × List (Nat × Int) :=
  let at_ (p : Nat) : Nat := ((128 * row + r) * 2 ^ 16) + p
  let ps := checkPositions row r
  let q := ps.map fun p => (p, x.1.getD p 0 - (assoc? x.2 (at_ p)).getD 0)
  q.foldl (fun (y : List Int × List (Nat × Int)) v =>
    let m := minSum ((q.filter fun u => decide (u.1 ≠ v.1)).map Prod.snd)
    (y.1.set v.1 (v.2 + m), putKey y.2 (at_ v.1) m)) x

/-- One iteration: every layer in the order of a schedule (R145, R146). -/
def layeredPass (schedule : List Nat) (x : List Int × List (Nat × Int)) : List Int × List (Nat × Int) :=
  schedule.foldl (fun y row => (List.range 128).foldl (checkUpdate row) y) x

/-- A turn: iterations taken, whether every parity check is satisfied, and the bits; it ends at the limit (R146). -/
def decodeFrom (schedule : List Nat) : Nat → Nat → List Int × List (Nat × Int) → Nat × Bool × List Bool
  | 0, n, x => (n, parityHolds (hardBits x.1), hardBits x.1)
  | k + 1, n, x => if parityHolds (hardBits x.1) then (n, true, hardBits x.1) else decodeFrom schedule k (n + 1) (layeredPass schedule x)

/-- A turn on a codeword's soft values with an iteration limit (R146, R167). -/
def decodeTurn (schedule : List Nat) (limit : Nat) (llr : List Int) : Nat × Bool × List Bool :=
  decodeFrom schedule limit 0 (llr, [])

end Sys2Proof.Machine
end

