-- ==== Sys2Proof/Machine/ReadOps.lean ====
section
/-! DEFINITION. Clock counts and head health (R125 to R133, R266 to R270), framing (R152 to R154), sector outcomes (R155
to R157), the decoder pool (R146 to R151) and the retry ladder (R166 to R178) as operations. -/

namespace Sys2Proof.Machine

/-! ### Head service and the clock count -/

/-- Service of a head recomputed: read-only while reader C, its recovery or its writer link makes it so (R107, R270,
R560). -/
def State.refreshHead (s : State) (h : Nat) : State :=
  let now := s.nat (O.headService + h)
  if now = 0 ∨ now = 3 then s
  else
    let ro := (s.head h).readOnly || (s.head h).awaitGood || (s.wrl h).readOnly
    s.setNat (O.headService + h) (if ro then 2 else 1)

/-- Reader C of a head found unhealthy by a criterion of R130: the write gate closes, the head is read-only; its clock
state moves at the next sector boundary (R131, R133). The revolution under way has left the limits. -/
def State.unhealthyC (s : State) (h criterion : Nat) : State :=
  let s := s.modHead h fun x => { x with revClean := false }
  if ¬ s.hasHead h ∨ s.nat (O.clockState + h) ≤ 1 ∨ (s.head h).unhealthy ≠ 0 then s
  else
    let s := (s.closeGate h).modHead h fun x => { x with unhealthy := criterion, readOnly := true, validSince := none }
    s.refreshHead h

/-- Provisional entered with the present count as prediction, counted (R125 to R129). -/
def State.provisional (s : State) (h : Nat) : State :=
  let s := (s.closeGate h).setNat (O.clockState + h) 2
  (s.modHead h fun x => { x with provisionalAt := s.tick, acquire := none }).bump (O.acquisitions + h)

/-- Milliseconds-free length of a revolution in microseconds at the speed now. -/
def State.revolution (s : State) : Nat :=
  let rpm := s.nat O.spindleSpeed
  if rpm = 0 then 60000000 / 7200 else 60000000 / rpm

/-! ### Configuration in force on a head (R164) -/

/-- Value of a detection object in force on a head: a write takes effect at the head's next sector boundary (R164). -/
def State.cfg (s : State) (h key : Nat) : Nat := ((assoc? (s.head h).oldConfig key).getD (s.obj key)).toNat

/-- A sector boundary of a head: every value written since the last one is in force (R164). -/
def State.boundary (s : State) (h : Nat) : State := s.modHead h fun x => { x with oldConfig := [] }

/-! ### Framing (R152 to R154) -/

/-- The best candidate of a window: least distance, then nearest the expected position, then earlier (R152). -/
def bestMark (w : List (Int × Nat)) : Option (Int × Nat) :=
  w.foldl (fun b x =>
    match b with
    | none => some x
    | some y =>
      if x.2 < y.2 ∨ (x.2 = y.2 ∧ (x.1.natAbs < y.1.natAbs ∨ (x.1.natAbs = y.1.natAbs ∧ x.1 < y.1))) then some x
      else some y) none

/-- Distance found at the expected position. -/
def markAtE (w : List (Int × Nat)) : Nat := ((w.find? fun x => decide (x.1 = 0)).map Prod.snd).getD 32

/-- How a sector was framed: offset, distance, count-framed, early mark; none is NoSync (R152, R153, R127). `state` is
the head's clock state. -/
def frameSector (state window : Nat) (countFraming : Bool) (w : List (Int × Nat)) : Option (Int × Nat × Bool × Bool) :=
  let near := w.filter fun x => decide (x.1.natAbs ≤ (if state = 2 then window else 6))
  match bestMark near with
  | none => if state = 3 ∧ countFraming then some (0, 32, true, false) else none
  | some (b, d) =>
    if d ≤ 3 then
      if state = 3 ∧ 2 ≤ b.natAbs ∧ markAtE near ≤ 5 then some (b, d, false, true) else some (b, d, false, false)
    else if state = 3 ∧ countFraming then some (0, d, true, false)
    else none

/-! ### Decoding (R55, R141 to R146, R180) -/

/-- Index in a captured span at which the run-in of a sector framed at E begins; its codeword follows 96 bit times later (R48, R152,
R178). -/
def runInAt : Nat := 8

/-- Index of a captured sector's run-in, moved with its frame position. -/
def SectorInFlight.runIn (x : SectorInFlight) : Nat := ((runInAt : Int) + x.framed).toNat

/-- Bits that begin at an offset from E, as the bits of a row that begins at another; those before the first are 0. -/
def alignBits (at_ wanted : Int) (b : List Bool) : List Bool :=
  if at_ ≤ wanted then b.drop (wanted - at_).toNat else List.replicate (at_ - wanted).toNat false ++ b

/-- Bit times of a captured span (R178). -/
def spanBits : Nat := 37536

/-- What the detector works on for a captured sector of a head, under a detector-tables image (R141, R145, R150). -/
def SectorInFlight.detection (x : SectorInFlight) (tables : List Nat) (head : Nat) : Detection :=
  let k := x.known.map fun p => ((runInAt : Int) + p.1, p.2)
  { target := Config.zoneTarget tables head x.zone, set0 := x.set0, set1 := x.set1, first := x.first, runIn := x.runIn, y0 := x.y0, y1 := x.y1
    known0 := if x.track = 1 then k else none, known1 := if x.track = 0 then k else none }

/-- The 37,376 log-likelihood ratios of a captured sector's codeword, in codeword index order and descrambled (R143). -/
def SectorInFlight.soft (x : SectorInFlight) (tables : List Nat) (head : Nat) : List Int :=
  descramble x.lane x.track x.sector ((((x.detection tables head).soft x.track x.single).drop (x.runIn + 96)).take 37376)

/-- Whether user data is an unrecoverable marker for an LBA: its Signature, Lba, Fill and MarkerCrc match (R179, R180). -/
def isMarker (lba data : Nat) : Bool :=
  let b := leBytes 4096 data
  decide (b.take 8 = [0x56, 0x5A, 0x4D, 0x41, 0x52, 0x4B, 0x45, 0x52]) && decide (ofLe ((b.drop 8).take 8) = lba) &&
    ((b.drop 32).take 4060).all (fun v => decide (v = 0x6D)) && decide (ofLe (b.drop 4092) = crc32c (b.take 4092))

/-- What decoded information bits hold (R50, R53, R180). -/
def readBack (word : List Bool) : SectorRead :=
  let (lba, gen, flags, ok) := headerOf word
  let data := userOf word
  { crcOk := ok, lba := lba, generation := gen, flags := flags, data := data, marker := isMarker lba data }

/-- Whether a decoded header is accepted at the place the sector was read from: the only check on it beyond the
code, for user data carries none of its own (R55, R379). -/
def headerAccepted (x : SectorInFlight) (r : SectorRead) : Bool :=
  r.crcOk && decide (r.flags / 4096 % 16 = 1) && decide (r.lba = x.lba) && !r.flags.testBit 5 &&
    (r.flags.testBit 4 == x.cellar) && (r.flags.testBit 3 == x.spare)

/-- A turn's end: iterations, whether it converged, and the bits (R146). -/
structure TurnResult where
  iterations : Nat
  converged : Bool
  word : List Bool
  deriving DecidableEq, Repr

/-- A turn on a captured sector, limited to some iterations (R146). -/
def SectorInFlight.decode (x : SectorInFlight) (tables : List Nat) (head limit : Nat) : TurnResult :=
  let (n, ok, w) := decodeTurn (Config.layerSchedule tables) limit (x.soft tables head)
  { iterations := n, converged := ok, word := w }

/-- Outcome of a turn: DecodeFailed where it did not converge, else by the header check and the marker check (R155, R180). -/
def turnOutcome (x : SectorInFlight) (r : TurnResult) : Nat :=
  if ¬ r.converged then 2
  else
    let d := readBack r.word
    if ¬ headerAccepted x d then 3 else if d.marker then 8 else 0

/-- Recorded bits of a sector rebuilt from its decoded codeword, scrambled again (R48, R49, R52, R138). -/
def SectorInFlight.recorded (x : SectorInFlight) (word : List Bool) : List Bool :=
  bitsOf 64 runInPattern ++ bitsOf 32 syncPattern ++ addBits word (scrambleBits x.lane x.track x.sector) ++ bitsOf 48 guardPattern

/-- A captured sector with the partner's bits, where the partner sector has ended Good (R150, R168). -/
def State.withKnown (s : State) (stream : Nat) (x : SectorInFlight) : SectorInFlight :=
  let partner := stream + 1 - 2 * (stream % 2)
  match (s.stream partner).good.find? fun g => decide (g.1 = x.lane) && decide (g.2.1 = x.sector) with
  | some g => { x with known := some (g.2.2.1, g.2.2.2) }
  | none => x

/-! ### The retry ladder (R166 to R177) -/

/-- Whether the partner sector of a ladder has ended Good (R168). -/
def State.partnerGood (s : State) (l : Ladder) : Bool := (s.withKnown l.stream { l.sector with known := none }).known.isSome

/-- The next step of a ladder that applies and may run: 6 where none is left (R166, R173). Step 1 needs a codeword or
capture of a failed decode; step 3 a head Confirmed now and in every pass so far. -/
def State.nextStep (s : State) (l : Ladder) : Nat :=
  let confirmed := decide (s.nat (O.clockState + l.stream / 2) = 3) && l.confirmed
  let one := decide (l.outcome = 2) && l.held
  let can (k : Nat) : Bool := decide (l.step < k) && decide (k ≤ l.depth) && (if k = 1 then one else if k = 3 then confirmed else true)
  ((List.range 5).map (· + 1)).find? can |>.getD 6

/-- The ladder of a number. -/
def State.ladder? (s : State) (id : Nat) : Option Ladder := s.detect.ladders.find? fun l => decide (l.id = id)

/-- State with a ladder replaced. -/
def State.putLadder (s : State) (l : Ladder) : State :=
  { s with detect := { s.detect with ladders := s.detect.ladders.map fun m => if m.id = l.id then l else m } }

/-- A ladder taken out with what it holds (R167, R170, R178). -/
def State.dropLadder (s : State) (l : Ladder) : State :=
  let s : State := { s with detect := { s.detect with ladders := s.detect.ladders.filter fun m => decide (m.id ≠ l.id) } }
  s.clearLadder l

/-- A ladder's outcome word at step 6: that of the sector's last pass, its LadderStep set to 6 (R157, R166, R172). -/
def Ladder.finalWord (l : Ladder) : Nat :=
  let last := l.words.getLastD 0
  last / 2 ^ 26 * 2 ^ 26 + 6 * 2 ^ 23 + last % 2 ^ 23

/-- Step 6 (R172): the sector is reported unrecoverable, counted per step and head, with its fault source and the outcome words of
the first read and of the steps that ran; its command gets its bad sector. -/
def State.unrecoverable (s : State) (l : Ladder) : State :=
  let head := l.stream / 2
  let s := (s.dropLadder l).noteMargin head l.sector.zone fun m => { m with lost := m.lost + 1 }
  let s := (s.bump (O.ladderOutcomes + 5)).bump (O.headUnrecoverable + head)
  let words := l.words.flatMap fun w => [w % 2 ^ 32, w / 2 ^ 32]
  let s := s.raiseWith 202 head false (words.take 48)
  s.sectorBad l.sector 6 l.finalWord

/-- Whether a ladder's deadline has passed (R173). -/
def State.ladderLate (s : State) (l : Ladder) : Bool := decide (l.entered + 1000 * l.config.timeLimit ≤ s.tick)

/-- A ladder moved on after a failed pass or step: step 6 at once where nothing may run any more (R173, R174). -/
def State.advanceLadder (s : State) (l : Ladder) : State :=
  if s.nextStep l = 6 ∨ s.ladderLate l ∨ s.headFenced (l.stream / 2) then s.unrecoverable l else s.putLadder l

/-- A codeword kept in the retry store, where the oldest of 1,024 gives way and its sector starts at step 2 (R167). -/
def State.keepCodeword (s : State) (l : Ladder) : State :=
  let full := decide (1024 ≤ s.detect.retry.length)
  let old := s.detect.retry.head?
  let kept := if full then s.detect.retry.tail else s.detect.retry
  let s : State := { s with detect := { s.detect with retry := kept ++ [l.id] } }
  match full, old with
  | true, some o => { s with detect := { s.detect with
      ladders := s.detect.ladders.map fun m => if m.id = o then { m with held := false } else m } }
  | _, _ => s

/-- The settings in force for a sector that enters the ladder (R199). -/
def State.ladderConfig (s : State) : LadderConfig :=
  { iterLimit := s.nat O.ladderIterLimit, average := s.nat O.averagePasses, heaterStep := s.nat O.heaterStepPower
    timeLimit := s.nat O.ladderTimeLimit, clockWait := s.nat O.clockWaitLimit, refresh := s.nat O.refreshStep }

/-- A sector entering the ladder (R166, R167, R173): a failed decode keeps its codeword in the retry store, or its capture. A Limited
Retry Read has at most two steps; a fenced head none (R174). -/
def State.enterLadder (s : State) (stream : Nat) (x : SectorInFlight) (outcome word : Nat) : State :=
  let limited := ((s.ctx? x.port x.sqid x.cid).map Ctx.limited).getD false
  let depth := if limited then min 2 (s.nat O.ladderDepth) else s.nat O.ladderDepth
  let held := decide (outcome = 2)
  let l : Ladder :=
    { id := s.detect.nextLadder, stream := stream, sector := x, outcome := outcome, entered := s.tick, depth := depth, held := held,
      capture := x.deferred, words := [word], config := s.ladderConfig }
  let s : State := { s with detect := { s.detect with ladders := s.detect.ladders ++ [l], nextLadder := s.detect.nextLadder + 1 } }
  let s := s.noteMargin (stream / 2) x.zone fun m => { m with ladders := m.ladders + 1 }
  let s := if held ∧ ¬ x.deferred then s.keepCodeword l else s
  if s.headFenced (stream / 2) ∨ s.nextStep l = 6 then s.unrecoverable l else s

/-- Every ladder of a fenced head or actuator goes to step 6 at once (R174). -/
def State.endFencedReads (s : State) : State :=
  (s.detect.ladders.filter fun l => s.headFenced (l.stream / 2)).foldl State.unrecoverable s

/-- What a fence ends: writes under R599, the ladders of R174, and reads that no pass can make (R376). -/
def State.endFencedIo (s : State) : State := s.endFencedWrites.endFencedReads.endFencedWants

/-- A sector recovered at a ladder step (R172, R176): counted, delivered, and refreshed from step RefreshStep on, whatever its step in
an adjacent check (R187), its captures held until the refresh is made. -/
def State.recovered (s : State) (l : Ladder) (step iterations : Nat) (r : SectorRead) : State :=
  let x := l.sector
  let again := (decide (l.config.refresh ≤ step) && decide (l.config.refresh ≠ 6)) || (decide (x.port = 3) && decide (x.sqid = 3))
  let s : State := if again then { s with detect := { s.detect with refreshes := s.detect.refreshes ++
      [{ stream := l.stream, nsid := x.nsid, lba := x.lba, data := r.data, cellar := x.cellar, slots := l.slots }] } } else s
  let s := s.dropLadder l
  (s.bump (O.ladderOutcomes + (step - 1))).sectorGood x step iterations r

/-- Good sectors remembered for the partner stream (R150, R169). -/
def State.keepGood (s : State) (stream : Nat) (x : SectorInFlight) (word : List Bool) : State :=
  s.modStream stream fun st => { st with good := ((x.lane, x.sector, x.framed, x.recorded word) :: st.good).take 1024 }

/-- A ladder pass with the read it made (R168 to R171): `outcome` and, for a turn, its result. Recovered on Good, reported on a marker,
else the step goes on, or the ladder moves to the next. `l` carries the step's bookkeeping and the read; `finished` tells
whether the step has ended. -/
def State.ladderPass (s : State) (l : Ladder) (step outcome : Nat) (r : Option TurnResult) (finished : Bool) : State :=
  let word := outcomeWord outcome ((r.map TurnResult.iterations).getD 0) l.stream step l.sector
  match r, outcome with
  | some t, 0 => (s.keepGood l.stream l.sector t.word).recovered l step t.iterations (readBack t.word)
  | some t, 8 =>
    (s.dropLadder l).sectorMarker l.sector step t.iterations word (readBack t.word)
  | _, _ =>
    let l := { l with outcome := outcome }
    if finished then
      let s := s.putLadder { l with running := 0 }
      let s := if step = 4 then s.endOffset (l.stream / 2) else if step = 5 then s.endRaise (l.stream / 2) else s
      s.advanceLadder { l with step := step, running := 0, sub := 0, words := l.words ++ [word] }
    else s.putLadder { l with running := step }

/-- Whether the head of a stream is in a state in which ladder steps 2 to 5 may read: Confirmed or Borrowed, its streams
admitted, loaded (R174, R175). -/
def State.ladderHead (s : State) (stream : Nat) : Bool :=
  let h := stream / 2
  (decide (s.nat (O.clockState + h) = 3) || decide (s.nat (O.clockState + h) = 4)) && (s.head h).admitted &&
    decide ((s.act (actOf h)).load = 2)

/-! ### Equaliser and detector banks (R136 to R142) -/

/-- Taps 0 to 15, the interference coefficient and the leakage gain of a stream's bank; an empty bank holds the detector-table values. -/
def State.bankTaps (s : State) (stream bank : Nat) : List Int :=
  match (s.stream stream).taps.getD bank [] with
  | [] => (List.range 18).map (Config.tableTap s.tables stream (s.head (stream / 2)).zone)
  | l => l

/-- Coefficients in force on a stream. -/
def State.setNow (s : State) (stream : Nat) : List Int := s.bankTaps stream (s.stream stream).bank

/-- Whether adaptation may run on a stream: its head Confirmed and admitted, EqAdaptEnable 1, no sleep entry and no firmware
activation under way (R39, R140). -/
def State.adapts (s : State) (stream : Nat) : Bool :=
  decide (s.nat (O.clockState + stream / 2) = 3) && (s.head (stream / 2)).admitted &&
    decide (s.cfg (stream / 2) O.eqAdaptEnable = 1) && decide (s.nat O.sleepEntryState ≠ 1) && decide (s.nat O.sleepStateCurrent = 1) &&
    decide (s.nat O.updateState < 3)

/-- Rows of numbers added place by place; a missing one counts as zeros. -/
def addRows : List Int → List Int → List Int
  | [], b => b
  | a, [] => a
  | x :: a, y :: b => (x + y) :: addRows a b

/-- A Good in-line sector's share in the running block (R138): the error of the equalised row against its rebuilt bits, and the
gradient of each coefficient. -/
def State.accumulate (s : State) (stream : Nat) (x : SectorInFlight) (word : List Bool) : State :=
  if ¬ s.adapts stream ∨ x.deferred then s
  else
    let d := x.detection s.tables (stream / 2)
    let from_ (l : List Int) : List Int := (l.drop x.runIn).take 37520
    let z := from_ (if x.track = 0 then d.z0 else d.z1)
    let y := from_ (levelled x.runIn (if x.track = 0 then x.y0 else x.y1))
    let e := bitErrors d.target z (x.recorded word)
    let phase := if x.track = 0 then 0 else leakagePhase d.first (equalise d.set1 (levelled x.runIn d.y1))
    let wave := (List.range e.length).map fun i => stripeWave phase (d.first + x.runIn + i)
    let g := gradients d.target y e ((s.withKnown stream x).known.map fun p => alignBits p.1 x.framed p.2) wave
    s.modStream stream fun st => { st with
      blockSectors := st.blockSectors + 1, gradient := addRows st.gradient g
      squares := st.squares + (dot e e).toNat, bits := st.bits + e.length }

/-! ### Final outcomes of first reads -/

/-- A Good sector's effects on its head: the lane row is verified, and the write hold that waits for a Good sector ends
(R254, R270). -/
def State.rowVerified (s : State) (h : Nat) : State :=
  let a := actOf h
  let s := s.modAct a fun x => { x with verified := true, checks := 0, tried := [] }
  let s := s.each (headsOf a) fun s g => s.setStatusBit g 5 true
  let held := s.detect.heldReads.filter fun x => decide (actOf (x.1 / 2) = a)
  let s := { s with detect := { s.detect with heldReads := s.detect.heldReads.filter fun x => decide (actOf (x.1 / 2) ≠ a) } }
  let s : State := held.foldl (fun (s : State) x => s.enterLadder x.1 x.2.1 x.2.2.1 x.2.2.2) s
  if (s.head h).awaitGood ∧ s.nat (O.positionState + h) = 5 then
    (s.modHead h fun x => { x with awaitGood := false }).refreshHead h
  else s

/-- A sector of an unverified lane row that did not end Good: a lane check counts towards LaneCheckSectors, and so does each sector time
in which every steering head has attempted one (R254, R255, log entry 122). -/
def State.rowTried (s : State) (h : Nat) (check : Bool) : State :=
  let a := actOf h
  let steers (g : Nat) : Bool := decide (s.nat (O.headService + g) ≠ 3) && !(s.head g).held && !(s.head g).passHeld
  let all (l : List Nat) : Bool := (headsOf a).all fun g => !steers g || l.contains g
  s.modAct a fun x =>
    if check then { x with checks := x.checks + 1 }
    else if all (h :: x.tried) then { x with checks := x.checks + 1, tried := [] }
    else { x with tried := h :: x.tried }

/-- The outcome of a first read becomes final (R155, R158, R254): counted; Good delivers, a Marker is reported, Cancelled ends there,
any other enters the ladder, or is held while its lane row is unverified. Calibration reads, lane checks and verify read once. -/
def State.firstRead (s : State) (stream : Nat) (x : SectorInFlight) (outcome : Nat) (r : Option TurnResult) : State :=
  let h := stream / 2
  let s := s.countFirst stream x outcome
  let word := outcomeWord outcome ((r.map TurnResult.iterations).getD 0) stream 0 x
  match r, outcome with
  | _, 7 => s
  | some t, 0 =>
    let s := if x.deferred then s else s.noteMargin h x.zone fun m => { m with
        goods := m.goods + 1, iterations := m.iterations + t.iterations }
    let s := (s.modStream stream fun st => { st with lastGood := s.tick }).accumulate stream x t.word
    ((s.keepGood stream x t.word).rowVerified h).sectorGood x 0 t.iterations (readBack t.word)
  | some t, 8 => s.sectorMarker x 0 t.iterations word (readBack t.word)
  | _, _ =>
    let verified := (s.act (actOf h)).verified
    let s := if verified then s else s.rowTried h (decide (x.port = 3) && decide (x.sqid = 7))
    if x.port = 3 ∧ 6 ≤ x.sqid ∧ x.sqid ≤ 8 then s.deviceSector x.cid (x.result 0 ((r.map TurnResult.iterations).getD 0) none)
    else if verified then s.enterLadder stream x outcome word
    else { s with detect := { s.detect with heldReads := s.detect.heldReads ++ [(stream, x, outcome, word)] } }

/-! ### The decoder pool (R146 to R149) -/

/-- Decoders in service without a turn. -/
def State.freeDecoders (s : State) : List Nat :=
  (List.range 64).filter fun d => !s.detect.withdrawn.contains d && !s.detect.turns.any fun t => decide (t.decoder = d)

/-- Whether any in-line work waits (R147). -/
def State.inlineWaits (s : State) : Bool := s.detect.streams.any fun st => !st.queue.isEmpty

/-- Streams in round-robin order after the one served last. -/
def State.robinOrder (s : State) : List Nat := (List.range 48).map fun i => (s.detect.robin + 1 + i) % 48

/-- Streams admitted to detection. -/
def State.streamsIn (s : State) : Nat := 2 * (s.heads.filter (·.admitted)).length

/-- A stream's share of the pool's decoder time over one PaceInterval, in ticks of 100 MHz (R147). -/
def State.share (s : State) : Nat :=
  if s.streamsIn = 0 then 0 else s.nat O.decodersInService * s.nat O.paceInterval * 100000 / s.streamsIn

/-- Whether a stream may be given a decoder: a narrow head's stream may not borrow (R161). -/
def State.mayUse (s : State) (n : Nat) : Bool :=
  !(s.nat O.narrowHeadMask).testBit (n / 2) || (s.head (n / 2)).narrowPending || decide ((s.stream n).used < s.share)

/-- A decoder takes the next codeword round-robin, and the stream's overflow codeword moves into its queue (R147,
R148). -/
def State.takeWork (s : State) (d : Nat) : State :=
  match s.robinOrder.find? fun n => !(s.stream n).queue.isEmpty && s.mayUse n with
  | some n =>
    match (s.stream n).queue with
    | x :: rest =>
      let s := s.modStream n fun st => { st with queue := rest ++ st.overflow, overflow := [] }
      { s with detect := { s.detect with
          turns := s.detect.turns ++ [{ decoder := d, stream := n, sector := x, began := s.tick }], robin := n } }
    | [] => s
  | none => s

/-- Every free decoder takes work while some waits. -/
def State.feedDecoders (s : State) : State := s.freeDecoders.foldl State.takeWork s

/-- Capture slots free, of 8 (R177). -/
def State.capturesFree (s : State) : Nat := 8 - s.detect.captures.length

/-- The stream a saturation chooses for deferral (R148): the largest positive excess over its share among those not deferring, else the
one whose codeword arrived. -/
def State.deferChoice (s : State) (arrived : Nat) : Nat :=
  let over_ (i : Nat) : Int := ((s.stream i).lastUsed : Int) - s.share
  let best := (List.range 48).foldl (fun (b : Option Nat) i =>
    if (s.stream i).capturing ∨ over_ i ≤ 0 then b
    else
      match b with
      | none => some i
      | some j => if over_ j < over_ i then some i else some j) none
  best.getD arrived

/-- Deferral entered by a stream where R148 allows it: enabled, a capture slot free under DeferSlotsMax, no ladder request
waiting. -/
def State.startDeferral (s : State) (n : Nat) : State :=
  let mine := (s.detect.captures.filter fun c => decide (c.1 = 1)).length
  if s.cfg (n / 2) O.deferEnable = 1 ∧ ¬ (s.stream n).capturing ∧ mine < s.cfg (n / 2) O.deferSlotsMax ∧ 0 < s.capturesFree ∧
      ¬ s.detect.ladders.any Ladder.waiting then
    let s := s.modStream n fun st => { st with capturing := true, exitRun := 0 }
    { s with detect := { s.detect with captures := s.detect.captures ++ [(1, n)] } }
  else s

/-- A codeword arriving in line (R147, R148): queued; to the overflow slot on a full queue, which is a saturation; or
PoolOverrun. -/
def State.queueCodeword (s : State) (n : Nat) (x : SectorInFlight) : State :=
  let st := s.stream n
  if st.queue.length < s.cfg (n / 2) O.streamQueueDepth then
    (s.modStream n fun st => { st with queue := st.queue ++ [x] }).feedDecoders
  else
    let s := s.bump O.poolSaturations
    let s := { s with detect := { s.detect with
      streams := s.detect.streams.map fun (st : Stream) => { st with exitRun := 0 } } }
    let s := s.startDeferral (s.deferChoice n)
    if st.overflow.isEmpty then s.modStream n fun st => { st with overflow := [x] }
    else s.firstRead n x 6 none


end Sys2Proof.Machine
end

