-- ==== Sys2Proof/Machine/Sampling.lean ====
section
/-! DEFINITION. From blocks to interpolated samples: the clock count of a head from reader C, the borrowed count, and the interpolators
of its data streams (R104, R119, R121 to R123, R126, R128, R130, R132, R134). -/

namespace Sys2Proof.Machine

/-! ### The clock count (R122, R123, R126, R128, R130) -/

/-- Samples of a reader link so far, 21 to the block (R98, R102). -/
def Rsl.received (r : Rsl) : Nat := 21 * r.blocks

/-- Samples kept of a reader link: more than a position sample of R240 spans. -/
def sampleRoom : Nat := 32768

/-- Clock count of a head in 1/64 bit time at one of its samples (R123). -/
def Head.countAt (x : Head) (rev n : Nat) : Nat :=
  ((x.count : Int) + ((n : Int) - x.axis) * x.rate / 2 ^ 32) % (64 * max 1 rev : Nat) |>.toNat

/-- A phase difference in 1/1,024 of a period, nearest to 0. -/
def aroundPhase (d : Int) : Int :=
  let m := d % 1024
  if 512 ≤ m then m - 1024 else m

/-- Whether a sample of a link lies in an erased block (R104). -/
def Rsl.erasedSample (r : Rsl) (n : Nat) : Bool := r.erased.contains (n / 21)

/-- What one clock period of reader C shows: its first sample, the count there, the phase error against the count, whether the
pattern is inverted, and its amplitude (R122). -/
structure Period where
  first : Nat
  count : Nat
  error : Int
  inverted : Bool
  amplitude : Int
  coast : Bool
  deriving DecidableEq, Repr

/-- The next clock period of a head, once all 34 samples that span it have come (R119, R122). -/
def State.nextPeriod (s : State) (h : Nat) : Option Period :=
  let x := s.head h
  let r := s.rsl (3 * h + 2)
  let ahead := ceilDiv (((x.count / 2048 + 1) * 2048 - x.count) * 2 ^ 32) (max 1 x.rate)
  let first := x.axis + ahead
  if r.received < first + 34 then none
  else
    let window := (List.range 34).map fun i => sampleAt r.samples r.received (first + i)
    let count := x.countAt (bitsPerRev (s.headZone h)) first
    let seen := phaseOf 1 window
    let e := aroundPhase ((seen.1 : Int) - (count % 2048 / 2 : Nat))
    let inv := decide (256 < e.natAbs)
    some { first := first, count := count, error := if inv then aroundPhase (e + 512) else e, inverted := inv, amplitude := seen.2
           coast := (List.range 34).any fun i => r.erasedSample (first + i) }

/-- Count and rate of a head after a period: corrected by the loop, or running on at the last frequency while the head flywheels,
coasts over erased blocks, or follows a lender (R104, R123, R126, R132). -/
def Head.track (x : Head) (rev bandwidth now : Nat) (held : Bool) (p : Period) : Head :=
  if held then { x with count := p.count, axis := p.first, countedAt := now }
  else
    let (kp, ki) := Config.clockGains bandwidth
    { x with
      count := (((p.count : Int) + kp * 2 * p.error / 2 ^ 16) % (64 * max 1 rev : Nat)).toNat
      axis := p.first, countedAt := now
      rate := ((x.rate : Int) + ki * p.error).toNat }

/-- Amplitude of a head's clock pattern as a percentage of the learnt one; 100 while none has been learnt (log entry 104). -/
def Head.amplitudePercent (x : Head) (a : Int) : Nat := if x.clockRef = 0 then 100 else a.toNat * 100 / x.clockRef

/-- Rms phase jitter in 0.001 bit time over the last 256 periods: an error of one unit is 1/32 bit time (R130). -/
def rmsJitter (l : List Nat) : Nat := if l.length < 256 then 0 else (l.sum * 1000000 / (1024 * l.length)).sqrt

/-- Frequency offset of a head's loop in ppm of the nominal rate (R119). -/
def Head.ppm (x : Head) : Int := ((x.rate : Int) - (64 * 16 * 2 ^ 32 / 17 : Nat)) * 1000000 / (64 * 16 * 2 ^ 32 / 17 : Nat)

/-- Whether a bit time lies from `first` to `last` on a track that wraps. -/
def inSpan (rev first last k : Nat) : Bool := decide ((k + rev - first % rev) % rev ≤ (last + rev - first % rev) % rev)

/-- Adjacent checks being read on a head, after a period at bit time `k` whose amplitude is below ClockAmpLimit (R187). -/
def State.noteWeak (s : State) (h rev k : Nat) : State :=
  let weak (c : AdjacentCheck) : AdjacentCheck :=
    if c.head = h ∧ c.reading ∧ c.lane = (s.head h).lane ∧ inSpan rev c.first c.last k then { c with weak := true } else c
  { s with write := { s.write with adjacent := s.write.adjacent.map weak } }

/-- The measures of one period that R130 judges, and the inversions R122 looks at: amplitude, jitter, index field. The end of an
index field is a period without inversion after at least 48 inverted ones among 64. -/
def State.judgePeriod (s : State) (h : Nat) (p : Period) : State :=
  let x := s.head h
  let rev := bitsPerRev (s.headZone h)
  let percent := x.amplitudePercent p.amplitude
  let ended := !p.inverted && x.inverted.headD false && decide (48 ≤ (x.inverted.filter id).length)
  let at_ : Int := aroundRev (64 * rev) (((p.count / 2048 * 2048 : Nat) : Int) + 2 * p.error)
  let s := s.modHead h fun x => { x with
    lowRun := if percent < s.cfg h O.clockAmpLimit then x.lowRun + 1 else 0
    jitters := (p.error.natAbs * p.error.natAbs :: x.jitters).take 256
    inverted := (p.inverted :: x.inverted).take 64
    indexAt := if ended then some at_ else x.indexAt }
  let x := s.head h
  let s := if percent < s.cfg h O.clockAmpLimit then s.noteWeak h rev (p.count / 64) else s
  let s := (s.setNat (O.clockAmplitude + h) (min percent 200)).setNat (O.clockJitter + h) (min (rmsJitter x.jitters) 65535)
  if s.cfg h O.clockFaultPeriods ≤ x.lowRun then s.unhealthyC h 1
  else if s.cfg h O.clockJitterLimit < rmsJitter x.jitters then s.unhealthyC h 2
  else if 500 < x.ppm.natAbs then s.unhealthyC h 5 else s

/-- The count of a borrower in 1/64 bit time from its lender's (R132). -/
def borrowedCount (lent : Nat) (skewLender : Int) (revLender : Nat) (skewOwn : Int) (revOwn : Nat) : Nat :=
  ((((lent : Int) - 64 * skewLender) * revOwn / max 1 revLender + 64 * skewOwn) % (64 * max 1 revOwn : Nat)).toNat

/-- A borrower's count taken from its lender's at the lender's latest period, on its own sample axis (R132). -/
def State.takeBorrowed (s : State) (lender h : Nat) : State :=
  let l := s.head lender
  let own := s.headZone h
  let his := s.headZone lender
  s.modHead h fun x => { x with
    count := borrowedCount l.count his.headSkew (bitsPerRev his) own.headSkew (bitsPerRev own)
    axis := (s.rsl (3 * h)).received
    rate := l.rate }

/-- Heads whose count is borrowed from a head (R132, R266). -/
def State.borrowersOf (s : State) (h : Nat) : List Nat :=
  (headsOf (actOf h)).filter fun b => decide (s.nat (O.clockState + b) = 4) && decide (s.nat (O.lender + b) = h) && decide (b ≠ h)

/-- A clock period's first and third harmonic added to a heater calibration under way (R277). -/
def State.heaterPeriod (s : State) (h : Nat) (p : Period) : State :=
  match (s.head h).heaterCal with
  | none => s
  | some run =>
    let r := s.rsl (3 * h + 2)
    let third := (phaseOf 3 ((List.range 34).map fun i => sampleAt r.samples r.received (p.first + i))).2
    s.modHead h fun x => { x with
      heaterCal := some { run with first := run.first + p.amplitude.toNat, third := run.third + third.toNat } }

/-- A clock period of a head taken: phase, loop, health, index field, and the counts lent (R122, R123, R130, R132). The
loop holds its frequency off the stripe and in Borrowed. -/
def State.takePeriod (s : State) (h : Nat) (p : Period) : State :=
  let x := s.head h
  let borrowed := decide (s.nat (O.clockState + h) = 4)
  let rev := bitsPerRev (s.headZone h)
  let s := s.modHead h fun x => x.track rev (s.cfg h O.clockLoopBandwidth) s.tick (p.coast || borrowed || x.flySince.isSome) p
  let s := if p.coast ∨ x.flySince.isSome then s else (s.judgePeriod h p).heaterPeriod h p
  (s.borrowersOf h).foldl (fun s b => s.takeBorrowed h b) s

/-- The next clock period of a head, once its samples are there (R122). -/
def State.clockPeriod (s : State) (h : Nat) : State := (s.nextPeriod h).elim s (s.takePeriod h)

/-! ### The position bands (R239, R240, R264) -/

/-- Clock count of a head in 1/64 bit time at reader C's latest sample (R123, R124). -/
def State.countNow (s : State) (h : Nat) : Nat := (s.head h).countAt (bitsPerRev (s.headZone h)) (s.rsl (3 * h + 2)).received

/-- Reader C's samples in some sub-ticks at the rate of a zone: 17 to 16 bit times (R94, R119). -/
def samplesIn (e : ZoneEntry) (subs : Nat) : Nat := subs * e.nominalKbit * 17 / 1920000

/-- Magnitudes A_O and A_I of the two position bands over the whole 64-bit periods of a position sample's span, which lasts one 240 kHz
period and ended `ago` sub-ticks before now: the correlations with a cosine and a sine at half the clock frequency, whose phase
is half the clock's over the same span, that of an index field taken back (R239, R240, log entry 123). -/
def State.bands (s : State) (h ago : Nat) : Nat × Nat :=
  let e := s.headZone h
  let r := s.rsl (3 * h + 2)
  let periods := samplesIn e 500 / 68
  let last := r.received - samplesIn e ago
  if periods = 0 ∨ last < 68 * periods then (0, 0)
  else
    let w := (List.range (68 * periods)).map fun i => sampleAt r.samples r.received (last - 68 * periods + i)
    let seen := (phaseOf (2 * periods) w).1
    let phase := (if (s.head h).inverted.headD false then seen + 512 else seen) % 1024 / 2
    ((correlate periods (phase + 256) w).natAbs / w.length, (correlate periods phase w).natAbs / w.length)

/-! ### The interpolators (R134) -/

/-- Interpolated samples kept of a stream: more than the widest search of R127 spans. -/
def outRoom : Nat := 65536

/-- Reader offset of a stream (R135). -/
def readerOffset (stream : Nat) : Nat := if stream % 2 = 0 then O.readerOffsetD0 + stream / 2 else O.readerOffsetD1 + stream / 2

/-- First bit time whose position lies at or after the latest block of a link: where a stream that starts begins. -/
def State.startBit (s : State) (n : Nat) : Nat :=
  let h := n / 2
  let rev := bitsPerRev (s.headZone h)
  let r := s.rsl (3 * h + n % 2)
  ((s.head h).countAt rev (r.received - 21) / 64 + 1) % max 1 rev

/-- One interpolated sample of a stream, where the samples it needs have come (R134). -/
def State.outputOne (s : State) (n : Nat) : State :=
  let h := n / 2
  let x := s.head h
  let rev := bitsPerRev (s.headZone h)
  let r := s.rsl (3 * h + n % 2)
  let k := (s.stream n).nextBit.getD (s.startBit n)
  let pos := axisPosition rev x.count x.axis x.rate (s.obj (readerOffset n)) k
  if (r.received : Int) < pos / 64 + 8 then s
  else s.modStream n fun st => { st with
    out := (interpolate r.samples r.received pos :: st.out).take outRoom
    nextBit := some ((k + 1) % max 1 rev)
    outputs := st.outputs + 1 }

/-- Interpolated samples of a stream as far as its samples go; a block of 21 samples gives at most 21. -/
def State.interpolateBlock (s : State) (n : Nat) : State := s.each (List.range 21) fun s _ => s.outputOne n

/-- A stream's interpolation begun afresh: what it held is dropped. -/
def Stream.restart (st : Stream) : Stream := { st with out := [], nextBit := none, erasedAt := [], cuts := [] }

/-- The samples of a stream at hand lose their place: an alignment slip, a loss of block lock, or a crossing overflow (R104,
R121). -/
def State.cutStream (s : State) (n : Nat) : State :=
  s.modStream n fun st => { st with cuts := (st.outputs :: st.cuts).filter fun i => decide (st.outputs < i + outRoom) }

/-- The count of a head moved by some 1/64 bit times; what its streams have interpolated moves with it by whole bit times (R122, R127,
R128). -/
def State.moveCount (s : State) (h : Nat) (d : Int) : State :=
  let rev := bitsPerRev (s.headZone h)
  let s := s.modHead h fun x => { x with count := (((x.count : Int) + d) % (64 * max 1 rev : Nat)).toNat }
  s.each [2 * h, 2 * h + 1] fun s n => s.modStream n fun st => { st with
    nextBit := st.nextBit.map fun k => (((k : Int) + roundDiv d 64) % ((max 1 rev : Nat) : Int)).toNat }

/-- Interpolated samples of a stream over `count` bit times from `first` on, oldest first; those it does not hold are zero. -/
def State.span (s : State) (n first count : Nat) : List Int :=
  let st := s.stream n
  let rev := bitsPerRev (s.headZone (n / 2))
  match st.nextBit with
  | none => List.replicate count 0
  | some next => (List.range count).map fun i =>
      let back := (next + 2 * rev - (first + i) % max 1 rev - 1) % max 1 rev
      st.out.getD back 0

/-- Erased blocks within a span of a stream, and whether a cut crosses it (R104, R121). -/
def State.spanLosses (s : State) (n first count : Nat) : Nat × Bool :=
  let st := s.stream n
  let rev := bitsPerRev (s.headZone (n / 2))
  match st.nextBit with
  | none => (0, !st.cuts.isEmpty)
  | some next =>
    let newest := (next + 2 * rev - (first + count) % max 1 rev) % max 1 rev
    let inside (i : Nat) : Bool := decide (newest ≤ st.outputs - i) && decide (st.outputs - i ≤ newest + count)
    ((st.erasedAt.filter inside).length, st.cuts.any inside)

/-! ### Samples into the rim (R98, R100, R104, R120) -/

/-- The 21 samples of a data block's body, earliest first: sample i in bits 127 - 6i to 122 - 6i, two's complement (R98). -/
def blockSamples (body : Nat) : List Int :=
  (List.range 21).map fun i =>
    let v : Nat := body / 2 ^ (122 - 6 * i) % 64
    if v < 32 then (v : Int) else (v : Int) - 64

/-- Whether a stream is detected: its head is admitted, or a calibration read or a lane check of the device's own wants a sector of its
track, outside the admission count (R140, R254, R443). -/
def State.readerOn (s : State) (n : Nat) : Bool :=
  (s.head (n / 2)).admitted || s.detect.reads.any fun d => (decide (d.purpose = 6) || decide (d.purpose = 7)) &&
    d.want.any fun x => decide (x.1 = n / 2) && decide (x.2.track = n % 2)

/-- A block of samples added to a reader link: data streams are interpolated where they are detected and their head has a count, reader
C of a head that is loaded feeds its clock count (R120, R134). -/
def State.addSamples (s : State) (link : Nat) (x : List Int) (erased : Bool) : State :=
  let h := link / 3
  let s := s.modRsl link fun r => { r with
    blocks := r.blocks + 1
    samples := (x.reverse ++ r.samples).take sampleRoom
    erased := if erased then (r.blocks :: r.erased).filter fun b => decide (r.blocks < b + sampleRoom / 21) else r.erased }
  if link % 3 = 2 then
    if s.nat (O.clockState + h) ≤ 1 then s else s.clockPeriod h
  else
    let n := 2 * h + link % 3
    let state := s.nat (O.clockState + h)
    if ¬ s.readerOn n ∨ state ≤ 1 ∨ state = 5 then s
    else
      let s := if erased then s.modStream n fun st => { st with
          erasedAt := (st.outputs :: st.erasedAt).filter fun i => decide (st.outputs < i + outRoom) } else s
      s.interpolateBlock n

/-- Blocks of a reader link erased: their samples are zero, and each is counted (R104). -/
def State.eraseBlocks (s : State) (link : Nat) : Nat → State
  | 0 => s
  | n + 1 =>
    let s := (s.bump (O.rslErasedBlocks + link)).addSamples link (List.replicate 21 0) true
    (s.modRsl link fun r => { r with eraseRun := r.eraseRun + 1 }).eraseBlocks link n

end Sys2Proof.Machine
end

