-- ==== Sys2Proof/Machine/ReadDetect.lean ====
section
/-! DEFINITION. Read detection and read recovery: framing, decoder turns, deferral, equaliser banks, pace and narrow
service, the retry ladder (R118 to R178). A sector event under a head that cannot be read does not occur (log entry 7). -/

namespace Sys2Proof.Machine

/-! ### Wants -/

/-- Reads that wait for the sector a stream passes: those of host commands with an operation in flight, and the device's own. -/
def State.wantsAt (s : State) (stream lane sector : Nat) : List SectorInFlight :=
  let here (x : SectorInFlight) : Bool := decide (x.lane = lane) && decide (x.track = stream % 2) && decide (x.sector = sector)
  let host := s.cmds.ctxs.flatMap fun c => (c.want.filter fun lba => s.opCovers c.port c.sqid c.cid lba).filterMap fun lba =>
    match s.readPlace c.nsid lba with
    | some (h, x) => if h = stream / 2 ∧ here x then
        some { x with port := c.port, sqid := c.sqid, cid := c.cid, paced := decide (c.kind = .read) } else none
    | none => none
  let own := s.detect.reads.flatMap fun d => (d.want.filter fun x => decide (x.1 = stream / 2) && here x.2).map fun x =>
    { x.2 with port := 3, sqid := d.purpose, cid := d.id, paced := false }
  (host ++ own).filter fun x => !s.underRead x

/-! ### Acquisition (R127, R129, R135) -/

/-- A head's count proven: Confirmed (R127, R131). -/
def State.confirm (s : State) (h : Nat) : State :=
  let s := s.setNat (O.clockState + h) 3
  s.modHead h fun x => { x with acquire := none, unhealthy := 0, validSince := none }

/-- Sectors on a track of the head's zone. -/
def State.trackSectors (s : State) (h : Nat) : Nat := (s.headZone h).sectorsPerTrack

/-- A mark accepted in Provisional: at the same offset as on the sector before, it confirms the head, whose count is
corrected by the offset (R127). -/
def State.acquireMark (s : State) (h sector : Nat) (offset : Int) : State :=
  match (s.head h).acquire with
  | some (n, o) =>
    if n = sector then s
    else if sector = (n + 1) % (max 1 (s.trackSectors h)) ∧ o = offset then (s.moveCount h (-(64 * offset))).confirm h
    else s.modHead h fun x => { x with acquire := some (sector, offset) }
  | none => s.modHead h fun x => { x with acquire := some (sector, offset) }

/-- The reader offset tracked from an accepted mark's fractional offset in sixty-fourths of a bit time (R135). A displaced mark that
the count overruled is an accepted mark here (log entry 112). -/
def State.trackOffset (s : State) (n : Nat) (frac : Int) : State :=
  let st := s.stream n
  let count := st.offsetSectors + 1
  let sum := st.offsetSum + frac
  if count < s.cfg (n / 2) O.offsetTrackSectors then
    s.modStream n fun st => { st with offsetSum := sum, offsetSectors := count }
  else
    let s := s.modStream n fun st => { st with offsetSum := 0, offsetSectors := 0 }
    if 16 * (count : Int) < sum then s.setObj (readerOffset n) (min 4096 (s.obj (readerOffset n) + 1))
    else if sum < -(16 * (count : Int)) then s.setObj (readerOffset n) (max (-4096) (s.obj (readerOffset n) - 1))
    else s

/-- The run of equal non-zero offsets of a stream; at OffsetRunLimit its Confirmed head goes back to Provisional
(R129). -/
def State.offsetRunOf (s : State) (n : Nat) (accepted : Bool) (b : Int) : State :=
  let st := s.stream n
  let run := if ¬ accepted ∨ b = 0 then 0 else if st.offsetLast = b then st.offsetRun + 1 else 1
  let s := s.modStream n fun st => { st with offsetLast := b, offsetRun := run }
  if s.cfg (n / 2) O.offsetRunLimit ≤ run ∧ s.nat (O.clockState + n / 2) = 3 then
    (s.modStream n fun st => { st with offsetRun := 0 }).provisional (n / 2)
  else s

/-! ### A sector under its reader (R104, R121, R152, R178) -/

/-- Bit time at which a sector of the head's zone starts on a lane, moved by `d` (R58). -/
def State.sectorBit (s : State) (h lane sector : Nat) (d : Int) : Nat :=
  let e := s.headZone h
  (((sectorStart e lane sector : Int) + d) % (max 1 (bitsPerRev e) : Nat)).toNat

/-- Whether the interpolator of a stream has given every sample of a span. -/
def State.spanHeld (s : State) (n first count : Nat) : Bool :=
  let st := s.stream n
  let rev := max 1 (bitsPerRev (s.headZone (n / 2)))
  match st.nextBit with
  | none => false
  | some next => decide ((next + 2 * rev - (first + count) % rev) % rev + count ≤ st.out.length)

/-- A sector with the samples of both readers over a span, and what detection works with there (R149, R178). The single-track mode
serves where the partner's link carries nothing (R144, log entry 113). -/
def State.captureAt (s : State) (stream : Nat) (x : SectorInFlight) (first count : Nat) : SectorInFlight :=
  let h := stream / 2
  let other := s.nat (O.rslState + 3 * h + (1 - stream % 2))
  { x with
    first := first, y0 := s.span (2 * h) first count, y1 := s.span (2 * h + 1) first count, zone := (s.head h).zone
    set0 := s.setNow (2 * h), set1 := s.setNow (2 * h + 1), single := !(decide (other = 3) || decide (other = 4)), known := none }

/-- Distances of the mark pattern around E, by position relative to E, in a captured span in which E lies 64 bit times after index
`at_` (R143, R152). -/
def SectorInFlight.marks (x : SectorInFlight) (tables : List Nat) (head window at_ : Nat) : List (Int × Nat) :=
  let bits := hardBits ((x.detection tables head).soft x.track x.single)
  let pattern := bitsOf 32 syncPattern
  (List.range (2 * window + 1)).map fun (i : Nat) =>
    (((i : Int) - window), bitDistance ((bits.drop (at_ + 64 + i - window : Nat)).take 32) pattern)

/-- A sector as it has passed its reader: with its erased blocks and its head's state; with its outcome already where samples are
lost or missing (R104, R121, R157). -/
def State.passed (s : State) (stream : Nat) (x : SectorInFlight) : SectorInFlight × Option Nat :=
  let h := stream / 2
  let state := s.nat (O.clockState + h)
  let start := s.sectorBit h x.lane x.sector 0
  let (erased, cut) := s.spanLosses stream start 37520
  ({ x with erased := erased, borrowed := decide (state = 4), acquire := decide (state = 2) },
   if 2 < erased ∨ cut ∨ ¬ s.spanHeld stream start 37520 then some 4 else none)

/-- A sector framed on its first read (R127, R152, R153): with its span and its mark; or with the outcome SampleLoss or NoSync.
`unmarked` stands for an injected missing mark (R488). -/
def State.frameHere (s : State) (stream : Nat) (x : SectorInFlight) (unmarked : Bool) : SectorInFlight × Option Nat :=
  let h := stream / 2
  let state := s.nat (O.clockState + h)
  match s.passed stream x with
  | (x, some o) => (x, some o)
  | (x, none) =>
    let pad := if state = 2 then s.cfg h O.acquireWindow else 0
    let wide := s.captureAt stream { x with framed := pad } (s.sectorBit h x.lane x.sector (-8 - pad)) (spanBits + 2 * pad)
    let marks := if unmarked then [] else wide.marks s.tables h (if state = 2 then pad else 6) (runInAt + pad)
    let near := (bestMark marks).getD (0, 32)
    let x := { x with offset := near.1, distance := near.2 }
    match frameSector state pad (decide (s.cfg h O.countFramingEnable = 1)) marks with
    | none => (x, some 5)
    | some (b, d, framed, early) =>
      let x := { x with offset := b, distance := d, countFramed := framed, earlyMark := early }
      if state = 2 then (s.captureAt stream { x with framed := 0 } (s.sectorBit h x.lane x.sector (b - 8)) spanBits, none)
      else (s.captureAt stream { x with framed := if framed || early then 0 else b } (s.sectorBit h x.lane x.sector (-8)) spanBits, none)

/-- Counts of sectors framed by count or under the early-mark rule (R154). -/
def State.countFraming (s : State) (stream : Nat) (x : SectorInFlight) : State :=
  let s := if x.countFramed then s.bump (O.countFramedSectors + stream) else s
  if x.earlyMark then s.bump (O.earlyMarkEvents + stream) else s

/-- Sectors in the capture slot of a stream: waiting for a deferred turn, or in the ladder on their capture or with passes there
(R149, R177, R178). -/
def State.slotLoad (s : State) (stream : Nat) : Nat :=
  (s.stream stream).backlog.length +
    (s.detect.ladders.filter fun l => l.slots.contains stream || (decide (l.stream = stream) && l.capture)).length

/-- One read of a framed sector: counted in pace, ended where it has an outcome, captured where its stream defers, else queued for
decoding (R148, R149, R151, R158). -/
def State.readSector (s : State) (stream : Nat) (x : SectorInFlight) (outcome : Option Nat) : State :=
  let x := { x with interval := s.detect.interval }
  let s := if x.paced then s.modHead (stream / 2) fun y => { y with presented := y.presented + 1 } else s
  match outcome with
  | some o => s.firstRead stream x o none
  | none =>
    if (s.stream stream).capturing then
      if s.slotLoad stream < s.nat O.captureSlotSectors then
        let x := { x with deferred := true, due := s.tick + 1000 * s.cfg (stream / 2) O.deferredDeadline }
        (s.bump (O.streamDeferredSectors + stream)).modStream stream fun st => { st with backlog := st.backlog ++ [x] }
      else s.firstRead stream x 6 none
    else s.queueCodeword stream { x with due := s.tick + s.cfg (stream / 2) O.decodeDeadline }

/-- Whether a stream is read: detected, its head loaded, in service, on the row, with a count (R120, R153, R253). -/
def State.streamRead (s : State) (n : Nat) : Bool :=
  let h := n / 2
  let state := s.nat (O.clockState + h)
  s.readerOn n && (s.head h).onRow && decide ((s.act (actOf h)).load = 2) && decide (2 ≤ state) && decide (state ≤ 4) &&
    !s.headFenced h

/-- SECTOR_FRAMED: a sector of the head's lane has passed under a stream's reader, its codeword's end on media being now; `frac` is
the fractional offset of its mark. It is framed, its mark proves or corrects the count, and each read that waits for it ends, is
captured or is queued (R104, R121, R127, R129, R135, R148 to R154, R158). The next sector boundary follows (R164). -/
def execSectorFramed (stream sector : Nat) (frac : Int) (s : State) : Host.Outcome State Fault Refusal :=
  let h := stream / 2
  .next (if ¬ s.streamRead stream ∨ s.trackSectors h ≤ sector then s
    else
      let lane := (s.head h).lane
      let wants := s.wantsAt stream lane sector
      let here : SectorInFlight :=
        { lba := 0, nsid := 0, lane := lane, track := stream % 2, sector := sector, port := 0, sqid := 0, cid := 0 }
      let (x, outcome) := s.frameHere stream here (s.detect.unmarked.contains stream)
      let s := { s with detect := { s.detect with unmarked := s.detect.unmarked.filter fun n => decide (n ≠ stream) } }
      let s := s.modStream stream fun st => { st with exitRun := st.exitRun + 1 }
      let framed := outcome.isNone
      let s := if framed ∧ wants ≠ [] then s.countFraming stream x else s
      let s := s.offsetRunOf stream (framed && !x.countFramed && !x.earlyMark) x.offset
      let s := if framed ∧ ¬ x.countFramed then s.trackOffset stream (clampInt (-32) 32 frac) else s
      let s := if framed ∧ x.acquire then s.acquireMark h sector x.offset else s
      (wants.foldl (fun (s : State) w => s.readSector stream { x with
        lba := w.lba, nsid := w.nsid, port := w.port, sqid := w.sqid, cid := w.cid, cellar := w.cellar, spare := w.spare
        paced := w.paced } outcome) s).boundary h)

/-! ### Decoder turns (R146 to R151) -/

/-- A turn's time, in ticks of the 100 MHz counter, credited to its stream (R147). -/
def creditTurn (time iterations : Nat) (st : Stream) : Stream :=
  { st with used := st.used + time, turns := st.turns + 1, iterations := st.iterations + iterations }

/-- A turn that ended after its deadline: counted and raised, its result kept (R151). -/
def State.lateTurn (s : State) (stream : Nat) (x : SectorInFlight) : State :=
  if x.due < s.tick then
    let s := s.bump O.lateTurns
    if x.deferred then s.deadlineMiss 5 43 stream x.due s.tick else s.deadlineMiss 4 42 stream x.due s.tick
  else s

/-- DECODER_TURN_END: a decoder's in-line turn ends after `time` ticks of the 100 MHz counter: it has converged or reached
IterLimit; the sector's outcome becomes final, Cancelled where its operation is gone, and the decoder takes the next work (R146 to
R151, R155, R156). -/
def execDecoderTurnEnd (decoder time : Nat) (s : State) : Host.Outcome State Fault Refusal :=
  .next (match s.detect.turns.find? fun t => decide (t.decoder = decoder) with
    | none => s
    | some t =>
      let s := { s with detect := { s.detect with turns := s.detect.turns.filter fun u => decide (u.decoder ≠ decoder) } }
      let r := t.sector.decode s.tables (t.stream / 2) (s.cfg (t.stream / 2) O.iterLimit)
      let s := (s.modStream t.stream (creditTurn time r.iterations)).lateTurn t.stream t.sector
      (s.firstRead t.stream t.sector (if t.sector.gone then 7 else turnOutcome t.sector r) (some r)).feedDecoders)

/-- DEFERRED_DECODE: a decoder with no in-line work decodes the oldest captured sector of a stream, with the bank at capture and the
partner's bits where that sector is Good, in `time` ticks of the 100 MHz counter; a turn that fails passes to the ladder with
its capture (R147, R150). -/
def execDeferredDecode (stream time : Nat) (s : State) : Host.Outcome State Fault Refusal :=
  .next (match (s.stream stream).backlog with
    | [] => s
    | x :: rest =>
      if s.freeDecoders = [] ∨ s.inlineWaits then s
      else
        let x := s.withKnown stream x
        let r := x.decode s.tables (stream / 2) (s.cfg (stream / 2) O.iterLimit)
        let s := s.modStream stream fun st => { creditTurn time r.iterations st with backlog := rest }
        (s.lateTurn stream x).firstRead stream x (turnOutcome x r) (some r))

/-- DEFERRAL_EXIT: a stream whose backlog is empty leaves deferral once the pool has not been saturated for
DeferExitSectors of its sector times; its slot is freed, or goes over to its sectors still in the ladder on their capture
(R149, R178). -/
def execDeferralExit (stream : Nat) (s : State) : Host.Outcome State Fault Refusal :=
  let st := s.stream stream
  .next (if ¬ st.capturing ∨ st.backlog ≠ [] ∨ st.exitRun < s.cfg (stream / 2) O.deferExitSectors then s
    else
      let held (l : Ladder) : Bool := decide (l.stream = stream) && l.capture
      let own (l : Ladder) : Ladder := if held l ∧ ¬ l.slots.contains stream then { l with slots := l.slots ++ [stream] } else l
      let s := s.modStream stream fun st => { st with capturing := false }
      let left := s.detect.captures.filter fun c => decide (c ≠ (1, stream))
      if s.detect.ladders.any held then
        { s with detect := { s.detect with
          ladders := s.detect.ladders.map own
          captures := if left.contains (2, stream) then left else left ++ [(2, stream)] } }
      else { s with detect := { s.detect with captures := left } })

/-- Decoders that fail their test codeword withdrawn, counted out of DecodersInService, and their source raised (R146). -/
def State.withdrawDecoders (s : State) (failed : List Nat) : State :=
  let bad := (failed.filter fun d => decide (d < 64) && !s.detect.withdrawn.contains d).dedup
  let s := { s with detect := { s.detect with withdrawn := s.detect.withdrawn ++ bad } }
  let s := s.setNat O.decodersInService (64 - s.detect.withdrawn.length)
  s.each bad fun s d => s.raiseFault 201 d

/-- DECODER_SELF_TEST: at power-up and every 24 h each decoder decodes its stored codeword; those whose number is in `failed` are
withdrawn (R146). -/
def execDecoderSelfTest (failed : List Nat) (s : State) : Host.Outcome State Fault Refusal :=
  let due : Bool := match s.detect.testedAt with
    | some t => decide (t + 86400000000 ≤ s.tick)
    | none => true
  .next (if ¬ due then s
    else ({ s with detect := { s.detect with testedAt := some s.tick } }).withdrawDecoders failed)

/-! ### The retry ladder (R166 to R178) -/

/-- Whether a pass of a ladder can be made now: its head can be read and is on the sector's lane, and its position and heater are
those the other ladders of the head need (R174, R175). -/
def State.passMay (s : State) (l : Ladder) (step : Nat) : Bool :=
  let h := l.stream / 2
  s.ladderHead l.stream && (s.head h).onRow && (s.head h).lead.isNone && decide ((s.head h).lane = l.sector.lane) &&
    s.detect.ladders.all fun m => decide (m.stream / 2 ≠ h) || decide (m.running < 4) || decide (m.running = step)

/-- Whether a ladder's step is running and need not wait (R173, R174). -/
def State.stepRuns (s : State) (l : Ladder) : Bool := decide (l.running ≠ 0) && decide (s.nextStep l = l.running) && s.ladderHead l.stream

/-- Whether the ladder may take its next step now: the step is the ladder's next, its deadline has not passed or the step already
runs, and, for a pass on media, the pass can be made (R173 to R175). -/
def State.stepMay (s : State) (l : Ladder) (step : Nat) : Bool :=
  decide (s.nextStep l = step) && (!s.ladderLate l || s.stepRuns l) && (decide (step = 1) || s.passMay l step)

/-- A ladder's turn on a captured sector; its time is credited to the stream (R146, R147). Turns of the ladder end at
LadderIterLimit (log entry 114). -/
def State.ladderTurn (s : State) (l : Ladder) (x : SectorInFlight) (time : Nat) : TurnResult × State :=
  let r := x.decode s.tables (l.stream / 2) l.config.iterLimit
  (r, s.modStream l.stream (creditTurn time r.iterations))

/-- LADDER_EXTENDED_DECODE: step 1, one turn at LadderIterLimit on the held codeword or the capture, on a decoder without
in-line work (R167). -/
def execLadderExtendedDecode (ladder time : Nat) (s : State) : Host.Outcome State Fault Refusal :=
  .next (match s.ladder? ladder with
    | none => s
    | some l =>
      if ¬ s.stepMay l 1 ∨ s.freeDecoders = [] ∨ s.inlineWaits then s
      else
        let (r, s) := s.ladderTurn l l.sector time
        s.ladderPass l 1 (turnOutcome l.sector r) (some r) true)

/-- Streams whose capture slots a ladder's step 2 still needs: its own, and the partner's unless that sector has ended Good; a slot
of the stream with room is shared (R168, R177). -/
def State.slotsNeeded (s : State) (l : Ladder) : List Nat :=
  let streams := if s.partnerGood l then [l.stream] else [l.stream, l.stream + 1 - 2 * (l.stream % 2)]
  streams.filter fun n => !(s.detect.captures.any (fun c => decide (c.2 = n)) && decide (s.slotLoad n < s.nat O.captureSlotSectors)) &&
    !l.slots.contains n

/-- A ladder's slots granted (R168, R177). -/
def State.grantSlots (s : State) (l : Ladder) : State :=
  let new := s.slotsNeeded l
  let streams := if s.partnerGood l then [l.stream] else [l.stream, l.stream + 1 - 2 * (l.stream % 2)]
  let s := { s with detect := { s.detect with captures := s.detect.captures ++ new.map fun n => (2, n) } }
  s.putLadder { l with slots := (l.slots ++ streams.filter fun n => !l.slots.contains n), waiting := false }

/-- A sector of a pass as steps 2 and 4 frame it, and where a second turn may frame it: in Confirmed at E whether or not a mark
qualifies, then at a mark elsewhere; in Borrowed under R153 (R168, R170). An outcome ends the pass without a turn. -/
def State.framePass (s : State) (l : Ladder) : SectorInFlight × Option Nat × Option Int :=
  let h := l.stream / 2
  let x := { l.sector with countFramed := false, earlyMark := false, offset := 0, distance := 32, deferred := false, framed := 0 }
  if s.nat (O.clockState + h) = 4 then
    let (x, o) := s.frameHere l.stream x false
    (x, o, none)
  else
    match s.passed l.stream x with
    | (x, some o) => (x, some o, none)
    | (x, none) =>
      let x := s.captureAt l.stream x (s.sectorBit h x.lane x.sector (-8)) spanBits
      let marks := x.marks s.tables h 6 runInAt
      let (b, d) := (bestMark marks).getD (0, 32)
      let mark := decide (d ≤ 3)
      let early := mark && decide (2 ≤ b.natAbs) && decide (markAtE marks ≤ 5)
      ({ x with offset := b, distance := d, earlyMark := early, countFramed := !early && !(mark && decide (b = 0)) }, none,
        if mark ∧ b ≠ 0 then some b else none)

/-- The turns of a pass framed as in step 2: the sector as its last turn framed it, the outcome, and that turn (R168, R170). -/
def State.passTurns (s : State) (l : Ladder) (time : Nat) : SectorInFlight × Nat × Option TurnResult × State :=
  let (x, o, second) := s.framePass l
  match o with
  | some o => (x, o, none, s)
  | none =>
    let x := s.withKnown l.stream x
    let (r, s) := s.ladderTurn l x time
    let out := turnOutcome x r
    match second with
    | some b =>
      if out = 0 ∨ out = 8 then (x, out, some r, s)
      else
        let y := { x with framed := b, countFramed := false, earlyMark := false }
        let (r, s) := s.ladderTurn l y 0
        (y, turnOutcome y r, some r, s)
    | none => (x, out, some r, s)

/-- LADDER_COUNT_FRAMED_REREAD: step 2. The sector is read again over its lane row, captured, framed at E or in Borrowed under R153,
and decoded in `time` ticks of the 100 MHz counter. Without its slots the request waits and is counted (R168, R177). -/
def execLadderCountFramedReread (ladder time : Nat) (s : State) : Host.Outcome State Fault Refusal :=
  .next (match s.ladder? ladder with
    | none => s
    | some l =>
      if ¬ s.stepMay l 2 then s
      else if s.capturesFree < (s.slotsNeeded l).length ∨
          s.detect.ladders.any (fun m => m.waiting && (decide (m.id < l.id) || !l.waiting) && decide (m.id ≠ l.id)) then
        if l.waiting then s else (s.bump O.captureWaits).putLadder { l with waiting := true }
      else
        let s := s.grantSlots l
        let l := (s.ladder? ladder).getD l
        let (x, o, r, s) := s.passTurns l time
        let s := if o = 4 ∨ o = 5 then s else s.countFraming l.stream x
        s.ladderPass { l with
          sector := x, passes := if o = 4 then 0 else 1, sum0 := x.y0, sum1 := x.y1, slips := s.nat (O.countSlips + l.stream / 2)
          confirmed := decide (s.nat (O.clockState + l.stream / 2) = 3) } 2 o r true)

/-- Rounded mean of sums over a number of passes. -/
def meanRow (passes : Nat) (sum : List Int) : List Int := sum.map fun v => roundDiv v passes

/-- The average of a ladder's passes as a sector, with the bank in force at the last pass and the partner's bits where it has ended
Good (R169). -/
def State.averaged (s : State) (l : Ladder) (x : SectorInFlight) : SectorInFlight :=
  s.withKnown l.stream { x with y0 := meanRow l.passes l.sum0, y1 := meanRow l.passes l.sum1 }

/-- One more pass added to a ladder's sums; passes before a slip of the count are discarded, and a pass with lost samples is not
added (R169, log entry 115). -/
def State.addPass (s : State) (l : Ladder) : Option (Ladder × SectorInFlight) :=
  let h := l.stream / 2
  match s.passed l.stream { l.sector with countFramed := true, earlyMark := false, offset := 0, distance := 32, framed := 0, deferred := false } with
  | (_, some _) => none
  | (x, none) =>
    let x := s.captureAt l.stream x (s.sectorBit h x.lane x.sector (-8)) spanBits
    let slips := s.nat (O.countSlips + h)
    if slips = l.slips ∧ l.passes ≠ 0 then
      some ({ l with passes := l.passes + 1, sum0 := addRows l.sum0 x.y0, sum1 := addRows l.sum1 x.y1 }, x)
    else some ({ l with passes := 1, sum0 := x.y0, sum1 := x.y1, slips := slips }, x)

/-- Whether a ladder averages with its group: a slot holds the sums of at most 1,024 spans, and those beyond wait for a pass of their
own (R383). -/
def State.averagesNow (s : State) (l : Ladder) : Bool :=
  decide (l.running = 3) ||
    decide ((s.detect.ladders.filter fun m => decide (m.stream = l.stream) && decide (m.running = 3)).length < 1024)

/-- LADDER_AVERAGING_PASS: step 3 adds a captured pass, aligned by the clock count, and decodes the average after 2, 4 and 8 passes,
up to AveragePasses (R169, R383). -/
def execLadderAveragingPass (ladder time : Nat) (s : State) : Host.Outcome State Fault Refusal :=
  .next (match s.ladder? ladder with
    | none => s
    | some l =>
      if ¬ s.stepMay l 3 ∨ ¬ s.averagesNow l then s
      else
        match s.addPass l with
        | none => s.putLadder { l with running := 3 }
        | some (l, x) =>
          if l.passes = 2 ∨ l.passes = 4 ∨ l.passes = 8 then
            let x := s.averaged l x
            let (r, s) := s.ladderTurn l x time
            s.ladderPass { l with sector := { x with y0 := l.sector.y0, y1 := l.sector.y1 } } 3 (turnOutcome x r) (some r)
              (decide (l.config.average ≤ l.passes))
          else s.putLadder { l with running := 3 })

/-- Offset of ladder step 4 as a set-point: OffsetStep percent of the track pitch in class-1 units (R170, R245). -/
def State.ladderOffset (s : State) (h : Nat) : Int :=
  (((s.headZone h).trackPitch * s.nat O.offsetStep * 2 ^ 30 / 320000000000 : Nat) : Int)

/-- Whether another ladder of a head is in a phase of a step. -/
def State.phaseTaken (s : State) (l : Ladder) (step sub : Nat) : Bool :=
  s.detect.ladders.any fun m => decide (m.id ≠ l.id) && decide (m.stream / 2 = l.stream / 2) && decide (m.running = step) && decide (m.sub = sub)

/-- LADDER_OFFSET_READ: step 4. First the inward offset is commanded, then a pass is read there and the outward one commanded, then
a pass is read there; each is framed and decoded on its own, and the offset is removed at the end (R170). Ladders of one head
share each offset (R175). -/
def execLadderOffsetRead (ladder time : Nat) (s : State) : Host.Outcome State Fault Refusal :=
  .next (match s.ladder? ladder with
    | none => s
    | some l =>
      let h := l.stream / 2
      if ¬ s.stepMay l 4 then s
      else if l.running ≠ 4 then
        if s.phaseTaken l 4 2 ∨ s.detect.ladders.any (fun m => decide (m.stream / 2 = h) && decide (m.running = 5)) then s
        else (s.setPoint (actOf h) (2 + h % 6) (s.ladderOffset h)).putLadder { l with running := 4, sub := 1, since := s.tick }
      else if l.sub = 1 then
        let (x, o, r, s) := s.passTurns l time
        let s := if s.phaseTaken l 4 1 then s else s.setPoint (actOf h) (2 + h % 6) (-(s.ladderOffset h))
        (s.countFraming l.stream x).ladderPass { l with sector := x, sub := 2, since := s.tick } 4 o r false
      else if s.phaseTaken l 4 1 then s
      else if assoc? s.rafter.setPoints (64 * actOf h + (2 + h % 6)) ≠ some (-(s.ladderOffset h)) then
        s.setPoint (actOf h) (2 + h % 6) (-(s.ladderOffset h))
      else
        let (x, o, r, s) := s.passTurns l time
        (s.countFraming l.stream x).ladderPass { l with sector := x } 4 o r true)

/-- LADDER_HEATER_STEP: step 5. The heater is raised to HeaterRead plus HeaterStepPower, at most HeaterWrite, and a live heater
calibration of the head is abandoned; after a revolution of settling two passes are read and their average decoded, and
HeaterRead is restored (R171). -/
def execLadderHeaterStep (ladder time : Nat) (s : State) : Host.Outcome State Fault Refusal :=
  .next (match s.ladder? ladder with
    | none => s
    | some l =>
      let h := l.stream / 2
      let e := s.headZone h
      if ¬ s.stepMay l 5 then s
      else if l.running ≠ 5 then
        if s.detect.ladders.any (fun m => decide (m.stream / 2 = h) && decide (m.running = 4)) then s
        else
          let s := s.modHead h fun x => { x with heaterCal := none }
          (s.writeHeater h (min e.heaterWrite (e.heaterRead + l.config.heaterStep))).putLadder
            { l with running := 5, sub := 0, since := s.tick, passes := 0, sum0 := [], sum1 := [] }
      else if s.tick < l.since + s.revolution then s
      else
        match s.addPass l with
        | none => s
        | some (l, x) =>
          if l.passes < 2 then s.putLadder l
          else
            let x := s.averaged l x
            if s.nat (O.clockState + h) = 4 then
              let (b, d) := (bestMark (x.marks s.tables h 6 runInAt)).getD (0, 32)
              let x := { x with offset := b, distance := d, countFramed := false, framed := b }
              if 3 < d then s.ladderPass { l with sector := x } 5 5 none true
              else
                let (r, s) := s.ladderTurn l x time
                s.ladderPass { l with sector := x } 5 (turnOutcome x r) (some r) true
            else
              let (r, s) := s.ladderTurn l x time
              s.ladderPass { l with sector := x } 5 (turnOutcome x r) (some r) true)

/-- LADDER_TIME_LIMIT: the ladder's deadline has passed and no step runs: no further one starts, and the sector goes to step 6
(R173, R174). -/
def execLadderTimeLimit (ladder : Nat) (s : State) : Host.Outcome State Fault Refusal :=
  .next (match s.ladder? ladder with
    | none => s
    | some l => if ¬ s.ladderLate l ∨ s.stepRuns l then s else s.unrecoverable l)

/-- CLOCK_WAIT_LIMIT: a ladder has waited ClockWaitLimit for the count of a Lost head, or of a head that is Off while
loaded; the sector goes to step 6 (R174). -/
def execClockWaitLimit (ladder : Nat) (s : State) : Host.Outcome State Fault Refusal :=
  .next (match s.ladder? ladder with
    | none => s
    | some l =>
      let h := l.stream / 2
      let state := s.nat (O.clockState + h)
      let waits := decide (state = 5) || (decide (state = 1) && decide ((s.act (actOf h)).load = 2))
      if ¬ waits ∨ s.tick < max l.entered (s.head h).lostAt + 1000 * l.config.clockWait then s
      else s.unrecoverable l)

/-- CAPTURE_SLOT_FREED: released slots go to the ladder request that has waited longest, before deferral, once every slot
it needs is free (R168, R177). -/
def execCaptureSlotFreed (s : State) : Host.Outcome State Fault Refusal :=
  .next (match s.detect.ladders.find? Ladder.waiting with
    | some l => if (s.slotsNeeded l).length ≤ s.capturesFree then s.grantSlots l else s
    | none => s)

/-! ### Equaliser and detector banks (R136 to R140) -/

/-- One more swap or reversion of a stream's zone (R165). The spec does not say what follows the greatest value: a free value
(log entry 4), here `f`. -/
def bumpZone (zone swaps reverts f : Nat) (l : List (Nat × Nat × Nat)) : List (Nat × Nat × Nat) :=
  let add (n d : Nat) : Nat := if n + d < 2 ^ 32 then n + d else f % 2 ^ 32
  match l with
  | [] => [(zone, swaps, reverts)]
  | (z, a, b) :: r => if z = zone then (z, add a swaps, add b reverts) :: r else (z, a, b) :: bumpZone zone swaps reverts f r

/-- New coefficients: each old one less the mean gradient over 2^EqStepShift, the change limited to EqTapStepLimit, within Q2.14.
The spec does not say how the quotient is rounded: a free value decides (log entry 2). -/
def newTaps (shift limit round : Nat) (old gradient : List Int) : List Int :=
  old.zipIdx.map fun x =>
    let g := gradient.getD x.2 0
    let q := g / (2 ^ shift : Nat)
    let up : Int := if g % (2 ^ shift : Nat) ≠ 0 ∧ round.testBit x.2 then 1 else 0
    clampInt (-32768) 32767 (x.1 - clampInt (-(limit : Int)) limit (q + up))

/-- The running block of a stream begun again. -/
def Stream.newBlock (st : Stream) : Stream := { st with blockSectors := 0, gradient := [], squares := 0, bits := 0 }

/-- EQ_ADAPT_BLOCK: EqBlockSectors Good sectors have accumulated the gradient of each coefficient and the squared error. A block after
a swap that is more than 10 % worse is swapped back; else new coefficients go to the inactive bank for a swap (R138, R140). -/
def execEqAdaptBlock (stream : Nat) (s : State) : Host.Outcome State Fault Refusal :=
  let st := s.stream stream
  let h := stream / 2
  .next (if ¬ s.adapts stream ∨ st.blockSectors < s.cfg h O.eqBlockSectors ∨ st.swap ≠ 0 then s
    else
      let zone := (s.head h).zone
      let error := st.squares / max 1 st.bits
      if st.checking ∧ 11 * st.lastError < 10 * error then
        let (f, s) := s.takeFree
        (s.bump (O.eqReverts + stream)).modStream stream fun st => { st.newBlock with
          checking := false, swap := 3, zoneSwaps := bumpZone zone 0 1 f st.zoneSwaps }
      else
        let (r, s) := s.takeFree
        let mean := st.gradient.map fun (g : Int) => g / ((max 1 st.bits : Nat) : Int)
        let taps := newTaps (s.cfg h O.eqStepShift) (s.cfg h O.eqTapStepLimit) r (s.bankTaps stream st.bank) mean
        s.modStream stream fun st => { st.newBlock with
          checking := false, lastError := error, swap := 1, taps := st.taps.set (1 - st.bank) taps })

/-- A stream's banks swapped at a boundary (R137): the set requested, or, where only the partner asked, the present set again. An
adaptation swap is counted and begins the block that is compared; a zone load and a swap back are not counted as swaps (R139, log
entry 116). `now` is the present set. -/
def swapBank (zone f : Nat) (now : List Int) (st : Stream) : Stream :=
  let st := if st.swap = 0 then { st with taps := st.taps.set (1 - st.bank) now } else { st.newBlock with checking := decide (st.swap = 1) }
  { st with
    bank := 1 - st.bank, swap := 0
    zoneSwaps := if st.swap = 1 then bumpZone zone 1 0 f st.zoneSwaps else st.zoneSwaps }

/-- Sector of its lane that a head's count lies in; none in the track gap or without a count (R58, R137). -/
def State.sectorNow (s : State) (h : Nat) : Option Nat :=
  let e := s.headZone h
  let rev := bitsPerRev e
  if rev = 0 then none
  else
    let n := ((s.head h).count / 64 + rev - sectorStart e (s.head h).lane 0 % rev) % rev / 37520
    if n < e.sectorsPerTrack then some n else none

/-- DETECTOR_BANK_SWAP: at the start of a sector the swaps requested on a head's two streams take effect together, on both streams and
on the joint detector's coefficients; one asked for in the track gap waits for sector 0 (R137, R139). -/
def execDetectorBankSwap (head sector : Nat) (s : State) : Host.Outcome State Fault Refusal :=
  let zone := (s.head head).zone
  let streams := [2 * head, 2 * head + 1]
  let asks (n : Nat) : Bool := decide ((s.stream n).swap ≠ 0) && (decide (s.nat O.updateState ≠ 3) || decide ((s.stream n).swap = 4))
  .next (if s.sectorNow head ≠ some sector ∨ ¬ streams.any asks then s
    else
      s.each streams fun s n =>
        let s := if (s.stream n).swap = 1 then s.bump (O.eqSwaps + n) else s
        let (f, s) := s.takeFree
        s.modStream n (swapBank zone f (s.setNow n)))

/-- The calibration results of a head as they are saved (R280). -/
def State.savedCal (s : State) (h : Nat) : SavedCal :=
  let x := s.head h
  let own := if h % 6 = 0 then [6, 7, 8] else []
  let slots := (h % 6 :: own).map (9 * actOf h + ·)
  { values := [O.maoStroke + h, O.readerOffsetD0 + h, O.readerOffsetD1 + h].map fun k => (k, s.obj k)
    cal := x.cal, trims := x.trims, rro := x.rro, rroBase := x.rroBase
    margins := x.margins, indexAngle := assoc? s.spindle.indexAngles h
    banks := slots.map fun n => (n, if s.nat (O.loopActiveBank + n) = 0 then (s.loop n).bank0 else (s.loop n).bank1) }

/-- The sets of every stream and the calibration results of every head written to the system areas of the loaded actuators'
surfaces (R139, R280). -/
def State.saveSets (s : State) : State :=
  let heads := (List.range s.headCount).filter fun h => decide ((s.act (actOf h)).load = 2) && decide (s.nat (O.headService + h) ≠ 3)
  let set (s : State) (n : Nat) : State :=
    let current := (64 * n + (s.head (n / 2)).zone, s.bankTaps n (s.stream n).bank)
    let others := (s.stream n).stored.map fun x => (64 * n + x.1, x.2)
    { s with detect := { s.detect with
        saved := (others ++ [current]).foldl (fun l x => putKey l x.1 x.2) s.detect.saved } }
  let s := s.each heads fun s h =>
    let s := { s with pos := { s.pos with saved := putKey s.pos.saved h (s.savedCal h) } }
    (s.each [2 * h, 2 * h + 1] set).systemWrite h 5 0 0 []
  { s with detect := { s.detect with savedAt := s.tick } }

/-- DETECTOR_SETS_SAVE: an hour after the last save, the equaliser and calibration sets are saved (R139). -/
def execDetectorSetsSave (s : State) : Host.Outcome State Fault Refusal :=
  .next (if s.tick < s.detect.savedAt + 3600000000 then s else s.saveSets)

/-- EQ_IDLE_CALIBRATION_READ: a stream without a Good sector for EqIdleLimit asks for a calibration read (R140). -/
def execEqIdleCalibrationRead (stream : Nat) (s : State) : Host.Outcome State Fault Refusal :=
  .next (if ¬ s.adapts stream ∨ s.tick < (s.stream stream).lastGood + 1000000 * s.nat O.eqIdleLimit ∨
      s.detect.calReads.contains stream then s
    else { s with detect := { s.detect with calReads := s.detect.calReads ++ [stream] } })

/-- A stream's sets back at the detector-table values for every zone (R139). -/
def tableSets (st : Stream) : Stream :=
  { st.newBlock with taps := [[], []], stored := [], swap := 0, checking := false }

/-- Every stream's and zone's sets back at the detector-table values (R139). -/
def State.restoreSets (s : State) : State :=
  { s with detect := { s.detect with streams := s.detect.streams.map tableSets, saved := [] } }

/-- EQ_RESTORE: a write of 1 to 3210h.06 (R139). -/
def execEqRestore (requester : Requester) (s : State) : Host.Outcome State Fault Refusal :=
  .next (s.writeVia requester O.eqRestore (.num 1 1) fun s => .ok s.restoreSets)

/-- OUTCOME_COUNTER_CLEAR: a write of 1 to 3250h.03 clears every stream's outcome counters (R164). -/
def execOutcomeCounterClear (requester : Requester) (s : State) : Host.Outcome State Fault Refusal :=
  .next (s.writeVia requester O.outcomeCounterClear (.num 1 1) fun s =>
    .ok { s with detect := { s.detect with streams := s.detect.streams.map fun (st : Stream) => { st with outcomes := [] } } })

/-! ### Pace and narrow service (R158 to R163) -/

/-- Whether a head's bit in NarrowHeadMask is set. -/
def State.narrow (s : State) (h : Nat) : Bool := (s.nat O.narrowHeadMask).testBit h

/-- 16 interval paces in 8 words, the latest in bits 15:0 of the first word (R493; the order is log entry 117). -/
def paceWords (paces : List Nat) : List Nat :=
  (List.range 8).map fun i => paces.getD (2 * i) 0 % 65536 + 65536 * (paces.getD (2 * i + 1) 0 % 65536)

/-- One raising of a head's pace source, with its last 16 interval paces (R163). -/
def State.raisePace (s : State) (h cause : Nat) : State := s.raiseWith (176 + h) cause false (paceWords (s.head h).paces)

/-- A head's interval closed with its pace (R158, R160, R162): its below-floor or recovery run is updated; entry is
counted and raised at once, the return waits for the stripe boundary. -/
def State.pacedInterval (s : State) (h : Nat) : State :=
  let x := s.head h
  let s := s.modHead h fun x => { x with presented := 0, completed := 0 }
  if s.headFenced h ∨ x.presented < s.nat O.paceMinSectors ∨ x.presented = 0 then s
  else
    let pace := 1000 * x.completed / x.presented
    let s := (s.setNat (O.headPace + h) pace).modHead h fun x => { x with paces := (pace :: x.paces).take 16 }
    let ms := s.nat O.paceInterval
    if s.narrow h then
      let run := if s.nat O.paceRecover ≤ pace ∧ ¬ x.narrowPending then s.nat (O.paceRun + h) + 1 else 0
      let s := s.setNat (O.paceRun + h) (min run 65535)
      if s.nat O.paceRecoverWindow < run * ms then s.modHead h fun x => { x with leavePending := true } else s
    else
      let run := if pace < s.nat O.paceFloor then s.nat (O.paceRun + h) + 1 else 0
      if s.nat O.paceWindow < run * ms ∧ s.nat O.narrowEnable = 1 then
        let s := (s.setNat (O.paceRun + h) 0).setNat O.narrowHeadMask (withBit (s.nat O.narrowHeadMask) h)
        let s := (s.modHead h fun x => { x with narrowPending := true, leavePending := false }).bump (O.narrowEntries + h)
        s.raisePace h 1
      else s.setNat (O.paceRun + h) (min run 65535)

/-- A stream's interval closed: its decoder time becomes that of the last PaceInterval (R147). -/
def paceStream (st : Stream) : Stream := { st with lastUsed := st.used, used := 0, turns := 0, iterations := 0 }

/-- PACE_INTERVAL_END: a PaceInterval after the last one ends for every head and stream (R147, R158 to R163). -/
def execPaceIntervalEnd (s : State) : Host.Outcome State Fault Refusal :=
  let ms := s.nat O.paceInterval
  .next (if s.tick < s.detect.paceStart + 1000 * ms then s
    else
      let used := (s.detect.streams.map Stream.used).sum
      let all := s.nat O.decodersInService * ms * 100000
      let s := s.setNat O.poolBusy (if all = 0 then 0 else min 1000 (used * 1000 / all))
      let s := s.each (List.range 48) fun s n =>
        let st := s.stream n
        s.setNat (O.streamMeanIterations + n) (if st.turns = 0 then 0 else st.iterations * 256 / st.turns)
      let s := { s with detect := { s.detect with
        paceStart := s.tick, interval := s.detect.interval + 1, streams := s.detect.streams.map paceStream } }
      s.each (List.range s.headCount) State.pacedInterval)

/-- NARROW_SERVICE_START: at the actuator's next stripe boundary after entry, narrow service begins (R160). -/
def execNarrowServiceStart (head : Nat) (s : State) : Host.Outcome State Fault Refusal :=
  .next (if s.narrow head then s.modHead head fun x => { x with narrowPending := false } else s)

/-- NARROW_SERVICE_END: at the actuator's next stripe boundary after recovery, the head returns to stripe-parallel
service: its bit clears, and the exit is counted and raised (R162, R163). -/
def execNarrowServiceEnd (head : Nat) (s : State) : Host.Outcome State Fault Refusal :=
  .next (if ¬ s.narrow head ∨ ¬ (s.head head).leavePending then s
    else
      let s := (s.setNat O.narrowHeadMask (withoutBit (s.nat O.narrowHeadMask) head)).setNat (O.paceRun + head) 0
      let s := (s.modHead head fun x => { x with narrowPending := false, leavePending := false }).bump (O.narrowExits + head)
      s.raisePace head 2)

/-- NARROW_ENABLE_WRITE: written 0, every narrow head returns at its next stripe boundary and no head enters while it
stays 0 (R162). -/
def execNarrowEnableWrite (requester : Requester) (value : Nat) (s : State) : Host.Outcome State Fault Refusal :=
  .next (s.writeVia requester O.narrowEnable (.num 1 value) fun s =>
    let s := s.setNat O.narrowEnable value
    .ok (if value = 0 then
        s.each ((List.range s.headCount).filter s.narrow) fun s h => s.modHead h fun x => { x with leavePending := true }
      else s))

/-- Every head's pace runs restart from zero (R159). -/
def State.restartPace (s : State) : State := s.each (List.range s.headCount) fun s h => s.setNat (O.paceRun + h) 0

/-- PACE_INTERVAL_WRITE: a write to PaceInterval restarts every head's pace runs (R159). -/
def execPaceIntervalWrite (requester : Requester) (value : Nat) (s : State) : Host.Outcome State Fault Refusal :=
  .next (s.writeVia requester O.paceInterval (.num 1 value) fun s => .ok (s.setNat O.paceInterval value).restartPace)

/-- ACQUISITION_TIMEOUT: a head still Provisional 1.25 revolutions after it became so has an unhealthy reader C (R127,
R130). -/
def execAcquisitionTimeout (head : Nat) (s : State) : Host.Outcome State Fault Refusal :=
  .next (if s.nat (O.clockState + head) = 2 ∧ (s.head head).provisionalAt + s.revolution * 5 / 4 ≤ s.tick then
      s.unhealthyC head 4
    else s)

end Sys2Proof.Machine
end

