-- ==== Sys2Proof/Machine/Chunks.lean ====
section
/-! DEFINITION. Chunks, slots and lanes on their way to media: the sectors they are made of, what a sector of a surface holds, and what
follows once they are written or have failed (R53, R54, R55, R58, R68, R71, R110, R183, R186, R190, R193, R364 to R366). -/

namespace Sys2Proof.Machine

/-! ### Sectors -/

/-- Flags of a sector written (R54). -/
def sectorFlags (cellar spare zero restocked : Bool) : Nat :=
  4096 + (if cellar then 16 else 0) + (if spare then 8 else 0) + (if zero then 4 else 0) + (if restocked then 1 else 0)

/-- Track and sector of the i-th sector of a chunk or slot: a chunk may go on from T0 to T1 (R44). -/
def State.sectorPlace (s : State) (w : ChunkWrite) (i : Nat) : Nat × Nat :=
  let per := ((s.zoneOfLane w.head w.lane).map fun z => z.2.sectorsPerTrack).getD 0
  if per = 0 then (w.track, w.sector + i) else ((w.track + (w.sector + i) / per) % 2, (w.sector + i) % per)

/-- The slot a staged chunk write belongs to. -/
def State.slotOf (s : State) (w : ChunkWrite) : Option CellarSlot :=
  s.cmds.slots.find? fun c => decide (c.act = actOf w.head) && decide (c.seq = w.slotSeq)

/-- The i-th sector of a home chunk, with the entry's next generation (R53, R54, R190). -/
def State.homeSector (s : State) (w : ChunkWrite) (i : Nat) : SectorOut :=
  let (track, sector) := s.sectorPlace w i
  { lane := w.lane, track := track, sector := sector, lba := w.lba + i, gen := ((s.entry w.head w.stripe).gen + 1) % 65536
    flags := sectorFlags false w.spare (w.zeroes.testBit i) w.restocked, data := w.data.getD i 0 }

/-- The i-th sector of a Cellar slot: its data, then the commit-record copies (R53, R54, R364, R195). -/
def State.slotSector (s : State) (w : ChunkWrite) (c : CellarSlot) (i : Nat) : SectorOut :=
  let (track, sector) := s.sectorPlace w i
  let data := decide (i < w.total)
  { lane := w.lane, track := track, sector := sector
    lba := if data then w.lba + i else 14 * 2 ^ 44 + (c.first + i)
    gen := if ¬ data then 0 else if (w.lba + i) / 64 = w.lba / 64 then c.gen1 else c.gen2
    flags := sectorFlags true w.spare (data && w.zeroes.testBit i) false
    data := if data then w.data.getD i 0 else commitRecord c (i - w.total + 1) }

/-- Every sector of a chunk write in recording order. -/
def State.sectorsOf (s : State) (w : ChunkWrite) : List SectorOut :=
  if 3 ≤ w.kind then w.sectors
  else if w.kind = 1 then
    match s.slotOf w with
    | some c => (List.range (w.total + 2)).map (s.slotSector w c)
    | none => []
  else (List.range w.total).map (s.homeSector w)

/-- Sectors of a row that follow one another on one track. -/
def runLength : List SectorOut → Nat
  | [] => 0
  | a :: r => 1 + (r.zipIdx.takeWhile fun b => decide (b.1.track = a.track) && decide (b.1.sector = a.sector + 1 + b.2)).length

/-! ### What a sector of a surface holds (R55, R58, R68, R71) -/

/-- Lane offset that a lane serves in its zone: its own unless it has been remapped, or the one its spare is mapped to; and whether it
is a spare (R71). -/
def State.servedOffset (s : State) (surface lane : Nat) : Option (Nat × ZoneEntry × Nat × Bool) :=
  match s.zoneOfLane surface lane with
  | none => none
  | some (z, e) =>
    let spares := e.firstLane + e.laneCount - e.spareLanes
    if lane < spares then
      if (s.resolveSpare e surface z (lane - e.firstLane)).2 then none else some (z, e, lane - e.firstLane, false)
    else
      match (s.spareTable surface z).bind fun t => t.entries[lane - spares]? with
      | some p => if p.state = 1 then some (z, e, p.laneOffset, true) else none
      | none => none

/-- Ring of a surface's Cellar lanes in a zone (R363). -/
def State.ringOf (s : State) (surface z : Nat) : Nat :=
  let before := match s.zoneTable surface with
    | some t => ((t.entries.take z).filter fun e => decide (0 < e.cellarLanes)).length
    | none => 0
  6 * before + surface % 6

/-- The slot that holds a position of a ring: the latest one that is neither abandoned nor retired (R366, R367). -/
def State.slotAt (s : State) (a ring pos : Nat) : Option CellarSlot :=
  (s.cmds.slots.filter fun c => decide (c.act = a) && decide (c.ring = ring) && c.live && decide (c.first ≤ pos) &&
    decide (pos < c.first + c.count + 2)).getLast?

/-- What a sector of a surface is expected to hold, by the maps in force: namespace and place with its Lba; none where it holds nothing
the device serves (R55, R58, R79). -/
def State.expectedAt (s : State) (surface lane track sector : Nat) : Option SectorInFlight :=
  match s.servedOffset surface lane with
  | none => none
  | some (z, e, x, spare) =>
    let at_ (nsid lba : Nat) (cellar : Bool) : SectorInFlight :=
      { lba := lba, nsid := nsid, lane := lane, track := track, sector := sector, port := 0, sqid := 0, cid := 0
        cellar := cellar, spare := spare }
    let k := track * e.sectorsPerTrack + sector
    if x < e.cellarLanes then
      let pos := 2 * e.sectorsPerTrack * x + k
      (s.slotAt (actOf surface) (s.ringOf surface z) pos).map fun c =>
        if pos < c.first + c.count then at_ c.nsid (c.lba + (pos - c.first)) true else at_ 0 (14 * 2 ^ 44 + pos) true
    else
      match s.zoneTable surface with
      | none => none
      | some t =>
        let before := ((t.entries.take z).map fun e => dataLanes e * perLane e).sum
        let (nsid, lba) := s.chunkLba surface (before + (x - e.cellarLanes) * perLane e + k / 64)
        if s.mapped (actOf surface) ∧ k / 64 < perLane e ∧ lba + k % 64 < s.nsCapacity nsid then some (at_ nsid (lba + k % 64) false)
        else none

/-- Write generation that a sector carries by what the device holds: its slot's, or its chunk's ledger entry (R56, R189, R195). -/
def State.heldGeneration (s : State) (surface : Nat) (x : SectorInFlight) : Nat :=
  if x.cellar then
    match s.slotFor x.nsid x.lba with
    | some c => if x.lba / 64 = c.lba / 64 then c.gen1 else c.gen2
    | none => 0
  else (s.entry surface (s.homeChunk x.nsid x.lba).2).gen

/-! ### Ends of chunks -/

/-- State with a chunk write taken out. -/
def State.dropChunk (s : State) (w : ChunkWrite) : State := s.dropChunks fun c => c.same w

/-- Commands whose data a chunk holds. -/
def State.chunkOwners (s : State) (w : ChunkWrite) : List (Nat × Nat × Nat) :=
  if w.kind = 1 then
    match s.slotOf w with
    | some c => [(c.port, c.sqid, c.cid)]
    | none => []
  else ((s.larder.buffers.find? fun b => decide (b.age = w.buffer)).map MergeBuffer.owners).getD []

/-- A command's operation on a chunk taken out of the ones in flight (R357). -/
def State.opDone (s : State) (p q i : Nat) (chunk : Option Nat) : State :=
  let mine (o : MediaOp) : Bool := decide (o.port = p) && decide (o.sqid = q) && decide (o.cid = i) && o.isWrite &&
    (match chunk with
      | some k => decide (o.lba / 64 = k)
      | none => true)
  { s with cmds := { s.cmds with ops := s.cmds.ops.filter fun o => !mine o } }

/-- A chunk of a command ended with a status, the first status other than success being the command's (R359, R360). -/
def State.ownerChunk (s : State) (o : Nat × Nat × Nat) (chunk : Nat) (status : Nat × Nat) : State :=
  let (p, q, i) := o
  let s := s.opDone p q i (some chunk)
  let s := s.modCtx p q i fun c => { c with
    chunks := c.chunks.filter (fun k => decide (k ≠ chunk)), unopened := c.unopened.filter (fun k => decide (k ≠ chunk))
    status := if c.status = (0, 0) then status else c.status }
  s.writeDone p q i

/-- Refreshes of some sectors ended: their captures are released (R176, R178). -/
def State.endRefreshes (s : State) (nsid first count : Nat) : State :=
  let hit (r : Refresh) : Bool := decide (r.nsid = nsid) && decide (first ≤ r.lba) && decide (r.lba < first + count)
  let gone := s.detect.refreshes.filter hit
  let s : State := { s with detect := { s.detect with refreshes := s.detect.refreshes.filter fun r => !hit r } }
  (gone.flatMap Refresh.slots).foldl State.freeCapture s

/-- What restocking or refreshing a home chunk holds is given back: its refreshes end and its entry is released (R176, R366). -/
def State.homeEnded (s : State) (w : ChunkWrite) : State :=
  (s.endRefreshes w.nsid w.lba 64).releaseLock (.restock w.nsid (w.lba / 64))

/-- A home chunk on media, verified where verify is on: its buffer is clean, every slot it restocks is told, and its
commands lose the chunk (R360, R366, R397). -/
def State.chunkLanded (s : State) (w : ChunkWrite) : State :=
  let owners := s.chunkOwners w
  let s := (s.dropChunk w).modBuffer w.buffer fun b => { b with clean := true, owners := [], full := false }
  let s := if w.kind = 2 ∧ w.restocked then s.bump O.chunksRestocked else s
  let s := (s.chunkRestocked w.nsid (w.lba / 64)).homeEnded w
  owners.foldl (fun (s : State) o => s.ownerChunk o (w.lba / 64) (0, 0)) s

/-- A chunk's ledger entry set untrusted (R186, R193). -/
def State.distrust (s : State) (w : ChunkWrite) : State :=
  s.setEntry w.head w.stripe { s.entry w.head w.stripe with trusted := false }

/-- A home chunk that could not be written (R186, R198): counted and raised, its entry untrusted, its commands end in
Write Fault. -/
def State.chunkFailed (s : State) (w : ChunkWrite) : State :=
  let owners := s.chunkOwners w
  let s := (((s.bump (O.writeFailures + w.head)).raiseFault 208 w.head).distrust w).dropChunk w
  let s := { s with larder := { s.larder with buffers := s.larder.buffers.filter fun b => decide (b.age ≠ w.buffer) } }
  owners.foldl (fun (s : State) o => s.ownerChunk o (w.lba / 64) (2, 0x80)) (if w.kind = 2 then s.homeEnded w else s)

/-- Stage 3 of an atomic write (R365): the map points at the slot, an earlier slot of the same write is superseded, and
the command completes. -/
def State.flipSlot (s : State) (w : ChunkWrite) (urgent : Bool) : State :=
  match s.slotOf w with
  | none => s.dropChunk w
  | some c =>
    let old (x : CellarSlot) : CellarSlot :=
      if x.port = c.port ∧ x.sqid = c.sqid ∧ x.cid = c.cid ∧ x.failed ∧ x.stage = 2 then { x with stage := 3 } else x
    let s := { s with cmds := { s.cmds with slots := s.cmds.slots.map old } }
    let s := (s.dropChunk w).modSlot c.act c.seq fun x => { x with stage := 3, copies := max x.copies 1, urgent := urgent }
    let s := (s.endRefreshes c.nsid c.lba c.count).opDone c.port c.sqid c.cid none
    (s.modCtx c.port c.sqid c.cid fun x => { x with chunks := [] }).writeDone c.port c.sqid c.cid

/-- An atomic write whose slot failed: staged again in a second slot, or Write Fault where this was the second (R365). -/
def State.stageAgain (s : State) (c : CellarSlot) : State :=
  let s := s.modCtx c.port c.sqid c.cid fun x => { x with failedSectors := x.failedSectors + 1 }
  if c.second then
    let s := s.opDone c.port c.sqid c.cid none
    let s := (s.bump (O.writeFailures + (6 * c.act + c.ring % 6))).raiseFault 208 (6 * c.act + c.ring % 6)
    (s.modCtx c.port c.sqid c.cid fun x => { x with chunks := [], status := (2, 0x80) }).writeDone c.port c.sqid c.cid
  else s

/-- The remap under way of a lane. -/
def State.remap? (s : State) (surface zone offset : Nat) : Option Remap :=
  s.layout.remaps.find? fun r => decide (r.surface = surface) && decide (r.zone = zone) && decide (r.offset = offset)

/-- A remap moved to a stage. -/
def State.remapStage (s : State) (surface zone offset stage : Nat) : State :=
  { s with layout := { s.layout with remaps := s.layout.remaps.map fun r =>
    if r.surface = surface ∧ r.zone = zone ∧ r.offset = offset then { r with stage := stage } else r } }

/-- A mixed chunk levelled: its entry takes the most advanced value, counted (R193). -/
def State.chunkLevelled (s : State) (w : ChunkWrite) : State :=
  let s := match w.sectors.head? with
    | some o => s.setEntry w.head w.stripe { gen := o.gen, trusted := true }
    | none => s
  (s.bump O.ledgerLevelledChunks).dropChunk w

/-- Every sector of a chunk write is written; after a power loss nothing waits for its verify (R73, R190, R193, R196, R365, R370). -/
def State.chunkWritten (s : State) (w : ChunkWrite) : State :=
  let w : ChunkWrite := { w with cut := false }
  if w.kind = 1 then
    if w.verify ∧ ¬ s.spindle.powerLost then s.putChunk { w with verifying := true } else s.flipSlot w false
  else if w.kind = 3 then
    if w.verify then s.putChunk { w with verifying := true } else s.chunkLevelled w
  else if w.kind = 4 then (s.remapStage w.head (w.lba / 2 ^ 32) (w.lba % 2 ^ 32) 3).dropChunk w
  else
    let s := s.setEntry w.head w.stripe { gen := ((s.entry w.head w.stripe).gen + 1) % 65536, trusted := true }
    if w.verify ∧ ¬ s.spindle.powerLost then s.putChunk { w with verifying := true } else s.chunkLanded w

/-- The bursts of a head that have ended, once a status frame shows no failed write: a chunk write all of whose sectors are written
goes on (R110, R190). -/
def State.proveBursts (s : State) (h : Nat) : State :=
  (s.write.chunks.filter fun w => decide (w.head = h) && w.ended).foldl (fun (s : State) w =>
    let w : ChunkWrite := { w with ended := false }
    let s := s.putChunk w
    if w.written = w.total + w.copies then s.chunkWritten w else s) s

end Sys2Proof.Machine
end

