-- ==== Sys2Proof/Machine/HeadLinks.lean ====
section
/-! DEFINITION. The head links: status frames and fault flags, register accesses, reader links, training, losses (R86 to
R117). An event of a link that the variant does not have, or whose condition does not hold, does not occur (log
entry 7). -/

namespace Sys2Proof.Machine

/-! ### Losses (R114, R115) -/

/-- An actuator none of whose heads has a reader C any more: safe-parked and fenced (R115). -/
def State.checkPosition (s : State) (a : Nat) : State :=
  let lost (h : Nat) : Bool :=
    decide ((s.head h).unhealthy ≠ 0) || decide (s.nat (O.headService + h) = 3) || decide (s.nat (O.clockState + h) ≤ 1)
  if (s.act a).load = 2 ∧ (headsOf a).all lost then (s.fenceAct a 3).endFencedIo else s

/-- The reader links of a head leaving service for training: what its streams receive loses its place, its clock is to be borrowed,
and its three links train together (R105, R107). -/
def State.retrainHead (s : State) (h : Nat) (also : Option Nat) : State :=
  (((s.each [2 * h, 2 * h + 1] State.cutStream).unhealthyC h 3).trainHead h also).checkPosition (actOf h)

/-- What a lost reader link, or a reader open or short, does at once (R107, R114): a data stream's sectors in flight end
SampleLoss; reader C leaves its head on borrowed clock and read-only. -/
def State.readerLost (s : State) (n cause : Nat) : State :=
  let h := n / 3
  let s := s.raiseFault (64 + n) cause
  if n % 3 = 2 then s.unhealthyC h 3 else s.cutStream (2 * h + n % 3)

/-- A reader link that lost block lock: retrained at once (R107, R114). -/
def State.loseReader (s : State) (n cause : Nat) : State := (s.readerLost n cause).retrainHead (n / 3) (some n)

/-- What a writer or heater flag of a head does at once (R114): the burst failed, the head read-only, a heater fault's heater at
0. -/
def State.writerFlag (s : State) (h cause : Nat) : State :=
  let s := (s.failBurst h).modWrl h fun w => { w with readOnly := true }
  let s := if cause = 4 then s.writeHeater h 0 else s
  (s.refreshHead h).raiseFault (136 + h) cause

/-- The test burst after a writer or heater flag, in Mode 11b with the checker enabled: PRBS-15 over 2^17 bits at the setting in use
(R114, log entry 105). -/
def State.testBurst (s : State) (h : Nat) : State :=
  let s := (s.setNat (O.wrlState + h) 2).modWrl h fun w => { w with
    testing := true, trainingEnd := s.tick + 2000, checks := [], due := false }
  let s := (s.pclWrite h 0x04 0x0B).readChecks h
  (s.emit (.wrlPattern h (s.wrl h).deEmphasis (2 ^ 17) (s.firstZoneRate h))).readChecks h

/-- Arm misses among the last 16 bursts. -/
def Wrl.misses (w : Wrl) : Nat := (w.arms.filter id).length

/-- An arm miss of a head's burst (R109, R111): counted; the burst is a failed write; two in 16 bursts retrain the
link before the head's next write. -/
def State.armMiss (s : State) (h : Nat) : State :=
  let s := (s.bump (O.wrlArmMisses + h)).failBurst h
  let s := s.modWrl h fun w => { w with arms := (true :: w.arms.tail).take 16 }
  if 2 ≤ (s.wrl h).misses then (s.raiseFault (136 + h) 2).askWrl h else s

/-- Every link of a preamplifier's heads lost with its PLL or its thermal shutdown (R114). -/
def State.loseChip (s : State) (k cause : Nat) : State :=
  let s := s.raiseFault (160 + k) cause
  let s := s.modPcl k fun c => { c with recovering := true, broughtUp := false, phase := 4 }
  let s := (s.each (headsOfPcl k) fun s h =>
    let s := (s.failBurst h).modWrl h fun w => { w with readOnly := true }
    (((s.cutStream (2 * h)).cutStream (2 * h + 1)).unhealthyC h 3).refreshHead h).linksDown k
  s.checkPosition (k / 2)

/-- A control link whose upstream is lost (R90, R114): the chip's writer links go to electrical idle, its heads are
read-only, the reader links keep streaming, and the link relocks. A run of 3141h among the accesses fails: with `reason`
where it is the access of tag `failed`, else with PCL not active (R117). -/
def State.losePcl (s : State) (k reason : Nat) (failed : Option Nat) : State :=
  let c := s.pcl k
  let s := (c.outstanding ++ c.queue).foldl (fun (s : State) a =>
    s.endAccessRun a (if failed = some a.tag ∧ c.outstanding.contains a then reason else 1)) s
  let s := (s.setNat (O.pclState + k) 2).modPcl k fun c => { c with
    locked := false, goodRun := 0, upstreamLost := true, lastValid := s.tick, attempts := 0, outstanding := []
    queue := (c.outstanding ++ c.queue).filter fun a => !a.run }
  let s := s.raiseFault (160 + k) 1
  let s := s.each (headsOfPcl k) fun s h =>
    ((s.failBurst h).modWrl h fun w => { w with readOnly := true }).refreshHead h
  s.checkPosition (k / 2)

/-- The heads of a preamplifier fenced (R114). -/
def State.fenceChip (s : State) (k : Nat) : State := (s.each (headsOfPcl k) fun s h => s.fenceHead h 1).endFencedIo

/-! ### Upstream frames (R87 to R89, R96) -/

/-- Fields of a control-link frame (R87, R88). -/
def frameType (f : Nat) : Nat := f / 2 ^ 52 % 16
def frameHead (f : Nat) : Nat := f / 2 ^ 50 % 4
def frameSummary (f : Nat) : Nat := f / 2 ^ 46 % 16
def frameAddress (f : Nat) : Nat := f / 2 ^ 38 % 256
def frameData (f : Nat) : Nat := f / 2 ^ 22 % 65536
def frameTag (f : Nat) : Nat := f / 2 ^ 14 % 256

/-- Whether an upstream frame has the correct Sync and CRC (R88, R89). -/
def frameValid (f : Nat) : Bool := decide (f / 2 ^ 56 = 0x5A) && decide (f % 256 = crc8 f)

/-- Reaction to the flags newly latched in a head's HeadStatus (R96, R114); they are cleared once the immediate reactions are
complete, and recovery follows: retraining, or a test burst. -/
def State.headFlags (s : State) (h new : Nat) : State :=
  let any (m : Nat) : Bool := decide (new &&& m ≠ 0)
  let s := if any 0x003 then s.readerLost (3 * h) 4 else s
  let s := if any 0x00C then s.readerLost (3 * h + 1) 4 else s
  let s := if any 0x030 then s.readerLost (3 * h + 2) 4 else s
  let s := if any 0x0C0 then s.writerFlag h 3 else s
  let s := if any 0x100 then s.writerFlag h 4 else s
  let s := if any 0x3FF then s.pclWrite h 0x02 (new &&& 0x3FF) else s
  let s := if any 0x200 then s.armMiss h else s
  if any 0x03F then
    let s := s.modWrl h fun w => { w with due := w.due || any 0x1C0, testing := any 0x1C0 }
    s.retrainHead h none
  else if any 0x1C0 then s.testBurst h
  else s

/-- The shadows of a preamplifier's registers written again (R91). -/
def State.restoreShadow (s : State) (k : Nat) : State :=
  let s := s.modPcl k fun c => { c with restoring := true, restorePending := false }
  (s.pcl k).shadow.foldl (fun (s : State) x => s.pclAsk k 1 (x.1 / 32) (x.1 % 32) x.2 false) s

/-- Writes of a relocked preamplifier's heads restored where no reset occurred (R114). -/
def State.restoreWrites (s : State) (k : Nat) : State :=
  let s := s.modPcl k fun c => { c with restorePending := false }
  s.each (headsOfPcl k) fun s h =>
    if s.nat (O.wrlState + h) = 3 ∧ ¬ (s.wrl h).testing then
      (s.modWrl h fun w => { w with readOnly := false }).refreshHead h
    else s

/-- Reaction to a chip status (R96, R114). -/
def State.chipFlags (s : State) (k data new : Nat) : State :=
  let s := if new &&& 1 ≠ 0 then s.loseChip k 2 else if new &&& 8 ≠ 0 then s.loseChip k 3 else s
  let warned := data &&& 6
  let s := if warned ≠ 0 then
      let s := s.modPcl k fun c => { c with warning := warned, clearSince := none }
      if new &&& 4 ≠ 0 then s.raiseFault (168 + k) 1 else if new &&& 2 ≠ 0 then s.raiseFault (168 + k) 2 else s
    else if (s.pcl k).warning ≠ 0 then s.modPcl k fun c => { c with warning := 0, clearSince := some s.tick }
    else s
  let s := if warned ≠ 0 then s.each (headsOfPcl k) State.closeGate else s
  let s := if new &&& 0x1F ≠ 0 then s.pclAsk k 1 3 0x02 (new &&& 0x1F) false else s
  if (s.pcl k).phase = 4 ∧ data &&& 9 = 0 then s.bringUp k
  else
    let c := s.pcl k
    if data.testBit 15 ∧ ¬ c.restoring ∧ (c.restorePending ∨ c.broughtUp) then (s.restoreShadow k).trainChip k
    else if c.restorePending then s.restoreWrites k
    else s

/-- A head's bursts that are open or await their status frame marked as flagged by a Summary bit, or every mark taken off (R96,
R110). -/
def State.flagBursts (s : State) (h : Nat) (on : Bool) : State :=
  let flag (w : ChunkWrite) : ChunkWrite := if w.head = h ∧ (w.open_ ∨ w.ended ∨ ¬ on) then { w with flagged := on } else w
  let s := s.modWrl h fun w => { w with flagged := on }
  { s with write := { s.write with chunks := s.write.chunks.map flag } }

/-- The Summary of an upstream frame (R88, R96): a bit that sets closes the gate of its head's open burst. -/
def State.takeSummary (s : State) (k summary : Nat) : State :=
  let old := (s.pcl k).summary
  let s := s.modPcl k fun c => { c with summary := summary }
  s.each [0, 1, 2] fun s i =>
    if summary.testBit i ∧ ¬ old.testBit i then (s.flagBursts (3 * k + i) true).closeGate (3 * k + i) else s

/-- The content of a status frame: HeadStatus of local head 0 to 2, or ChipStatus (R96). A gate that a Summary bit closed may open
again once the content has been dealt with. -/
def State.takeStatus (s : State) (k scope data : Nat) : State :=
  if scope = 3 then
    let old := s.nat (O.chipStatusLatched + k)
    (s.setNat (O.chipStatusLatched + k) data).chipFlags k data (data &&& (data ^^^ old))
  else
    let h := 3 * k + scope
    let old := s.nat (O.headStatusLatched + h)
    let s := (s.setNat (O.headStatusLatched + h) data).headFlags h (data &&& (data ^^^ old))
    s.flagBursts h false

/-- The device's own frame of a slot: an idle one where no request has gone out since the last (R87, R89). -/
def State.frameSlot (s : State) (k : Nat) : State :=
  let s := if (s.pcl k).idle then s.emit (idleFrame k) else s
  s.modPcl k fun c => { c with idle := true }

/-- A lane that has seen eight valid frames in a row: locked (R89, R112, R114). -/
def State.lockPcl (s : State) (k : Nat) : State :=
  let lost := (s.pcl k).upstreamLost
  let s := s.modPcl k fun c => { c with locked := true, attempts := 0 }
  if lost then
    let s := (s.setNat (O.pclState + k) 3).modPcl k fun c => { c with upstreamLost := false, restorePending := true }
    (s.endCondition (160 + k)).pclIssue k
  else s.afterLock k

/-- An upstream frame of a control link (R88, R89, R96): one without the correct Sync and CRC is counted and breaks the run towards
lock; a valid one of Type `type` counts towards it, and on a locked lane brings its Summary and then what `act` does. A frame
of another Type is none of this event. Frames before the end of the 200 µs of R112 do not count. -/
def State.upstream (s : State) (k type frame : Nat) (act : State → State) : State :=
  if s.pclCount ≤ k ∨ s.nat (O.pclState + k) = 1 ∨ s.nat (O.pclState + k) = 5 then s
  else if ¬ frameValid frame then
    ((s.bump (O.pclCrcErrors + k)).modPcl k fun c => { c with goodRun := 0 }).frameSlot k
  else if frameType frame ≠ type then s
  else if s.tick < (s.pcl k).refStart + 200 then s.frameSlot k
  else
    let s := s.modPcl k fun c => { c with lastValid := s.tick, goodRun := min 8 (c.goodRun + 1) }
    let c := s.pcl k
    (if c.locked then act (s.takeSummary k (frameSummary frame))
    else if c.goodRun < 8 then s
    else s.lockPcl k).frameSlot k

/-- PCL_STATUS_FRAME: an upstream status frame: Summary, and HeadStatus or ChipStatus at Address 03h or 01h; the bursts that ended
before it stand unless it shows them failed (R88, R89, R96, R110). -/
def execPclStatusFrame (pcl frame : Nat) (s : State) : Host.Outcome State Fault Refusal :=
  .next (s.upstream pcl 0 frame fun s =>
    let s := if frameAddress frame = (if frameHead frame = 3 then 0x01 else 0x03) then
        s.takeStatus pcl (frameHead frame) (frameData frame)
      else s
    s.each [0, 1, 2] fun s i =>
      if (frameSummary frame).testBit i ∧ frameHead frame ≠ i then s else s.proveBursts (3 * pcl + i))

/-- CHIP_WARNING_CLEAR: a preamplifier's warning has stayed clear for 100 ms, and writes on its heads resume (R114). -/
def execChipWarningClear (pcl : Nat) (s : State) : Host.Outcome State Fault Refusal :=
  .next (match (s.pcl pcl).clearSince with
    | some t =>
      if (s.pcl pcl).warning ≠ 0 ∨ s.tick < t + 100000 then s
      else (s.modPcl pcl fun c => { c with clearSince := none }).endCondition (168 + pcl)
    | none => s)

/-! ### Register accesses (R90, R91, R117) -/

/-- The outstanding access of a tag. -/
def State.access? (s : State) (k tag : Nat) : Option PclAccess := (s.pcl k).outstanding.find? fun a => decide (a.tag = tag)

/-- An access no longer outstanding. -/
def State.dropAccess (s : State) (k tag : Nat) : State :=
  s.modPcl k fun c => { c with outstanding := c.outstanding.filter fun a => decide (a.tag ≠ tag) }

/-- ResetOccurred cleared once every register of a restore is acknowledged (R96). -/
def State.endRestore (s : State) (k : Nat) : State :=
  let c := s.pcl k
  if c.restoring ∧ c.outstanding = [] ∧ c.queue = [] then
    (s.modPcl k fun c => { c with restoring := false }).pclAsk k 1 3 0x02 0x8000 false
  else s

/-- The shadow of an acknowledged write, FlagClear apart: of one head or the chip, or of all three heads (R87, R91). -/
def shadowed (a : PclAccess) (l : List (Nat × Nat)) : List (Nat × Nat) :=
  if a.address = 0x02 then l
  else if a.kind = 3 then [0, 1, 2].foldl (fun l i => putKey l (32 * i + a.address) a.data) l
  else putKey l (32 * a.head + a.address) a.data

/-- What the acknowledgement of a write does (R90, R91, R182, R458). -/
def State.acknowledged (s : State) (k : Nat) (a : PclAccess) : State :=
  let s := (s.dropAccess k a.tag).modPcl k fun c => { c with shadow := shadowed a c.shadow }
  let h := 3 * k + a.head
  let s := if a.address = 0x0B ∧ a.kind = 1 ∧ s.surgeGranted? 4 h then
      s.modHead h fun x => { x with heaterAck := some (x.heaterAck.getD s.tick) }
    else s
  let s := if a.address = 0x0B ∧ a.kind = 1 ∧ (s.head h).lead.isSome then s.modHead h fun x => { x with lead := some s.tick } else s
  let s := if a.run then (s.setNat (O.preampRunState + 5) a.data).endAccessRun a 0 else s
  (s.pclIssue k).endRestore k

/-- PCL_WRITE_ACK: a register write completes, and its shadow holds it (R88, R90, R91). -/
def execPclWriteAck (pcl frame : Nat) (s : State) : Host.Outcome State Fault Refusal :=
  .next (s.upstream pcl 1 frame fun s =>
    match s.access? pcl (frameTag frame) with
    | some a => if a.kind = 2 then s else s.acknowledged pcl a
    | none => s)

/-- What the data of a read does: a chip identity is recorded in the Shelf, a count of check errors feeds the writer link's
training, and the Temperature has no further use (R90, R93, R111). -/
def State.readReturned (s : State) (k : Nat) (a : PclAccess) (data : Nat) : State :=
  let s := s.dropAccess k a.tag
  let s := if a.run then (s.setNat (O.preampRunState + 5) data).endAccessRun a 0
    else if a.address = 0x00 then s.note 0x10 0 [k, data]
    else if a.address = 0x01 then s.takeStatus k 3 data
    else if a.address = 0x10 then s.wrlChecked (3 * k + a.head) data
    else s
  s.pclIssue k

/-- PCL_READ_DATA: a register read completes (R88, R90, R93). -/
def execPclReadData (pcl frame : Nat) (s : State) : Host.Outcome State Fault Refusal :=
  .next (s.upstream pcl 2 frame fun s =>
    match s.access? pcl (frameTag frame) with
    | some a => if a.kind = 2 then s.readReturned pcl a (frameData frame) else s
    | none => s)

/-- An access that failed once more: sent again with its tag, or, after the third retry, the link is lost (R90). -/
def State.retryAccess (s : State) (k tag reason : Nat) : State :=
  match s.access? k tag with
  | some a =>
    if a.retries < 3 then
      let again (b : PclAccess) : PclAccess := if b.tag = tag then { b with retries := b.retries + 1, sent := s.tick } else b
      (s.modPcl k fun c => { c with outstanding := c.outstanding.map again, idle := false }).emit (pclFrame k a)
    else s.losePcl k reason (some tag)
  | none => s

/-- PCL_NAK: the access is retried, or the link lost after three retries (R88, R90, R117). -/
def execPclNak (pcl frame : Nat) (s : State) : Host.Outcome State Fault Refusal :=
  .next (s.upstream pcl 3 frame fun s => s.retryAccess pcl (frameTag frame) 2)

/-- REGISTER_ACCESS_TIMEOUT: no response within 10 µs of the request: retried, or the link lost after three retries. A run of 3141h
that ends so fails with PCL not active, since the link is lost (R90, R117, log entry 106). -/
def execRegisterAccessTimeout (pcl tag : Nat) (s : State) : Host.Outcome State Fault Refusal :=
  .next (match s.access? pcl tag with
    | some a => if s.tick < a.sent + 10 then s else (s.bump (O.pclTimeouts + pcl)).retryAccess pcl tag 1
    | none => s)

/-- PCL_UPSTREAM_LOST: no valid upstream frame for 10 µs. A locked link is lost; one that relocks has failed an attempt, and
after RetrainAttempts of them the link is failed and its three heads are fenced (R89, R114). A link whose reference is stopped
is not watched (R113). -/
def execPclUpstreamLost (pcl : Nat) (s : State) : Host.Outcome State Fault Refusal :=
  let k := pcl
  let c := s.pcl k
  .next (if s.pclCount ≤ k ∨ s.nat (O.pclState + k) = 1 ∨ s.tick < c.lastValid + 10 then s
    else if c.locked then s.losePcl k 1 none
    else if s.nat (O.pclState + k) ≠ 2 then s
    else if c.attempts + 1 < s.nat O.retrainAttempts then
      s.modPcl k fun c => { c with attempts := c.attempts + 1, goodRun := 0, lastValid := s.tick }
    else
      let s := (s.setNat (O.pclState + k) 5).modPcl k fun c => { c with attempts := 0, lastValid := s.tick }
      (s.raiseFault (160 + k) 4).fenceChip k)

/-- Registers whose dictionary write is refused while a head of the chip is loaded (R117). -/
def guardedRegister (address : Nat) : Bool := [0x04, 0x09, 0x0A, 0x0B, 0x0C, 0x0D].contains address

/-- Registers of chip scope, addressed with Head 11b; FlagClear is of either scope (R93). -/
def chipRegister (address : Nat) : Bool := [0x00, 0x01, 0x11].contains address

/-- A register run of 3140h started, or failed at once (R117). A register of chip scope is addressed at chip scope whatever
3140h.02 holds; one of head scope with 3140h.02 at 3 is not sent, a write refused and a read failed as one the preamplifier
does not know (R93, log entry 107). -/
def State.preampRun (s : State) (isWrite : Bool) : State :=
  let k := s.nat O.preampAccessPcl
  let address := s.nat O.preampAccessAddress
  let head := if chipRegister address then 3 else s.nat O.preampAccessHead
  let data := if isWrite then s.nat O.preampAccessData else 0
  let base := O.preampRunState
  let s := ((((s.startRun base).setNat (base + 2) k).setNat (base + 3) head).setNat (base + 4) address).setNat (base + 5) data
  let away := decide (s.pclCount ≤ k) || decide (s.view (O.pclState + k) = 6)
  let guarded := guardedRegister address && decide ((s.act (k / 2)).load ≠ 0) && decide (s.nat O.trapdoorState ≠ 2)
  let astray := decide (head = 3) && !chipRegister address && decide (address ≠ 0x02)
  if isWrite ∧ (away ∨ guarded ∨ astray) then s.endRun base 3
  else if s.pclCount ≤ k ∨ s.nat (O.pclState + k) ≠ 3 then s.endRun base 1
  else if astray then s.endRun base 2
  else s.pclAsk k (if isWrite then 1 else 2) head address data true

/-- PREAMP_ACCESS_READ: a write of 1 to 3140h.05 starts a register read (R117). A running run refuses it. -/
def execPreampAccessRead (requester : Requester) (s : State) : Host.Outcome State Fault Refusal :=
  .next (s.writeVia requester O.preampAccessStart (.num 1 1) fun s =>
    if s.nat O.preampRunState = 1 then .error .state else .ok (s.preampRun false))

/-- PREAMP_ACCESS_WRITE: a write of 2 to 3140h.05 starts a register write (R117). -/
def execPreampAccessWrite (requester : Requester) (s : State) : Host.Outcome State Fault Refusal :=
  .next (s.writeVia requester O.preampAccessStart (.num 1 2) fun s =>
    if s.nat O.preampRunState = 1 then .error .state else .ok (s.preampRun true))

/-- LINK_COUNTER_CLEAR: a write of 1 to 3130h.05 clears every counter in 3101h to 3122h (R106, R116). -/
def execLinkCounterClear (requester : Requester) (s : State) : Host.Outcome State Fault Refusal :=
  .next (s.writeVia requester O.counterClear (.num 1 1) fun s =>
    let clear (s : State) (base n : Nat) : State := s.each (List.range n) fun s i => s.setNat (base + i) 0
    let s := clear (clear (clear (clear s O.rslHeaderErrors 72) O.rslIntervalCrcErrors 72) O.rslErasedBlocks 72) O.rslRetrains 72
    .ok (clear (clear (clear (clear s O.wrlArmMisses 24) O.wrlRetrains 24) O.pclCrcErrors 8) O.pclTimeouts 8))

/-! ### Reader links (R97 to R107, R121) -/

/-- Whether a reader link carries data: active or degraded, and its head in read mode, or for reader C in write mode too (R95). -/
def State.rslCarries (s : State) (n : Nat) : Bool :=
  s.hasHead (n / 3) && (decide (s.nat (O.rslState + n) = 3) || decide (s.nat (O.rslState + n) = 4)) &&
    (decide (s.headMode (n / 3) % 4 = 1) || (decide (n % 3 = 2) && decide (s.headMode (n / 3) % 4 = 2)))

/-- Blocks erased on reader C beyond 8 in a row lose it (R104, R114). -/
def State.checkErasures (s : State) (link : Nat) : State :=
  if link % 3 = 2 ∧ 8 < (s.rsl link).eraseRun then s.loseReader link 2 else s

/-- A block's body through its lane's descrambler, whose sequence is XORed most significant bit first (R101). -/
def Rsl.plain (r : Rsl) (lane body : Nat) : Nat := body % 2 ^ 128 ^^^ ofBits (lfsrBits 58 39 128 (r.lfsr.getD lane 0))

/-- A block slot of a lane passed: the scrambler moves on, the interval's CRC takes the unscrambled body (R101, R102). -/
def Rsl.slot (r : Rsl) (lane plain : Nat) : Rsl :=
  { r with
    lfsr := r.lfsr.modify lane (lfsrAfter 58 39 128)
    crc := r.crc.modify lane (crc16 · plain)
    slots := r.slots.modify lane (· + 1) }

/-- A block with a header error (R97, R99, R103, R104): counted; whether a data block is lost with it shows in the BlockCount of the
next one. Eight in a row on a lane lose block lock, the blocks in doubt being erased. -/
def State.headerError (s : State) (link lane plain : Nat) : State :=
  let run := (s.rsl link).headerRun.getD lane 0 + 1
  let s := (s.bump (O.rslHeaderErrors + link)).modRsl link fun r =>
    { r.slot lane plain with headerRun := r.headerRun.set lane run, suspects := r.suspects + 1 }
  if 8 ≤ run then (s.eraseBlocks link (s.rsl link).suspects).loseReader link 2 else s

/-- Data blocks missing before one with a BlockCount: those the count shows, and as many more fours as the header errors since the
last good block allow (R100, R104, log entry 108). -/
def Rsl.missing (r : Rsl) (blockCount : Nat) : Nat :=
  let d := (blockCount + 4 - r.blocks % 4) % 4
  d + 4 * ((r.suspects - d) / 4)

/-- A good data block (R98, R100, R104, R121): the ones missing before it are erased; its samples join the link's, or are lost where the
reader's crossing FIFO overflows, which raises the RSL group's source (R29). A BlockCount of the other lane's parity is out of
order, and the block is not used. -/
def State.dataBlock (s : State) (link lane plain : Nat) (overflow : Bool) : State :=
  let s := s.modRsl link fun r => { r.slot lane plain with headerRun := r.headerRun.set lane 0 }
  if plain % 2 ≠ lane then s
  else
    let s := (s.eraseBlocks link ((s.rsl link).missing (plain % 4))).checkErasures link
    if ¬ s.rslCarries link then s
    else
      let s := s.modRsl link fun r => { r with suspects := 0, eraseRun := 0 }
      if overflow then
        let s := (s.raiseFault 0 0).addSamples link (List.replicate 21 0) true
        if link % 3 = 2 then s else s.cutStream (2 * (link / 3) + link % 3)
      else s.addSamples link (blockSamples plain) false

/-- RSL_DATA_BLOCK: a block slot of a reader link's lane that is no marker slot: its header, 01b data, 10b control, and its scrambled
body; `overflow` tells that the reader's crossing FIFO overflows with it. A control block is idle (1Eh) or training (33h); any
other ControlType is a header error (R97 to R104, R121). -/
def execRslDataBlock (link lane header body : Nat) (overflow : Bool) (s : State) : Host.Outcome State Fault Refusal :=
  .next (if ¬ s.rslCarries link ∨ 2 ≤ lane then s
    else
      let plain := (s.rsl link).plain lane body
      if header = 1 then s.dataBlock link lane plain overflow
      else if header = 2 ∧ (plain / 2 ^ 120 = 0x1E ∨ plain / 2 ^ 120 = 0x33) then
        s.modRsl link fun r => { r.slot lane plain with headerRun := r.headerRun.set lane 0 }
      else s.headerError link lane plain)

/-- First data block from `b` on that travels on a lane (R100). -/
def nextOnLane (b lane : Nat) : Nat := if b % 2 = lane then b else b + 1

/-- Fields of an alignment marker (R99, R102): local reader, lane, SampleCount, IntervalCrc. -/
def markerReader (b : Nat) : Nat := b / 2 ^ 116 % 16
def markerLane (b : Nat) : Nat := b / 2 ^ 115 % 2
def markerSamples (b : Nat) : Nat := b / 2 ^ 80 % 2 ^ 32
def markerCrc (b : Nat) : Nat := b / 2 ^ 64 % 65536

/-- Whether a lane's marker stands in its slot, is this link's, and gives a SampleCount that agrees with the samples received, the
blocks in doubt counting or not (R102, R103, log entry 109). -/
def Rsl.markerAgrees (r : Rsl) (link lane body : Nat) : Bool :=
  decide (r.slots.getD lane 0 = 4095) && decide (markerReader body = link % 9) && decide (markerLane body = lane) &&
    (List.range (r.suspects + 1)).any fun j => decide (markerSamples body = 21 * nextOnLane (r.blocks + j) lane % 2 ^ 32)

/-- A marker interval's end: scramblers and CRC reloaded, mismatches within DegradeWindow intervals kept (R101, R102, R106). -/
def Rsl.interval (r : Rsl) (window bad : Nat) (skew : Int) : Rsl :=
  { r with
    lfsr := [0x155, 0x2AA], crc := [0xFFFF, 0xFFFF], slots := [0, 0], headerRun := [0, 0], skewAt := skew
    intervals := r.intervals + 1
    badIntervals := (List.replicate bad (r.intervals + 1) ++ r.badIntervals).filter fun i => decide (r.intervals + 1 < i + window) }

/-- The count of samples after a slip taken from the markers: the earlier of the two next blocks; a head's sample axis moves with
its reader C (R102, R103). -/
def State.resync (s : State) (link body0 body1 : Nat) : State :=
  let now := (s.rsl link).blocks
  let new := min (markerSamples body0) (markerSamples body1) / 21
  let s := s.modRsl link fun r => { r with blocks := new, suspects := 0, erased := [] }
  if link % 3 = 2 then s.modHead (link / 3) fun x => { x with axis := x.axis + 21 * new - 21 * now } else s

/-- RSL_ALIGNMENT_MARKER: the bodies of the marker slot on both lanes, and the skew measured, lane 1 later than lane 0. The lanes are
deskewed, IntervalCrc is checked, and slips and degradation are judged; a control block that is no marker counts as a header
error of its lane. A skew beyond 260 UI in service counts as an alignment slip, and 3105h shows the nearest value of its
range (R99, R101 to R106, log entry 110). -/
def execRslAlignmentMarker (link body0 body1 : Nat) (skew : Int) (s : State) : Host.Outcome State Fault Refusal :=
  .next (if ¬ s.rslCarries link then s
    else if body0 / 2 ^ 120 % 256 ≠ 0x2D then s.headerError link 0 ((s.rsl link).plain 0 body0)
    else if body1 / 2 ^ 120 % 256 ≠ 0x2D then s.headerError link 1 ((s.rsl link).plain 1 body1)
    else
      let r := s.rsl link
      let agrees := r.markerAgrees link 0 body0 && r.markerAgrees link 1 body1
      let slipped := !agrees || decide (130 < (skew - r.skewAt).natAbs) || decide (260 < skew.natAbs)
      let bad := (if r.crc.getD 0 0 = markerCrc body0 then 0 else 1) + (if r.crc.getD 1 0 = markerCrc body1 then 0 else 1)
      let s := (s.bumpBy (O.rslIntervalCrcErrors + link) bad).setObj (O.rslLaneSkew + link) (clampInt (-260) 260 skew)
      let s := s.modRsl link fun r => r.interval (s.nat O.degradeWindow) bad skew
      let s := if slipped ∧ link % 3 ≠ 2 then s.cutStream (2 * (link / 3) + link % 3) else s
      let s := if agrees then s else s.resync link body0 body1
      if s.nat O.degradeCrcLimit ≤ (s.rsl link).badIntervals.length ∧ s.nat (O.rslState + link) = 3 then
        (s.setNat (O.rslState + link) 4).raiseFault (64 + link) 1
      else s)

/-- The degraded links of a head retrained, once its streams are released and each borrower of its clock has another lender; for
reader C it must have one itself (R107, R114, R269). -/
def State.retrainDegradedHead (s : State) (h : Nat) : State :=
  let bad := (rslsOf h).filter fun n => decide (s.nat (O.rslState + n) = 4)
  let t := s.setNat (O.rslState + 3 * h + 2) 2
  let others := t.borrowers h
  let stuck := others.any fun b => ((t.setNat (O.clockState + h) 4).bestLender b).isNone
  if bad = [] ∨ (s.head h).admitted ∨ stuck ∨ (bad.contains (3 * h + 2) ∧ (t.bestLender h).isNone) then s
  else (s.retrainHead h none).each others State.assignLender

/-- Degraded links of an actuator's heads start training (R107). -/
def State.retrainDegraded (s : State) (a : Nat) : State := s.each (headsOf a) State.retrainDegradedHead

/-! ### Training (R105, R107, R111, R112) -/

/-- One training attempt of a reader link failed (R105, R107, R114): tried again once the head's other links have ended theirs, or,
after RetrainAttempts, failed, its head fenced for a data reader. -/
def State.rslFailed (s : State) (n : Nat) : State :=
  let h := n / 3
  let tries := (s.rsl n).attempts + 1
  if tries < s.nat O.retrainAttempts then
    ((s.setNat (O.rslState + n) 1).modRsl n fun r => { r with attempts := tries }).headProgress h
  else
    let s := (s.setNat (O.rslState + n) 5).modRsl n fun r => { r with attempts := 0, failedAt := s.tick }
    let s := s.raiseFault (64 + n) 3
    let s := if (s.pcl (h / 3)).recovering then s.fenceChip (h / 3)
      else if n % 3 = 2 then s else (s.fenceHead h 1).endFencedIo
    s.headProgress h

/-- One training attempt of a writer link failed: a test burst after a flag fences the head; else the head is read-only
and the link is trained again, or failed after RetrainAttempts (R107, R114). -/
def State.wrlFailed (s : State) (h : Nat) : State :=
  let w := s.wrl h
  if w.testing then
    let s := (s.setNat (O.wrlState + h) 5).modWrl h fun w => { w with testing := false, failedAt := s.tick }
    ((s.fenceHead h 1).endFencedIo).headProgress h
  else
    let s := ((s.modWrl h fun w => { w with readOnly := true }).refreshHead h).raiseFault (136 + h) 1
    if w.attempts + 1 < s.nat O.retrainAttempts then
      (s.modWrl h fun w => { w with attempts := w.attempts + 1 }).askWrl h
    else
      let s := (s.setNat (O.wrlState + h) 5).modWrl h fun w => { w with attempts := 0, failedAt := s.tick }
      let s := if (s.pcl (h / 3)).recovering then s.fenceChip (h / 3) else s
      s.headProgress h

/-- A head whose reader links are in service again after a training: the numbering of its samples starts anew on all three, and its
count runs on from the time passed (R102, R105, R126). -/
def State.restartAxis (s : State) (h : Nat) : State :=
  if s.rslsTrain h then s
  else
    let rev := bitsPerRev (s.headZone h)
    let s := s.each (rslsOf h) fun s n => s.modRsl n fun r => { r with blocks := 0, samples := [], erased := [] }
    let s := s.each [2 * h, 2 * h + 1] fun s n => s.modStream n Stream.restart
    s.modHead h fun x => { x with
      count := (x.count + 64 * ((s.tick - x.countedAt) * s.spindle.mrpm * rev / 60000000000)) % (64 * max 1 rev)
      axis := 0, countedAt := s.tick, inverted := [], jitters := [], lowRun := 0 }

/-- A reader link trained: its preset, programmed for the head's three links, its skew, and the state that follows (R105, R107,
R125). -/
def State.rslPassed (s : State) (n preset : Nat) (skew : Int) : State :=
  let h := n / 3
  let s := s.each (rslsOf h) fun s m => s.setNat (O.rslTxPreset + m) preset
  let s := ((s.pclWrite h 0x0E preset).pclWrite h 0x04 3).setNat (O.rslState + n) 3
  let s := (s.setObj (O.rslLaneSkew + n) skew).modRsl n fun r => { (r.training 0) with attempts := 0, skewAt := skew }
  let s := (s.endCondition (64 + n)).restartAxis h
  let s := if n % 3 = 2 ∧ s.nat (O.clockState + h) = 1 ∧ (s.act (actOf h)).load = 2 ∧ s.nat (O.headService + h) ≠ 3 then
      s.provisional h
    else s
  s.headProgress h

/-- A writer link trained, or its test burst passed (R111, R114). -/
def State.wrlPassed (s : State) (h : Nat) : State :=
  let s := (s.setNat (O.wrlState + h) 3).modWrl h fun w => { w with
    attempts := 0, testing := false, readOnly := false, arms := [], checks := [] }
  ((s.endCondition (136 + h)).refreshHead h).headProgress h

/-- LINK_TRAINING_END: a training run ends. Of a reader link (`kind` 0): consecutive error-free PRBS-31 bits of each lane (step 1), the
errors and eye of the head's three links at each preset (step 2), consecutive valid headers of each lane (step 3), the skew
(step 4), and marker intervals without error (step 5) decide pass and preset. Of a writer link (1): the check errors read
(R105, R107, R111). -/
def execLinkTrainingEnd (kind link : Nat) (lock : List Nat) (sweep : List (List (Nat × Nat))) (headers : List Nat) (skew : Int)
    (intervals : Nat) (s : State) : Host.Outcome State Fault Refusal :=
  .next (if kind = 0 then
      if s.nat (O.rslState + link) ≠ 2 then s
      else
        match bestPreset sweep (link % 3) with
        | some p =>
          if 1000000 ≤ min (lock.getD 0 0) (lock.getD 1 0) ∧ 64 ≤ min (headers.getD 0 0) (headers.getD 1 0) ∧
              skew.natAbs ≤ 260 ∧ 16 ≤ intervals then s.rslPassed link p skew
          else s.rslFailed link
        | none => s.rslFailed link
    else
      let c := (s.wrl link).checks
      if s.nat (O.wrlState + link) ≠ 2 ∨ c.length < (if (s.wrl link).testing then 2 else 10) then s
      else if c.getD (c.length - 1) 0 = c.getD (c.length - 2) 0 then s.wrlPassed link
      else s.wrlFailed link)

/-- LINK_TRAINING_DEADLINE: a training not complete within 2 ms is a class 6 deadline miss and a failed attempt (R105,
R460). -/
def execLinkTrainingDeadline (kind link : Nat) (s : State) : Host.Outcome State Fault Refusal :=
  .next (if kind = 0 then
      let due := (s.rsl link).trainingEnd
      if s.nat (O.rslState + link) ≠ 2 ∨ s.tick < due then s
      else (s.deadlineMiss 6 44 link due (2 ^ 64 - 1)).rslFailed link
    else
      let due := (s.wrl link).trainingEnd
      if s.nat (O.wrlState + link) ≠ 2 ∨ s.tick < due then s
      else (s.deadlineMiss 6 45 link due (2 ^ 64 - 1)).wrlFailed link)

/-- FAILED_LINK_RETRY: a failed reader link (`kind` 0), writer link (1) or control link (2) is tried once more every
FailedRetryPeriod in S1 (R107). -/
def execFailedLinkRetry (kind link : Nat) (s : State) : Host.Outcome State Fault Refusal :=
  let late (t : Nat) : Bool := decide (s.nat O.sleepStateCurrent = 1) && decide (t + 1000000 * s.nat O.failedRetryPeriod ≤ s.tick)
  let last := s.nat O.retrainAttempts - 1
  .next (if kind = 0 then
      if s.nat (O.rslState + link) = 5 ∧ late (s.rsl link).failedAt ∧ ¬ s.rslsTrain (link / 3) then
        (s.modRsl link fun r => { r with attempts := last }).retrainHead (link / 3) (some link)
      else s
    else if kind = 1 then
      if s.nat (O.wrlState + link) = 5 ∧ late (s.wrl link).failedAt then
        (s.modWrl link fun w => { w with attempts := last }).askWrl link
      else s
    else if s.nat (O.pclState + link) = 5 ∧ late (s.pcl link).lastValid then
      (s.bringUp link).modPcl link fun c => { c with attempts := last }
    else s)

end Sys2Proof.Machine
end

