-- ==== Sys2Proof/Machine/WritePath.lean ====
section
/-! DEFINITION. The write path: write bursts and their gate, chunk fill, the generation ledger, verify, refreshes, restocking and lane
remaps (R68 to R73, R176, R181 to R198, R363 to R367). -/

namespace Sys2Proof.Machine

/-! ### Spare revolutions (R274) -/

/-- What a spare revolution goes to, in the order of R274: whether an actuator without host operations has none of the work that goes
ahead of `rank`: 1 the ladder, 2 restocking, 3 heater calibration, 4 identification, 5 calibration reads. -/
def State.spareFor (s : State) (a rank : Nat) : Bool :=
  !(s.cmds.ops.any fun o => decide (o.act = a)) &&
    (decide (rank ≤ 1) || !s.detect.ladders.any fun l => decide (actOf (l.stream / 2) = a)) &&
    (decide (rank ≤ 2) || !s.cmds.slots.any fun c => c.mapped && decide (c.act = a)) &&
    (decide (rank ≤ 3) || !(headsOf a).any fun h => (s.head h).heaterCal.isSome) &&
    (decide (rank ≤ 4) || !s.pos.identify.any fun x => decide (x.slot / 9 = a)) &&
    (decide (rank ≤ 5) || !s.detect.calReads.any fun n => decide (actOf (n / 2) = a))

/-! ### The write gate (R181, R182, R184) -/

/-- Whether a preamplifier's warning holds writes back (R114). -/
def Pcl.holdsWrites (c : Pcl) : Bool := decide (c.warning ≠ 0) || c.clearSince.isSome

/-- The conditions of R184 that do not depend on the chunk: the count, the position, the shock, Rafter, the links, the
head's service, the power. -/
def State.gateMay (s : State) (h : Nat) : Bool :=
  decide (s.nat (O.clockState + h) = 3) && decide (s.nat (O.headService + h) = 1) && s.statusBit h 0 && s.statusBit h 5 &&
    s.statusBit h 6 && !s.statusBit h 3 && !s.statusBit h 7 && !s.pos.inhibit && decide ((s.loop (9 * actOf h + h % 6)).lateRun = 0) &&
      decide ((s.loop (9 * actOf h + 7)).lateRun = 0) &&
    decide (s.nat (O.wrlState + h) = 3) && !(s.wrl h).due && !(s.wrl h).flagged && decide (s.nat (O.pclState + h / 3) = 3) &&
    !(s.pcl (h / 3)).holdsWrites && !s.spindle.powerLost && decide ((s.act (actOf h)).load = 2)

/-- Whether a zone may be written: every WritePrecomp value lies from -32 to +31 (R181). -/
def zoneWritable (e : ZoneEntry) : Bool := e.precomp.all fun v => decide (-32 ≤ v) && decide (v ≤ 31)

/-- Whether a lane of a surface is being remapped: the lane itself or the chosen spare (R73). -/
def State.laneBusy (s : State) (surface lane : Nat) : Bool :=
  s.layout.remaps.any fun r => decide (r.surface = surface) &&
    match s.zoneOf surface r.zone with
    | some e => decide (lane = (s.resolveSpare e surface r.zone r.offset).1) ||
        decide (lane = e.firstLane + e.laneCount - e.spareLanes + r.spare)
    | none => false

/-- The chunk write of a head by namespace and first LBA that meets a condition, the oldest first. -/
def State.chunkOf (s : State) (h nsid lba : Nat) (p : ChunkWrite → Bool) : Option ChunkWrite :=
  s.write.chunks.find? fun w => decide (w.head = h) && decide (w.nsid = nsid) && decide (w.lba = lba) && p w

/-- Whether a chunk write is a home chunk. -/
def ChunkWrite.isHome (w : ChunkWrite) : Bool := decide (w.kind = 0) || decide (w.kind = 2)

/-- Whether no older write of the same home chunk is still under way. -/
def State.firstOfChunk (s : State) (w : ChunkWrite) : Bool :=
  match s.write.chunks.find? fun v => v.isHome && decide (v.head = w.head) && decide (v.nsid = w.nsid) && decide (v.lba = w.lba) with
  | some v => v.same w
  | none => true

/-- Whether the operation of a host command on a chunk or slot is in flight (R357). -/
def State.opInFlight (s : State) (w : ChunkWrite) : Bool :=
  (s.chunkOwners w).any fun o => s.cmds.ops.any fun m =>
    decide (m.port = o.1) && decide (m.sqid = o.2.1) && decide (m.cid = o.2.2) && m.isWrite

/-- What the kind of a chunk write asks for: an operation in flight (R357), a trusted ledger entry (R190), a page that may become
dirty (R192), no remap of its lane (R73). -/
def State.kindMay (s : State) (w : ChunkWrite) : Bool :=
  (decide (2 ≤ w.kind) || s.opInFlight w) && (decide (w.kind = 4) || !s.laneBusy w.head w.lane) &&
    (!w.isHome || ((s.entry w.head w.stripe).trusted && s.firstOfChunk w)) &&
    (decide (w.kind = 1) || decide (w.kind = 4) || !s.pageBlocked w.head w.stripe)

/-- Whether the place of a chunk write's next sector is under its head and may be written: its lane, a writable zone, the narrow
service of R161, no excited revolution of the actuator (R276), no ladder step or calibration that moves the head or its heater. -/
def State.placeMay (s : State) (w : ChunkWrite) : Bool :=
  let h := w.head
  (match s.zoneOfLane h w.lane with
    | some z => zoneWritable z.2
    | none => false) &&
    decide ((s.head h).lane = w.lane) &&
    (s.power.narrowPass.contains (actOf h) == (bitOf (s.nat O.narrowHeadMask) h && !(s.head h).narrowPending)) &&
    (s.head h).heaterCal.isNone && (!s.pos.identify.any fun r => r.excited && decide (r.slot / 9 = actOf h)) &&
    !s.detect.ladders.any fun l => decide (l.stream / 2 = h) && decide (4 ≤ l.running)

/-- Whether a chunk write may have a burst now (R184, R186). -/
def State.burstMay (s : State) (w : ChunkWrite) : Bool :=
  decide (w.missing = []) && !w.open_ && !w.ended && !w.flagged && !w.verifying && !(s.head w.head).gate && s.gateMay w.head &&
    s.placeMay w && s.kindMay w && !(w.cut && decide (s.nat O.writeRetryLimit ≤ w.retries))

/-- Whether HeaterWrite and Mode 10b have been in force on a head for HeaterLead (R92, R95, R182). -/
def State.leadDone (s : State) (h : Nat) : Bool :=
  let c := s.pcl (h / 3)
  let busy (a : PclAccess) : Bool := decide (a.kind = 1) && decide (a.head = h % 3) && [0x04, 0x09, 0x0A, 0x0B].contains a.address
  decide (s.headMode h % 4 = 2) && !(s.head h).heaterPending && !(c.outstanding ++ c.queue).any busy &&
    match (s.head h).lead with
    | some t => decide (t + s.nat O.heaterLead ≤ s.tick)
    | none => false

/-- HeaterWrite and Mode 10b written ahead of a head's burst (R95, R182). -/
def State.startLead (s : State) (h : Nat) : State :=
  let s := match s.zoneOf h (s.head h).zone with
    | some e => s.setHeater h e.heaterWrite
    | none => s
  (s.modHead h fun x => { x with lead := some s.tick }).pclWrite h 0x04 2

/-- The next sector of a chunk write. -/
def State.nextSector (s : State) (w : ChunkWrite) : Option SectorOut := (s.sectorsOf w)[w.written]?

/-- Whether the next sector of a chunk write starts under its head now (R58, R184). -/
def State.atNextSector (s : State) (w : ChunkWrite) : Bool :=
  match s.nextSector w with
  | some o => decide (s.sectorNow w.head = some o.sector)
  | none => false

/-! ### Bursts (R109, R184 to R186) -/

/-- The commands of a direct chunk told that its burst opens: a write none of whose chunks is unopened any more has its
completion committed (R359, R396). -/
def State.commitOwners (s : State) (w : ChunkWrite) : State :=
  (s.chunkOwners w).foldl (fun (s : State) o =>
    let (p, q, i) := o
    let s := s.modCtx p q i fun c => { c with unopened := c.unopened.filter fun k => decide (k ≠ w.lba / 64) }
    match s.ctx? p q i with
    | some c => if c.unopened = [] ∧ c.toIssue = [] ∧ c.waits = [] then s.latch p q i .completion else s
    | none => s) s

/-- A chunk write as its burst opens: the sectors left on its present track, with the generation of now (R109, R186, R190). -/
def State.opened (s : State) (w : ChunkWrite) : ChunkWrite :=
  let sectors := s.sectorsOf w
  { w with
    sectors := sectors, open_ := true, opened := w.written, openedAt := s.tick
    run := runLength ((sectors.take (w.total + w.copies)).drop w.written), retries := if w.cut then w.retries + 1 else w.retries }

/-- A head's burst opens: its preamble and arm word go out, ending where the first sector starts (R109, R184, R186, R199). -/
def State.openBurst (s : State) (w : ChunkWrite) : State :=
  let h := w.head
  let start := ((s.nextSector w).map fun o => s.sectorBit h o.lane o.sector (-256)).getD 0
  let s := ((s.putChunk (s.opened w)).modHead h fun x => { x with
    gate := true, inhibitLimit := s.nat O.writeInhibitLimit, checkLimit := s.nat O.adjacentCheckLimit }).modWrl h fun l => { l with
      bursting := true, arms := (false :: l.arms).take 16 }
  let s := (s.emit (.preamble h start (ofBits burstPreamble))).cancelReads fun d =>
    decide (d.purpose = 1) && decide (d.nsid = w.nsid) && decide (d.lba = w.lba)
  (if w.kind = 1 then s else s.commitOwners w).syncSlots

/-- WRITE_BURST_OPEN: at a sector start at which every condition of R184 holds, the head's burst for a chunk or slot opens with its
preamble and arm word. HeaterWrite and Mode 10b are written first, HeaterLead ahead (R95, R109, R182, R184, R186). -/
def execWriteBurstOpen (head nsid lba : Nat) (s : State) : Host.Outcome State Fault Refusal :=
  .next (match s.chunkOf head nsid lba s.burstMay with
    | none => s
    | some w =>
      if (s.head head).lead.isNone then s.startLead head
      else if s.leadDone head ∧ s.atNextSector w then s.openBurst w
      else s)

/-- Whether another burst of a head follows within HeaterLead: the next sector of one of its chunk writes that are ready starts so
soon on this lane (R182). -/
def State.burstSoon (s : State) (h : Nat) : Bool :=
  let rev := max 1 (bitsPerRev (s.headZone h))
  s.write.chunks.any fun w => decide (w.head = h) && decide (w.missing = []) && !w.ended && !w.flagged && !w.verifying && s.placeMay w &&
    match s.nextSector w with
    | some o => decide ((s.sectorBit h o.lane o.sector 0 + rev - (s.head h).count / 64 % rev) % rev * s.revolution ≤
        s.nat O.heaterLead * rev)
    | none => false

/-- Whether an open burst has had the time of its sectors: 37,520 bit times each at the zone's rate (R57, R109). -/
def State.burstOver (s : State) (w : ChunkWrite) : Bool :=
  match s.layout.tables.find? fun t => decide (t.surface = w.head), s.zoneOfLane w.head w.lane with
  | some t, some (_, e) => decide (w.run * 37520 * 60000000 ≤ (s.tick + 1 - w.openedAt) * t.nominalRpm * 32 * e.clockPeriods)
  | _, _ => true

/-- A head's burst ends with the last guard bit of its last sector on the track; the link goes to electrical idle, and HeaterRead is
restored unless another burst follows soon. The status frame that follows tells whether it stands (R109, R110, R182). -/
def State.endBurst (s : State) (w : ChunkWrite) : State :=
  let h := w.head
  let w : ChunkWrite := { w with written := w.opened + w.run }
  let s := ((s.putChunk w).syncSlots.emitSectors w).putChunk { w with open_ := false, ended := true, emitted := w.written }
  let s := (s.modHead h fun x => { x with gate := false }).modWrl h fun l => { l with bursting := false }
  (if s.burstSoon h then s else s.endLead h).pclIssue (h / 3)

/-- WRITE_BURST_END: the head's burst ends with the last guard bit of its last sector on the track (R109). -/
def execWriteBurstEnd (head : Nat) (s : State) : Host.Outcome State Fault Refusal :=
  .next (match s.write.chunks.find? fun w => decide (w.head = head) && w.open_ && s.burstOver w with
    | none => s
    | some w => s.endBurst w)

/-- A levelling or a remap copy that could not be written (R73, R186, R193): counted and raised; the chunk stays untrusted, the remap
begins again. -/
def State.deviceWriteFailed (s : State) (w : ChunkWrite) : State :=
  let s := ((s.bump (O.writeFailures + w.head)).raiseFault 208 w.head).dropChunk w
  if w.kind = 4 then s.remapStage w.head (w.lba / 2 ^ 32) (w.lba % 2 ^ 32) 0 else s

/-- WRITE_RETRY_LIMIT_REACHED: WriteRetryLimit revolutions of bursts for the rest have passed and the chunk is not complete.
A direct write fails; a slot with copy 1 on media goes on to stage 3 and is restocked first, one without is abandoned
(R186, R365). -/
def execWriteRetryLimitReached (head nsid lba : Nat) (s : State) : Host.Outcome State Fault Refusal :=
  .next (match s.chunkOf head nsid lba fun w => !w.open_ && !w.ended && !w.flagged && w.cut && decide (s.nat O.writeRetryLimit ≤ w.retries) with
    | none => s
    | some w =>
      if w.kind = 1 then
        if w.total < w.written then s.flipSlot w true
        else
          match s.slotOf w with
          | some c => (s.abandonSlot c.act c.seq).stageAgain c
          | none => s.dropChunk w
      else if w.isHome then s.chunkFailed w
      else s.deviceWriteFailed w)

/-! ### Chunk fill (R183) -/

/-- Data of a chunk with its missing sectors put in as a read found them; one without data becomes a marker: reason 5 where a slot
should have served it, else 2; one that was a marker stays one. The second list names the markers (R179, R183, R366). -/
def State.fillChunk (s : State) (nsid lba : Nat) (missing data : List Nat) (d : DeviceRead) : List Nat × List Nat :=
  let at_ (i : Nat) : Nat × Bool :=
    match d.found (lba + i) with
    | some r => (r.data, r.marker)
    | none => (markerData (lba + i) (if (s.slotFor nsid (lba + i)).isSome then 5 else 2) s.tick, true)
  (missing.foldl (fun l i => l.set i (at_ i).1) data, missing.filter fun i => (at_ i).2)

/-- A read that fills a chunk begun, counted where it reads the home chunk; of an untrusted chunk the whole is read in the same
revolution, to learn it (R183, R193). -/
def State.startFill (s : State) (purpose act nsid lba : Nat) (missing : List Nat) (trusted : Bool) : State :=
  let want := s.wantLbas nsid (missing.map (lba + ·))
  let s := if want.any fun x => !x.2.cellar then s.bump O.chunkFillReads else s
  let s := s.startRead purpose act nsid lba want
  if trusted ∨ (s.readFor 2 nsid lba).isSome then s
  else s.startRead 2 act nsid lba (s.wantHome nsid ((List.range 64).map (lba + ·)))

/-- CHUNK_FILL_READ: the uncovered part of a chunk is read from media over a revolution of its lane row; once every sector is final,
the chunk is filled: one that ended unrecoverable is a marker with reason 2, one read from a slot with reason 5 (R183, R366). -/
def execChunkFillRead (head nsid lba : Nat) (s : State) : Host.Outcome State Fault Refusal :=
  .next (match s.chunkOf head nsid lba fun w => decide (w.missing ≠ []) with
    | none => s
    | some w =>
      match s.readFor 1 nsid lba with
      | none => s.startFill 1 (actOf head) nsid lba w.missing (s.entry head w.stripe).trusted
      | some d =>
        if d.want ≠ [] then s
        else if ¬ d.covers (w.missing.map (lba + ·)) then s.endRead d
        else
          let (data, markers) := s.fillChunk nsid lba w.missing w.data d
          (s.endRead d).putChunk { w with data := data, missing := [], markers := w.markers ++ markers })

/-! ### The ledger (R190 to R194) -/

/-- The most advanced of some generations (R193). -/
def mostAdvanced (l : List Nat) : Option Nat :=
  l.foldl (fun (b : Option Nat) g =>
    match b with
    | none => some g
    | some h => if genAhead g h then some g else some h) none

/-- A sector of a mixed chunk as it is written once more: behind the most advanced value with its own data, unrecoverable as a
marker with reason 4; none where it stands (R193). -/
def State.levelled (s : State) (p : Place) (x : SectorInFlight) (gen : Nat) (r : Option SectorRead) : Option SectorOut :=
  let o : SectorOut := { lane := x.lane, track := x.track, sector := x.sector, lba := x.lba, gen := gen
                         flags := sectorFlags false p.remapped false false, data := markerData x.lba 4 s.tick }
  match r with
  | some r => if r.marker then some o else if r.generation = gen then none else some { o with flags := r.flags, data := r.data }
  | none => some o

/-- The levelling of a mixed chunk made ready (R193). -/
def State.levelChunk (s : State) (p : Place) (nsid lba gen : Nat) (d : DeviceRead) : State :=
  let out := (s.wantHome nsid ((List.range 64).map (lba + ·))).filterMap fun x => s.levelled p x.2 gen (d.found x.2.lba)
  let marked (o : SectorOut) : Bool := match d.found o.lba with
    | some r => r.marker
    | none => true
  let w : ChunkWrite := {
    head := p.surface, stripe := p.stripe, lane := p.lane, nsid := nsid, lba := lba, kind := 3, total := out.length, sectors := out
    markers := (out.zipIdx.filter fun o => marked o.1).map Prod.snd, track := p.track, sector := p.sector, spare := p.remapped
    verify := decide (s.nat (O.verifyEnable + (nsid - 1)) = 1) }
  { s with write := { s.write with chunks := s.write.chunks ++ [w] } }

/-- What the read of a whole chunk tells of its untrusted entry (R193). A chunk that a live slot covers is never levelled (R368). -/
def State.learnt (s : State) (p : Place) (nsid lba : Nat) (d : DeviceRead) : State :=
  let gens := ((List.range 64).filterMap fun i => d.found (lba + i)).filterMap fun r => if r.marker then none else some r.generation
  match mostAdvanced gens with
  | none => s.setEntry p.surface p.stripe { s.entry p.surface p.stripe with trusted := true }
  | some g =>
    let covered := (List.range 64).any fun i => (s.slotFor nsid (lba + i)).isSome
    if gens.all (fun x => decide (x = g)) ∨ covered then s.setEntry p.surface p.stripe { gen := g, trusted := true }
    else s.levelChunk p nsid lba g d

/-- An untrusted entry learnt: the chunk is read, and once every sector is final the entry is set or the chunk is levelled (R193). -/
def State.learn (s : State) (nsid lba : Nat) : State :=
  match s.locate nsid lba with
  | none => s
  | some p =>
    if (s.entry p.surface p.stripe).trusted ∨ s.pageBlocked p.surface p.stripe ∨
        (s.chunkOf p.surface nsid lba fun w => decide (w.kind = 3)).isSome then s
    else
      match s.readFor 2 nsid lba with
      | none =>
        if (s.act p.act).load ≠ 2 ∨ s.headFenced p.surface then s
        else s.startRead 2 p.act nsid lba (s.wantHome nsid ((List.range 64).map (lba + ·)))
      | some d => if d.want ≠ [] then s else (s.endRead d).learnt p nsid lba d

/-- LEDGER_LEARN_READ: the whole chunk is read to learn its untrusted entry, and a mixed chunk is levelled (R193). -/
def execLedgerLearnRead (nsid lba : Nat) (s : State) : Host.Outcome State Fault Refusal := .next (s.learn nsid (lba / 64 * 64))

/-- LEDGER_AUDIT: an untrusted entry learnt in an idle revolution while LedgerAuditEnable is 1 (R194, R274). -/
def execLedgerAudit (nsid lba : Nat) (s : State) : Host.Outcome State Fault Refusal :=
  .next (if s.nat O.ledgerAuditEnable = 1 ∧ s.spareFor (s.homeAct nsid lba) 6 then s.learn nsid (lba / 64 * 64) else s)

/-- Whether a head can write its surface's system area: loaded, not fenced, no power loss (R188, R192). -/
def State.systemMay (s : State) (h : Nat) : Bool :=
  decide ((s.act (actOf h)).load = 2) && !s.headFenced h && !s.spindle.powerLost

/-- A ledger page as its sector holds it: the stripes it covers, its PageSequence, the untrusted map, the entries, the FormatId and the CRC
(R191). -/
def State.ledgerPageBytes (s : State) (surface page : Nat) : List Nat :=
  let es := (List.range 1792).map fun i => s.entry surface (1792 * page + i)
  let id := ((s.zoneTable surface).map ZoneTable.formatId).getD 0
  withCrc (fieldBytes [(1, surface), (1, 0), (2, 1), (4, 1792 * page), (4, (assoc? s.write.pageSeq (ledgerKey surface page)).getD 0), (4, 0),
    (224, es.zipIdx.foldl (fun m x => if x.1.trusted then m else withBit m x.2) 0)] ++ (es.flatMap fun x => leBytes 2 x.gen) ++
    fieldBytes [(8, id), (260, 0)])

/-- Dirty ledger pages of the surfaces whose heads can write them, written back, their list going to the Trunk first (R191,
R192, R510). -/
def State.flushLedger (s : State) : State :=
  let may (x : Nat × Nat) : Bool := s.systemMay x.1
  let pages := s.write.dirty.filter may
  if pages = [] then { s with write := { s.write with flushedAt := s.tick } }
  else
    let next (x : Nat × Nat) : Nat := ((assoc? s.write.pageSeq (ledgerKey x.1 x.2)).getD 0 + 1) % 2 ^ 32
    let s := s.append 0x61 (pages.length :: pages.flatMap fun x => [x.1, x.2, next x])
    let flushed (e : Nat × LedgerEntry) : Bool := pages.contains ((splitKey e.1).1, ledgerPage (splitKey e.1).2)
    let s := { s with write := { s.write with
      dirty := s.write.dirty.filter (fun x => !may x), flushedAt := s.tick
      media := s.write.ledger.filter flushed ++ s.write.media.filter fun e => !flushed e
      pageSeq := pages.foldl (fun l x => putKey l (ledgerKey x.1 x.2) (next x)) s.write.pageSeq } }
    pages.foldl (fun (s : State) x => s.systemWrite x.1 4 x.2 1 (s.ledgerPageBytes x.1 x.2)) s

/-- LEDGER_FLUSH: modified pages are written back after LedgerFlushPeriod, at a sleep entry, or where LedgerDirtyMax pages
are dirty (R192). -/
def execLedgerFlush (s : State) : Host.Outcome State Fault Refusal :=
  .next (if s.write.dirty = [] ∨ (s.tick < s.write.flushedAt + 1000000 * s.nat O.ledgerFlushPeriod ∧
      s.write.dirty.length < s.nat O.ledgerDirtyMax ∧ s.nat O.sleepEntryState ≠ 1) then s
    else s.flushLedger)

/-! ### Lane remap (R71 to R73) -/

/-- Domain-local sectors of the stripes on a lane row: first and last (R79). -/
def rowSectors (zones : List ZoneEntry) (z row : Nat) : Nat × Nat :=
  let before := ((zones.take z).map fun e => dataLanes e * perLane e).sum
  let n := ((zones[z]?).map perLane).getD 0
  let first := before + row * n
  (384 * first, 384 * (first + n) - 1)

/-- Namespace ranges of a run of domain-local sectors: one, or two where it crosses a mapping unit (R76, R356). -/
def State.domainRanges (s : State) (a first last : Nat) : List (Nat × Nat × Nat) :=
  if s.nat O.domainMapping = 0 then
    let acts := s.nsActs 1
    let lba (d : Nat) : Nat := (d / 16384 * acts.length + acts.idxOf a) * 16384 + d % 16384
    if first / 16384 = last / 16384 then [(1, lba first, lba last)]
    else
      let mid := last / 16384 * 16384
      [(1, lba first, lba (mid - 1)), (1, lba mid, lba last)]
  else [(a + 1, first, last)]

/-- A remap asked for: of the free spares of the zone that no other remap has chosen the lowest is chosen, which the spec leaves
open (log entry 119); false where none is free (R73, R198). -/
def State.askRemap (s : State) (surface zone offset : Nat) : Bool × State :=
  let taken (i : Nat) : Bool := s.layout.remaps.any fun r => decide (r.surface = surface) && decide (r.zone = zone) && decide (r.spare = i)
  if (s.remap? surface zone offset).isSome then (true, s)
  else
    match (s.spareTable surface zone).bind fun t => (t.entries.zipIdx.find? fun e => decide (e.1.state = 0) && !taken e.2).map Prod.snd with
    | some i => (true, { s with layout := { s.layout with
        remaps := s.layout.remaps ++ [{ surface := surface, zone := zone, offset := offset, spare := i }] } })
    | none => (false, s)

/-- Whether an entry of a remap may proceed: every earlier conflicting entry is released but those of writes that wait for
this very remap (log entry 21). -/
def State.remapMay (s : State) (owner : LockOwner) (waiting : List LockOwner) : Bool :=
  (s.cmds.locks.filter fun l => decide (l.owner = owner)).all fun l =>
    !s.cmds.locks.any fun m => decide (m.number < l.number) && m.conflicts l && !waiting.contains m.owner

/-- Every sector of a lane that holds something, both tracks in recording order. -/
def State.laneWants (s : State) (surface lane : Nat) (tracks : List Nat) : List (Nat × SectorInFlight) :=
  let per := ((s.zoneOfLane surface lane).map fun z => z.2.sectorsPerTrack).getD 0
  tracks.flatMap fun t => (List.range per).filterMap fun n => (s.expectedAt surface lane t n).map fun x => (surface, x)

/-- What a remap copy writes for a sector of the old lane: what was read, or an unrecoverable marker with reason 1 in the sector's own
place and generation (R56, R68, R73, R179). -/
def State.remapSector (s : State) (surface spare : Nat) (r : DeviceResult) : SectorOut :=
  match r.found with
  | some d => { lane := spare, track := r.track, sector := r.sector, lba := r.lba, gen := d.generation, flags := d.flags ||| 8, data := d.data }
  | none =>
    let x := s.expectedAt surface r.lane r.track r.sector
    { lane := spare, track := r.track, sector := r.sector, lba := r.lba
      gen := (x.map (s.heldGeneration surface)).getD 0
      flags := sectorFlags ((x.map SectorInFlight.cellar).getD false) true false false, data := markerData r.lba 1 s.tick }

/-- Recording order of two sectors of a lane. -/
def recordedBefore (a b : DeviceResult) : Bool :=
  decide (a.track < b.track) || (decide (a.track = b.track) && decide (a.sector ≤ b.sector))

/-- The second half of a remap copy: every sector read goes to the spare (R73). -/
def State.remapWrite (s : State) (r : Remap) (e : ZoneEntry) (d : DeviceRead) : State :=
  let spare := e.firstLane + e.laneCount - e.spareLanes + r.spare
  let rows := d.results.mergeSort recordedBefore
  let w : ChunkWrite := {
    head := r.surface, stripe := 0, lane := spare, nsid := 0, lba := r.zone * 2 ^ 32 + r.offset, kind := 4, total := rows.length
    sectors := rows.map (s.remapSector r.surface spare), markers := (rows.zipIdx.filter fun x => x.1.found.isNone).map Prod.snd
    spare := true }
  if rows = [] then s.remapStage r.surface r.zone r.offset 3
  else
    let s := s.remapStage r.surface r.zone r.offset 2
    { s with write := { s.write with chunks := s.write.chunks ++ [w] } }

/-- LANE_REMAP_COPY: the defective lane is read under exclusive entries on every stripe of its row, and every sector of both tracks
goes to the spare, one that could not be recovered as a marker with reason 1. Without room among the device's 64 entries, or
behind an earlier entry, the copy waits (R73, R352, R356). -/
def execLaneRemapCopy (surface zone offset : Nat) (s : State) : Host.Outcome State Fault Refusal :=
  .next (match s.remap? surface zone offset, s.zoneTable surface, s.zoneOf surface zone with
    | some r, some t, some e =>
      let owner : LockOwner := .remap surface (e.firstLane + offset)
      let key := zone * 2 ^ 32 + offset
      if r.stage = 0 then
        let (d0, d1) := rowSectors t.entries zone (offset - e.cellarLanes)
        let ranges := if offset < e.cellarLanes then [] else s.domainRanges (actOf surface) d0 d1
        let held := (s.lockOf owner).isSome || decide (ranges = [])
        if (s.act (actOf surface)).load ≠ 2 ∨ (¬ held ∧ 64 < s.deviceLocks + ranges.length) then s
        else
          let s := if held then s else ranges.foldl (fun (s : State) r => s.insertLock r.1 r.2.1 r.2.2 true owner) s
          let waiting := (s.write.chunks.filter fun w => decide (w.head = surface) && s.laneBusy surface w.lane).flatMap fun w =>
            (s.chunkOwners w).map fun o => LockOwner.host o.1 o.2.1 o.2.2
          if ¬ s.remapMay owner waiting then s
          else
            (s.remapStage surface zone offset 1).startRead 5 (actOf surface) surface key
              (s.laneWants surface (s.resolveSpare e surface zone offset).1 [0, 1])
      else if r.stage = 1 then
        match s.readFor 5 surface key with
        | some d => if d.want ≠ [] then s else (s.endRead d).remapWrite r e d
        | none => s
      else s
    | _, _, _ => s)

/-- A spare table with a lane offset mapped to entry `i`; a spare mapped to it before is retired (R70, R71). -/
def mapSpare (t : SpareTable) (offset i : Nat) : SpareTable :=
  let seq := (t.sequence + 1) % 2 ^ 32
  { t with
    sequence := seq
    entries := t.entries.mapIdx fun k (e : SpareEntry) =>
      if k = i then { state := 1, laneOffset := offset, mapSequence := seq % 65536 }
      else if e.state = 1 ∧ e.laneOffset = offset then { e with state := 2 } else e }

/-- A chunk write of a remapped lane goes to the spare from its first sector on (R73, R198). -/
def moveChunk (surface old spare : Nat) (w : ChunkWrite) : ChunkWrite :=
  if w.head = surface ∧ w.lane = old ∧ w.kind ≠ 4 then
    { w with
      lane := spare, spare := true, written := 0, opened := 0, emitted := 0, rewrites := 0, verifying := false, cut := false, retries := 0
      ended := false, sectors := w.sectors.map fun o => { o with lane := spare, flags := o.flags ||| 8 } }
  else w

/-- Copy 1 of the updated spare table is on media: the table is in force, and chunk writes of the lane go to the spare (R70 to R73,
R198). -/
def State.remapInForce (s : State) (r : Remap) (e : ZoneEntry) : State :=
  let old := (s.resolveSpare e r.surface r.zone r.offset).1
  let spare := e.firstLane + e.laneCount - e.spareLanes + r.spare
  let change (t : SpareTable) : SpareTable := if t.surface = r.surface ∧ t.zone = r.zone then mapSpare t r.offset r.spare else t
  let s := s.cancelReads fun d => decide (d.purpose = 8) && s.write.chunks.any fun w =>
    decide (w.head = r.surface) && decide (w.lane = old) && decide (w.nsid = d.nsid) && decide (w.lba = d.lba)
  { s with
    layout := { s.layout with spares := s.layout.spares.map change }
    write := { s.write with chunks := s.write.chunks.map (moveChunk r.surface old spare) } }

/-- LANE_REMAP_COMMIT: the updated spare table is written to its next copy and read back: copies 1 and 2 on the surface, then copy 3 on
its partner. `good` tells whether the copy read back well; else it is written again. After copy 3 the entries are released
(R61, R72, R73). -/
def execLaneRemapCommit (surface zone offset : Nat) (good : Bool) (s : State) : Host.Outcome State Fault Refusal :=
  .next (match s.remap? surface zone offset, s.zoneOf surface zone with
    | some r, some e =>
      let copy := r.stage - 2
      let on := if copy = 3 then partnerSurface surface else surface
      if r.stage < 3 ∨ ¬ s.systemMay on then s
      else
        let change (t : SpareTable) : SpareTable := if copy = 1 then mapSpare t offset r.spare else t
        let s := s.systemWrite on 2 zone copy (((s.spareTable surface zone).map fun t => spareTableBytes (change t)).getD [])
        if ¬ good then s
        else if copy < 3 then
          (if copy = 1 then s.remapInForce r e else s).remapStage surface zone offset (r.stage + 1)
        else
          let s := { s with layout := { s.layout with remaps := s.layout.remaps.filter fun x =>
            !(decide (x.surface = surface) && decide (x.zone = zone) && decide (x.offset = offset)) } }
          (s.releaseLock (.remap surface (e.firstLane + offset))).noteWarnings
    | _, _ => s)

/-! ### Verify (R196 to R198) -/

/-- Sectors of a chunk write to be read back: a slot's data before its copies are due, then the copies; else every sector (R196,
R365). -/
def ChunkWrite.toVerify (w : ChunkWrite) : List SectorOut :=
  if w.kind = 1 then (if w.copies = 0 then w.sectors.take w.total else w.sectors.drop w.total) else w.sectors

/-- A written sector as a read back wants it. -/
def readOf (w : ChunkWrite) (o : SectorOut) : Nat × SectorInFlight :=
  (w.head, { lba := o.lba, nsid := w.nsid, lane := o.lane, track := o.track, sector := o.sector, port := 0, sqid := 0, cid := 0
             cellar := o.flags.testBit 4, spare := o.flags.testBit 3 })

/-- Whether a sector read back passes verify: its in-line turn within VerifyIterMargin iterations, header accepted, generation as
written (R197). -/
def State.verifyPasses (s : State) (d : DeviceRead) (o : SectorOut) : Bool :=
  d.results.any fun r => decide (r.track = o.track) && decide (r.sector = o.sector) && decide (r.step = 0) && !r.deferred &&
    decide (r.iterations ≤ s.nat O.verifyIterMargin) && match r.found with
      | some x => decide (x.generation = o.gen)
      | none => false

/-- A home chunk that failed verify (R198): rewritten whole, or, after VerifyRewriteLimit rewrites, its lane remapped; with no
spare free the write fails. -/
def State.verifyFailed (s : State) (w : ChunkWrite) : State :=
  let again : ChunkWrite := { w with verifying := false, written := 0, opened := 0, emitted := 0, cut := false, retries := 0 }
  if w.rewrites < s.nat O.verifyRewriteLimit then
    (s.bump (O.verifyRewrites + w.head)).putChunk { again with rewrites := w.rewrites + 1 }
  else
    match s.servedOffset w.head w.lane with
    | some (z, _, x, _) =>
      match s.askRemap w.head z x with
      | (true, s) => s.putChunk again
      | (false, s) => s.chunkFailed w
    | none => s.chunkFailed w

/-- A slot's copies that both failed verify (R365): rewritten in place, or the write is staged again. -/
def State.copiesFailed (s : State) (w : ChunkWrite) : State :=
  match s.slotOf w with
  | none => s.dropChunk w
  | some c =>
    if c.rewrites < s.nat O.verifyRewriteLimit then
      let s := (s.bump (O.verifyRewrites + w.head)).modSlot c.act c.seq fun x => { x with rewrites := x.rewrites + 1 }
      s.putChunk { w with verifying := false, written := w.total, opened := w.total, emitted := w.total, cut := false, retries := 0 }
    else ((s.dropChunk w).modSlot c.act c.seq fun x => { x with failed := true }).stageAgain c

/-- What the read back of a chunk write decides. A slot's data sectors pass before its copies are written; one good copy is enough; a
levelling that fails is learnt again (R193, R196 to R198, R365). -/
def State.verified (s : State) (w : ChunkWrite) (d : DeviceRead) : State :=
  let all := w.toVerify.all (s.verifyPasses d)
  if w.kind = 1 then
    if w.copies = 0 then
      if all then s.putChunk { w with verifying := false, copies := 2 }
      else
        match s.slotOf w with
        | some c => (s.abandonSlot c.act c.seq).stageAgain c
        | none => s.dropChunk w
    else if w.toVerify.any (s.verifyPasses d) then s.flipSlot w false
    else s.copiesFailed w
  else if w.kind = 3 then (if all then s.chunkLevelled w else s.dropChunk w)
  else if all then s.chunkLanded w
  else s.verifyFailed w

/-- VERIFY_READBACK: with verify on, the sectors written are read back by the data readers on the next revolution, and once every one
is final the chunk or slot goes on, or is rewritten or remapped (R196 to R198, R365). -/
def execVerifyReadback (head nsid lba : Nat) (s : State) : Host.Outcome State Fault Refusal :=
  .next (match s.chunkOf head nsid lba ChunkWrite.verifying with
    | none => s
    | some w =>
      match s.readFor 8 nsid lba with
      | none => s.startRead 8 (actOf head) nsid lba (w.toVerify.map (readOf w))
      | some d => if d.want ≠ [] then s else (s.endRead d).verified w d)

/-! ### Home chunks written by the device (R176, R366) -/

/-- A home chunk of a restocking or refresh made ready to be written. -/
def State.readyHome (s : State) (p : Place) (nsid lba : Nat) (restocked : Bool) (data markers : List Nat) : State :=
  let w : ChunkWrite := {
    head := p.surface, stripe := p.stripe, lane := p.lane, nsid := nsid, lba := lba, kind := 2, total := 64, data := data
    markers := markers, track := p.track, sector := p.sector, spare := p.remapped, restocked := restocked
    verify := decide (s.nat (O.verifyEnable + (nsid - 1)) = 1) }
  { s with write := { s.write with chunks := s.write.chunks ++ [w] } }

/-- A home chunk on its way to be written whole by the device, under its own exclusive entry: recovered sectors that wait for their
refresh, then what is cached, then what a read finds (R176, R183, R356, R366). Without room among the device's 64 entries, or
behind an earlier entry, it waits. -/
def State.homeWork (s : State) (p : Place) (nsid lba : Nat) (restocked : Bool) : State :=
  let owner : LockOwner := .restock nsid (lba / 64)
  let due (i : Nat) : Option Nat :=
    (s.detect.refreshes.find? fun r => decide (r.nsid = nsid) && decide (r.lba = lba + i)).map Refresh.data
  if (s.lockOf owner).isNone ∧ 64 ≤ s.deviceLocks then s
  else
    let s := if (s.lockOf owner).isSome then s else s.insertLock nsid lba (lba + 63) true owner
    if ¬ s.mayStart owner ∨ (s.chunkOf p.surface nsid lba fun w => decide (w.kind = 2)).isSome then s
    else
      let (data, missing) := s.chunkData nsid (lba / 64) due
      let marked := (List.range 64).filter fun i => match due i with
        | some x => isMarker (lba + i) x
        | none => false
      match s.readFor 4 nsid lba with
      | none =>
        if missing = [] then s.readyHome p nsid lba restocked data marked
        else s.startFill 4 p.act nsid lba missing (s.entry p.surface p.stripe).trusted
      | some d =>
        if d.want ≠ [] then s
        else if ¬ d.covers (missing.map (lba + ·)) then s.endRead d
        else
          let (data, markers) := s.fillChunk nsid lba missing data d
          (s.endRead d).readyHome p nsid lba restocked data (marked ++ markers)

/-- Flipped slots that a home chunk is still to be restocked for (R366). -/
def State.toRestock (s : State) (nsid chunk : Nat) : List CellarSlot :=
  s.cmds.slots.filter fun c => c.mapped && decide (c.nsid = nsid) && c.toRestock.contains chunk

/-- SECTOR_REFRESH: a sector recovered at RefreshStep or later has its home chunk rewritten from the recovered data, or restocked
from it where it came from a slot, at once; then its captures are released (R176, R178, log entry 120). -/
def execSectorRefresh (nsid lba : Nat) (s : State) : Host.Outcome State Fault Refusal :=
  let first := lba / 64 * 64
  .next (match s.locate nsid first with
    | none => s
    | some p =>
      if s.detect.refreshes.any fun r => decide (r.nsid = nsid) && decide (r.lba = lba) then
        s.homeWork p nsid first (decide (s.toRestock nsid (lba / 64) ≠ []))
      else s)

/-- Whether an actuator's restocking goes ahead of new atomic writes: its free ring space is below CellarLowWater percent
(R366). -/
def State.lowWater (s : State) (a : Nat) : Bool :=
  let total := ((List.range 24).map fun r => s.ringSize a r).sum
  decide (s.cellarFree a * 100 < s.nat O.cellarLowWater * total)

/-- Whether other work of the same kind goes ahead of a restocking: a refresh from a slot (R176), or a slot to be restocked ahead of
all others (R365). -/
def State.restockWaits (s : State) (a : Nat) (urgent : Bool) : Bool :=
  (s.detect.refreshes.any fun r => r.cellar && decide (s.homeAct r.nsid r.lba = a)) ||
    (!urgent && s.cmds.slots.any fun c => c.mapped && decide (c.act = a) && c.urgent)

/-- RESTOCK_CHUNK: in a spare revolution a home chunk that a flipped slot covers is written whole from the newest slot data, under its
own exclusive entry; a slot sector that cannot be recovered is a marker with reason 5, a home one with reason 2 (R183, R274,
R366). -/
def execRestockChunk (nsid chunk : Nat) (s : State) : Host.Outcome State Fault Refusal :=
  let pending := s.toRestock nsid chunk
  .next (match s.locate nsid (64 * chunk) with
    | none => s
    | some p =>
      let urgent := pending.any (·.urgent)
      let begun := (s.lockOf (.restock nsid chunk)).isSome
      let turn := s.spareFor p.act 2 || s.lowWater p.act || urgent
      if pending = [] ∨ (¬ begun ∧ (¬ turn ∨ s.restockWaits p.act urgent)) then s
      else s.homeWork p nsid (64 * chunk) true)

/-! ### After a cut (R187) -/

/-- What an adjacent check decides, once its read is final: an unrecoverable sector has its chunk rewritten with a marker of reason 3,
and a lane with a weak reader C is remapped. A sector that needed the ladder has been recovered and waits for its refresh. -/
def State.checkedAdjacent (s : State) (c : AdjacentCheck) (d : DeviceRead) : State :=
  let lost := d.results.filterMap fun r => if r.found.isSome then none else s.expectedAt c.head r.lane r.track r.sector
  let due (x : SectorInFlight) : Refresh :=
    { stream := 2 * c.head + c.track, nsid := x.nsid, lba := x.lba, data := markerData x.lba 3 s.tick, cellar := x.cellar, slots := [] }
  let s : State := { s with
    detect := { s.detect with refreshes := s.detect.refreshes ++ (lost.filter fun x => decide (x.nsid ≠ 0)).map due }
    write := { s.write with adjacent := s.write.adjacent.filter fun x => decide (x ≠ c) } }
  if c.weak then
    match s.servedOffset c.head c.lane with
    | some (z, _, x, _) => (s.askRemap c.head z x).2
    | none => s
  else s

/-- ADJACENT_CHECK_READ: after a cut whose peak error passed AdjacentCheckLimit, the track that was not being written is read on the
head's next revolution of the lane row, reader C being watched over the span of the excursion; once every sector is final the
check is made (R187). -/
def execAdjacentCheckRead (head lane : Nat) (s : State) : Host.Outcome State Fault Refusal :=
  .next (match s.write.adjacent.find? fun c => decide (c.head = head) && decide (c.lane = lane) with
    | none => s
    | some c =>
      match s.readFor 3 head (2 * lane + c.track) with
      | none =>
        if (s.act (actOf head)).load ≠ 2 then s
        else
          let s : State := { s with write := { s.write with adjacent := s.write.adjacent.map fun x =>
            if x = c then { x with reading := true } else x } }
          s.startRead 3 (actOf head) head (2 * lane + c.track) (s.laneWants head lane [c.track])
      | some d => if d.want ≠ [] then s else (s.endRead d).checkedAdjacent c d)

end Sys2Proof.Machine
end

