-- ==== Sys2Proof/Machine/Microcode.lean ====
section
/-! DEFINITION. The Rafter microcode (R207, R211 to R214). An instruction acts on the sample its loop runs, where the microcode store
holds it as that sample's next word; any other is not executed (R214, log entry 7). One with a reserved field value or an operand
out of bounds stops the machine: the device refuses a set that holds one (R216). -/

namespace Sys2Proof.Machine

/-- Whether an input select is assigned (R213). -/
def inputAssigned (imm : Nat) : Bool :=
  let i := imm % 256
  match imm / 256 with
  | 0 => true
  | 1 => decide (i < 24)
  | 2 => decide (i < 4)
  | 4 => decide (i < 8)
  | 5 => decide (i < 2)
  | 6 => decide (i = 0)
  | 7 => decide (i < 64)
  | _ => false

/-- Whether an output select is assigned and open to a loop (R213, R216). -/
def outputAssigned (n imm : Nat) : Bool :=
  let i := imm % 256
  match imm / 256 with
  | 0 => true
  | 2 => decide (i < 4) && decide (n < 36) && decide (n % 9 = 6)
  | 3 => decide (n < 36) && decide (n % 9 < 6) && decide (i = 6 * (n / 9) + n % 9)
  | 5 => decide (i = 0) && decide (n = 36)
  | 7 => decide (i < 16)
  | _ => false

/-! ### Words (R211, R212) -/

/-- A field of a microcode word: its lowest bit and its width. -/
def wordField (w low width : Nat) : Nat := w / 2 ^ low % 2 ^ width

/-- States, inputs and outputs of a state-space block from its Imm (R212). -/
def ssbSize (w : Nat) : Nat × Nat × Nat := (wordField w 9 3 + 1, wordField w 6 3 + 1, wordField w 3 3 + 1)

/-- Cycles of a word (R212). -/
def wordCycles (w : Nat) : Nat :=
  match wordField w 58 6 with
  | 6 | 7 => 2
  | 8 => 6 * wordField w 20 6
  | 9 => let (n, m, p) := ssbSize w; 2 + (n + p) * (n + m)
  | 11 => 3
  | 13 => 4
  | _ => 1

/-- Whether a word of a loop uses no reserved value and keeps its operands within bounds (R211 to R213, R216). -/
def wordAdmitted (n w : Nat) : Bool :=
  let coef := wordField w 32 8
  let state := wordField w 26 6
  let count := wordField w 20 6
  let imm := wordField w 0 12
  decide (wordField w 12 2 = 0) && (match wordField w 58 6 with
    | 1 => inputAssigned imm
    | 2 => outputAssigned n imm
    | 8 => decide (1 ≤ count) && decide (count ≤ 16) && decide (coef + 5 * count ≤ 256) && decide (state + 2 * count ≤ 64)
    | 9 =>
      let (i, m, p) := ssbSize w
      decide (coef + (i + p) * (i + m) ≤ 256) && decide (state + i ≤ 64) && decide (wordField w 46 6 + m ≤ 64) &&
        decide (wordField w 52 6 + p ≤ 64)
    | 10 => decide (coef + 1 < 256)
    | 11 => decide (coef + 2 < 256)
    | 13 => decide (1 ≤ count) && decide (coef + 2 * count + 1 < 256)
    | op => decide (op ≤ 14))

/-- Fields of a microcode word with the values an instruction names: lowest bit, width, value (R211). -/
abbrev WordFields := List (Nat × Nat × Nat)

/-- Whether a word is an instruction: its opcode and the fields that the opcode uses. -/
def wordIs (w op : Nat) (fields : WordFields) : Bool :=
  decide (wordField w 58 6 = op) && fields.all fun f => decide (wordField w f.1 f.2.1 = f.2.2)

/-- The fields of the destination and the two sources. -/
def nodeFields (dst srcA srcB : Option Nat) : WordFields :=
  (dst.map fun d => (52, 6, d)).toList ++ (srcA.map fun a => (46, 6, a)).toList ++ (srcB.map fun b => (40, 6, b)).toList

/-- The Coef, State and Count fields. -/
def memoryFields (coef : Nat) (state count : Option Nat) : WordFields :=
  (32, 8, coef) :: ((state.map fun x => (26, 6, x)).toList ++ (count.map fun x => (20, 6, x)).toList)

/-- The Shift field of INTEGER4 and the two flags of a result; no word holds a Shift outside −8 to +7. -/
def resultFields (shift : Int) (round satCount : Bool) : WordFields :=
  [(16, 4, if -8 ≤ shift ∧ shift ≤ 7 then (shift % 16).toNat else 16), (15, 1, round.toNat), (14, 1, satCount.toNat)]

/-! ### Execution (R214) -/

/-- The word that a sample executes next. -/
def State.fetched (s : State) (x : LoopSample) : Nat := (assoc? s.rafter.store x.pc).getD 0

/-- Whether the lane has reached a loop's sample: no sample of a faster loop of the lane runs, which would suspend it, and none of an
earlier slot of its rate whose boundary is no later (R214). -/
def State.laneFree (s : State) (n : Nat) (x : LoopSample) : Bool :=
  (List.range 37).all fun m => !(decide (laneOf m = laneOf n) && decide (m ≠ n) && (match (s.loop m).sample with
    | some y => decide (loopPeriod m < loopPeriod n) || (decide (loopPeriod m = loopPeriod n) && decide (m < n) &&
        decide (y.boundary ≤ x.boundary))
    | none => false))

/-- An instruction of a loop's running sample: it executes where it is the next word of the sample's straight line, on a lane that
has come to the loop; a word with a reserved value or an operand out of bounds, which no admitted set holds, stops the machine
(R214, R216). -/
def microOp (s : State) (n op : Nat) (fields : WordFields) (f : LoopSample → State → State) : Host.Outcome State Fault Refusal :=
  match s.hasSlot n && s.loopRuns n, (s.loop n).sample with
  | true, some x =>
    let w := s.fetched x
    if ¬ wordIs w op fields ∨ ¬ s.laneFree n x then .next s
    else if wordAdmitted n w then .next (f x (s.modLoop n fun l => { l with sample := some { x with pc := x.pc + 1 } }))
    else .fault .reservedMicrocode
  | _, _ => .next s

/-- Node value of a loop. -/
def State.node (s : State) (n i : Nat) : Int := memWord (s.loop n).nodes i

/-- Coefficient of the bank a sample runs on (R205, R225). -/
def State.coef (s : State) (n : Nat) (x : LoopSample) (i : Nat) : Int := memWord ((s.loop n).bank x.bank) i

/-- State word of a loop in Q8.40. -/
def State.stateWord (s : State) (n i : Nat) : Int := memWord (s.loop n).states i

/-- State word written. -/
def State.setStateWord (s : State) (n i : Nat) (v : Int) : State := s.modLoop n fun l => { l with states := putKey l.states i v }

/-- The accumulator written to a node: scaled, rounded, saturated to Q2.30, with a flagged saturation counted and offered to
the trace trigger (R207, R234). -/
def State.writeNode (s : State) (n dst : Nat) (acc shift : Int) (round satCount : Bool) : State :=
  let v := scaleAcc acc shift round
  let w := satTo 32 v
  let s := s.modLoop n fun l => { l with nodes := putKey l.nodes dst w }
  if satCount ∧ v ≠ w then (s.bump (O.loopSaturations + n)).traceEvent 12 n else s

/-- NOP (R212). -/
def execMcNop (slot : Nat) (s : State) : Host.Outcome State Fault Refusal := microOp s slot 0 [] fun _ s => s

/-- IN: the latched input that Imm selects (R205, R213). -/
def execMcIn (slot dst imm : Nat) (shift : Int) (round satCount : Bool) (s : State) : Host.Outcome State Fault Refusal :=
  microOp s slot 1 (nodeFields (some dst) none none ++ resultFields shift round satCount ++ [(0, 12, imm)]) fun x s =>
    s.writeNode slot dst (toAcc (memWord x.latched imm)) shift round satCount

/-- OUT: a node to the output or exchange register that Imm selects (R206, R213). -/
def execMcOut (slot srcA imm : Nat) (s : State) : Host.Outcome State Fault Refusal :=
  microOp s slot 2 (nodeFields none (some srcA) none ++ [(0, 12, imm)]) fun _ s =>
    let v := s.node slot srcA
    s.modLoop slot fun l => { l with outputs := putKey l.outputs imm v }

/-- MOV (R212). -/
def execMcMov (slot dst srcA : Nat) (shift : Int) (round satCount : Bool) (s : State) : Host.Outcome State Fault Refusal :=
  microOp s slot 3 (nodeFields (some dst) (some srcA) none ++ resultFields shift round satCount) fun _ s =>
    s.writeNode slot dst (toAcc (s.node slot srcA)) shift round satCount

/-- ADD (R212). -/
def execMcAdd (slot dst srcA srcB : Nat) (shift : Int) (round satCount : Bool) (s : State) :
    Host.Outcome State Fault Refusal :=
  microOp s slot 4 (nodeFields (some dst) (some srcA) (some srcB) ++ resultFields shift round satCount) fun _ s =>
    s.writeNode slot dst (accAdd (toAcc (s.node slot srcA)) (toAcc (s.node slot srcB))) shift round satCount

/-- SUB (R212). -/
def execMcSub (slot dst srcA srcB : Nat) (shift : Int) (round satCount : Bool) (s : State) :
    Host.Outcome State Fault Refusal :=
  microOp s slot 5 (nodeFields (some dst) (some srcA) (some srcB) ++ resultFields shift round satCount) fun _ s =>
    s.writeNode slot dst (accAdd (toAcc (s.node slot srcA)) (-(toAcc (s.node slot srcB)))) shift round satCount

/-- MUL (R212). -/
def execMcMul (slot dst srcA coefWord : Nat) (shift : Int) (round satCount : Bool) (s : State) :
    Host.Outcome State Fault Refusal :=
  microOp s slot 6 (nodeFields (some dst) (some srcA) none ++ memoryFields coefWord none none ++ resultFields shift round satCount) fun x s =>
    s.writeNode slot dst (accAdd 0 (nodeProduct (s.node slot srcA) (s.coef slot x coefWord))) shift round satCount

/-- MAC (R212). -/
def execMcMac (slot dst srcA srcB coefWord : Nat) (shift : Int) (round satCount : Bool) (s : State) :
    Host.Outcome State Fault Refusal :=
  microOp s slot 7 (nodeFields (some dst) (some srcA) (some srcB) ++ memoryFields coefWord none none ++
    resultFields shift round satCount) fun x s =>
    s.writeNode slot dst (accAdd (toAcc (s.node slot srcB)) (nodeProduct (s.node slot srcA) (s.coef slot x coefWord)))
      shift round satCount

/-- One section of a BIQ: its output in Q8.40, and the state with its two states moved on (R212). -/
def State.biquad (s : State) (n : Nat) (x : LoopSample) (c w : Nat) (input : Int) : Int × State :=
  let k (i : Nat) : Int := s.coef n x (c + i)
  let s1 := s.stateWord n w
  let s2 := s.stateWord n (w + 1)
  let y := accAdd (accProduct input (k 0)) s1
  let t1 := accAdd (accAdd (accProduct input (k 1)) (-(accProduct y (k 3)))) s2
  let t2 := accAdd (accProduct input (k 2)) (-(accProduct y (k 4)))
  (y, (s.setStateWord n w t1).setStateWord n (w + 1) t2)

/-- BIQ: sections in cascade, their intermediate outputs in Q8.40 (R212). -/
def execMcBiq (slot dst srcA coefWord stateBase sections : Nat) (shift : Int) (round satCount : Bool) (s : State) :
    Host.Outcome State Fault Refusal :=
  microOp s slot 8 (nodeFields (some dst) (some srcA) none ++ memoryFields coefWord (some stateBase) (some sections) ++
    resultFields shift round satCount) fun x s =>
    let (y, s) := (List.range sections).foldl (fun (p : Int × State) k =>
      p.2.biquad slot x (coefWord + 5 * k) (stateBase + 2 * k) p.1) (toAcc (s.node slot srcA), s)
    s.writeNode slot dst y shift round satCount

/-- One row of a matrix times the states, then of another times the inputs, accumulated with saturation. -/
def rowSum (rowA rowB xs us : List Int) : Int :=
  let a := (rowA.zip xs).foldl (fun (acc : Int) p => accAdd acc (accProduct p.2 p.1)) 0
  (rowB.zip us).foldl (fun (acc : Int) p => accAdd acc (nodeProduct p.2 p.1)) a

/-- SSB: a state-space block with `n` states, `m` inputs and `p` outputs (R212). Outputs and next states come from the states
before the step. -/
def execMcSsb (slot dst srcA coefWord stateBase imm : Nat) (shift : Int) (round satCount : Bool) (s : State) :
    Host.Outcome State Fault Refusal :=
  let n := imm / 512 % 8 + 1
  let m := imm / 64 % 8 + 1
  let p := imm / 8 % 8 + 1
  microOp s slot 9 (nodeFields (some dst) (some srcA) none ++ memoryFields coefWord (some stateBase) none ++
    resultFields shift round satCount ++ [(0, 12, imm)]) fun x s =>
    let row (base width i : Nat) : List Int := (List.range width).map fun j => s.coef slot x (base + i * width + j)
    let a := coefWord
    let b := a + n * n
    let c := b + n * m
    let d := c + p * n
    let xs := (List.range n).map fun i => s.stateWord slot (stateBase + i)
    let us := (List.range m).map fun i => s.node slot (srcA + i)
    let ys := (List.range p).map fun i => rowSum (row c n i) (row d m i) xs us
    let next := (List.range n).map fun i => rowSum (row a n i) (row b m i) xs us
    let s := next.zipIdx.foldl (fun (s : State) v => s.setStateWord slot (stateBase + v.2) v.1) s
    ys.zipIdx.foldl (fun (s : State) v => s.writeNode slot (dst + v.2) v.1 shift round satCount) s

/-- A value clamped between two limits; crossed limits leave the result open (log entry 2). -/
def State.clampFree (s : State) (lo hi v : Int) : Int × State :=
  if lo ≤ hi then (clampInt lo hi v, s)
  else
    let (f, s) := s.takeFree
    (satTo 48 ((f % 2 ^ 48 : Nat) - (2 ^ 47 : Int)), s)

/-- LIM (R212). -/
def execMcLim (slot dst srcA coefWord : Nat) (shift : Int) (round satCount : Bool) (s : State) :
    Host.Outcome State Fault Refusal :=
  microOp s slot 10 (nodeFields (some dst) (some srcA) none ++ memoryFields coefWord none none ++ resultFields shift round satCount) fun x s =>
    let (v, s) := s.clampFree (toAcc (s.coef slot x coefWord)) (toAcc (s.coef slot x (coefWord + 1)))
      (toAcc (s.node slot srcA))
    s.writeNode slot dst v shift round satCount

/-- INT: an integrator whose state is clamped (R212). -/
def execMcInt (slot dst srcA coefWord stateBase : Nat) (shift : Int) (round satCount : Bool) (s : State) :
    Host.Outcome State Fault Refusal :=
  microOp s slot 11 (nodeFields (some dst) (some srcA) none ++ memoryFields coefWord (some stateBase) none ++
    resultFields shift round satCount) fun x s =>
    let sum := accAdd (s.stateWord slot stateBase) (nodeProduct (s.node slot srcA) (s.coef slot x coefWord))
    let (v, s) := s.clampFree (toAcc (s.coef slot x (coefWord + 1))) (toAcc (s.coef slot x (coefWord + 2))) sum
    (s.setStateWord slot stateBase v).writeNode slot dst v shift round satCount

/-- SEL: one of two nodes by the sign of the condition node (R212). -/
def execMcSel (slot dst srcA srcB imm : Nat) (shift : Int) (round satCount : Bool) (s : State) :
    Host.Outcome State Fault Refusal :=
  microOp s slot 12 (nodeFields (some dst) (some srcA) (some srcB) ++ resultFields shift round satCount ++ [(0, 12, imm)]) fun _ s =>
    let v := if 0 ≤ s.node slot (imm % 64) then s.node slot srcA else s.node slot srcB
    s.writeNode slot dst (toAcc v) shift round satCount

/-- Piecewise-linear value in Q8.40 of `x` over a table of breakpoint and value pairs, clamped at the ends, rounded to 40
fraction bits; none where two neighbouring breakpoints that enclose `x` do not ascend. -/
def lutValue (x : Int) : List (Int × Int) → Option Int
  | [] => some 0
  | [(_, v)] => some (toAcc v)
  | (b0, v0) :: (b1, v1) :: rest =>
    if x ≤ b0 then some (toAcc v0)
    else if x < b1 then some (roundDiv ((v0 * (b1 - b0) + (x - b0) * (v1 - v0)) * 2 ^ 10) (b1 - b0).toNat)
    else if b1 ≤ b0 then none
    else lutValue x ((b1, v1) :: rest)

/-- LUT (R212). -/
def execMcLut (slot dst srcA coefWord sections : Nat) (shift : Int) (round satCount : Bool) (s : State) :
    Host.Outcome State Fault Refusal :=
  microOp s slot 13 (nodeFields (some dst) (some srcA) none ++ memoryFields coefWord none (some sections) ++
    resultFields shift round satCount) fun x s =>
    let table := (List.range (sections + 1)).map fun i =>
      (s.coef slot x (coefWord + i), s.coef slot x (coefWord + sections + 1 + i))
    match lutValue (s.node slot srcA) table with
    | some v => s.writeNode slot dst v shift round satCount
    | none =>
      let (f, s) := s.takeFree
      s.writeNode slot dst ((f % 2 ^ 48 : Nat) - (2 ^ 47 : Int)) shift round satCount

/-! ### The end of a sample (R217, R218, R222, R232, R234) -/

/-- Whether a recorded level meets the trigger condition (R234); the two crossings need a level before. -/
def levelMet (condition : Nat) (level : Int) (last : Option Int) (v : Int) : Bool :=
  match condition with
  | 0 => last.any (fun w => decide (w < level)) && decide (level ≤ v)
  | 1 => last.any (fun w => decide (level < w)) && decide (v ≤ level)
  | 2 => decide (level < v)
  | _ => decide (v < level)

/-- One trace channel offered the end of a sample of a loop (R232 to R234). -/
def State.traceChannel (s : State) (n boundary c : Nat) : State :=
  let src := s.nat (O.traceSource + c)
  let ch := s.rafter.channels.getD c {}
  let mode := s.nat O.traceState
  if src / 256 ≠ n ∨ (mode ≠ 1 ∧ mode ≠ 2) ∨ (mode = 2 ∧ ch.after = 0) then s
  else
    let put (s : State) (ch : TraceChannel) : State :=
      { s with rafter := { s.rafter with channels := s.rafter.channels.set c ch } }
    if ch.skip ≠ 0 then put s { ch with skip := ch.skip - 1 }
    else
      let v := s.node n (src % 64)
      let later := decide (mode = 2) && decide (120 * s.nat O.triggerTick ≤ boundary)
      let samples := (v, boundary / 120) :: ch.samples
      let was := ch.last
      let ch := { ch with skip := 2 ^ s.nat (O.traceDecimation + c) - 1, last := some v }
      if later then put s { ch with samples := samples, after := ch.after - 1 }
      else
        let kept := samples.take (if mode = 1 then 65536 else s.nat O.preTrigger)
        let s := put s { ch with samples := kept, trigger := if mode = 1 then ch.trigger else kept.length }
        if s.nat O.triggerSource = c + 1 ∧ levelMet (s.nat O.triggerCondition) (s.obj O.triggerLevel) was v then s.fireTrace
        else s

/-- The trace after a recording: stopped once every channel is complete (R233). -/
def State.traceSettle (s : State) : State :=
  if s.nat O.traceState = 2 ∧ s.rafter.channels.all fun ch => decide (ch.after = 0) then s.setNat O.traceState 3 else s

/-- Slack in 10 ns of an amount of sub-ticks, within INTEGER16. -/
def slackUnits (slack : Int) : Int := satTo 16 (slack * 5 / 6)

/-- Three samples of slot 36 in time in a row end the set-point hold (R220). -/
def State.speedSample (s : State) (late : Bool) : State :=
  if s.rafter.holdSpindle then
    let run := if late then 0 else s.rafter.goodRun + 1
    if 3 ≤ run then ({ s with rafter := { s.rafter with holdSpindle := false, goodRun := 0 } }).endCondition 227
    else { s with rafter := { s.rafter with goodRun := run } }
  else s

/-- A sample marked late (R217, R219 to R221, R231): counted, the write gates of its head or its actuator closed, a reversion
due in a health window, and with the third in a row the actuator safe-parked or the spindle set-point held. -/
def State.markLate (s : State) (n : Nat) : State :=
  let s := (s.bump (O.loopLateSamples + n)).modLoop n fun l => { l with lateRun := l.lateRun + 1 }
  let a := n / 9
  let s := if n = 36 then s
    else if n % 9 < 6 then s.closeGate (6 * a + n % 9)
    else if n % 9 = 7 then s.each (headsOf a) State.closeGate else s
  let s := s.traceEvent 9 n
  let s := if s.rafter.health ≠ 0 then { s with rafter := { s.rafter with microSwap := true } } else s
  if (s.loop n).lateRun < 3 then s
  else if n < 36 then s.safePark a 1
  else if s.rafter.holdSpindle then s
  else ({ s with rafter := { s.rafter with holdSpindle := true, goodRun := 0 } }).raiseFault 227 255

/-- What ENDS does with a sample (R217, R218, R222, R232). -/
def State.endSample (s : State) (slot sub : Nat) (x : LoopSample) : State :=
  let now := s.subTime sub
  let deadline := x.boundary + loopDeadline slot
  let slack : Int := (deadline : Int) - now
  let late := x.late || decide (slack < 0)
  let s := if late ∧ ¬ x.late then s.markLate slot else s
  let s := s.modLoop slot fun l => { l with
    outputs := if l.waiting = [] then l.outputs else [], sample := l.waiting.head?, waiting := l.waiting.tail, lateRun := if late then l.lateRun else 0
    ready := if late then none else some x.boundary }
  let s := if slackUnits slack < s.obj (O.loopMinSlack + slot) then s.setObj (O.loopMinSlack + slot) (slackUnits slack) else s
  let s := if slack * 100 < ((s.nat O.slackWarnLimit * loopDeadline slot : Nat) : Int) then s.raiseFault 224 slot else s
  let s := if late then s.deadlineMiss 2 (36 + laneOf slot) slot (deadline / 120) s.tick else s
  let s := if slot = 36 then s.speedSample late else s
  (s.each (List.range 8) fun s c => s.traceChannel slot x.boundary c).traceSettle

/-- ENDS: the sample ends: its slack is taken, a late one raises its lane's deadline fault, the trace records, and a waiting
sample starts (R217, R218, R222, R232). -/
def execMcEnds (slot sub : Nat) (s : State) : Host.Outcome State Fault Refusal :=
  microOp s slot 14 [] fun x s => s.endSample slot sub x

end Sys2Proof.Machine
end

