-- ==== Sys2Proof/Machine/MicroSet.lean ====
section
/-! DEFINITION. Microcode sets: the descriptors of a set (R215) and its admission (R216). -/

namespace Sys2Proof.Machine

/-! ### Descriptors (R215) -/

/-- Field of a loop's descriptor in a set: its byte and its length. -/
def descriptor (set : List Nat) (n at_ len : Nat) : Nat := field set (16 * n + at_) len

/-- Whether a set holds a loop. -/
def setHas (set : List Nat) (n : Nat) : Bool := (descriptor set n 6 1).testBit 0

/-- DeclaredCycles of a loop. -/
def setCycles (set : List Nat) (n : Nat) : Nat := descriptor set n 4 2

/-- Words of a loop, from its entry up to and including ENDS. -/
def setWords (set : List Nat) (n : Nat) : List Nat :=
  cut (Config.microWords set) (descriptor set n 0 2) (descriptor set n 2 2)

/-- A signed number of `n` little-endian bytes. -/
def signedField (b : List Nat) (i n : Nat) : Int :=
  let v := field b i n
  if v < 2 ^ (8 * n - 1) then v else (v : Int) - 2 ^ (8 * n)

/-- A loop's coefficient image: 256 words of 4 bytes. -/
def setCoefs (set : List Nat) (n : Nat) : List (Nat × Int) :=
  (List.range 256).map fun i => (i, signedField set (descriptor set n 8 4 + 4 * i) 4)

/-- A loop's state image: 64 words of 6 bytes. -/
def setStates (set : List Nat) (n : Nat) : List (Nat × Int) :=
  (List.range 64).map fun i => (i, signedField set (descriptor set n 12 4 + 6 * i) 6)

/-- Whether a loop carries its coefficients, and its states, over the swap. -/
def setCarries (set : List Nat) (n bit : Nat) : Bool := (descriptor set n 6 1).testBit bit

/-- Exchange registers that a loop writes. -/
def setWrites (set : List Nat) (n : Nat) : List Nat :=
  ((setWords set n).filter fun w => decide (wordField w 58 6 = 2) && decide (wordField w 8 4 = 0)).map fun w => wordField w 0 8

/-! ### Admission (R216) -/

/-- Whether a descriptor is well formed, its words lie within the bank and end with their only ENDS, and its cycles are those the
device counts. -/
def loopAdmitted (set : List Nat) (n : Nat) : Bool :=
  let ws := setWords set n
  let isEnd (w : Nat) : Bool := decide (wordField w 58 6 = 14)
  decide (descriptor set n 7 1 = 0) && decide (descriptor set n 6 1 < 8) &&
    decide (descriptor set n 0 2 + descriptor set n 2 2 ≤ 4096) && decide (ws ≠ []) &&
    ws.all (wordAdmitted n) && (ws.getLast?.map isEnd).getD false && !ws.dropLast.any isEnd &&
    decide ((ws.map wordCycles).sum = setCycles set n)

/-- Loops of a lane that a set holds. -/
def laneLoops (set : List Nat) (lane : Nat) : List Nat := (List.range 37).filter fun n => decide (n / 9 = lane) && setHas set n

/-- Completion of a loop in cycles after its boundary, given one estimate of it: its own cycles, those of the loops of its rate before
it, and the faster ones that fall due by then, with 4 cycles for each suspension; a pacing ring of 800 cycles to the microsecond
(R214, R216). -/
def responseStep (set : List Nat) (n r : Nat) : Nat :=
  let peers := (laneLoops set (n / 9)).filter fun m => decide (loopPeriod m = loopPeriod n) && decide (m ≤ n)
  let faster := (laneLoops set (n / 9)).filter fun m => decide (loopPeriod m < loopPeriod n)
  let due (m : Nat) : Nat := (3 * r + 20 * loopPeriod m - 1) / (20 * loopPeriod m)
  (peers.map (setCycles set)).sum + (faster.map fun m => due m * setCycles set m).sum + 4 * ((faster.map due).foldl max 1 - 1)

/-- Whether a loop's completion stays within a limit of cycles: the estimates rise to a fixed point below it. -/
def respondsWithin (set : List Nat) (n limit : Nat) : Nat → Nat → Bool
  | 0, _ => false
  | fuel + 1, r =>
    let next := responseStep set n r
    if limit < next then false else if next ≤ r then true else respondsWithin set n limit fuel next

/-- Whether a set is admitted for the loop slots of a variant; the limit of each loop is 75 % of its D − B (R216). -/
def setAdmitted (slots : List Nat) (set : List Nat) : Bool :=
  let here := (List.range 37).filter (setHas set)
  let writes := here.flatMap fun n => (setWrites set n).eraseDups
  decide (here = slots) && here.all (loopAdmitted set) && decide (writes.length = writes.eraseDups.length) &&
    here.all fun n => respondsWithin set n (5 * loopDeadline n) (5 * loopDeadline n + 2) 0

end Sys2Proof.Machine
end

