-- ==== Sys2Proof/Machine/Rafter.lean ====
section
/-! DEFINITION. The Rafter engine's events and objects: samples and deadlines (R203 to R222), output application and the
voice-coil links (R206, R568 to R572), bank checks, swaps and claims (R210, R223 to R231), statistics and the trace (R232 to
R236). -/

namespace Sys2Proof.Machine

/-! ### Samples (R205, R214, R217, R218) -/

/-- The inputs of a loop at this instant, by class times 256 plus index (R205, R213, R243, R246, R288); the injection generator drives the
loop under identification, and reads 0 otherwise (R276). -/
def State.loopInputs (s : State) (n now : Nat) : List (Nat × Int) :=
  let lane := laneOf n
  let injection : Int := match s.pos.identify.find? fun r => decide (r.slot = n) && r.excited with
    | some r => satTo 32 (Config.injection n (r.revs / 2) now)
    | none => 0
  s.rafter.exchange ++
  (List.range 24).map (fun h => (256 + h, (s.head h).position)) ++
  (List.range 4).map (fun a => (512 + a, (s.act a).vcmMeas * 2 ^ 15)) ++
  s.pos.axes.zipIdx.map (fun x => (1024 + x.2, x.1 * 2 ^ 15)) ++
  [(1280, satTo 32 (roundDiv ((s.spindle.mrpm * 2 ^ 30 : Nat) : Int) 10000000)), (1281, s.spindle.theta), (1536, injection)] ++
  (s.rafter.setPoints.filter fun p => decide (p.1 / 64 = lane)).map fun p => (1792 + p.1 % 64, p.2)

/-! ### Microcode swaps (R230, R231) -/

/-- A microcode bank filled with a set's words. -/
def State.fillStore (s : State) (bank : Nat) (set : List Nat) : State :=
  { s with rafter := { s.rafter with
    store := ((Config.microWords set).take 4096).zipIdx.map (fun (w : Nat × Nat) => (4096 * bank + w.2, w.1 % 2 ^ 64)) ++
      s.rafter.store.filter fun w => decide (w.1 / 4096 ≠ bank) } }

/-- Entry address of a loop in a microcode bank. -/
def Loop.entry (l : Loop) (bank : Nat) : Nat := if bank = 0 then l.entry0 else l.entry1

/-- Entry address of a loop in a microcode bank set. -/
def Loop.setEntry (l : Loop) (bank e : Nat) : Loop := if bank = 0 then { l with entry0 := e } else { l with entry1 := e }

/-- Place in the microcode store at which a loop's next sample starts. -/
def State.entryPlace (s : State) (n : Nat) : Nat :=
  let bank := s.nat O.microcodeBankActive
  4096 * bank + (s.loop n).entry bank

/-- Steps 1, 2 and 4 of an activation of the Rafter microcode: the inactive microcode bank is filled with the set's words, each
present loop's inactive coefficient bank with its image, or a copy of the active bank where coefficients are carried; the banks are
sealed and held Pending, and the swap is requested (R230; the set was admitted when it was staged, R216, R523). -/
def State.requestMicrocode (s : State) (set : List Nat) : State :=
  let bank := 1 - s.nat O.microcodeBankActive
  let s := s.each ((List.range 37).filter fun n => s.hasSlot n) fun s n =>
    let coefs := if setCarries set n 1 then (s.loop n).bank (s.activeBank n) else setCoefs set n
    let s := ((s.openBank n coefs).sealBank n).setNat (O.loopBankState + n) 2
    s.modLoop n fun l => { l.setEntry bank (descriptor set n 0 2) with otherCycles := setCycles set n }
  let s := s.fillStore bank set
  ({ s with rafter := { s.rafter with swapAt := some (s.subTime 0) } }).setNat O.rafterState 2

/-- A requested microcode swap withdrawn: the banks stay Sealed. -/
def State.withdrawMicrocode (s : State) : State :=
  let s := s.each ((List.range 37).filter fun n => s.hasSlot n) fun s n => s.setNat (O.loopBankState + n) 1
  ({ s with rafter := { s.rafter with swapAt := none } }).setNat O.rafterState 1

/-- Cycles of a loop's descriptor in the bank that becomes active, the other bank's kept beside. -/
def State.swapCycles (s : State) (n : Nat) : State :=
  let cycles := s.nat (O.loopCycles + n)
  (s.setNat (O.loopCycles + n) (s.loop n).otherCycles).modLoop n fun l => { l with otherCycles := cycles }

/-- One loop taking its part of a microcode set: the other coefficient bank, its descriptor, and its states, kept or taken from the set
with its nodes and the registers it writes at zero (R230). -/
def State.takeMicroLoop (s : State) (set : List Nat) (n : Nat) : State :=
  let s := ((s.flipBank n).setNat (O.loopBankState + n) 0).swapCycles n
  if setCarries set n 2 then s.modLoop n fun l => { l with formerStates := none }
  else
    let s := s.modLoop n fun l => { l with formerStates := some l.states, states := setStates set n, nodes := [] }
    { s with rafter := { s.rafter with exchange := s.rafter.exchange.filter fun e => !(setWrites set n).contains e.1 } }

/-- Every loop changes its microcode bank, descriptor and coefficient bank to those of a set, and the health window begins (R230,
R231). -/
def State.changeMicrocode (s : State) (now : Nat) (set : List Nat) : State :=
  let bank := 1 - s.nat O.microcodeBankActive
  let s := s.each ((List.range 37).filter fun n => s.hasSlot n) fun s n => s.takeMicroLoop set n
  let s := { s with rafter := { s.rafter with
    swapAt := none, microSwap := false, health := now + 16000 * s.nat O.microcodeHealthFrames } }
  ((s.setNat O.microcodeBankActive bank).setNat O.rafterState 3).bump O.microcodeSwaps

/-- The microcode swap that is due at an instant, the first major-frame boundary after its request: the Rafter microcode image of the
slot that the activation targets takes effect in every loop together (R230, R531). -/
def State.dueMicrocode (s : State) (now : Nat) : State :=
  match s.rafter.swapAt with
  | none => s
  | some t => if now ≤ t ∨ now % 16000 ≠ 0 then s else s.changeMicrocode now ((s.fwSlot (3 - s.fw.active)).image 4)

/-- A sample's inputs are latched at a boundary, after the swaps that are due; it starts at its entry address in the active microcode
bank (R205, R210, R214, R225, R230). -/
def State.latchSample (s : State) (slot now : Nat) : State :=
  let s := (s.dueMicrocode now).takeSwaps now
  let b := s.activeBank slot
  let s := s.modLoop slot fun l => if l.reload then { l.setBank b l.control l.controlSeal with reload := false } else l
  let x : LoopSample := { boundary := now, bank := b, pc := s.entryPlace slot, latched := s.loopInputs slot now }
  s.modLoop slot fun l =>
    match l.sample with
    | some _ => { l with waiting := l.waiting ++ [x] }
    | none => { l with sample := some x, outputs := [], ready := none }

/-- A sample boundary of a loop: due swaps take effect, a failed bank is reloaded, and the sample's inputs are latched; it
starts at once, or when the sample before it ends (R205, R210, R214, R218, R225). -/
def execLoopSampleBoundary (slot sub : Nat) (s : State) : Host.Outcome State Fault Refusal :=
  let now := s.subTime sub
  let l := s.loop slot
  let known := (l.sample.toList ++ l.waiting).any fun x => decide (x.boundary = now)
  .next (if ¬ s.hasSlot slot ∨ ¬ s.loopRuns slot ∨ now % loopPeriod slot ≠ 0 ∨ known then s
    else s.latchSample slot now)

/-- The deadline of a sample passes: one whose ENDS has not executed is late (R217). -/
def execLoopSampleDeadline (slot sub : Nat) (s : State) : Host.Outcome State Fault Refusal :=
  let now := s.subTime sub
  let due (x : LoopSample) : Bool := decide (x.boundary + loopDeadline slot = now) && !x.late
  let l := s.loop slot
  .next (if ¬ s.hasSlot slot ∨ ¬ s.loopRuns slot ∨ ¬ (l.sample.toList ++ l.waiting).any due then s
    else
      let mark (x : LoopSample) : LoopSample := if due x then { x with late := true } else x
      (s.modLoop slot fun l => { l with sample := l.sample.map mark, waiting := l.waiting.map mark }).markLate slot)

/-! ### Outputs (R206, R213, R570) -/

/-- A milliactuator code sent for a class 3 value: round(v × 32,768), clipped, with MaoSaturated (R213, R242). -/
def State.applyMao (s : State) (h : Nat) (v : Int) : State :=
  let raw := roundDiv v (2 ^ 15)
  let code := satTo 16 raw
  let s := (s.emit (.mao h code)).setStatusBit h 11 (decide (raw ≠ code))
  let s := if s.statusBit h 0 then s.modHead h fun x => { x with maoHistory := (v :: x.maoHistory).take 256 } else s
  { s with rafter := { s.rafter with maoOut := putKey s.rafter.maoOut h code } }

/-- One output of a sample taking effect (R206, R213). -/
def State.applyOutput (s : State) (n : Nat) (o : Nat × Int) : State :=
  let i := o.1 % 256
  match o.1 / 256 with
  | 0 => { s with rafter := { s.rafter with exchange := putKey s.rafter.exchange i o.2 } }
  | 2 => { s with rafter := { s.rafter with vcmOut := putKey s.rafter.vcmOut i o.2 } }
  | 3 => s.applyMao i o.2
  | 5 => if s.rafter.holdSpindle then s else { s with rafter := { s.rafter with spindleOut := o.2 } }
  | 7 => { s with rafter := { s.rafter with events := putKey s.rafter.events (16 * laneOf n + i) o.2 } }
  | _ => s

/-- The CMD frame of an actuator (R568, R570): the park sequencer's or an unload's drive, the current loop's command while the
loops run, else Drive 0 and Value 0. -/
def State.vcmFrame (s : State) (a : Nat) : State :=
  let q := ((s.act a).vcmSeq + 1) % 256
  let s := s.modAct a fun x => { x with vcmSeq := q }
  let (value, park, drive) : Int × Bool × Bool :=
    if (s.act a).load = 4 ∨ (s.act a).unloadAt.isSome then (s.parkDrive a, decide ((s.act a).load = 4), true)
    else if s.loopRuns (9 * a + 6) then (satTo 16 (roundDiv ((assoc? s.rafter.vcmOut a).getD 0) (2 ^ 15)), false, true)
    else (0, false, false)
  s.emit (.vcm a (cmdLine value park drive q))

/-- The application instant of a loop: outputs of a sample that ended by its deadline take effect, and an actuator's CMD frame
goes out in any case (R206, R217, R570). -/
def execOutputApplication (slot sub : Nat) (s : State) : Host.Outcome State Fault Refusal :=
  let now := s.subTime sub
  .next (if ¬ s.hasSlot slot then s
    else
      let s := if (s.loop slot).ready.any fun b => decide (b + loopApply slot = now) then
          let out := (s.loop slot).outputs
          let s := s.modLoop slot fun l => { l with ready := none }
          out.foldl (fun (s : State) o => s.applyOutput slot o) s
        else s
      if slot < 36 ∧ slot % 9 = 6 ∧ now % 500 = 300 then s.vcmFrame (slot / 9) else s)

/-- A MEAS frame that passes its checks: Sync 3Ch, Crc8, and the echo of the Sequence of the CMD frame it answers (R569, R572). -/
def State.measGood (s : State) (a frame : Nat) : Bool :=
  decide (frame / 2 ^ 40 = 0x3C) && decide (frame % 256 = crc8Of 40 (frame / 256)) && decide (frame / 256 % 256 = (s.act a).vcmSeq)

/-- VCM_MEAS_FRAME: the MEAS frame of an actuator, or none received complete in time: a failure is counted; three in a row, or a Fault
flag, while the coil is driven are a park failure of the actuator; a load whose loops wait for a valid frame goes on (R569, R570,
R572). -/
def execVcmMeasFrame (act : Nat) (frame : Option Nat) (s : State) : Host.Outcome State Fault Refusal :=
  .next (if ¬ s.hasAct act then s
    else
      let good := frame.any (s.measGood act)
      let f := frame.getD 0
      let value : Int := (f / 2 ^ 24 % 65536 : Nat)
      let s := if good then s.modAct act fun x => { x with
          vcmFails := 0, vcmMeas := if value < 32768 then value else value - 65536 }
        else (s.bump (O.vcmFrameErrors + act)).modAct act fun x => { x with vcmFails := x.vcmFails + 1 }
      let drive := s.loopRuns (9 * act + 6) || decide ((s.act act).load = 4)
      if drive ∧ (3 ≤ (s.act act).vcmFails ∨ (good ∧ f.testBit 16)) ∧ s.nat (O.actuatorService + act) ≠ 3 then
        let s := (s.fenceAct act 2).bump (O.parkFailures + act)
        (s.raiseFault (240 + 8 * act + 1) 255).endFencedIo
      else if good ∧ (s.act act).load = 1 ∧ ¬ drive then s.startLoops act
      else s)

/-! ### Banks (R210, R223 to R227) -/

/-- The active banks are checked; those found corrupted are reloaded (R210). -/
def State.checkBanks (s : State) (now : Nat) (found : List (Nat × Nat × Int)) : State :=
  let s := { s with rafter := { s.rafter with checkedAt := now } }
  s.each ((List.range 37).filter fun n => s.hasSlot n && found.any fun f => decide (f.1 = n)) fun s n =>
    let b := s.activeBank n
    let bad := (found.filter fun f => decide (f.1 = n)).foldl (fun (m : List (Nat × Int)) f =>
      putKey m (f.2.1 % 256) (satTo 32 f.2.2)) ((s.loop n).bank b)
    if crc32c (bankBytes bad) = (s.loop n).seal b then s
    else
      let s := s.modLoop n fun l =>
        if s.loopRuns n then { l.setBank b bad (l.seal b) with reload := true } else l.setBank b l.control l.controlSeal
      s.raiseFault 225 n

/-- The check of the active banks every 1,024 major frames: banks whose words have been corrupted are reloaded at their loop's
next boundary, a stopped loop's at once (R210). -/
def execBankIntegrityCheck (sub : Nat) (found : List (Nat × Nat × Int)) (s : State) : Host.Outcome State Fault Refusal :=
  let now := s.subTime sub
  .next (if now < s.rafter.checkedAt + 1024 * 16000 then s
    else s.checkBanks now found)

/-- The boundary at which a pending swap takes effect (R225, R227). -/
def execCoefSwapTakeEffect (slot sub : Nat) (s : State) : Host.Outcome State Fault Refusal :=
  let now := s.subTime sub
  .next (match (s.loop slot).pending with
    | some (_, _, _, due) => if due = now then s.takeSwaps now else s
    | none => s)

/-- MICROCODE_SWAP: a requested microcode swap at a major-frame boundary (R230). -/
def execMicrocodeSwap (sub : Nat) (s : State) : Host.Outcome State Fault Refusal := .next (s.dueMicrocode (s.subTime sub))

/-- The former microcode set in force again (R231, R532): former banks, descriptors, and the states that were not carried. -/
def State.swapBack (s : State) : State :=
  let s := s.each ((List.range 37).filter fun n => s.hasSlot n) fun s n =>
    let s := ((s.flipBank n).setNat (O.loopBankState + n) 0).swapCycles n
    s.modLoop n fun l => { l with states := l.formerStates.getD l.states, formerStates := none }
  let s := { s with rafter := { s.rafter with health := 0, microSwap := false, swapAt := none } }
  (s.setNat O.microcodeBankActive (1 - s.nat O.microcodeBankActive)).setNat O.rafterState 1

/-- A reversion in the health window: counted and raised (R231). -/
def State.revertMicrocode (s : State) : State := (s.swapBack.bump O.microcodeReverts).raiseFault 226 255

/-- The health window passed without reversion: the former banks are ordinary inactive banks, Sealed (R231). -/
def State.endHealth (s : State) : State :=
  let s := s.each ((List.range 37).filter fun n => s.hasSlot n) fun s n =>
    (s.setNat (O.loopBankState + n) 1).modLoop n fun l => { l with formerStates := none }
  ({ s with rafter := { s.rafter with health := 0 } }).setNat O.rafterState 1

/-! ### Claims and writes of the inactive bank (R223, R224, R237) -/

/-- The loop selected by CoefLoop. -/
def State.coefSlot (s : State) : Nat := s.nat O.coefLoop

/-- Whether a requester may write the selected loop's inactive bank: it holds the claim, the bank is not Pending, and no
health window holds it (R223, R231, R236). -/
def State.bankOpenTo (s : State) (r : Requester) : Bool :=
  s.hasSlot s.coefSlot && decide (s.nat (O.loopClaim + s.coefSlot) = r.code) &&
    decide (s.nat (O.loopBankState + s.coefSlot) ≠ 2) && decide (s.rafter.health = 0)

/-- Whether another requester claims the selected loop. -/
def State.claimedElsewhere (s : State) (r : Requester) : Bool :=
  decide (s.nat (O.loopClaim + s.coefSlot) ≠ 0) && decide (s.nat (O.loopClaim + s.coefSlot) ≠ r.code)

/-- COEF_CLAIM: a write of 1 to 4110h.02: the requester holds the selected loop; while another holds it, it is refused (R224; the refusal
is log entry 131). -/
def execCoefClaim (requester : Requester) (s : State) : Host.Outcome State Fault Refusal :=
  .next (s.writeVia requester O.coefClaim (.num 1 1) fun s =>
    if ¬ s.hasSlot s.coefSlot ∨ s.claimedElsewhere requester then .error .state
    else .ok ((s.setNat (O.loopClaim + s.coefSlot) requester.code).setNat O.coefClaim 1))

/-- COEF_RELEASE: a write of 0 to 4110h.02: the claim of its holder ends; another's is left, the write refused (R224, log entry
131). -/
def execCoefRelease (requester : Requester) (s : State) : Host.Outcome State Fault Refusal :=
  .next (s.writeVia requester O.coefClaim (.num 1 0) fun s =>
    if ¬ s.hasSlot s.coefSlot ∨ s.claimedElsewhere requester then .error .state
    else .ok ((s.setNat (O.loopClaim + s.coefSlot) 0).setNat O.coefClaim 0))

/-- COEF_COPY_ACTIVE: a write of 1 to 4110h.03 (R223, R236). -/
def execCoefCopyActive (requester : Requester) (s : State) : Host.Outcome State Fault Refusal :=
  .next (s.writeVia requester O.coefCopyActive (.num 1 1) fun s =>
    if s.bankOpenTo requester then .ok (s.openBank s.coefSlot ((s.loop s.coefSlot).bank (s.activeBank s.coefSlot)))
    else .error .state)

/-- COEF_VALUE_WRITE: a write to 4110h.05 (R223, R236). -/
def execCoefValueWrite (requester : Requester) (value : Int) (s : State) : Host.Outcome State Fault Refusal :=
  .next (s.writeVia requester O.coefValue (.num 4 value) fun s =>
    if s.bankOpenTo requester then .ok (s.openBank s.coefSlot (putKey (s.inactive s.coefSlot) (s.nat O.coefIndex) value))
    else .error .state)

/-- COEF_SEAL: a write of 1 to 4110h.06 (R223, R236). -/
def execCoefSeal (requester : Requester) (s : State) : Host.Outcome State Fault Refusal :=
  .next (s.writeVia requester O.coefSeal (.num 1 1) fun s =>
    if s.bankOpenTo requester then .ok (s.sealBank s.coefSlot) else .error .state)

/-- Signed value of four little-endian bytes. -/
def signedLe (b : List Nat) : Int := let v := ofLe b; if v < 2 ^ 31 then v else (v : Int) - 2 ^ 32

/-- INACTIVE_IMAGE_WRITE: a write of InactiveImage, taken from byte 8 on (R17, R237). -/
def execInactiveImageWrite (requester : Requester) (image : List Nat) (s : State) : Host.Outcome State Fault Refusal :=
  .next (s.writeVia requester O.inactiveImage (.bytes image) fun s =>
    if image.headD 0 ≠ s.coefSlot ∨ image.getD 3 0 ≠ 0 then .error .range
    else if s.bankOpenTo requester then
      .ok (s.openBank s.coefSlot ((List.range 256).map fun i => (i, signedLe ((image.drop (8 + 4 * i)).take 4))))
    else .error .state)

/-- SWAP_REQUEST: a write of a state-clear mask to 4110h.09 (R225, R228, R238). -/
def execSwapRequest (requester : Requester) (sub mask : Nat) (s : State) : Host.Outcome State Fault Refusal :=
  .next (s.writeVia requester O.swapRequest (.num 8 mask) fun s =>
    let n := s.coefSlot
    if s.nat O.swapRunState = 1 ∨ ¬ s.hasSlot n ∨ s.nat (O.loopClaim + n) ≠ requester.code ∨ s.nat (O.loopBankState + n) ≠ 1 ∨
        s.nat (O.loopSwapGroup + n) ≠ 0 ∨ s.nat O.updateState = 3 ∨ ¬ s.sealHolds n then .error .state
    else .ok (((s.startRun O.swapRunState).setNat O.swapRunTarget n).acceptSwap (s.subTime sub) mask requester.code 0 [n]))

/-- GROUP_SWAP_REQUEST: a write of a group to 4110h.0A: every member must be Sealed and claimed by the requester (R227,
R228, R238). -/
def execGroupSwapRequest (requester : Requester) (sub group : Nat) (s : State) : Host.Outcome State Fault Refusal :=
  .next (s.writeVia requester O.groupSwapRequest (.num 1 group) fun s =>
    let members := s.groupMembers group
    if s.nat O.swapRunState = 1 ∨ members = [] ∨ s.nat O.updateState = 3 ∨
        members.any (fun n => decide (s.nat (O.loopClaim + n) ≠ requester.code) || decide (s.nat (O.loopBankState + n) ≠ 1) ||
          !s.sealHolds n) then .error .state
    else
      .ok (((s.startRun O.swapRunState).setNat O.swapRunTarget (0x40 + group)).acceptSwap (s.subTime sub) 0 requester.code group
        members))

/-! ### Statistics and trace (R222, R233, R236) -/

/-- RAFTER_STATS_CLEAR: a write of 1 to 4100h.08 (R236). -/
def execRafterStatsClear (requester : Requester) (s : State) : Host.Outcome State Fault Refusal :=
  .next (s.writeVia requester O.statsClear (.num 1 1) fun s =>
    .ok (s.each (List.range 37) fun s n =>
      ((s.setNat (O.loopLateSamples + n) 0).setObj (O.loopMinSlack + n) 32767).setNat (O.loopSaturations + n) 0))

/-- TRACE_ARM: TraceCommand 1 (R233). -/
def execTraceArm (requester : Requester) (s : State) : Host.Outcome State Fault Refusal :=
  .next (s.writeVia requester O.traceCommand (.num 1 1) fun s =>
    .ok (({ s with rafter := { s.rafter with channels := List.replicate 8 {}, traceRead := 0 } }).setNat O.traceState 1))

/-- TRACE_TRIGGER: TraceCommand 2 (R233). -/
def execTraceTrigger (requester : Requester) (s : State) : Host.Outcome State Fault Refusal :=
  .next (s.writeVia requester O.traceCommand (.num 1 2) fun s => .ok s.fireTrace)

/-- TRACE_STOP: TraceCommand 3 (R233). -/
def execTraceStop (requester : Requester) (s : State) : Host.Outcome State Fault Refusal :=
  .next (s.writeVia requester O.traceCommand (.num 1 3) fun s => .ok (s.setNat O.traceState 3))

end Sys2Proof.Machine
end

