-- ==== Sys2Proof/Machine/PosOps.lean ====
section
/-! DEFINITION. Operations of head positioning: PES and class 1 (R241, R243), heaters (R256), steering heads (R247), tables
read at load (R66, R67, R72), unload and rows (R254, R255, R262). -/

namespace Sys2Proof.Machine

/-! ### Distances (R241, R243, R250) -/

/-- PES in 2^-30 of the track pitch, from the gain and offset in Q2.14 and the two magnitudes; none where both are 0
(R241). -/
def pesOf (gain offset : Int) (outer inner : Nat) : Option Int :=
  if outer + inner = 0 then none
  else some (roundDiv ((gain * ((inner : Int) - outer) + offset * ((outer : Int) + inner)) * 2 ^ 16) (outer + inner))

/-- Lane pitch of a zone in 0.01 nm: the servo stripe and the two tracks. -/
def lanePitch (e : ZoneEntry) : Nat := e.stripeWidth + 2 * e.trackPitch

/-- Class 1 value of a head in Q2.30 of 32 mm: lanes from the target, and PES in 2^-30 of the track pitch (R243). -/
def classOne (e : ZoneEntry) (lanes pes : Int) : Int :=
  roundDiv (lanes * lanePitch e * 2 ^ 30 + pes * e.trackPitch) 3200000000

/-- Class 1 value during a seek: the fraction of a lane is the time since the last crossing over the interval between the last
two, at most one lane (R243, log entry 124). -/
def classOneSeek (e : ZoneEntry) (lane target : Int) (since interval : Nat) : Int :=
  let toward : Int := if lane < target then min since interval else -(min since interval : Int)
  if interval = 0 then classOne e (lane - target) 0
  else roundDiv (((lane - target) * interval + toward) * lanePitch e * 2 ^ 30) (3200000000 * interval)

/-- Offset of a head's OffsetSetPoint in 2^-30 of the track pitch (R245, R253). -/
def State.offsetOf (s : State) (h : Nat) : Int :=
  let v := memWord s.rafter.setPoints (64 * actOf h + 2 + h % 6)
  let pitch := (s.headZone h).trackPitch
  if pitch = 0 then 0 else roundDiv (v * 3200000000) pitch

/-- Velocity cap in Q2.30 of 4 m/s in a zone: SeekVelocityMargin percent of the lane pitch in 8 clock periods of 32 bit times
(R245, R250). -/
def State.velocityCap (s : State) (e : ZoneEntry) : Int :=
  let bitRate := bitsPerRev e * s.nat O.spindleNominalRpm
  roundDiv ((s.nat O.seekVelocityMargin * lanePitch e * bitRate * 2 ^ 30 : Nat) : Int) (60 * 256 * 4 * 100 * 100000000000)

/-! ### Steering heads (R247, R249) -/

/-- Steering heads of an actuator: its heads in service that are not held. -/
def State.steering (s : State) (a : Nat) : List Nat :=
  (headsOf a).filter fun h => decide (s.nat (O.headService + h) ≠ 3) && !(s.head h).held && !(s.head h).passHeld

/-- A velocity in mm/s in Q2.30 of 4 m/s (R245). -/
def speedCap (mmPerS : Nat) : Int := roundDiv ((mmPerS * 2 ^ 30 : Nat) : Int) 4000

/-- Lowest-numbered steering head of an actuator. -/
def State.firstSteering (s : State) (a : Nat) : Option Nat := (s.steering a).head?

/-- A head's hold registers written: held at an output, or released (R245). -/
def State.holdRegisters (s : State) (h : Nat) (output : Option Int) : State :=
  let a := actOf h
  let s := match output with
    | some v => (s.setPoint a (14 + h % 6) v).setPoint a (8 + h % 6) (-(2 ^ 30))
    | none => s.setPoint a (8 + h % 6) 0
  s.setStatusBit h 9 output.isSome

/-! ### Heaters (R256) -/

/-- Heater power of a head at rest: HeaterIdle plus HeaterTrim, from 0 to HeaterWrite. -/
def State.heaterIdle (s : State) (h : Nat) (e : ZoneEntry) : Nat :=
  (clampInt 0 e.heaterWrite ((e.heaterIdle : Int) + s.obj (O.heaterTrim + h))).toNat

/-- The heater of a head set for its state: reading while its streams are detected, idle while it is on a lane, else 0; a
burst's HeaterWrite with its lead, and what a heater calibration or a ladder's step 5 has set, stay (R171, R182, R256, R277). -/
def State.restHeater (s : State) (h : Nat) : State :=
  let st := s.nat (O.positionState + h)
  let power := match s.zoneOf h (s.head h).zone with
    | some e => if st = 4 ∨ st = 5 ∨ st = 6 then
        (if s.readerOn (2 * h) || s.readerOn (2 * h + 1) then s.heaterRead h e else s.heaterIdle h e)
      else if st = 3 ∨ st = 7 then (s.head h).heaterPower else 0
    | none => 0
  let stepped := s.detect.ladders.any fun l => decide (l.stream / 2 = h) && decide (l.running = 5)
  if (s.head h).gate ∨ (s.head h).lead.isSome ∨ (s.head h).heaterCal.isSome ∨ stepped ∨ power = (s.head h).heaterPower then s
  else s.setHeater h power

/-! ### Tables read at load (R47, R57, R62, R66, R67, R72) -/

/-- Whether one zone entry keeps R47, R57 and the NominalBitRate rule of R66 at a table's speed. -/
def entryAccepted (rpm : Nat) (e : ZoneEntry) : Bool :=
  let bits := bitsPerRev e
  e.valid && decide (e.sectorsPerTrack % 32 = 0) && decide (e.sectorsPerTrack ≠ 0) &&
    decide (37520 * e.sectorsPerTrack + 131072 ≤ bits) &&
    decide (60 * 2600000000 ≤ bits * rpm) && decide (bits * rpm ≤ 60 * 5800000000) &&
    decide (e.nominalKbit * 60000 ≤ bits * rpm + 60000) && decide (bits * rpm ≤ (e.nominalKbit + 1) * 60000)

/-- Whether zones follow each other from a first lane on, numbered in order. -/
def zonesContiguous : Nat → Nat → List ZoneEntry → Bool
  | _, _, [] => true
  | z, lane, e :: rest => decide (e.zone = z) && decide (e.firstLane = lane) && zonesContiguous (z + 1) (lane + e.laneCount) rest

/-- Whether a copy of a surface's zone table is accepted (R66). -/
def ZoneCopy.accepted (surface : Nat) (c : ZoneCopy) : Bool :=
  let t := c.table
  let first := (t.entries.head?.map ZoneEntry.firstLane).getD 0
  c.crcOk && t.signatureOk && decide (t.surface = surface) && decide (1 ≤ t.entries.length) && decide (t.entries.length ≤ 64) &&
    decide (64 ≤ first) && zonesContiguous 0 first t.entries && t.entries.all (entryAccepted t.nominalRpm) &&
    decide ((t.entries.filter fun e => decide (e.cellarLanes ≠ 0)).length = 4)

/-- What the surfaces of an actuator must agree in (R62). -/
def tableShape (t : ZoneTable) : List (Nat × Nat × Nat) := t.entries.map fun e => (e.sectorsPerTrack, e.cellarLanes, dataLanes e)

/-- Accepted copies of a surface's table. -/
def acceptedTables (zones : List ZoneCopy) (h : Nat) : List ZoneTable := (zones.filter (ZoneCopy.accepted h)).map ZoneCopy.table

/-- FormatId of the device's surfaces as some of them are read: that of the tables in force elsewhere, else the most frequent among
their own. -/
def State.deviceFormat (s : State) (heads : List Nat) (own : List ZoneTable) : Nat :=
  match s.layout.tables.find? fun t => !heads.contains t.surface with
  | some t => t.formatId
  | none =>
    (own.foldl (fun (b : Option ZoneTable) t =>
      let n (x : ZoneTable) : Nat := (own.filter fun y => decide (y.formatId = x.formatId)).length
      match b with
      | none => some t
      | some u => if n u < n t then some t else some u) none).map ZoneTable.formatId |>.getD 0

/-- Capacity of a domain in sectors (R74). -/
def State.domainCapacity (s : State) (a : Nat) : Nat :=
  match s.zoneTable (6 * a) with
  | some t => (t.entries.map fun e => dataLanes e * perLane e * 384).sum
  | none => 0

/-- Capacities of the mapped domains and of the interleaved namespace (R75, R76). -/
def State.refreshCapacity (s : State) : State :=
  let s := s.each [0, 1, 2, 3] fun s a =>
    if s.mapped a then (if s.domainCapacity a = 0 then s else s.setNat (O.domainCapacityA + a) (s.domainCapacity a))
    else s.setNat (O.domainCapacityA + a) 0
  let caps := ([0, 1, 2, 3].filter fun a => s.mapped a).map fun a => s.nat (O.domainCapacityA + a)
  let least := caps.foldl min (2 ^ 60)
  s.setNat O.interleavedCapacity
    (if s.nat O.domainMapping = 0 ∧ caps ≠ [] then min (2 ^ 40) (caps.length * (least / 16384) * 16384) else 0)

/-- The zone tables of some of an actuator's surfaces put in force, with the outcomes of R67. A surface none of whose copies is accepted
keeps the table in force before, which only the image of R82 still shows (log entry 121). -/
def State.takeTables (s : State) (a : Nat) (heads : List Nat) (zones : List ZoneCopy) : State :=
  let own := heads.flatMap (acceptedTables zones)
  let format := s.deviceFormat heads own
  let s := heads.foldl (fun (s : State) h =>
    if s.nat (O.headService + h) = 3 then s
    else
      match acceptedTables zones h with
      | [] => (s.fenceHead h 2).raiseFault 204 h
      | t :: rest =>
        if rest.any (fun u => decide (u ≠ t)) ∨ t.formatId ≠ format then (s.fenceHead h 2).raiseFault 205 h
        else { s with layout := { s.layout with tables := t :: s.layout.tables.filter (fun u => decide (u.surface ≠ h)) } }) s
  let shapes := (s.layout.tables.filter fun t => decide (actOf t.surface = a)).map tableShape
  if shapes.any fun x => shapes.any fun y => decide (x ≠ y) then s.fenceAct a 4 else s

/-- Correct copies of the spare table of a zone of a surface (R72). -/
def goodSpares (spares : List SpareCopy) (t : ZoneTable) (zone : Nat) : List SpareCopy :=
  spares.filter fun c => c.crcOk && decide (c.table.surface = t.surface) && decide (c.table.zone = zone) &&
    decide (c.table.formatId = t.formatId)

/-- The spare tables of some of an actuator's surfaces put in force: per surface and zone the correct copy of the highest
sequence, or an empty table with the domain write-protected (R72, R73). -/
def State.takeSpares (s : State) (a : Nat) (heads : List Nat) (spares : List SpareCopy) : State :=
  (s.layout.tables.filter fun t => heads.contains t.surface).foldl (fun (s : State) t =>
    t.entries.zipIdx.foldl (fun (s : State) e =>
      let good := goodSpares spares t e.2
      let best := good.foldl (fun (b : Option SpareTable) c =>
        match b with
        | none => some c.table
        | some u => if u.sequence < c.table.sequence then some c.table else some u) none
      let put (s : State) (u : SpareTable) : State :=
        { s with layout := { s.layout with
            spares := u :: s.layout.spares.filter (fun v => !(decide (v.surface = t.surface) && decide (v.zone = e.2))) } }
      match best with
      | some u => put s u
      | none =>
        let empty : SpareTable := { surface := t.surface, zone := e.2, formatId := t.formatId
                                    entries := List.replicate e.1.spareLanes {} }
        ((put s empty).raiseFault 206 t.surface).protectAct a) s) s

/-- Spare lanes formatted on the surfaces in force (R339). -/
def State.countSpares (s : State) : State :=
  { s with sub := { s.sub with
      spareTotal := ((s.layout.tables.flatMap ZoneTable.entries).map ZoneEntry.spareLanes).sum } }

/-- The saved sets of an actuator's heads restored at a load: equaliser sets, objects, calibration results, runout tables and
coefficient banks (R139, R280). -/
def State.restoreSaved (s : State) (a : Nat) : State :=
  s.each (headsOf a) fun s h =>
    let s := s.each [2 * h, 2 * h + 1] fun s n =>
      let sets := (s.detect.saved.filter fun x => decide (x.1 / 64 = n)).map fun x => (x.1 % 64, x.2)
      s.modStream n fun st => { st with stored := sets ++ st.stored.filter fun x => !sets.any fun y => decide (y.1 = x.1) }
    match assoc? s.pos.saved h with
    | none => s
    | some c =>
      let s := c.values.foldl (fun (s : State) v => s.setObj v.1 v.2) s
      let s := s.modHead h fun x => { x with cal := c.cal, trims := c.trims, rro := c.rro, rroBase := c.rroBase
                                             margins := if x.margins = [] then c.margins else x.margins }
      let s : State := match c.indexAngle with
        | some v => { s with spindle := { s.spindle with indexAngles := putKey s.spindle.indexAngles h v } }
        | none => s
      c.banks.foldl (fun (s : State) b => s.firmwareChange b.1 b.2) s

/-! ### Calibration results by zone (R271, R277) -/

/-- A value between those of three zones 0, `m` and `l`, by zone number (R271, log entry 125). -/
def between (m l z : Nat) (v : Int × Int × Int) : Int :=
  if z ≤ m then v.1 + roundDiv ((v.2.1 - v.1) * z) m else v.2.1 + roundDiv ((v.2.2 - v.2.1) * ((z : Int) - m)) (l - m)

/-- Calibration results of a head in a zone: those of the pass, the zones in between interpolated, with the heater trim of a live
calibration where one has set it (R271, R277). -/
def State.zoneCal (s : State) (h z : Nat) : ZoneCal :=
  let x := s.head h
  let n := ((s.zoneTable h).map fun t => t.entries.length).getD 0
  let at_ (f : ZoneCal → Int) : Int :=
    between (n / 2) (n - 1) z (f (x.cal.getD 0 {}), f (x.cal.getD 1 {}), f (x.cal.getD 2 {}))
  { pesGain := at_ ZoneCal.pesGain, pesOffset := at_ ZoneCal.pesOffset, ampRef := (at_ fun c => (c.ampRef : Int)).toNat
    clockRef := (at_ fun c => (c.clockRef : Int)).toNat, heaterTrim := (assoc? x.trims z).getD (at_ ZoneCal.heaterTrim)
    harmonic := at_ ZoneCal.harmonic }

/-- The calibration results of a head's present zone put in force (R241, R256, R271). -/
def State.applyCal (s : State) (h : Nat) : State :=
  let c := s.zoneCal h (s.head h).zone
  let limit : Int := s.nat O.heaterTrimLimit
  ((s.setObj (O.pesGain + h) (satTo 16 c.pesGain)).setObj (O.heaterTrim + h) (clampInt (-limit) limit c.heaterTrim)).modHead h fun x =>
    { x with pesOffset := satTo 16 c.pesOffset, ampRef := c.ampRef, clockRef := c.clockRef, harmonicTarget := c.harmonic }

/-! ### Zones (R94, R126, R139, R181, R275) -/

/-- The coefficients of a head's streams kept for the zone it leaves (R139). -/
def State.keepSets (s : State) (h : Nat) : State :=
  s.each [2 * h, 2 * h + 1] fun s n =>
    s.modStream n fun st => { st with stored := putKey st.stored (s.head h).zone (s.setNow n) }

/-- A head on a lane of a zone: the zone's writer and sampling registers, its equaliser sets into the inactive banks for the swap at
the first sector boundary, its runout table and calibration results; a zone whose WritePrecomp is out of range is not
written (R94, R139, R181, R271, R275, R278). -/
def State.enterZone (s : State) (h zone : Nat) : State :=
  match s.zoneOf h zone with
  | none => s
  | some e =>
    let old := (s.head h).zone
    let table (z : Nat) : List Int := (assoc? (s.head h).rro z).getD []
    let moved := decide (table old ≠ []) || decide (table zone ≠ [])
    let s := (s.modHead h fun x => { x with zone := zone, rroSum := [], rroCount := [], rroRevs := 0 }).applyCal h
    let s := if e.precomp.all fun v => decide (-32 ≤ v) && decide (v ≤ 31) then s.endCondition 203 else s.raiseFault 203 h
    let (int, frac) := synthWords (((s.zoneTable h).map ZoneTable.nominalRpm).getD 0) e
    let s := (((s.pclWrite h 0x09 e.writerCurrent).pclWrite h 0x0A e.writerOvershoot).pclWrite h 0x0C int).pclWrite h 0x0D frac
    let s := s.each [2 * h, 2 * h + 1] fun s n => s.modStream n fun st =>
      { st.newBlock with swap := 2, checking := false, taps := st.taps.set (1 - st.bank) ((assoc? st.stored zone).getD []) }
    if moved then
      let t := table zone
      s.loadTable (9 * actOf h + h % 6) ((List.range 64).map fun i => ((s.head h).rroBase + i, t.getD i 0))
    else s

/-- A head arriving on a lane of another zone: its sets kept, the new zone's put in force, its count scaled and Provisional (R126,
R139). -/
def State.changeZone (s : State) (h zone : Nat) : State :=
  let was := bitsPerRev (s.headZone h)
  let s := (s.keepSets h).enterZone h zone
  let now := bitsPerRev (s.headZone h)
  let s := s.modHead h fun x => { x with
    count := if was = 0 then x.count else (roundDiv ((x.count * now : Nat) : Int) was).toNat % (64 * max 1 now) }
  if s.nat (O.clockState + h) = 2 ∨ s.nat (O.clockState + h) = 3 then s.provisional h else s

/-- The count of a loaded head predicted from the spindle angle that the commutation engine holds (R126, R286). -/
def State.predictCount (s : State) (h : Nat) : State :=
  let angle := ((4 * s.spindle.theta + ((assoc? s.spindle.indexAngles h).getD 0 : Nat)) % 2 ^ 32).toNat
  s.modHead h fun x => { x with
    count := angle * (64 * bitsPerRev (s.headZone h)) / 2 ^ 32, axis := (s.rsl (3 * h + 2)).received, countedAt := s.tick
    rate := 64 * 16 * 2 ^ 32 / 17 }

/-! ### Rows, unload, park -/

/-- An actuator's row becomes unverified (R254). -/
def State.unverify (s : State) (a : Nat) : State :=
  let s := s.modAct a fun x => { x with verified := false, checks := 0, tried := [] }
  s.each (headsOf a) fun s h => s.setStatusBit h 5 false

/-- An unload begun (R262): gates closed, heaters 0, heads Unloading, the actuator seeking lane 0; `reload` loads it again afterwards. -/
def State.startUnload (s : State) (a : Nat) (reload : Bool) : State :=
  if (s.act a).load ≠ 1 ∧ (s.act a).load ≠ 2 then s.modAct a fun x => { x with loadWanted := x.loadWanted || reload }
  else
    let s := s.each (headsOf a) fun s h =>
      let s := s.closeGate h
      let s := (if (s.head h).lead.isSome then s.endLead h else s).writeHeater h 0
      let s := s.modHead h fun x => { x with
        admitted := false, admitNext := false, onRow := false, settleRun := 0, held := false, passHeld := false,
        presented := 0, completed := 0, target := 0, cutLane := none, heaterCal := none, flySince := some (x.flySince.getD s.tick) }
      let s := ((s.holdRegisters h none).setStatusBit h 6 false).setStatusBit h 4 true
      if s.nat (O.positionState + h) = 8 then s else s.setNat (O.positionState + h) 9
    let s := (s.setPoint a 0 (-(2 ^ 30))).setPoint a 1 (s.velocityCap (s.headZone ((s.firstSteering a).getD (6 * a))))
    s.modAct a fun x => { x with
      load := 3, seeking := true, loadWanted := reload, nextTarget := none, only := none, passed := [], unloadAt := none }

/-- The heads of an actuator at rest on the ramp: parked, without count, lender or status; loops as given. -/
def State.headsParked (s : State) (a : Nat) : State :=
  let s := s.unverify a
  s.each (headsOf a) fun s h =>
    let s := (s.setNat (O.clockState + h) 1).setNat (O.lender + h) 255
    let s := s.modHead h fun x => { x with
      acquire := none, onRow := false, flySince := none, offStripeRun := 0, crossed := false, validSince := none,
      held := false, passHeld := false, cutLane := none, sampleDue := none, indexAt := none, revClean := false, heaterCal := none }
    let s := (s.holdRegisters h none).setNat (O.positionStatus + h) (if s.pos.inhibit then 256 else 0)
    if s.nat (O.positionState + h) = 8 then s else s.setNat (O.positionState + h) 1

/-- An actuator that has lost its lane (R250, R255): held reads of the row are read again as first reads after an unload and a
load, counted, its source raised. -/
def State.laneUncertain (s : State) (a : Nat) : State :=
  let s := { s with detect := { s.detect with
    heldReads := s.detect.heldReads.filter fun x => decide (actOf (x.1 / 2) ≠ a) } }
  let s := s.startUnload a true
  (s.bump (O.laneUncertainEvents + a)).raiseFault (240 + 8 * a + 2) 255

/-- FeedForwardGain of every lane: on with FeedForwardEnable and a sensor active (R245, R259, R260). -/
def State.feedForward (s : State) : State :=
  let on := decide (s.nat O.feedForwardEnable = 1) && (decide (s.nat O.sensorState = 1) || decide (s.nat (O.sensorState + 1) = 1))
  s.each (List.range s.actCount) fun s a => s.setPoint a 20 (if on then 2 ^ 30 else 0)

end Sys2Proof.Machine
end

