-- ==== Sys2Proof/Machine/Positioning.lean ====
section
/-! DEFINITION. Head positioning: position samples, seeks, lane checks, shocks, loads, unloads, safe-parks, borrowed clock,
and the index field (R128, R131, R239 to R270). An event of an actuator, head or sensor that is absent, or whose condition
does not hold, does not occur (log entry 7). -/

namespace Sys2Proof.Machine

/-! ### Position samples (R130, R240 to R243, R247, R253, R258) -/

/-- Whether a head has position samples: loaded or on the way, its reader C link active (R240). -/
def State.sampled (s : State) (h : Nat) : Bool :=
  s.hasHead h && decide ((s.act (actOf h)).load ≠ 0) &&
    (decide (s.nat (O.rslState + 3 * h + 2) = 3) || decide (s.nat (O.rslState + 3 * h + 2) = 4))

/-- Limit in 2^-30 of the track pitch of a percentage of it. -/
def pitchPercent (p : Nat) : Int := roundDiv ((p * 2 ^ 30 : Nat) : Int) 100

/-- WriteInhibitLimit in force on a head: that of its open burst, and half of it while both sensors are failed (R199, R260). -/
def State.writeInhibit (s : State) (h : Nat) : Int :=
  let x := s.head h
  let l := pitchPercent (if x.gate then x.inhibitLimit else s.nat O.writeInhibitLimit)
  if s.nat O.sensorState = 2 ∧ s.nat (O.sensorState + 1) = 2 then l / 2 else l

/-- The end of a cut event: an adjacent check falls due where its peak error passed the burst's AdjacentCheckLimit (R187, R199). -/
def State.endCut (s : State) (h : Nat) : State :=
  let x := s.head h
  match x.cutLane with
  | none => s
  | some (lane, track, first) =>
    let s := s.modHead h fun x => { x with cutLane := none, cutPeak := 0 }
    let due := s.write.adjacent.any fun c => decide (c.head = h) && decide (c.lane = lane) && decide (c.track = track)
    if pitchPercent x.checkLimit < x.cutPeak ∧ ¬ due then
      { s with write := { s.write with adjacent := s.write.adjacent ++
        [{ head := h, lane := lane, track := track, first := first, last := s.countNow h / 64 }] } }
    else s

/-- A sample's share in the write gate and in a cut event, which lasts to the first sample within the limit without shock inhibit
(R184, R185, R187). -/
def State.gateSample (s : State) (h : Nat) (valid : Bool) (pes : Int) : State :=
  let above := !valid || decide (s.writeInhibit h < pes.natAbs)
  let s := s.setStatusBit h 7 above
  let s := if above then s.closeGate h else s
  let s := if (s.head h).cutLane.isSome then s.modHead h fun x => { x with cutPeak := max x.cutPeak pes.natAbs } else s
  if above ∨ s.pos.inhibit then s else s.endCut h

/-- The settle and on-track rules of a sample; a head that goes Off track has its gate closed (R184, R253). -/
def State.settleSample (s : State) (h : Nat) (valid : Bool) (pes : Int) : State :=
  let error : Int := (pes - s.offsetOf h).natAbs
  let st := s.nat (O.positionState + h)
  if st = 4 ∨ st = 6 then
    if valid ∧ error ≤ pitchPercent (s.nat O.settleWindow) then
      let run := (s.head h).settleRun + 1
      if s.nat O.settleSamples ≤ run then
        ((s.modHead h fun x => { x with settleRun := 0, onRow := true }).setNat (O.positionState + h) 5).setStatusBit h 6 true
      else s.modHead h fun x => { x with settleRun := run }
    else s.modHead h fun x => { x with settleRun := 0 }
  else if st = 5 ∧ (¬ valid ∨ pitchPercent (s.nat O.onTrackLimit) < error) then
    ((((s.closeGate h).setNat (O.positionState + h) 6).setStatusBit h 6 false).bump (O.offTrackEvents + h)).modHead h fun x => { x with
      settleRun := 0 }
  else s

/-- The desaturation rule of a sample (R247). -/
def State.desatSample (s : State) (h : Nat) : State :=
  let code := (memWord s.rafter.maoOut h).natAbs
  let over_ := decide (s.nat O.desatWarnLimit * 32767 < code * 100)
  let x := s.head h
  let run := if over_ then min (x.desatRun + 1) 64 else 0
  let clear := if over_ then 0 else min (x.desatClear + 1) 64
  let s := s.modHead h fun x => { x with desatRun := run, desatClear := clear }
  if run = 64 ∧ ¬ s.statusBit h 10 then
    ((s.setStatusBit h 10 true).bump (O.desatWarnings + h)).raiseFault (240 + 8 * actOf h + 3) h
  else if clear = 64 then s.setStatusBit h 10 false else s

/-- Runout bins fed by a sample that R275 admits. -/
def State.rroSample (s : State) (h : Nat) (pes : Int) : State :=
  let x := s.head h
  let clear : Bool := decide (s.offsetOf h = 0) && decide (s.nat (O.positionState + h) = 5) && !x.held &&
    !(s.pos.identify.any fun r => r.excited && decide (r.slot / 9 = actOf h))
  if s.nat O.rroEnable = 1 ∧ clear then
    let bin := (s.spindle.theta * 64 / 2 ^ 30).toNat % 64
    s.modHead h fun x => { x with
      rroSum := (x.rroSum ++ List.replicate (64 - x.rroSum.length) 0).modify bin (· + pes)
      rroCount := (x.rroCount ++ List.replicate (64 - x.rroCount.length) 0).modify bin (· + 1) }
  else s

/-- A Valid sample's share in the rms PES of a head On track (R278). -/
def State.rmsSample (s : State) (h : Nat) (pes : Int) : State :=
  if s.nat (O.positionState + h) = 5 then
    s.modHead h fun x => { x with squares := x.squares + pes.natAbs * pes.natAbs, samples := x.samples + 1 }
  else s

/-- Mean class 1 value of the steering heads whose samples are Valid (R243). -/
def State.actuatorMean (s : State) (a : Nat) : Option Int :=
  let l := ((s.steering a).filter fun g => s.statusBit g 0).map fun g => (s.head g).position
  if l = [] then none else some (roundDiv l.sum l.length)

/-- Safe-park of one actuator for shock: every steering head OffStripe in three samples while On track (R258). -/
def State.shockOff (s : State) (a : Nat) : State :=
  let heads := s.steering a
  if (s.act a).load = 2 ∧ heads ≠ [] ∧ heads.all fun h => decide (3 ≤ (s.head h).offStripeRun) then
    ((s.safePark a 3).bump O.shockParks).raiseFault (240 + 8 * a + 5) 255
  else s

/-- Boundary in sub-ticks of the position sample that completes at `now`: the one after the last, else the next one (R240). -/
def Head.sampleBoundary (x : Head) (now : Nat) : Nat := x.sampleDue.getD (ceilDiv now 500 * 500)

/-- Class 1 input and status of a sample that is Valid, or of one that is not (R241 to R243). -/
def State.classSample (s : State) (h : Nat) (valid seeking : Bool) (pes : Int) : State :=
  let x := s.head h
  let e := s.headZone h
  if valid then
    let p := if seeking then classOneSeek e x.lane x.target ((s.rsl (3 * h + 2)).received - x.crossedAt) x.crossInterval
      else classOne e ((x.lane : Int) - x.target) pes
    (s.setObj (O.positionError + h) (satTo 16 (roundDiv (pes * 1000) (2 ^ 30)))).modHead h fun x => { x with
      pes := pes, position := satTo 32 p
      validSince := if s.nat (O.clockState + h) = 3 then some (x.validSince.getD s.tick) else none }
  else
    let m := s.actuatorMean (actOf h)
    s.modHead h fun x => { x with position := m.getD x.position, validSince := none }

/-- The end of a flywheeled stretch at a Valid sample of a head that does not seek: a count that ran on for longer than FlywheelLimit
is Provisional, and a head that settles again has its row verified again (R126, R254). -/
def State.endFlywheel (s : State) (h : Nat) : State :=
  match (s.head h).flySince with
  | some t =>
    let s := s.modHead h fun x => { x with flySince := none }
    let s := if s.nat (O.clockState + h) = 3 ∧ s.cfg h O.flywheelLimit < s.tick - t then s.provisional h else s
    if (s.act (actOf h)).verified ∧ ¬ s.nat (O.positionState + h) = 5 then s.unverify (actOf h) else s
  | none => s

/-- What a position sample of a sampled head does (R240 to R243, R247, R253, R258). One that completes after its boundary is late; the
boundaries that have passed meanwhile have no sample of their own (log entry 123). -/
def State.takePosition (s : State) (h now : Nat) : State :=
  let a := actOf h
  let due := (s.head h).sampleBoundary now
  let late := decide (due < now)
  let (outer, inner) := s.bands h (now + 72 - due)
  let s := s.modHead h fun x => { x with sampleDue := some (max (due + 500) (ceilDiv now 500 * 500)) }
  let raw := pesOf (s.obj (O.pesGain + h)) (s.head h).pesOffset outer inner
  let pes := raw.getD 0
  let healthy := decide ((s.head h).unhealthy = 0)
  let reach := decide (s.nat O.offStripeAmpLimit * (s.head h).ampRef ≤ 100 * (outer + inner)) && raw.isSome &&
    decide (pes.natAbs ≤ 2 ^ 29)
  let valid := reach && healthy && !late
  let off := !reach && healthy && !late
  let seeking := (s.act a).seeking || decide ((s.act a).load ≠ 2)
  let wasOn := decide (s.nat (O.positionState + h) = 5)
  let s := (((s.setStatusBit h 0 valid).setStatusBit h 1 off).setStatusBit h 3 late).setStatusBit h 4 seeking
  let s := s.setStatusBit h 2 (!valid && (s.actuatorMean a).isSome)
  let s := if late then s.deadlineMiss 1 (32 + a) h (due / 120) (now / 120) else s
  let s := (s.classSample h valid seeking pes).modHead h fun x => { x with
    offStripeRun := if off ∧ (wasOn ∨ x.offStripeRun ≠ 0) then x.offStripeRun + 1 else 0
    flySince := if off then some (x.flySince.getD s.tick) else x.flySince }
  let s := s.gateSample h valid pes
  let s := if seeking then s else (s.settleSample h valid pes).desatSample h
  let s := if valid ∧ ¬ seeking then ((s.rroSample h pes).rmsSample h pes).endFlywheel h else s
  s.shockOff a

/-- POSITION_SAMPLE: the position sample of a head at a 240 kHz boundary completes `sub` sub-ticks into the tick: band magnitudes from
reader C's samples, validity, class 1, write gate, settle and on-track state (R240 to R243, R247, R253, R258). -/
def execPositionSample (head sub : Nat) (s : State) : Host.Outcome State Fault Refusal :=
  .next (if ¬ s.sampled head then s else s.takePosition head (s.subTime sub))

/-! ### Seeks (R249 to R255) -/

/-- Lane row, as zone and lane offset, of a media operation's sectors. -/
def State.opRow (s : State) (o : MediaOp) : Option (Nat × Nat) :=
  (s.locate o.nsid o.lba).map fun p => (p.zone, ((s.zoneOf p.surface p.zone).map ZoneEntry.cellarLanes).getD 0 + p.row)

/-- Whether moving to a lane row would serve operations that have waited less before one that has waited longer than
ScheduleAgeLimit (R358). Operations that a Cellar slot serves are not counted. -/
def State.passesOver (s : State) (a zone row : Nat) : Bool :=
  let home (o : MediaOp) : Bool := decide (o.act = a) && !o.readAhead &&
    !s.cmds.slots.any fun c => decide (c.nsid = o.nsid) && decide (c.lba < o.lba + o.count) && decide (o.lba < c.lba + c.count)
  let late (o : MediaOp) : Bool := decide (o.issued + 1000 * s.nat O.scheduleAgeLimit < s.tick)
  let ops := s.cmds.ops.filter home
  let here := ops.filter fun o => decide (s.opRow o = some (zone, row))
  decide (here ≠ []) && ops.any late && !here.any late

/-- A seek of an actuator begins, or goes on to a new target with its crossing counts (R249 to R252, R458). -/
def State.beginSeek (s : State) (a zone row : Nat) (only : Option Nat) : State :=
  let was := s.act a
  let far := (headsOf a).any fun h => decide (1 < ((s.head h).zone : Int) - zone) || decide (1 < (zone : Int) - (s.head h).zone)
  let one := was.verified && !was.seeking && decide (was.zone = zone) && (decide (row = was.row + 1) || decide (was.row = row + 1)) &&
    only.isNone && was.only.isNone
  let s := (s.unverify a).each (headsOf a) fun s h =>
    match s.zoneOf h zone with
    | none => s
    | some e =>
      let (lane, spare) := s.resolveSpare e h zone row
      let apart := match only with
        | some g => decide (g ≠ h)
        | none => spare
      let s := s.closeGate h
      let s := (if (s.head h).lead.isSome then s.endLead h else s).modHead h fun x => { x with
        target := lane, onSpare := spare, crossings := if was.seeking then x.crossings else 0, misstep := was.seeking && x.misstep
        onRow := false, settleRun := 0, passHeld := apart, cutLane := none, heaterCal := none
        flySince := some (x.flySince.getD s.tick) }
      let s := if (s.head h).held then s else s.holdRegisters h (if apart then some 0 else none)
      let s := (s.setStatusBit h 4 true).setStatusBit h 6 false
      let s := if far then s.writeHeater h 0 else s
      if s.nat (O.positionState + h) = 8 then s
      else s.setNat (O.positionState + h) (if (s.head h).held ∨ apart then 7 else 3)
  let s := (s.setPoint a 0 (-(2 ^ 30))).setPoint a 1 (s.velocityCap (s.headZone ((s.firstSteering a).getD (6 * a))))
  (s.bump (O.seeks + a)).modAct a fun x => { x with
    seeking := true, zone := zone, row := row, oneRow := one, only := only, nextTarget := none, passed := [] }

/-- Whether a read waits for a sector of the lane a head is on. -/
def State.laneWanted (s : State) (h : Nat) : Bool :=
  let here (x : Nat × SectorInFlight) : Bool := decide (x.1 = h) && decide (x.2.lane = (s.head h).lane)
  (s.cmds.ctxs.any fun c => c.want.any fun lba => s.opCovers c.port c.sqid c.cid lba && (s.readPlace c.nsid lba).any here) ||
    (s.detect.reads.any fun d => d.want.any here) ||
    s.detect.ladders.any fun l => decide (l.stream / 2 = h) && decide (l.sector.lane = (s.head h).lane)

/-- Whether a write waits for the lane a head is on. -/
def State.laneToWrite (s : State) (h : Nat) : Bool :=
  s.write.chunks.any fun w => decide (w.head = h) && decide (w.lane = (s.head h).lane)

/-- Whether a narrow head of an actuator still has reads or writes on the lane row it is on: the actuator does not leave the row before
they are done (R161). -/
def State.narrowWork (s : State) (a : Nat) : Bool :=
  (headsOf a).any fun h => bitOf (s.nat O.narrowHeadMask) h && !(s.head h).narrowPending && decide (s.nat (O.headService + h) ≠ 3) &&
    (s.head h).onRow && (s.laneWanted h || s.laneToWrite h)

/-- Whether a head that no pass has admitted yet on the lane row still has reads there: it is served before the actuator leaves (R443). -/
def State.passWork (s : State) (a : Nat) : Bool :=
  (s.passHeads a).any fun h => !(s.head h).admitted && !(s.act a).passed.contains h && (s.head h).onRow && s.laneWanted h

/-- The next pass of an actuator over its lane row, once the admitted heads have no more reads there and others have: the heads served
stand back, and admission is recomputed (R443). -/
def State.nextPass (s : State) (a : Nat) : State :=
  let heads := s.passHeads a
  let now := heads.filter fun h => (s.head h).admitted
  let waiting := heads.filter fun h => !(s.head h).admitted && s.laneWanted h
  if now.any s.laneWanted ∨ waiting = [] then s
  else
    let passed := (s.act a).passed ++ now
    let passed := if waiting.all passed.contains then now else passed
    (s.modAct a fun x => { x with passed := passed }).admitStreams s.power.ceiling

/-- SEEK_REQUEST: the scheduler requests lane row `row` of a zone, overdue operations first; `only` names the one head of a spare-lane
pass. During a seek it replaces the target at the next 15 kHz boundary (R161, R249, R251, R358, R443). -/
def execSeekRequest (act zone row : Nat) (only : Option Nat) (s : State) : Host.Outcome State Fault Refusal :=
  let a := act
  let exists_ := (headsOf a).all fun h => decide (s.nat (O.headService + h) = 3) ||
    (match s.zoneOf h zone with
      | some e => decide (row < e.laneCount - e.spareLanes)
      | none => false)
  .next (if ¬ s.hasAct a ∨ (s.act a).load ≠ 2 ∨ ¬ exists_ ∨ s.passesOver a zone row then s
    else if (s.act a).seeking then s.modAct a fun x => { x with nextTarget := some (zone, row, only) }
    else if s.narrowWork a ∨ s.passWork a then s
    else s.beginSeek a zone row only)

/-- An actuator track-follows after its seek (R126, R251, R254, R458). -/
def State.handOver (s : State) (a : Nat) : State :=
  let x := s.act a
  let keep := x.oneRow && (s.steering a).all fun h => !(s.head h).misstep && decide ((s.head h).crossings.natAbs = 1)
  let s := (s.setPoint a 0 0).modAct a fun x => { x with seeking := false, verified := keep, checks := 0 }
  let s := s.each (headsOf a) fun s h =>
    let s := (s.setStatusBit h 4 false).setStatusBit h 5 keep
    let fly := (s.head h).flySince.getD s.tick
    let s := s.modHead h fun x => { x with flySince := none }
    let s := if (s.head h).zone ≠ x.zone then s.changeZone h x.zone
      else if s.nat (O.clockState + h) = 3 ∧ s.cfg h O.flywheelLimit < s.tick - fly then s.provisional h else s
    let s := if s.nat (O.positionState + h) = 3 then s.setNat (O.positionState + h) 4 else s
    s.restHeater h
  (s.returnSurge 2 a).admitStreams s.power.ceiling

/-- HAND_OVER: at a 15 kHz boundary with no reference velocity and every steering head on its lane, the actuator track-follows; a new
target takes the place of the old one instead (R126, R251, R254, R458). -/
def execHandOver (act sub : Nat) (s : State) : Host.Outcome State Fault Refusal :=
  let a := act
  let x := s.act a
  let arrived := (s.steering a).all fun h => decide ((s.head h).lane = (s.head h).target)
  .next (if ¬ s.hasAct a ∨ x.load ≠ 2 ∨ ¬ x.seeking ∨ s.subTime sub % 8000 ≠ 0 then s
    else
      match x.nextTarget with
      | some (zone, row, only) => s.beginSeek a zone row only
      | none => if arrived then s.handOver a else s)

/-- Samples of reader C in 8 clock periods, the least between two crossings (R119, R250). -/
def minCrossing : Nat := 8 * 34

/-- One crossing of a head counted: its lane, the interval since the last crossing, and whether it goes towards the target (R250,
R254). -/
def Head.cross (x : Head) (outerFirst : Bool) (received : Nat) : Head :=
  let step : Int := if outerFirst then 1 else -1
  { x with
    lane := ((x.lane : Int) + step).toNat, crossInterval := received - x.crossedAt, crossedAt := received
    crossings := x.crossings + step, misstep := x.misstep || !(decide (x.lane < x.target) == outerFirst) }

/-- VelocityCap written again as the first steering head crosses into another zone (R245, R250). -/
def State.capAtZone (s : State) (h before : Nat) : State :=
  let a := actOf h
  let zone (lane : Nat) : Option Nat := (s.zoneOfLane h lane).map Prod.fst
  match s.zoneOfLane h (s.head h).lane with
  | some (_, e) =>
    if (s.act a).seeking ∧ s.firstSteering a = some h ∧ zone before ≠ zone (s.head h).lane ∧ (s.act a).unloadAt.isNone then
      s.setPoint a 1 (s.velocityCap e)
    else s
  | none => s

/-- STRIPE_CROSSING: reader C of a head crosses a stripe, in the band order seen, while the actuator moves `inward` or outward. A
crossing against the motion, or less than 8 clock periods after the last one, makes the actuator lane-uncertain (R250, R261). -/
def execStripeCrossing (head : Nat) (outerFirst inward : Bool) (s : State) : Host.Outcome State Fault Refusal :=
  let h := head
  let a := actOf h
  let x := s.head h
  let received := (s.rsl (3 * h + 2)).received
  .next (if ¬ s.sampled h ∨ (s.act a).load = 4 then s
    else if (s.act a).load = 1 ∧ ¬ x.crossed then
      s.modHead h fun x => { x with crossed := true, lane := 0, crossInterval := 0, crossedAt := received }
    else
      let soon := decide (x.crossedAt ≤ received) && decide (received - x.crossedAt < minCrossing)
      let s := (s.modHead h fun x => x.cross outerFirst received).capAtZone h x.lane
      if (outerFirst ≠ inward ∨ soon) ∧ ((s.act a).load = 1 ∨ ((s.act a).load = 2 ∧ (s.act a).seeking)) then s.laneUncertain a
      else s)

/-- The sector on a track of a head's lane that passes next and holds something the device serves. -/
def State.nextServed (s : State) (h track : Nat) : Option SectorInFlight :=
  let n := max 1 (s.trackSectors h)
  let now := ((s.sectorNow h).getD 0) + 1
  ((List.range n).filterMap fun i => s.expectedAt h (s.head h).lane track ((now + i) % n)).head?

/-- Whether a lane check is due on a head: on the lowest-numbered steering head of an unverified row while no stream of the actuator is
admitted, or while a write waits for the row and no read of it is queued; or on a head that waits for a Good sector while no
read of its sectors is queued (R254, R270). -/
def State.laneCheckDue (s : State) (h : Nat) : Bool :=
  let a := actOf h
  let row := headsOf a
  let verify := decide (s.firstSteering a = some h) && !(s.act a).verified &&
    ((row.all fun g => !(s.head g).admitted) || (row.any s.laneToWrite && !row.any s.laneWanted))
  verify || ((s.head h).awaitGood && !s.laneWanted h)

/-- LANE_CHECK_READ: one sector of the row read on D0 of a head, outside the admission count, to verify the row or to end the head's
read-only state; the read before it, once final, has had its effect (R254, R270). -/
def execLaneCheckRead (head : Nat) (s : State) : Host.Outcome State Fault Refusal :=
  let a := actOf head
  .next (match s.readFor 7 head 0 with
    | some d => if d.want = [] then s.endRead d else s
    | none =>
      if ¬ s.hasHead head ∨ (s.act a).load ≠ 2 ∨ (s.act a).seeking ∨ ¬ (s.head head).onRow ∨ s.nat (O.rslState + 3 * head) ≠ 3 ∨
          ¬ s.laneCheckDue head then s
      else
        match s.nextServed head 0 with
        | some x => s.startRead 7 a head 0 [(head, x)]
        | none => s)

/-- LANE_UNCERTAIN: LaneCheckSectors sector times after hand-over without a Good sector (R255). -/
def execLaneUncertain (act : Nat) (s : State) : Host.Outcome State Fault Refusal :=
  let x := s.act act
  .next (if s.hasAct act ∧ x.load = 2 ∧ ¬ x.seeking ∧ ¬ x.verified ∧ s.nat O.laneCheckSectors ≤ x.checks then
      s.laneUncertain act
    else s)

/-! ### Load and unload (R66, R72, R126, R261, R262) -/

/-- A load begun: the actuator's loops start and the heads leave the ramp, once its MEAS frames are valid (R202, R261, R572). -/
def State.beginLoad (s : State) (a : Nat) : State :=
  let s := (if (s.act a).vcmFails = 0 then s.startLoops a else s).each (headsOf a) fun s h =>
    let s := (s.keepSets h).modHead h fun x => { x with
      crossed := false, lane := 0, target := 0, zone := 0, crossInterval := 0, crossings := 0, onRow := false, sampleDue := none }
    if s.nat (O.positionState + h) = 8 then s else s.setNat (O.positionState + h) 2
  ((s.setPoint a 0 (-(2 ^ 30))).setPoint a 1 (speedCap (s.nat O.loadVelocity))).modAct a fun x => { x with
    load := 1, loadStart := s.tick, seeking := false, nextTarget := none, unloadAt := none }

/-- A load completed: tables in force, heads and domain in service, saved sets restored, each head in Z00 with its count predicted from
the spindle angle, its pace runs begun again, the row verified (R66, R67, R72, R126, R139, R159, R181, R254). -/
def State.endLoad (s : State) (a : Nat) (zones : List ZoneCopy) (spares : List SpareCopy) : State :=
  let s := s.modAct a fun x => { x with load := 2, loadWanted := false, attempts := 0, zone := 0, row := 0, only := none }
  let s := s.modSmart fun x => { x with loads := x.loads + 1 }
  let s := s.each (headsOf a) fun s h => if s.nat (O.headService + h) = 0 then s.setNat (O.headService + h) 1 else s
  let s := if s.nat (O.actuatorService + a) = 0 then s.setNat (O.actuatorService + a) 1 else s
  let s := ((((s.takeTables a (headsOf a) zones).takeSpares a (headsOf a) spares).countSpares).refreshCapacity).restoreSaved a
  if (s.act a).load ≠ 2 then s
  else
    let s := (s.setPoint a 0 0).modAct a fun x => { x with verified := true, checks := 0, tried := [], passed := [] }
    let s := s.each (headsOf a) fun s h =>
      if s.nat (O.headService + h) = 3 then s
      else
        let s := (s.setNat (O.positionState + h) 4).setStatusBit h 5 true
        let s := ((s.modHead h fun x => { x with target := x.lane, flySince := none }).setStatusBit h 4 false).enterZone h 0
        let s := (s.predictCount h).setNat (O.paceRun + h) 0
        let rsl := s.nat (O.rslState + 3 * h + 2)
        let s := if rsl = 3 ∨ rsl = 4 then s.provisional h else s
        (s.refreshHead h).restHeater h
    ((s.refreshService a).admitStreams s.power.ceiling).noteWarnings

/-- ACTUATOR_LOAD: with the spindle at speed, the bring-up done and the surge granted the heads leave the ramp; once every head
has crossed a stripe the tables read from the system lanes end the load (R66, R67, R261). -/
def execActuatorLoad (act : Nat) (zones : List ZoneCopy) (spares : List SpareCopy) (s : State) :
    Host.Outcome State Fault Refusal :=
  let a := act
  let x := s.act a
  let fast := decide (s.nat O.loadSpeedMin * s.nat O.spindleNominalRpm * 10 ≤ s.spindle.mrpm)
  let up := (s.pcl (2 * a)).broughtUp && (s.pcl (2 * a + 1)).broughtUp
  let crossed := (headsOf a).all fun h => (decide (s.nat (O.headService + h) = 3) && !s.returning a) || (s.head h).crossed
  .next (if ¬ s.hasAct a ∨ (s.nat (O.actuatorService + a) = 3 ∧ ¬ s.returning a) then s
    else if x.load = 0 ∧ x.loadWanted ∧ s.surgeGranted? 2 a ∧ fast ∧ up ∧ ¬ s.parkHeld a then s.beginLoad a
    else if x.load = 1 ∧ crossed then s.endLoad a zones spares
    else s)

/-- LOAD_TIMEOUT: a head does not cross a stripe within LoadTimeout: one more try, then the actuator is fenced (R261). -/
def execLoadTimeout (act : Nat) (s : State) : Host.Outcome State Fault Refusal :=
  let a := act
  let x := s.act a
  let crossed := (headsOf a).all fun h => (decide (s.nat (O.headService + h) = 3) && !s.returning a) || (s.head h).crossed
  .next (if ¬ s.hasAct a ∨ x.load ≠ 1 ∨ crossed ∨ s.tick < x.loadStart + 1000 * s.nat O.loadTimeout then s
    else
      let s := s.modSmart fun x => { x with failedLoads := x.failedLoads + 1 }
      if x.attempts = 0 then (s.modAct a fun x => { x with attempts := 1 }).startUnload a true
      else (s.fenceAct a 1).endFencedIo)

/-- ACTUATOR_UNLOAD: once the heads of an unloading actuator are at lane 0 it moves outward at no more than UnloadVelocity and drives
outward at SafeParkCurrent for SafeParkTime; then the heads are on the ramp and its loops stop. It loads again where a reload or
a wait asks for it (R202, R255, R261, R262). -/
def execActuatorUnload (act : Nat) (s : State) : Host.Outcome State Fault Refusal :=
  let a := act
  .next (if ¬ s.hasAct a ∨ (s.act a).load ≠ 3 then s
    else
      match (s.act a).unloadAt with
      | none =>
        if (s.steering a).all fun h => decide ((s.head h).lane = 0) then
          (s.setPoint a 1 (speedCap (s.nat O.unloadVelocity))).modAct a fun x => { x with unloadAt := some s.tick }
        else s
      | some t =>
        if s.tick < t + 1000 * s.nat O.safeParkTime then s
        else
          let s := ((s.headsParked a).stopLoops a).modAct a fun x => { x with load := 0, parkCause := 0, seeking := false, unloadAt := none }
          if (s.act a).loadWanted then
            if s.surgeGranted? 2 a ∨ s.nat O.spindleState ≠ 5 then s else s.requestLoad a
          else s.returnSurge 2 a)

/-- Whether reader C of a head still sees its position bands: their sum reaches OffStripeAmpLimit percent of the one learnt for the head
and the zone it was last in (R264). -/
def State.overMedia (s : State) (h : Nat) : Bool :=
  let (outer, inner) := s.bands h 72
  s.sampled h && decide ((s.head h).ampRef ≠ 0) && decide (s.nat O.offStripeAmpLimit * (s.head h).ampRef ≤ 100 * (outer + inner))

/-- SAFE_PARK_TIME_END: SafeParkTime ends and reader C of every head is checked: a head still over the media reruns the sequence once,
then the actuator is fenced as a park failure; else it is on the ramp, its coil current 0 (R263, R264). -/
def execSafeParkTimeEnd (act : Nat) (s : State) : Host.Outcome State Fault Refusal :=
  let a := act
  let x := s.act a
  let over_ := (headsOf a).any s.overMedia
  .next (if ¬ s.hasAct a ∨ x.load ≠ 4 ∨ s.tick < x.parkEnd then s
    else if over_ ∧ x.parkReruns = 0 then
      (s.modAct a fun x => { x with parkReruns := 1, parkEnd := s.tick + 1000 * s.nat O.safeParkTime }).vcmFrame a
    else
      let s := ((s.headsParked a).modAct a fun x => { x with load := 0 }).vcmFrame a
      if over_ then
        (((s.fenceAct a 2).bump (O.parkFailures + a)).raiseFault (240 + 8 * a + 1) 255).endFencedIo
      else if (s.act a).loadWanted ∧ s.nat O.spindleState = 5 then s.requestLoad a else s.returnSurge 2 a)

/-! ### Shock and vibration (R257 to R260, R573 to R575) -/

/-- Acceleration of an axis code times 32,768 in 0.01 g. -/
def State.axisLevel (s : State) (sensor : Nat) (code : Int) : Nat := code.natAbs * s.nat (O.sensorFullScale0 + sensor)

/-- The shock comparators on the axes a sensor holds: an enabled axis at a limit, or any axis at full scale above ShockParkLimit, in two
consecutive samples (R257, R258, log entry 126). -/
def State.shockCheck (s : State) (sensor : Nat) : State :=
  let enabled := (List.range 4).filter fun i => (s.nat O.shockAxisEnable).testBit (4 * sensor + i)
  let reaches (limit : Nat) : Bool := enabled.any fun i =>
    decide (limit * 32768 ≤ s.axisLevel sensor (s.pos.axes.getD (4 * sensor + i) 0))
  let full := (List.range 4).any fun i =>
    let v := s.pos.axes.getD (4 * sensor + i) 0
    (decide (v = 32767) || decide (v = -32768)) && decide (s.nat O.shockParkLimit * 32768 < s.axisLevel sensor v)
  let run := if reaches (s.nat O.shockParkLimit) || full then s.pos.parkRun.getD sensor 0 + 1 else 0
  let s := { s with pos := { s.pos with parkRun := s.pos.parkRun.set sensor run } }
  let s : State := if reaches (s.nat O.shockInhibitLimit) then
      let s := if s.pos.inhibit then s else s.bump O.shockInhibitEvents
      let s := { s with pos := { s.pos with inhibit := true, lastShock := s.tick } }
      s.each (List.range s.headCount) fun s h => (s.closeGate h).setStatusBit h 8 true
    else s
  let over_ := (List.range s.actCount).filter fun a => decide ((s.act a).load ≠ 0) && decide ((s.act a).load ≠ 4)
  if 2 ≤ run ∧ over_ ≠ [] then
    let s := (s.safeParkAll 3).bump O.shockParks
    s.each over_ fun s a => s.raiseFault (240 + 8 * a + 5) 255
  else s

/-- Axes of a sensor replaced. -/
def putAxes (sensor : Nat) (axes old : List Int) : List Int :=
  old.zipIdx.map fun x => if x.2 / 4 = sensor then axes.getD (x.2 % 4) 0 else x.1

/-- Byte `i` of the 11 that a sensor sends in a transaction (R573). -/
def misoByte (miso i : Nat) : Nat := miso / 2 ^ (8 * (10 - i)) % 256

/-- The four axes of a transaction (R573). -/
def misoAxes (miso : Nat) : List Int :=
  (List.range 4).map fun i =>
    let v : Nat := 256 * misoByte miso (2 * i + 1) + misoByte miso (2 * i + 2)
    if v < 32768 then (v : Int) else (v : Int) - 65536

/-- Whether a transaction passes its checks: CRC, DataValid, SelfTestFailed, and the echo of the Sequence before, but in the first
transaction after the sensor starts or becomes active again (R574). -/
def State.sensorPass (s : State) (sensor miso : Nat) : Bool :=
  let status := misoByte miso 0
  decide (misoByte miso 10 = crc8Of 80 (miso / 256)) && status.testBit 7 && !status.testBit 6 &&
    (!s.pos.firstSeen.getD sensor false || decide (misoByte miso 9 = s.pos.sequence.getD sensor 0))

/-- A transaction's request sent: the read command and the next Sequence (R573). -/
def State.sensorAsk (s : State) (sensor : Nat) : State :=
  let q := (s.pos.sequence.getD sensor 0 + 1) % 256
  ({ s with pos := { s.pos with sequence := s.pos.sequence.set sensor q } }).emit (.spi sensor (0x5A * 2 ^ 80 + q * 2 ^ 72))

/-- A sensor's axes of a transaction that has passed, compared with the shock limits (R257, R574). -/
def State.sensorTaken (s : State) (sensor miso : Nat) (seen : Bool) : State :=
  let s := if s.nat (O.sensorState + sensor) = 1 then s else (s.setNat (O.sensorState + sensor) 1).feedForward
  let s := { s with pos := { s.pos with
    failRun := s.pos.failRun.set sensor 0, firstSeen := s.pos.firstSeen.set sensor seen, axes := putAxes sensor (misoAxes miso) s.pos.axes } }
  s.shockCheck sensor

/-- A transaction of a sensor that has failed: counted; at the eighth in a row the sensor is failed and its axes read 0; until then they
keep their values (R260, R574). -/
def State.sensorLost (s : State) (sensor : Nat) : State :=
  let run := s.pos.failRun.getD sensor 0 + 1
  let s := (s.bump (O.sensorCheckFailures0 + sensor))
  let s := { s with pos := { s.pos with failRun := s.pos.failRun.set sensor run, firstSeen := s.pos.firstSeen.set sensor true } }
  if run < 8 then s.shockCheck sensor
  else
    let s := { s with pos := { s.pos with
      axes := putAxes sensor [] s.pos.axes, retryAt := s.pos.retryAt.set sensor s.tick
      firstSeen := s.pos.firstSeen.set sensor false, parkRun := s.pos.parkRun.set sensor 0 } }
    ((s.setNat (O.sensorState + sensor) 2).feedForward).raiseFault (230 + sensor) 255

/-- What a write to SensorFitted changes at the next 240 kHz boundary: a sensor no longer fitted is absent and its axes read 0, one now
fitted starts with its first transaction (R575). -/
def State.refitSensors (s : State) (was : Nat) : State :=
  s.each ([0, 1].filter fun n => decide (was.testBit n ≠ (s.nat O.sensorFitted).testBit n)) fun s n =>
    let s := { s with pos := { s.pos with
      axes := putAxes n [] s.pos.axes, failRun := s.pos.failRun.set n 0, firstSeen := s.pos.firstSeen.set n false
      parkRun := s.pos.parkRun.set n 0 } }
    ((s.setNat (O.sensorState + n) 0).endCondition (230 + n)).feedForward

/-- SENSOR_TRANSACTION: one transaction with a fitted sensor that has not failed; `miso` holds the 88 bits it sends (R257, R258, R260,
R573 to R575). -/
def execSensorTransaction (sensor miso : Nat) (s : State) : Host.Outcome State Fault Refusal :=
  .next (if ¬ (s.nat O.sensorFitted).testBit sensor ∨ 2 ≤ sensor ∨ s.nat (O.sensorState + sensor) = 2 then s
    else
      let pass := s.sensorPass sensor miso
      let s := s.sensorAsk sensor
      if pass then s.sensorTaken sensor miso true else s.sensorLost sensor)

/-- SHOCK_HOLD_EXPIRY: ShockHold after the last sample at or above the limit the shock inhibit is released (R257). -/
def execShockHoldExpiry (s : State) : Host.Outcome State Fault Refusal :=
  .next (if ¬ s.pos.inhibit ∨ s.tick < s.pos.lastShock + s.nat O.shockHold then s
    else
      let s := { s with pos := { s.pos with inhibit := false } }
      s.each (List.range s.headCount) fun s h => s.setStatusBit h 8 false)

/-- SHOCK_RELOAD_DELAY: after ShockReloadDelay without a sample at or above ShockInhibitLimit the parked heads load again
(R258). -/
def execShockReloadDelay (s : State) : Host.Outcome State Fault Refusal :=
  .next (if s.tick < s.pos.lastShock + 1000 * s.nat O.shockReloadDelay then s
    else s.each (List.range s.actCount) fun s a =>
      if (s.act a).parkCause = 3 ∧ (s.act a).load = 0 ∧ (s.act a).loadWanted ∧ s.nat O.spindleState = 5 then s.requestLoad a else s)

/-- SENSOR_RETRY: once a second a failed sensor is tried again with a transaction (R260, R573, R574). -/
def execSensorRetry (sensor miso : Nat) (s : State) : Host.Outcome State Fault Refusal :=
  .next (if ¬ (s.nat O.sensorFitted).testBit sensor ∨ 2 ≤ sensor ∨ s.nat (O.sensorState + sensor) ≠ 2 ∨
      s.tick < s.pos.retryAt.getD sensor 0 + 1000000 then s
    else
      let pass := s.sensorPass sensor miso
      let s := s.sensorAsk sensor
      let s := { s with pos := { s.pos with retryAt := s.pos.retryAt.set sensor s.tick } }
      if pass then (s.endCondition (230 + sensor)).sensorTaken sensor miso false
      else s.bump (O.sensorCheckFailures0 + sensor))

/-! ### Borrowed clock (R128, R131, R132, R266 to R270) -/

/-- LENDER_ASSIGN: at the next sector boundary a head whose reader C is unhealthy gets a lender or is Lost, and so does each
borrower whose lender is no longer fit (R131, R266, R269). -/
def execLenderAssign (head : Nat) (s : State) : Host.Outcome State Fault Refusal :=
  let st := s.nat (O.clockState + head)
  let lender := s.nat (O.lender + head)
  let unfit := decide (s.nat (O.clockState + lender) ≠ 3) || decide (s.nat (O.rslState + 3 * lender + 2) = 2) ||
    decide (s.nat (O.headService + lender) = 3)
  .next (if ¬ s.hasHead head ∨ s.nat (O.headService + head) = 3 then s
    else if (st = 2 ∨ st = 3) ∧ (s.head head).unhealthy ≠ 0 then
      let mine := s.borrowers head
      (s.assignLender head).each mine State.assignLender
    else if st = 4 ∧ unfit then s.assignLender head
    else s)

/-- HEAD_HOLD: within 3 minor frames of reader C becoming unhealthy the head is held at its recent mean output (R267). -/
def execHeadHold (head : Nat) (s : State) : Host.Outcome State Fault Refusal :=
  let x := s.head head
  .next (if ¬ s.hasHead head ∨ x.unhealthy = 0 ∨ x.held ∨ (s.act (actOf head)).load ≠ 2 ∨ s.nat (O.positionState + head) = 8 then s
    else
      let mean := if x.maoHistory = [] then 0 else roundDiv x.maoHistory.sum x.maoHistory.length
      let s := (s.modHead head fun x => { x with held := true }).holdRegisters head (some mean)
      (s.setNat (O.positionState + head) 7).setStatusBit head 6 false)

/-- READ_ONLY_END: ReadOnlyHold revolutions Confirmed and Valid: the hold ends, and writes resume after a Good sector
(R270). -/
def execReadOnlyEnd (head : Nat) (s : State) : Host.Outcome State Fault Refusal :=
  let x := s.head head
  let long := x.validSince.any fun t => decide (t + s.nat O.readOnlyHold * s.revolution ≤ s.tick)
  .next (if ¬ s.hasHead head ∨ ¬ x.readOnly ∨ x.unhealthy ≠ 0 ∨ s.nat (O.clockState + head) ≠ 3 ∨ ¬ long then s
    else
      let s := s.modHead head fun x => { x with held := false, readOnly := false, awaitGood := true, settleRun := 0 }
      let s := if x.passHeld then s else s.holdRegisters head none
      let s := if s.nat (O.positionState + head) = 7 ∧ ¬ x.passHeld then s.setNat (O.positionState + head) 4 else s
      s.refreshHead head)

/-- Count of a head less the one its actuator's reference head gives it, by their HeadSkew, in 1/64 bit time (R268). -/
def State.countDiff (s : State) (h : Nat) : Int :=
  let r := 6 * actOf h
  let own := s.headZone h
  let his := s.headZone r
  aroundRev (64 * bitsPerRev own) ((s.countNow h : Int) -
    borrowedCount (s.countNow r) his.headSkew (bitsPerRev his) own.headSkew (bitsPerRev own))

/-- One measured count difference taken towards SkewDrift, which is the mean over 16 revolutions (R268). -/
def State.takeDrift (s : State) (h : Nat) : State :=
  let r := 6 * actOf h
  if h = r ∨ s.nat (O.clockState + h) ≠ 3 ∨ s.nat (O.clockState + r) ≠ 3 ∨ ¬ (s.head h).onRow ∨ ¬ (s.head r).onRow ∨
      (s.head h).onSpare ∨ (s.head r).onSpare then s
  else
    let x := s.head h
    let diff := s.countDiff h
    if x.driftRevs + 1 < 16 then s.modHead h fun x => { x with driftSum := x.driftSum + diff, driftRevs := x.driftRevs + 1 }
    else
      (s.setObj (O.skewDrift + h) (satTo 16 (roundDiv (x.driftSum + diff) 16))).modHead h fun x => { x with
        driftSum := 0, driftRevs := 0 }

/-! ### Admission (R442, R443) -/

/-- STREAM_ADMISSION_RECOMPUTE: heads admitted round-robin within the derated capacity; `narrowActs` are the actuators in a
narrow pass (R161, R442). -/
def execStreamAdmissionRecompute (narrowActs : List Nat) (s : State) : Host.Outcome State Fault Refusal :=
  let s := { s with power := { s.power with narrowPass := narrowActs.filter fun a => s.hasAct a } }
  let level := if s.power.stepKind = 2 ∧ s.power.stepWait = 5 then s.power.stepTarget else s.power.ceiling
  .next (s.admitStreams level)

/-- ADMISSION_TAKE_EFFECT: at an actuator's stripe boundary the change of its admitted heads takes effect; degraded links start
their retraining, and a lowering whose heads have all stopped goes on (R107, R443, R445). -/
def execAdmissionTakeEffect (act : Nat) (s : State) : Host.Outcome State Fault Refusal :=
  .next (if ¬ s.hasAct act then s
    else
      let s := (s.nextPass act).each (headsOf act) fun s h =>
        let s := if (s.head h).admitted = (s.head h).admitNext then s
          else s.modHead h fun x => { x with admitted := x.admitNext }
        s.restHeater h
      let s := s.retrainDegraded act
      if s.power.stepKind = 2 ∧ s.power.stepWait = 5 ∧ ¬ s.admissionWaits then s.lowerCeiling else s)

end Sys2Proof.Machine
end

