-- ==== Sys2Proof/Machine/Calibration.lean ====
section
/-! DEFINITION. Calibration (R271 to R280, R282): runout learning, loop identification, heater calibration, checks after a swap,
and the calibration pass. -/

namespace Sys2Proof.Machine

/-- Heads whose readers a loop disturbs: its head, or every head of the actuator (R273). -/
def loopHeads (n : Nat) : List Nat := if n % 9 < 6 then [6 * (n / 9) + n % 9] else headsOf (n / 9)

/-- A calibration revolution of some heads: counted, and paid for with a credit of each where it is charged (R273, R282). -/
def State.charge (s : State) (heads : List Nat) (paid : Bool) : State :=
  s.each heads fun s h =>
    let s := s.bump (O.calibrationRevs + h)
    if paid then s.setNat (O.calibrationCredit + h) (s.nat (O.calibrationCredit + h) - 100) else s

/-- Whether some heads may pay for a charged revolution (R273). -/
def State.mayCharge (s : State) (heads : List Nat) : Bool :=
  decide (s.nat O.calibrationShare ≠ 0) && heads.all fun h => decide (100 ≤ s.nat (O.calibrationCredit + h))

/-- A calibration swap of a loop starts the check of its heads; what they have measured so far stands for before it (R278). -/
def State.startCheck (s : State) (n : Nat) : State :=
  s.each (loopHeads n) fun s h => s.modHead h fun x => { x with
    checkSlot := some n, checkRevs := 0, formerSquares := x.squares, formerSamples := x.samples, squares := 0, samples := 0 }

/-- Whether live calibration may act on an actuator now: S1 without an entry under way, loaded, no activation (R39, R272). -/
def State.calMay (s : State) (a : Nat) : Bool :=
  s.hasAct a && decide (s.nat O.sleepStateCurrent = 1) && decide ((s.act a).load = 2) && decide (s.nat O.updateState ≠ 3) &&
    decide (s.nat O.sleepEntryState ≠ 1) && decide (s.nat O.sleepEntryState ≠ 2)

/-- Whether a charged or spare calibration has the present revolution of an actuator (R274). -/
def State.calBusy (s : State) (a : Nat) : Bool :=
  ((headsOf a).any fun h => (s.head h).heaterCal.isSome) || (s.pos.identify.any fun r => r.excited && decide (r.slot / 9 = a)) ||
    s.detect.reads.any fun d => decide (d.purpose = 6) && decide (d.act = a)

/-- One step of the integer square root. -/
def rootStep (x : Nat) (r bit : Nat) : Nat := if (r + 2 ^ bit) * (r + 2 ^ bit) ≤ x then r + 2 ^ bit else r

/-- Integer square root of a number below 2^64. -/
def isqrt (x : Nat) : Nat := ((List.range 32).reverse).foldl (rootStep x) 0

/-- Mean PES of each runout bin in 2^-30 of the track pitch; an empty bin counts 0. -/
def rroMeans (x : Head) : List Int :=
  (List.range 64).map fun i => let n := x.rroCount.getD i 0; if n = 0 then 0 else roundDiv (x.rroSum.getD i 0) n

/-- RRO_LEARN_UPDATE: after RroLearnRevs revolutions in one zone every point of the head's runout table moves by −RroGain/256
times the mean PES there in MAO units, the table in the loop's words from `coefWord` on is swapped, and the residual is the rms
of the mean bins (R275, R278). -/
def execRroLearnUpdate (head coefWord : Nat) (s : State) : Host.Outcome State Fault Refusal :=
  let h := head
  let x := s.head h
  let n := 9 * actOf h + h % 6
  .next (if ¬ s.hasHead h ∨ ¬ s.calMay (actOf h) ∨ s.nat O.rroEnable ≠ 1 ∨ x.rroRevs < s.nat O.rroLearnRevs ∨
      s.nat (O.headService + h) = 3 ∨ ¬ s.firmwareMay n ∨ s.nat (O.maoStroke + h) = 0 then s
    else
      let means := rroMeans x
      let old := (assoc? x.rro x.zone).getD (List.replicate 64 0)
      let move (v : Int) : Int := roundDiv (-(v * s.nat O.rroGain * (s.headZone h).trackPitch)) (256 * 100 * s.nat (O.maoStroke + h))
      let table := (old.zip means).map fun p => satTo 32 (p.1 + move p.2)
      let permille := means.map fun v => (roundDiv (v * 1000) (2 ^ 30)).natAbs
      let s := s.setNat (O.rroResidual + h) (min 65535 (isqrt ((permille.map fun v => v * v).sum / 64)))
      let s := s.modHead h fun x => { x with
        rro := putKey x.rro x.zone table, rroBase := coefWord, rroSum := [], rroCount := [], rroRevs := 0 }
      (s.firmwareChange n (table.zipIdx.map fun p => ((coefWord + p.2) % 256, p.1))).startCheck n)

/-! ### Loop identification (R272 to R274, R276, R282) -/

/-- The head at whose index the revolutions of a loop's identification are counted: the lowest-numbered of its heads that steers. -/
def State.idHead (s : State) (slot : Nat) : Option Nat := (s.steering (slot / 9)).find? fun h => (loopHeads slot).contains h

/-- The loop of an actuator whose live identification is due at a head's index: enabled, LoopIdPeriod since the last one, running and
unclaimed (R224, R272). -/
def State.idDue (s : State) (h : Nat) : Option Nat :=
  (List.range 9).map (9 * actOf h + ·) |>.find? fun n =>
    decide (s.idHead n = some h) && s.loopRuns n && decide (s.nat (O.loopClaim + n) = 0) && decide (s.nat O.loopIdEnable = 1) &&
      decide (((assoc? s.pos.identifiedAt n).getD 0) + 1000000 * s.nat O.loopIdPeriod ≤ s.tick)

/-- Whether the next revolution of an actuator may be an excited one: no write waits on the actuator, no other calibration has the
revolution, and it is requested, spare, or paid for (R273, R274, R276, R282). -/
def State.excite (s : State) (r : IdRun) : Bool :=
  let a := r.slot / 9
  s.calMay a && s.loopRuns r.slot && decide (r.revs < 16) && (!s.write.chunks.any fun w => decide (actOf w.head = a)) && !s.calBusy a &&
    (r.requested || s.spareFor a 4 || s.mayCharge (loopHeads r.slot))

/-- An identification's revolution at the index of its head: the excited one is over, and the next one is excited or not (R276). -/
def State.idNext (s : State) (r : IdRun) : State :=
  let put (s : State) (x : IdRun) : State :=
    { s with pos := { s.pos with identify := s.pos.identify.map fun y => if y.slot = r.slot ∧ y.requested = r.requested then x else y } }
  let r := if r.excited then { r with revs := r.revs + 1, excited := false } else r
  let s := put s r
  if s.excite r then
    (put s { r with excited := true }).charge (loopHeads r.slot) (!r.requested && !s.spareFor (r.slot / 9) 4)
  else s

/-- Identification at a head's index: the actuator's oldest run goes on; without one, a live one that is due begins (R272, R274). -/
def State.idRevolution (s : State) (h : Nat) : State :=
  match s.pos.identify.find? fun r => decide (r.slot / 9 = actOf h) with
  | some r => if s.idHead r.slot = some h then s.idNext r else s
  | none =>
    match s.idDue h with
    | some n =>
      if s.calMay (actOf h) then
        let r : IdRun := { slot := n, requested := false }
        State.idNext { s with pos := { s.pos with identify := s.pos.identify ++ [r] } } r
      else s
    | none => s

/-- The result of a requested identification (R282). -/
def State.idResult (s : State) (requested : Bool) (gain : Int) (frequency applied reason : Nat) : State :=
  if requested then
    (((s.setObj O.loopIdRunGainChange (satTo 16 gain)).setNat O.loopIdRunModeFrequency (min frequency (2 ^ 32 - 1))).setNat
      O.loopIdRunApplied applied).endRun O.loopIdRunState reason
  else s

/-- LOOP_IDENTIFICATION_END: the 16 revolutions of an identification are over: gain change in ‰, the largest move of a mode in percent,
the frequency of the largest mode, and the recomputed words. Outside the limits they are not applied and the source is raised;
while a claim stands they are not applied (R276, R278, R279, R282). -/
def execLoopIdentificationEnd (slot : Nat) (gain : Int) (modeShift frequency : Nat) (words : List (Nat × Int)) (s : State) :
    Host.Outcome State Fault Refusal :=
  .next (match s.pos.identify.find? fun r => decide (r.slot = slot) && decide (16 ≤ r.revs) with
    | none => s
    | some r =>
      let claimed := decide (s.nat (O.loopClaim + slot) ≠ 0)
      let outside := decide (10 * (s.nat O.gainChangeLimit : Int) < gain.natAbs) || decide (s.nat O.modeShiftLimit < modeShift)
      if ¬ s.calMay (slot / 9) ∨ (¬ outside ∧ ¬ claimed ∧ ¬ s.firmwareMay slot) then s
      else
        let s := { s with pos := { s.pos with
          identify := s.pos.identify.filter fun x => !(decide (x.slot = slot) && decide (x.requested = r.requested))
          identifiedAt := putKey s.pos.identifiedAt slot s.tick } }
        if outside then (s.raiseFault 229 slot).idResult r.requested gain frequency 0 3
        else if claimed then s.idResult r.requested gain frequency 0 2
        else
          let s := s.firmwareChange slot (words.map fun (w : Nat × Int) => (w.1 % 256, satTo 32 w.2))
          (s.startCheck slot).idResult r.requested gain frequency 1 0)

/-! ### Fly-height heater calibration (R272 to R274, R277) -/

/-- Heater power of a calibration's revolution: the present setting, HeaterStepPower below it, and above it (R277). -/
def State.heaterStage (s : State) (h stage : Nat) : Nat :=
  let e := s.headZone h
  let now : Int := s.heaterRead h e
  let step : Int := s.nat O.heaterStepPower
  (clampInt 0 e.heaterWrite (if stage = 0 then now else if stage = 1 then now - step else now + step)).toNat

/-- Whether a heater calibration is due on a head: enabled, in service, on its lane, HeaterCalPeriod since the last one in this zone
(R272, R279). -/
def State.heaterDue (s : State) (h : Nat) : Bool :=
  let x := s.head h
  let old : Bool := match assoc? x.heaterAt x.zone with
    | some t => decide (t + 1000000 * s.nat O.heaterCalPeriod ≤ s.tick)
    | none => true
  s.hasHead h && s.calMay (actOf h) && decide (s.nat O.heaterCalEnable = 1) && decide (s.nat (O.headService + h) ≠ 3) && x.onRow &&
    x.lead.isNone && !x.gate && !x.heaterPending && old

/-- A revolution of a heater calibration begun at a stage, where it is spare or paid for (R273, R277). -/
def State.heaterRevolution (s : State) (h : Nat) (r : HeaterRun) : State :=
  let spare := s.spareFor (actOf h) 3
  if ¬ (spare ∨ s.mayCharge [h]) then s
  else
    let s := (s.charge [h] (!spare)).modHead h fun x => { x with heaterCal := some { r with began := s.tick, first := 0, third := 0 } }
    s.setHeater h (s.heaterStage h r.stage)

/-- The trim that brings the ratio of the harmonics to the head's target, by the slope between the two steps, within ±HeaterTrimLimit;
a slope of 0 leaves it open (R277, log entry 2). -/
def State.trimOf (s : State) (h : Nat) (ratios : List Int) : Int × State :=
  let limit : Int := s.nat O.heaterTrimLimit
  let (middle, low, high) := (ratios.getD 0 0, ratios.getD 1 0, ratios.getD 2 0)
  let rise := high - low
  let num := ((s.head h).harmonicTarget - middle) * (2 * s.nat O.heaterStepPower)
  if rise = 0 then
    let (f, s) := s.takeFree
    ((f % (2 * limit.toNat + 1) : Nat) - limit, s)
  else
    (clampInt (-limit) limit (s.obj (O.heaterTrim + h) + (if 0 < rise then roundDiv num rise.toNat else roundDiv (-num) rise.natAbs)), s)

/-- A revolution of a heater calibration over: its ratio noted, and the next one begun, or the trim set (R277). -/
def State.heaterNext (s : State) (h : Nat) (r : HeaterRun) : State :=
  let ratios := if r.ratios.length ≤ r.stage then r.ratios ++ [Config.logRatio r.first r.third] else r.ratios
  if r.stage < 2 then s.heaterRevolution h { r with stage := r.stage + 1, ratios := ratios }
  else
    let (trim, s) := s.trimOf h ratios
    let s := s.modHead h fun x => { x with
      heaterCal := none, trims := putKey x.trims x.zone trim, heaterAt := putKey x.heaterAt x.zone s.tick }
    (s.setObj (O.heaterTrim + h) trim).restHeater h

/-- HEATER_CALIBRATION: ln(A1/A3) of the clock pattern is measured for one revolution at the present heater setting, one at
HeaterStepPower below it and one above it; from the slope the head's trim for the zone (R277). -/
def execHeaterCalibration (head : Nat) (s : State) : Host.Outcome State Fault Refusal :=
  .next (match (s.head head).heaterCal with
    | none => if s.heaterDue head ∧ ¬ s.calBusy (actOf head) then s.heaterRevolution head { began := s.tick } else s
    | some r =>
      if ¬ s.calMay (actOf head) then (s.modHead head fun x => { x with heaterCal := none }).restHeater head
      else if s.tick < r.began + s.revolution then s
      else s.heaterNext head r)

/-! ### Calibration reads (R140, R272, R274) -/

/-- A calibration read begun for one of a head's streams that has asked for it, in a spare revolution or a charged one: the next sector
of the lane on the stream's track (R140, R272 to R274). -/
def State.startCalRead (s : State) (h : Nat) : State :=
  let a := actOf h
  let spare := s.spareFor a 5
  match s.detect.calReads.find? fun n => decide (n / 2 = h) with
  | none => s
  | some n =>
    if ¬ s.calMay a ∨ s.calBusy a ∨ ¬ (s.head h).onRow ∨ ¬ (spare ∨ s.mayCharge [h]) then s
    else
      match s.nextServed h (n % 2) with
      | none => s
      | some x =>
        let s := (s.charge [h] (!spare)).startRead 6 a h n [(h, x)]
        { s with detect := { s.detect with calReads := s.detect.calReads.filter fun m => decide (m ≠ n) } }

/-! ### Checks after a swap (R278) -/

/-- Whether the rms of some squares exceeds that of others by more than 25 %: 25²/20² of their mean. -/
def risen (before beforeCount after afterCount : Nat) : Bool := decide (25 * before * afterCount < 16 * after * beforeCount)

/-- A calibration swap taken back: the former bank again, the result discarded with the runout table it held, counted and raised (R278). -/
def State.revertCal (s : State) (head n : Nat) : State :=
  let former := s.inactive n
  let s := s.acceptSwap (s.subTime 0) 0 0 0 [n]
  let s := if n % 9 < 6 then s.modHead (6 * (n / 9) + n % 9) fun x => { x with
      rro := if (assoc? x.rro x.zone).isSome then putKey x.rro x.zone ((List.range 64).map fun i => memWord former ((x.rroBase + i) % 256))
        else x.rro }
    else s
  (s.bump (O.calibrationReverts + head)).raiseFault 228 head

/-- CALIBRATION_CHECK_END: CalCheckRevs revolutions after a calibration swap the rms PES of the heads it affects is compared with that
before it; a rise of more than 25 % swaps back (R278). -/
def execCalibrationCheckEnd (head : Nat) (s : State) : Host.Outcome State Fault Refusal :=
  .next (match (s.head head).checkSlot with
    | none => s
    | some n =>
      if (s.head head).checkRevs < s.nat O.calCheckRevs then s
      else
        let heads := (loopHeads n).filter fun h => decide ((s.head h).checkSlot = some n)
        let sum (f : Head → Nat) : Nat := (heads.map fun h => f (s.head h)).sum
        let worse := risen (sum Head.formerSquares) (sum Head.formerSamples) (sum Head.squares) (sum Head.samples)
        let s := s.each heads fun s h => s.modHead h fun x => { x with checkSlot := none, checkRevs := 0 }
        if worse ∧ s.firmwareMay n ∧ s.nat (O.loopBankState + n) = 1 then s.revertCal head n else s)

/-- LOOP_ID_REQUEST: a write to 4060h.01 starts an identification of a loop; one that does not run or is claimed fails
(R276, R282). -/
def execLoopIdRequest (requester : Requester) (slot : Nat) (s : State) : Host.Outcome State Fault Refusal :=
  .next (s.writeVia requester O.loopIdRequest (.num 1 slot) fun s =>
    if s.nat O.loopIdRunState = 1 then .error .state
    else
      let s := (s.startRun O.loopIdRunState).setNat O.loopIdRunSlot slot
      .ok (if ¬ s.loopRuns slot then s.endRun O.loopIdRunState 1
        else if s.nat (O.loopClaim + slot) ≠ 0 then s.endRun O.loopIdRunState 2
        else { s with pos := { s.pos with identify := s.pos.identify ++ [{ slot := slot, requested := true }] } }))

/-- What live calibration has under way or has not applied is given up at a sleep entry or an activation: identifications, heater runs,
calibration reads, runout sums and adaptation blocks (R39, R140, R229, R279). -/
def State.dropCalibration (s : State) : State :=
  let s := s.each (List.range 4) State.dropIdentify
  let s := s.each (List.range s.headCount) fun s h =>
    let was := (s.head h).heaterCal.isSome
    let s := s.modHead h fun x => { x with heaterCal := none, rroSum := [], rroCount := [], rroRevs := 0 }
    if was then s.restHeater h else s
  let s := s.cancelReads fun d => decide (d.purpose = 6)
  { s with detect := { s.detect with
      calReads := []
      streams := s.detect.streams.map fun (st : Stream) => { st.newBlock with swap := if st.swap = 1 then 0 else st.swap } } }

/-- One head's results of the calibration pass: a head below 500 nm raises the stroke source, one below 450 nm or that failed
a step twice is fenced; `harmonics` marks the pass after a format, which takes the harmonic targets and the index angle too (R248,
R271, R277, R286). -/
def State.takeHeadCal (s : State) (harmonics : Bool) (c : HeadCal) : State :=
  let h := c.head
  if ¬ s.hasHead h ∨ s.nat (O.headService + h) = 3 then s
  else if ¬ c.ok then s.fenceHead h 4
  else
    let keep (old : List ZoneCal) : List ZoneCal :=
      c.zones.mapIdx fun i z => if harmonics then z else { z with harmonic := (old.getD i {}).harmonic }
    let s := (s.setNat (O.maoStroke + h) (min 65535 c.maoStroke)).modHead h fun x => { x with cal := keep x.cal, trims := [] }
    let s := (s.setObj (O.readerOffsetD0 + h) (satTo 16 c.offsetD0)).setObj (O.readerOffsetD1 + h) (satTo 16 c.offsetD1)
    let s : State := if harmonics then
        { s with spindle := { s.spindle with indexAngles := putKey s.spindle.indexAngles h (c.indexAngle % 2 ^ 32) } }
      else s
    let s := (s.applyCal h).restHeater h
    let s := if c.maoStroke < 500 then s.raiseFault (240 + 8 * actOf h + 4) h else s
    if c.maoStroke < 450 then s.fenceHead h 3 else s

/-- The calibration pass of an actuator (R271): its heads' results, then its loops': a milliactuator loop that fails fences its
head, the voice-coil or actuator loop the actuator. -/
def State.calibrate (s : State) (a : Nat) (harmonics : Bool) (heads : List HeadCal) (loops : List LoopCal) : State :=
  let s := (heads.filter fun c => decide (actOf c.head = a)).foldl (fun (s : State) c => s.takeHeadCal harmonics c) s
  let s := (loops.filter fun l => decide (l.slot / 9 = a) && decide (l.slot < 36)).foldl (fun (s : State) l =>
    let s := if l.slot % 9 = 6 then s.modAct a fun x => { x with outward := l.outward } else s
    if l.ok then s.firmwareChange l.slot (l.words.map fun (w : Nat × Int) => (w.1 % 256, satTo 32 w.2))
    else if l.slot % 9 < 6 then s.fenceHead (6 * a + l.slot % 9) 4
    else s.fenceAct a 5) s
  (s.modAct a fun x => { x with calibrated := true }).endFencedIo

/-! ### The index field -/

/-- A revolution of a head at its index field: revolutions of the runout learning and of a check after a swap, and the calibration
credit of an admitted head; what calibration takes of the next revolution (R273 to R276, R278). -/
def State.revolutionOf (s : State) (h : Nat) : State :=
  let s := s.modHead h fun x => { x with rroRevs := x.rroRevs + 1, checkRevs := x.checkRevs + 1, indexAt := none, revClean := true }
  let s := if (s.head h).admitted then
      let credit := s.nat (O.calibrationCredit + h) + s.nat O.calibrationShare
      s.setNat (O.calibrationCredit + h) (min credit (100 * s.nat O.calibrationCreditMax))
    else s
  (s.idRevolution h).startCalRead h

/-- INDEX_FIELD_DETECTED: the end of the index field that a head's clock periods have shown: the count is proven in Provisional, checked
for a slip in Confirmed, and proves reader C healthy again in Borrowed or Lost after a revolution within the limits (R46, R122,
R127, R128, R131, R268, R275). -/
def execIndexFieldDetected (head : Nat) (s : State) : Host.Outcome State Fault Refusal :=
  let st := s.nat (O.clockState + head)
  .next (match (s.head head).indexAt with
    | none => s
    | some at_ =>
      if ¬ s.sampled head ∨ (s.act (actOf head)).load ≠ 2 then s
      else
        let within := (s.head head).revClean
        let set (s : State) : State := s.moveCount head (-at_)
        let s := s.revolutionOf head
        if st = 2 ∧ (s.head head).unhealthy = 0 then (set s).confirm head
        else if st = 3 then
          let s := if at_.natAbs ≤ 64 then s
            else
              let s := (set s).bump (O.countSlips + head)
              if 384 < at_.natAbs then s.raiseFault 200 head else s
          s.takeDrift head
        else if within ∧ ((st = 4 ∧ at_.natAbs ≤ 64) ∨ st = 5) then ((set s).setNat (O.lender + head) 255).confirm head
        else s)

end Sys2Proof.Machine
end

