-- ==== Sys2Proof/Machine/SpindleOps.lean ====
section
/-! DEFINITION. Operations of the spindle: speeds (R288 to R290), failed attempts (R297), loss of the rotor (R306 to R308),
braking and its records (R314 to R320), and the power loss (R311 to R313). -/

namespace Sys2Proof.Machine

/-! ### Speed and set-point (R288 to R290) -/

/-- State with the spindle's record changed. -/
def State.modSpindle (s : State) (f : Spindle → Spindle) : State := { s with spindle := f s.spindle }

/-- State with the collector's record changed. -/
def State.modFaults (s : State) (f : Faults → Faults) : State := { s with faults := f s.faults }

/-- Speed in rpm. -/
def State.rpm (s : State) : Nat := s.spindle.mrpm / 1000

/-- State with the speed in 0.001 rpm. -/
def State.setSpeed (s : State) (mrpm : Nat) : State :=
  (s.modSpindle fun x => { x with mrpm := mrpm }).setNat O.spindleSpeed (min (mrpm / 1000) 65535)

/-- Whether the speed is at or above a percentage of SpindleNominalRpm. -/
def State.atLeast (s : State) (percent : Nat) : Bool :=
  decide (percent * s.nat O.spindleNominalRpm * 10 ≤ s.spindle.mrpm)

/-- Speed target in 0.001 rpm (R290, R309). -/
def State.speedTarget (s : State) : Nat :=
  s.nat O.spindleNominalRpm * (if s.spindle.slow then 10 * s.nat O.reducedSpeed else 1000)

/-- A current in milliamperes as a set-point in 2^-30 of full scale, within 1.0. -/
def State.asSetPoint (s : State) (ma : Nat) : Int :=
  ((min (ma * 2 ^ 30 / s.nat O.spindleCurrentFullScale) (2 ^ 30) : Nat) : Int)

/-- Start current: the surge grant at 10 mA a unit (R292). -/
def State.startCurrent (s : State) : Int := s.asSetPoint (10 * s.nat O.spinUpSurge)

/-- State with the engine's set-point. -/
def State.drive (s : State) (v : Int) : State := s.modSpindle fun x => { x with setPoint := v }

/-- Speed in 0.001 rpm by the intervals between the last 6 commutation events, one electrical cycle (R288). -/
def State.measuredSpeed (s : State) : Nat :=
  match s.spindle.events with
  | [] => 0
  | now :: rest =>
    match rest.getLast? with
    | none => 0
    | some first => 1200000000000 * rest.length / (max 1 (now - first) * s.nat O.polePairs)

/-- Sub-ticks of a step of 60 degrees at a speed in 0.001 rpm. -/
def State.stepAt (s : State) (mrpm : Nat) : Nat := 1200000000000 / max 1 (mrpm * s.nat O.polePairs)

/-- A commutation event, or a crossing that speed is measured from, at an instant in sub-ticks (R288, R296, R319). -/
def State.noteEvent (s : State) (now : Nat) : State :=
  s.modSpindle fun x => { x with lastEvent := now / 120, events := (now :: x.events).take 7 }

/-! ### Steps and angles (R287, R301, R303) -/

/-- Six-step's step at an electrical angle in 2^-16 cycle: step 0 from 30 to 90 degrees, in which phase U is driven high, V low and W
crosses zero, as the phase order of the sinusoidal table has it (R301, R303). -/
def stepOf (angle : Nat) : Nat := (angle + 65536 - 5461) % 65536 * 6 / 65536

/-- Phases that a step drives high and low, and lets float; 0 to 2 for U, V, W. -/
def highPhase (step : Nat) : Nat := step / 2 % 3
def lowPhase (step : Nat) : Nat := (step + 3) / 2 % 3
def floatPhase (step : Nat) : Nat := 3 - highPhase step - lowPhase step

/-- Step in which a phase crosses zero, rising or falling. -/
def crossingStep (phase : Nat) (rising : Bool) : Nat := (2 * phase + if rising then 5 else 2) % 6

/-- Angle that six-step assigns to a step's crossing, in 2^-16 cycle. -/
def crossingAngle (step : Nat) : Nat := (step + 1) * 65536 / 6 % 65536

/-- Distance of an electrical angle from the nearest crossing, in 2^-16 of 60 degrees. -/
def crossingDistance (angle : Nat) : Int := ((6 * angle + 32768) % 65536 : Nat) - 32768

/-- Electrical angle by the clock track (R287). -/
def State.clockElectrical (s : State) : Nat :=
  ((s.nat O.polePairs * s.spindle.theta.toNat / 2 ^ 14) % 65536 + s.nat O.rotorAngleOffset) % 65536

/-- Electrical angle by the steps of six-step or of the observer at an instant (R291, R301). -/
def State.stepAngle (s : State) (now : Nat) : Nat :=
  (5461 + s.spindle.step * 65536 / 6 + min 10922 ((now - s.spindle.commutedAt) * 10923 / max 1 s.spindle.stepTime)) % 65536

/-- Whether the state takes its angle from six-step's crossings (R291, R315). -/
def State.sixStep (s : State) : Bool :=
  let st := s.nat O.spindleState
  decide (st = 4 ∨ st = 5 ∨ st = 6) || (decide (st = 10) && decide (s.nat O.angleSource = 1)) ||
    (decide (st = 11) && decide (s.nat O.brakePhase = 1))

/-- Whether the state takes its angle from the clock track (R291). -/
def State.onClock (s : State) : Bool :=
  decide (s.nat O.spindleState = 7) || (decide (s.nat O.spindleState = 10) && decide (s.nat O.angleSource = 2))

/-- Every actuator of the variant is on the ramp. -/
def State.allParked (s : State) : Bool := (List.range s.actCount).all fun a => decide ((s.act a).load = 0)

/-- A park failure stands on some actuator (R264). -/
def State.parkFailed (s : State) : Bool := (List.range s.actCount).any fun a => (s.standing? (240 + 8 * a + 1)).isSome

/-- An integer put into a rising list. -/
def sortInsert (x : Int) : List Int → List Int
  | [] => [x]
  | y :: r => if x ≤ y then x :: y :: r else y :: sortInsert x r

/-- A list of integers in rising order. -/
def sortInts (l : List Int) : List Int := l.foldr sortInsert []

/-! ### Failed attempts (R297) -/

/-- The token a spin-up held is released (R299). -/
def State.releaseToken (s : State) : State :=
  if s.nat O.spinUpTokenState = 2 then s.setNat O.spinUpTokenState 3 else s

/-- One failed attempt counted: its surge and token returned, the start-failure source raised, with the locked-rotor source
where that was the cause; after StartAttempts the spindle is Failed (R297, R299, R458). -/
def State.countFailure (s : State) (locked : Bool) : State :=
  let s := ((s.returnSurge 1 0).dropSurge 1 0).releaseToken
  let s := if s.spindle.starting then s.modSmart fun x => { x with failedSpinUps := x.failedSpinUps + 1 } else s
  let s := s.modSpindle fun x => { x with starting := false, takeOver := false }
  let s := s.setNat O.startAttemptsUsed (min (s.nat O.startAttemptsUsed + 1) 255)
  let s := s.raiseFault 273 0
  let s := if locked then s.raiseFault 274 0 else s
  if s.nat O.startAttempts ≤ s.nat O.startAttemptsUsed then (s.spindleEnter 13).raiseFault 275 0 else s

/-- A failed attempt: every gate off, LockedRotor until the retry, or Failed (R297). -/
def State.failAttempt (s : State) (locked : Bool) : State :=
  let s := (s.spindleEnter 12).countFailure locked
  s.modSpindle fun x => { x with retryAt := s.tick + 1000 * s.nat O.lockedRotorRetryDelay }

/-- Failed left for a full set of attempts (R297). -/
def State.leaveFailed (s : State) : State :=
  if s.nat O.spindleState = 13 then
    (((s.endCondition 275).setNat O.startAttemptsUsed 0).spindleEnter 12).spinUpSurge
  else s

/-! ### Loss of the rotor (R306 to R308) -/

/-- Heads that supply the angle: Confirmed with a healthy reader C, on a loaded actuator (R26, R286). -/
def State.angleHeads (s : State) : List Nat :=
  (List.range s.headCount).filter fun h =>
    decide ((s.act (actOf h)).load = 2) && decide (s.nat (O.clockState + h) = 3) && decide ((s.head h).unhealthy = 0)

/-- Flywheel entered (step 2): the observer goes on at the last measured speed. -/
def State.flywheel (s : State) : State :=
  let now := s.subTime 0
  let s := if s.nat O.spindleState = 7 then s.modSpindle fun x => { x with
      commutedAt := now, stepTime := s.stepAt x.mrpm, crossNext := now + s.stepAt x.mrpm / 2 }
    else s
  let s := s.spindleEnter 8
  s.modSpindle fun x => { x with agree := 0, takeOver := false, flySteps := 0 }

/-- Coasting entered (step 3): every gate off, or Braking where power is lost. -/
def State.coast (s : State) : State :=
  let s := s.spindleEnter 9
  s.modSpindle fun x => { x with coastStart := s.tick, coastForStop := false, restart := false, chopper := false, seen := [] }

/-- A loss of the rotor counted and raised. -/
def State.noteLoss (s : State) : State := (s.bump O.rotorLossEvents).raiseFault 276 0

/-- The rotor is lost in six-step: ClockAngle where a head supplies the angle and the offset is learnt, else Flywheel. -/
def State.rotorLoss (s : State) : State :=
  let from_ := s.nat O.spindleState
  let s := s.noteLoss
  let s := s.modSpindle fun x => { x with lostIn := from_, misses := 0, agree := 0, takeOver := false, lastEvent := s.tick }
  if s.spindle.headAngle ∧ s.angleHeads ≠ [] ∧ s.spindle.offsetLearnt then
    let step := stepOf s.clockElectrical
    (s.spindleEnter 7).modSpindle fun x => { x with step := step, accepted := false }
  else s.flywheel

/-- A loss that proceeds from step 3: the gates are off already, and every actuator is safe-parked (R285, R308, R318). -/
def State.loseToCoast (s : State) : State := s.coast.safeParkAll 5

/-! ### Braking (R314 to R320) -/

/-- A braking record appended: after a power loss ahead of others, and only while HoldUpMargin is positive (R320, R507). -/
def State.brakeRecord (s : State) (kind : Nat) (payload : List Nat) : State :=
  if s.spindle.powerLost ∧ s.obj O.holdUpMargin ≤ 0 then s else s.trunk' kind payload s.spindle.powerLost

/-- A braking event of a kind: 1 phase change, 2 chopper declared faulty, 3 OV1 pause, 4 OV2 (R506). -/
def State.brakeEvent (s : State) (event : Nat) : State :=
  s.brakeRecord 0x13 [event, s.nat O.brakePhase, s.rpm, s.spindle.busSample]

/-- A phase of braking entered: 1 regenerative, 2 zero-vector, 3 clamp, 4 low sides held; only the first needs the angle (R291,
R315). -/
def State.brakeIn (s : State) (phase : Nat) : State :=
  let s := (s.setNat O.brakePhase phase).brakeEvent 1
  let s := s.modSpindle fun x => { x with
    chopper := false, busRise := 0, zeroPulse := false, ov1Pause := false, lowSides := decide (phase = 4)
    gates := decide (phase ≠ 3), shifted := none }
  let s := s.setNat O.angleSource (if phase = 1 then 1 else 0)
  s.drive (if phase = 1 then -(s.asSetPoint (s.nat O.brakeCurrentLimit)) else 0)

/-- Braking begun: regenerative where the chopper works and an angle is available, else zero-vector (R315). -/
def State.startBrake (s : State) (cause : Nat) : State :=
  let angle := decide (s.nat O.angleSource = 1 ∨ s.nat O.angleSource = 2) || (s.spindle.headAngle && decide (s.angleHeads ≠ []))
  let s := ((s.spindleEnter 11).bump O.brakeEvents).dropSurge 1 0
  let s := s.modSpindle fun x => { x with
    brakeStart := s.tick, brakeCause := cause, misses := 0, accepted := false, starting := false, restart := false
    lastEvent := s.tick }
  let s := (s.returnSurge 1 0).brakeRecord 0x12 [s.rpm, s.nat O.chopperState, if cause = 1 then 1 else 2]
  s.brakeIn (if s.nat O.chopperState = 0 ∧ angle then 1 else 2)

/-- The spindle Stopped: gates off, EN low, the braking ended with its record (R319, R320). -/
def State.stopped (s : State) : State :=
  let s := if s.nat O.spindleState = 11 then
      (s.brakeRecord 0x14 [0, s.rpm, s.tick - s.spindle.brakeStart]).setNat O.brakePhase 0
    else s
  let s := if s.nat O.spindleState = 9 ∨ s.nat O.spindleState = 11 then s.modSmart fun x => { x with spinDowns := x.spinDowns + 1 } else s
  let s := (s.setSpeed 0).spindleEnter 0
  s.modSpindle fun x => { x with
    lowSides := false, chopper := false, zeroPulse := false, coastForStop := false, slow := false, starting := false, restart := false
    setPoint := 0, events := [] }

/-- A spin-up given up before the rotor turns: its surge, its token request and its slot delay (R300). -/
def State.dropSpinUp (s : State) : State :=
  let s := ((s.returnSurge 1 0).dropSurge 1 0).releaseToken
  let s := if s.nat O.spinUpTokenState = 1 ∨ s.nat O.spinUpTokenState = 4 then s.setNat O.spinUpTokenState 0 else s
  s.modSpindle fun x => { x with slotDelayEnd := none, starting := false }

/-- The chopper declared faulty (R316). -/
def State.chopperFault (s : State) : State :=
  let s := (s.setNat O.chopperState 1).brakeEvent 2
  let s := if s.nat O.spindleState = 11 then s.brakeIn 2 else s
  s.raiseFault 277 0

/-- The spindle stopped for a sleep state: braking, or coasting in SpinDownMode 0; never while a park failure stands (R264,
R309, R452). `always` brakes whatever the mode is. -/
def State.stopSpindle (s : State) (cause : Nat) (always : Bool) : State :=
  let st := s.nat O.spindleState
  if s.parkFailed ∨ st = 0 ∨ st = 11 ∨ st = 13 then s
  else if st = 1 then s.dropSpinUp.stopped
  else
    let s := s.dropSpinUp
    if always ∨ s.nat O.spinDownMode = 1 then s.startBrake cause
    else
      let s := s.coast
      s.modSpindle fun x => { x with coastForStop := true, lastEvent := s.tick }

/-- The spindle slowed to ReducedSpeed for S2 (R309). -/
def State.slowSpindle (s : State) : State :=
  if s.nat O.spindleState = 4 ∨ s.nat O.spindleState = 5 ∨ s.nat O.spindleState = 6 then
    let s := (s.modSpindle fun x => { x with slow := true, errorRun := 0 }).returnSurge 1 0
    s.spindleEnter 6
  else s

/-! ### Power loss (R311 to R313, R188) -/

/-- HoldUpEnergy, HoldUpRequired and HoldUpMargin at the bank's voltage in millivolts (R312). -/
def State.holdUp (s : State) (bank : Nat) : State :=
  let low := s.nat O.holdUpMinVoltage
  let energy := if bank < low then 0 else s.nat O.holdUpCapacitance * (bank * bank - low * low) / 2000000000
  let out := ((List.range s.actCount).filter fun a => decide ((s.act a).load ≠ 0)).length
  let required := s.nat O.parkEnergy * out + s.nat O.electronicsEnergy
  let s := ((s.setNat O.holdUpVoltage bank).setNat O.holdUpEnergy energy).setNat O.holdUpRequired required
  s.setObj O.holdUpMargin (if s.nat O.holdUpCapacitance = 0 then -2147483648 else (energy : Int) - required)

/-- An open burst at the power loss: the sector being written is finished, then the gate closes; a chunk cut this way is listed for the
power-loss record (R188, R370). -/
def State.lossBurst (s : State) (w : ChunkWrite) : State :=
  let h := w.head
  let w := s.syncBurst w
  let w : ChunkWrite := { w with written := min (w.opened + w.run) (w.written + 1) }
  let whole := decide (w.written = w.total + w.copies)
  let s := ((s.putChunk w).syncSlots.emitSectors w).putChunk { w with open_ := false, ended := whole, emitted := w.written }
  let s := ((s.modHead h fun x => { x with gate := false }).modWrl h fun l => { l with bursting := false }).endLead h
  if whole ∨ w.kind = 4 then s
  else if w.kind = 1 then (if w.total < w.written then s.flipSlot w true else s)
  else
    let gen := if w.kind = 3 then ((w.sectors.head?).map SectorOut.gen).getD 0 else ((s.entry h w.stripe).gen + 1) % 65536
    { s with write := { s.write with cuts := s.write.cuts ++ [(h, w.written, gen, w.stripe)] } }

/-- Open bursts in the order in which their commands' latches are set: by the burst's opening, or, of a slot burst, by when copy 1
begins, as its sectors run (R359, R370). -/
def State.latchOrder (s : State) : List ChunkWrite :=
  let key (w : ChunkWrite) : Nat × Nat :=
    if w.kind = 1 then (if w.total < w.opened + s.burstDone w then (w.openedAt, 0) else (s.tick, 1)) else (w.openedAt, 0)
  let before (a b : ChunkWrite) : Bool := decide ((key a).1 < (key b).1 ∨ ((key a).1 = (key b).1 ∧ (key a).2 ≤ (key b).2))
  (s.write.chunks.filter ChunkWrite.open_).insertionSort (fun a b => before a b)

/-- A write whose data is on media when the power is lost, its verify not ended: it counts as written; so does a slot whose copy 1 is
(R370). -/
def State.lossWritten (s : State) (w : ChunkWrite) : State :=
  if w.open_ ∨ w.ended then s
  else if w.kind = 1 then (if w.total < w.written then s.flipSlot w true else s)
  else if w.kind = 0 ∧ w.verifying then s.chunkLanded w
  else s

/-- Staggered parks whose instant has come (R265). -/
def State.lossParksDue (s : State) : State :=
  let due (a : Nat) : Bool := decide (s.spindle.lossTick + a * s.nat O.powerLossParkStagger ≤ s.tick)
  if s.spindle.lossParks.any due then
    let now := s.spindle.lossParks.filter due
    let s := s.modSpindle fun x => { x with lossParks := s.spindle.lossParks.filter fun a => !due a }
    s.each now fun s a => s.safePark a 4
  else s

/-- Time passes by one tick, mode changes that wait are applied, and a staggered park that is due begins (R18, R38, R265; log entry 1). -/
def State.idleTick (s : State) : State := ({ s with tick := s.tick + 1 }).applyModes.lossParksDue

/-- Power loss detected (R265, R300, R311, R313): motoring stops, bursts end, the bank is held, every actuator safe-parks;
an invalidate run is cut short (R404). -/
def State.powerLoss (s : State) : State :=
  if s.spindle.powerLost then s
  else
    let margin := s.obj O.holdUpMargin
    let s := s.bump O.powerLossEvents
    let loaded := ((List.range s.actCount).filter fun a => decide ((s.act a).load ≠ 0)).foldl (fun m a => m + 2 ^ a) 0
    let s := s.modSpindle fun x => { x with
      powerLost := true, lossTick := s.tick, lossParks := List.range 4, lossMargin := margin, lossLoaded := loaded
      lossAppended := false }
    let s := ((s.raiseFault 279 0).endRun O.injectRunState 2).endRun O.invalidateRunState 1
    let s := s.modFaults fun x => { x with injectLeft := 0, resetDue := none }
    let s := s.write.chunks.foldl (fun (s : State) w => s.lossWritten w) s
    let s := s.latchOrder.foldl (fun (s : State) w => s.lossBurst w) s
    let st := s.nat O.spindleState
    let s := s.dropSpinUp
    let s := if st = 1 then s.stopped
      else if st = 4 ∨ st = 5 ∨ st = 6 ∨ st = 7 then
        let s := s.spindleEnter 10
        if st = 7 then s.setNat O.angleSource 2 else s
      else if st = 2 ∨ st = 3 ∨ st = 12 then
        (if s.atLeast (s.nat O.brakeEndSpeed) then s.startBrake 1 else s.stopped)
      else s
    s.lossParksDue

end Sys2Proof.Machine
end

