-- ==== Sys2Proof/Machine/Spindle.lean ====
section
/-! DEFINITION. Commands of the spindle (chapter "Spindle Drive and Braking") and of the surge budget (R458, R459). -/

namespace Sys2Proof.Machine

/-! ### Requests, tokens, surge (R292, R298 to R300, R458, R459) -/

/-- SPIN_UP_REQUEST: a spin-up is asked for (R292, R309, R310). -/
def execSpinUpRequest (s : State) : Host.Outcome State Fault Refusal :=
  .next (if s.spindle.powerLost then s else s.requestSpinUp)

/-- SPIN_UP_TOKEN_GRANT: a write of 1 to 4870h.04, accepted only while a token is requested (R299). -/
def execSpinUpTokenGrant (requester : Requester) (s : State) : Host.Outcome State Fault Refusal :=
  .next (s.writeVia requester O.spinUpTokenGrant (.num 1 1) fun s =>
    if s.nat O.spinUpTokenState ≠ 1 then .error .state else .ok ((s.setNat O.spinUpTokenState 2).spinUpSurge))

/-- SPIN_UP_TOKEN_TIMEOUT: no grant within SpinUpTokenWait, so the slot delay of the node-ID begins (R300). -/
def execSpinUpTokenTimeout (s : State) : Host.Outcome State Fault Refusal :=
  .next (if s.nat O.spinUpTokenState ≠ 1 ∨ s.tick < s.spindle.tokenAt + 1000000 * s.nat O.spinUpTokenWait then s
    else
      (s.setNat O.spinUpTokenState 4).modSpindle fun x => { x with
        slotDelayEnd := some (s.tick + 1000 * s.nat O.spinUpSlotUnit * s.mb.nodeId) })

/-- SPIN_UP_SLOT_DELAY_END: the spin-up goes on unaided, with its Shelf record (R300). -/
def execSpinUpSlotDelayEnd (s : State) : Host.Outcome State Fault Refusal :=
  .next (match s.spindle.slotDelayEnd with
    | none => s
    | some t =>
      if s.tick < t ∨ s.nat O.spindleState ≠ 1 then s
      else
        let s := s.modSpindle fun x => { x with slotDelayEnd := none }
        (s.note 0x12 0 [s.mb.nodeId]).spinUpSurge)

/-- The request at the head of the surge queue granted, where it fits (R459). -/
def State.grantFront (s : State) : State :=
  match s.power.queue with
  | [] => s
  | g :: rest =>
    if s.surgeSum + g.units ≤ s.nat O.surgeBudget then
      ({ s with power := { s.power with queue := rest, granted := g :: s.power.granted } }).afterGrant g
    else s

/-- SURGE_GRANT (R459). -/
def execSurgeGrant (s : State) : Host.Outcome State Fault Refusal := .next s.grantFront

/-- Whether the hold of a granted transient has ended by time: 1 ms after a raise's ceiling, 5 ms after a heater's write was
acknowledged (R458). -/
def State.holdOver (s : State) (priority item : Nat) : Bool :=
  if priority = 3 then
    match s.power.surgeReturnAt with
    | some t => decide (t ≤ s.tick)
    | none => false
  else if priority = 4 then
    match (s.head item).heaterAck with
    | some t => decide (t + 5000 ≤ s.tick)
    | none => false
  else false

/-- SURGE_RETURN: a hold ends, its units return, and the queue is looked at again; holds of loads and spin-ups end with the
events that end them (R458, R459). -/
def execSurgeReturn (priority item : Nat) (s : State) : Host.Outcome State Fault Refusal :=
  .next (if ¬ s.surgeGranted? priority item ∨ ¬ s.holdOver priority item then s
    else
      let s := s.returnSurge priority item
      let s := if priority = 3 then { s with power := { s.power with surgeReturnAt := none } }
        else s.modHead item fun x => { x with heaterAck := none }
      s.grantFront)

/-! ### Starting (R292 to R297, R314) -/

/-- Current of the chopper in milliamperes by a conversion of CHS (R283, R576). -/
def State.chopperMa (s : State) (chs : Nat) : Nat := 1000 * senseMv chs / s.nat O.chopperSenseScale

/-- CHOPPER_TEST_END: the 50 µs pulse ends; the greatest conversion of CHS decides (R283, R314). -/
def execChopperTestEnd (chs : Nat) (s : State) : Host.Outcome State Fault Refusal :=
  .next (if s.nat O.spindleState ≠ 1 ∨ ¬ s.spindle.chopper ∨ ¬ s.surgeGranted? 1 0 ∨ s.tick < s.spindle.chopperAt + 50 then s
    else
      let s := s.modSpindle fun x => { x with chopper := false }
      let s := if s.nat O.chopperMinCurrent ≤ s.chopperMa chs then (s.setNat O.chopperState 0).endCondition 277
        else (s.setNat O.chopperState 1).raiseFault 277 0
      s.listen)

/-- LISTENING_END: after 20 ms, crossings seen on all three phases at or above HandoverSpeed give a flying start, with six-step aligned
to the last of them; otherwise InjectionStart (R293). -/
def execListeningEnd (s : State) : Host.Outcome State Fault Refusal :=
  .next (if s.nat O.spindleState ≠ 2 ∨ s.tick < s.spindle.spinUpStart + 20000 then s
    else
      let all := [0, 1, 2].all s.spindle.seen.contains
      let s := if all then s.setSpeed s.measuredSpeed else s
      let s := s.modSpindle fun x => { x with misses := 0, accepted := true, errorRun := 0, lastEvent := s.tick, phase := 0
                                              phaseStart := s.tick, agree := 0, takeOver := false, resolving := none
                                              stepTime := s.stepAt x.mrpm, crossNext := x.crossAt, commutedAt := s.subTime 0 }
      (if all ∧ s.atLeast (s.nat O.handoverSpeed) then s.spindleEnter 4 else s.spindleEnter 3).drive s.startCurrent)

/-- ROTOR_ANGLE_RESOLVED: injection's estimate of the rotor axis, with the ripple ratio between the axes in percent: the angle is
resolved once the estimate has held within 5 degrees for 10 ms at SaliencyMinRatio (R294). -/
def execRotorAngleResolved (ratio angle : Nat) (s : State) : Host.Outcome State Fault Refusal :=
  let held : Bool := match s.spindle.resolving with
    | some (_, a) => decide ((angle % 65536 + 65536 + 910 - a) % 65536 ≤ 1820)
    | none => false
  let since := if held then (s.spindle.resolving.map Prod.fst).getD s.tick else s.tick
  .next (if s.nat O.spindleState ≠ 3 ∨ s.spindle.phase ≠ 0 then s
    else if s.spindle.phaseStart + 30000 < s.tick then s.failAttempt false
    else if s.nat O.saliencyMinRatio ≤ ratio ∧ since + 10000 ≤ s.tick then s.modSpindle fun x => { x with
      phase := 1, phaseStart := s.tick, startAngle := angle % 65536, resolving := none }
    else if held then s
    else s.modSpindle fun x => { x with resolving := some (s.tick, angle % 65536) })

/-- RESOLVE_TIMEOUT: a resolve longer than 30 ms fails the attempt (R294). -/
def execResolveTimeout (s : State) : Host.Outcome State Fault Refusal :=
  .next (if s.nat O.spindleState = 3 ∧ s.spindle.phase = 0 ∧ s.spindle.phaseStart + 30000 < s.tick then s.failAttempt false else s)

/-- POLARITY_PULSES_END: after the two pulses of 0.5 ms the one with the larger peak current marks the north pole; of equal ones the
spec names none (R294). -/
def execPolarityPulsesEnd (plus minus : Nat) (s : State) : Host.Outcome State Fault Refusal :=
  .next (if s.nat O.spindleState ≠ 3 ∨ s.spindle.phase ≠ 1 ∨ s.tick < s.spindle.phaseStart + 1000 then s
    else
      let (v, s) := if plus = minus then s.takeFree else (if plus < minus then 1 else 0, s)
      s.modSpindle fun x =>
        let angle := (x.startAngle + 32768 * (v % 2)) % 65536
        { x with phase := 2, phaseStart := s.tick, lastEvent := s.tick, startAngle := angle, step := stepOf angle, accepted := false
                 events := [], commutedAt := s.subTime 0 })

/-- LOCKED_ROTOR_TIMEOUT: no commutation event within LockedRotorTimeout electrical periods, expected at the higher of the
speed and 2 % of SpindleNominalRpm (R296). -/
def execLockedRotorTimeout (s : State) : Host.Outcome State Fault Refusal :=
  let st := s.nat O.spindleState
  let speed := max s.spindle.mrpm (20 * s.nat O.spindleNominalRpm)
  .next (if (st = 3 ∨ st = 7) ∧
      s.nat O.lockedRotorTimeout * 60000000000 ≤ (s.tick - s.spindle.lastEvent) * speed * s.nat O.polePairs then s.failAttempt true
    else s)

/-- LOCKED_ROTOR_RETRY: after LockedRotorRetryDelay the spindle starts again from Listening, with a new grant (R297). -/
def execLockedRotorRetry (s : State) : Host.Outcome State Fault Refusal :=
  .next (if s.nat O.spindleState = 12 ∧ s.spindle.retryAt ≤ s.tick ∧ ¬ s.spindle.powerLost then s.spinUpSurge else s)

/-- SPIN_UP_TIME_LIMIT: SpinUpTimeLimit since Listening without AtSpeed fails the attempt (R292). -/
def execSpinUpTimeLimit (s : State) : Host.Outcome State Fault Refusal :=
  .next (if s.spindle.starting ∧ s.spindle.spinUpStart + 1000000 * s.nat O.spinUpTimeLimit ≤ s.tick ∧ ¬ s.spindle.powerLost
    then s.failAttempt false else s)

/-- SPINDLE_RETRY: a write of 1 to 4800h.05 leaves Failed (R297). -/
def execSpindleRetry (requester : Requester) (s : State) : Host.Outcome State Fault Refusal :=
  .next (s.writeVia requester O.spindleRetry (.num 1 1) fun s => .ok s.leaveFailed)

/-! ### Crossings and commutation (R287, R295, R301, R306, R307) -/

/-- One difference taken towards RotorAngleOffset, the angle six-step assigns to a crossing less the clock track's: the mean over 16
electrical cycles of 6 crossings (R287). -/
def State.learnOffset (s : State) (step : Nat) : State :=
  if ¬ s.spindle.headAngle ∨ s.angleHeads = [] then s
  else
    let base := s.nat O.polePairs * s.spindle.theta.toNat / 2 ^ 14 % 65536
    let diff : Int := ((crossingAngle step + 65536 - base : Nat) : Int)
    let first := if s.spindle.offsetCount = 0 then diff else s.spindle.offsetFirst
    let sum := (if s.spindle.offsetCount = 0 then 0 else s.spindle.offsetSum) + ((diff - first + 32768) % 65536 - 32768)
    if s.spindle.offsetCount + 1 = 96 then
      (s.modSpindle fun x => { x with offsetSum := 0, offsetCount := 0, offsetLearnt := true }).setObj O.rotorAngleOffset
        ((first + roundDiv sum 96) % 65536)
    else s.modSpindle fun x => { x with offsetFirst := first, offsetSum := sum, offsetCount := x.offsetCount + 1 }

/-- Sub-ticks of a PWM period. -/
def State.pwmSubs (s : State) : Nat := 120000 / max 1 (s.nat O.pwmFrequency)

/-- Instant of a crossing between two samples of a phase against the centre tap, one PWM period apart, the second at `now`, by linear
interpolation; none where they do not straddle it (R285). -/
def State.crossingAt (s : State) (v0 v1 : Int) (now : Nat) : Option Nat :=
  if (v0 < 0 ∧ 0 ≤ v1) ∨ (0 < v0 ∧ v1 ≤ 0) then some (now - s.pwmSubs * v1.natAbs / (v0.natAbs + v1.natAbs)) else none

/-- Instant at which six-step commutates: 30 degrees after the step's crossing, less CommutationAdvance (R301). -/
def State.commuteAt (s : State) : Nat := s.spindle.crossNext + s.spindle.stepTime * (30 - s.nat O.commutationAdvance) / 60

/-- Half of a slope in sub-ticks: SlopeWidth percent of a step, centred on the commutation instant (R302). -/
def State.slopeHalf (s : State) : Nat := s.spindle.stepTime * s.nat O.slopeWidth / 200

/-- Whether an instant lies in a slope, or within ZcBlanking after one has ended (R301). -/
def State.blanked (s : State) (t : Nat) : Bool :=
  decide (t < s.spindle.commutedAt + s.slopeHalf + s.spindle.stepTime * s.nat O.zcBlanking / 60) || decide (s.commuteAt < t + s.slopeHalf)

/-- Whether an instant lies within so many degrees of the step's predicted crossing (R301, R307). -/
def State.nearCrossing (s : State) (t degrees2 : Nat) : Bool :=
  decide (120 * ((t : Int) - s.spindle.crossNext).natAbs ≤ degrees2 * s.spindle.stepTime)

/-- A crossing accepted at an instant: the step's time by the accepted ones (R301). -/
def State.acceptCrossing (s : State) (t : Nat) : State :=
  s.modSpindle fun x => { x with
    accepted := true, crossAt := t, crossNext := t
    stepTime := if x.crossAt < t ∧ x.stepTime ≠ 0 then max 1 ((t - x.crossAt) / (x.misses + 1)) else x.stepTime }

/-- A crossing that agrees with the tracker or the prediction, or not, with the number in a row that hands over (R295, R307). -/
def State.agreeCrossing (s : State) (t : Nat) (inside fast : Bool) (limit : Nat) : State :=
  let s := if inside then s.acceptCrossing t else s
  s.modSpindle fun x => { x with
    agree := if inside then x.agree + 1 else 0
    takeOver := x.takeOver || (inside && fast && decide (limit ≤ x.agree + 1)) }

/-- BACK_EMF_CROSSING: two samples in millivolts of a floating phase against the centre tap, one PWM period apart, the second `sub`
sub-ticks into the tick, and the injection tracker's angle. Six-step accepts the crossing of its step within ZcWindow of the
prediction, outside slopes and blanking; others count towards a hand-over or a re-acquisition, or give speed to a rotor that
runs free (R285, R287, R288, R293, R295, R301, R307). -/
def execBackEmfCrossing (phase : Nat) (v0 v1 : Int) (sub tracked : Nat) (s : State) : Host.Outcome State Fault Refusal :=
  let st := s.nat O.spindleState
  let step := crossingStep (phase % 3) (decide (v0 < 0))
  .next (match s.crossingAt v0 v1 (s.subTime sub) with
    | none => s
    | some t =>
      if s.sixStep then
        if step ≠ s.spindle.step ∨ s.spindle.accepted ∨ s.blanked t ∨ ¬ s.nearCrossing t (2 * s.nat O.zcWindow) then s
        else ((s.acceptCrossing t).modSpindle fun x => { x with lastEvent := s.tick }).learnOffset step
      else if st = 3 ∧ s.spindle.phase = 2 then
        s.agreeCrossing t (decide (60 * (crossingDistance tracked).natAbs ≤ s.nat O.zcWindow * 65536)) (s.atLeast (s.nat O.handoverSpeed))
          (s.nat O.handoverCrossings)
      else if st = 7 then
        let off := (crossingDistance s.clockElectrical).natAbs
        if s.nat O.floatWindow * 65536 < 120 * off then s
        else (s.agreeCrossing t (decide (60 * off ≤ s.nat O.zcWindow * 65536)) true (s.nat O.reacquireCrossings)).learnOffset step
      else if st = 8 then
        if ¬ s.nearCrossing t (s.nat O.floatWindow) then s
        else s.agreeCrossing t (s.nearCrossing t (2 * s.nat O.zcWindow)) true (s.nat O.reacquireCrossings)
      else if st = 2 ∨ st = 9 ∨ st = 11 then
        let s := if st = 2 then s.setNat O.angleSource 1 else s
        (s.noteEvent t).modSpindle fun x => { x with step := step, crossAt := t, seen := if x.seen.contains (phase % 3) then x.seen else (phase % 3) :: x.seen }
      else s)

/-- Six-step resumed after ClockAngle or Flywheel; from ClockAngle RotorAngleOffset is learnt again; after a power loss it sustains the
bank (R307, R313). -/
def State.resume (s : State) : State :=
  let s := if s.nat O.spindleState = 7 then s.modSpindle fun x => { x with offsetSum := 0, offsetCount := 0 } else s
  let s := s.spindleEnter (if s.spindle.powerLost then 10 else s.spindle.lostIn)
  s.modSpindle fun x => { x with misses := 0, accepted := false, agree := 0, takeOver := false }

/-- The rotor lost: by R306 in six-step, to zero-vector in regenerative braking (R315). -/
def State.loseRotor (s : State) : State :=
  let st := s.nat O.spindleState
  if st = 4 ∨ st = 5 ∨ st = 6 then s.rotorLoss
  else if st = 11 ∧ s.nat O.brakePhase = 1 then s.brakeIn 2
  else s

/-- A commutation event into a step: the next crossing is predicted a step after the last (R288, R301). -/
def State.commute (s : State) (now step : Nat) : State :=
  (s.noteEvent now).modSpindle fun x => { x with
    step := step, commutedAt := now, crossNext := x.crossNext + x.stepTime, accepted := false
    agree := if x.accepted then x.agree else 0 }

/-- COMMUTATION_INSTANT: the angle in use advances by a step, `sub` sub-ticks into the tick, at an angle of the injection tracker.
Six-step commutates at the instant it predicts, and a step without an accepted crossing counts as a miss; a hand-over or
re-acquisition takes effect (R295, R296, R301, R306, R307). -/
def execCommutationInstant (sub tracked : Nat) (s : State) : Host.Outcome State Fault Refusal :=
  let st := s.nat O.spindleState
  let now := s.subTime sub
  let next := (s.spindle.step + 1) % 6
  .next (if ¬ s.spindle.gates then s
    else if st = 3 then
      if s.spindle.phase ≠ 2 ∨ stepOf (tracked % 65536) = s.spindle.step then s
      else
        let take := s.spindle.takeOver
        let s := s.commute now (stepOf (tracked % 65536))
        if take then
          (s.modSpindle fun x => { x with
            takeOver := false, misses := 0, errorRun := 0, stepTime := s.stepAt s.measuredSpeed
            crossNext := x.crossAt + s.stepAt s.measuredSpeed }).spindleEnter 4
        else s
    else if s.onClock then
      if stepOf s.clockElectrical = s.spindle.step then s
      else
        let s := s.commute now (stepOf s.clockElectrical)
        if st = 7 ∧ s.spindle.takeOver then s.resume else s
    else if st = 8 then
      if now < s.spindle.commutedAt + s.spindle.stepTime then s
      else
        let s := (s.commute now next).modSpindle fun x => { x with flySteps := x.flySteps + 1 }
        if s.spindle.takeOver then s.resume else s
    else if ¬ s.sixStep ∨ now < s.commuteAt then s
    else
      let missed := !s.spindle.accepted
      let s := (s.commute now next).modSpindle fun x => { x with misses := if missed then x.misses + 1 else 0 }
      if s.nat O.zcMissLimit ≤ s.spindle.misses then s.loseRotor else s)

/-- FLYWHEEL_CYCLES_END: FlywheelCycles without re-acquisition park every actuator; once all are parked or fenced the gates
turn off, or Braking begins after a power loss (R306, R308, R313). -/
def execFlywheelCyclesEnd (s : State) : Host.Outcome State Fault Refusal :=
  .next (if s.nat O.spindleState ≠ 8 ∨ s.spindle.flySteps < 6 * s.nat O.flywheelCycles then s
    else if ¬ s.allParked then s.safeParkAll 5
    else if s.spindle.powerLost then s.startBrake 1
    else s.coast)

/-- COAST_END: the coasting speed is below InjectionSpeedLimit, crossings too weak to detect counting so, or MaxCoastTime has
passed: the restart asks for surge and goes to Listening (R306, R308). -/
def execCoastEnd (weak : Bool) (s : State) : Host.Outcome State Fault Refusal :=
  let slowed := weak || !s.atLeast (s.nat O.injectionSpeedLimit) ||
    decide (s.spindle.coastStart + 1000000 * s.nat O.maxCoastTime ≤ s.tick)
  .next (if s.nat O.spindleState ≠ 9 ∨ s.spindle.coastForStop ∨ s.spindle.powerLost ∨ ¬ slowed ∨ s.surgeQueued? 1 0 then s
    else
      let s := s.bump O.coastRestarts
      if s.surgeGranted? 1 0 then s.listen else s.spinUpSurge)

/-! ### Speed (R288 to R290) -/

/-- AtSpeed reached: attempts, token and surge end, and the actuators that wait load (R263, R290, R297, R299, R458). -/
def State.reachSpeed (s : State) : State :=
  let s := (((s.spindleEnter 5).setNat O.startAttemptsUsed 0).returnSurge 1 0).releaseToken
  let s := if s.spindle.starting then s.modSmart fun x => { x with spinUps := x.spinUps + 1 } else s
  (s.modSpindle fun x => { x with starting := false, errorRun := 0 }).requestLoads

/-- Clock-track speed in 0.001 rpm: the change of the angle over one major frame, 7,500 of them a second (R286). -/
def clockSpeed (before now : Int) : Nat := (((now - before) % 2 ^ 30) * 450000000 / 2 ^ 30).toNat

/-- The engine's set-point for a major frame (R289, R291): the start current while it starts; slot 36's, or, held, 0.1 % of full scale
towards zero speed error (R220), negative in Decelerating. -/
def State.frameSetPoint (s : State) : State :=
  let st := s.nat O.spindleState
  if st = 3 ∨ st = 4 then s.drive s.startCurrent
  else if st = 5 ∨ st = 6 ∨ st = 7 then
    let by_ : Int := if s.spindle.mrpm < s.speedTarget then 1073742 else if s.speedTarget < s.spindle.mrpm then -1073742 else 0
    let v := if s.rafter.holdSpindle then s.spindle.setPoint + by_ else s.rafter.spindleOut
    s.drive (clampInt (-(2 ^ 30)) (if st = 6 then 0 else 2 ^ 30) v)
  else s

/-- SPEED_ERROR_CHECK: at each major frame the speed is taken, from the clock track while a head supplies the angle and otherwise from
the last commutation events; AtSpeed is entered or left, InjectionSpeedLimit without a hand-over fails the attempt, and every
actuator safe-parks below FlySpeedMin (R203, R263, R288 to R290, R295). -/
def execSpeedErrorCheck (sub : Nat) (s : State) : Host.Outcome State Fault Refusal :=
  let speed := match s.spindle.frameTheta, s.spindle.headAngle with
    | some t, true => clockSpeed t s.spindle.theta
    | _, _ => s.measuredSpeed
  let u := (s.setSpeed speed).modSpindle fun x => { x with frameTheta := if x.headAngle then some x.theta else none }
  let u := if u.atLeast (u.nat O.flySpeedMin) then u else u.safeParkAll 5
  let u := u.frameSetPoint
  let target := u.speedTarget
  let error := ((speed : Int) - target).natAbs
  let within (ppm : Nat) : Bool := decide (error * 1000000 ≤ ppm * target)
  let st := u.nat O.spindleState
  .next (if s.subTime sub % 16000 ≠ 0 then s
    else if st = 3 then
      if u.spindle.phase = 2 ∧ u.atLeast (u.nat O.injectionSpeedLimit) ∧ ¬ u.spindle.takeOver then u.failAttempt false else u
    else if st = 5 then
      if within 1000 then u
      else (u.modSpindle fun x => { x with errorRun := 0 }).spindleEnter (if speed < target then 4 else 6)
    else if (st = 4 ∨ st = 6) ∧ ¬ u.spindle.slow then
      if within 500 then
        if 64 ≤ u.spindle.errorRun + 1 then u.reachSpeed else u.modSpindle fun x => { x with errorRun := x.errorRun + 1 }
      else
        let u := u.modSpindle fun x => { x with errorRun := 0 }
        if within 1000 then u
        else if st = 4 ∧ target < speed then u.spindleEnter 6
        else if st = 6 ∧ speed < target then u.spindleEnter 4
        else u
    else u)

/-- Angle of one head on the clock track in 2^-32 revolution, `ago` sub-ticks before now (R286). -/
def State.headTheta (s : State) (h ago : Nat) : Nat :=
  let e := s.headZone h
  let bits := 64 * bitsPerRev e
  if bits = 0 then 0
  else
    let count := (s.countNow h + bits - 64 * ago * e.nominalKbit / 120000 % bits) % bits
    (count * 2 ^ 32 / bits + 2 ^ 32 - (assoc? s.spindle.indexAngles h).getD 0 % 2 ^ 32) % 2 ^ 32

/-- A difference of angles wrapped to plus or minus one half. -/
def wrapAngle (d : Int) : Int := (d + 2 ^ 31) % 2 ^ 32 - 2 ^ 31

/-- Circular median of some angles in head order, in 2^-32 revolution (R286). -/
def medianAngle (l : List Nat) : Option Int :=
  match l with
  | [] => none
  | first :: _ =>
    let d := sortInts (l.map fun t => wrapAngle ((t : Int) - first))
    let n := d.length
    let mid := if n % 2 = 1 then d.getD (n / 2) 0 else roundDiv (d.getD (n / 2 - 1) 0 + d.getD (n / 2) 0) 2
    some ((first + mid) % 2 ^ 32)

/-- The angle moved on by one 240 kHz period at the last speed (R288, R460). -/
def State.advanceAngle (s : State) : State :=
  s.modSpindle fun x => { x with theta := (x.theta + roundDiv ((x.mrpm * 2 ^ 30 : Nat) : Int) 14400000000) % 2 ^ 30 }

/-- COMMUTATION_ANGLE_UPDATE: the median of the clock-track angles at a 240 kHz boundary goes to the engine, the computation being over
`sub` sub-ticks into the tick; past 3.37 µs after the boundary it is late, dropped and raised. In ClockAngle 24 misses in a row, or
no head, end step 1 (R31, R286, R306, R460). -/
def execCommutationAngleUpdate (sub : Nat) (s : State) : Host.Outcome State Fault Refusal :=
  let now := s.subTime sub
  let due := s.spindle.angleDue.getD (now / 500 * 500)
  .next (if now < due then s
    else match medianAngle (s.angleHeads.map fun h => s.headTheta h (now - due)) with
    | none =>
      let s := s.advanceAngle.modSpindle fun x => { x with headAngle := false, angleDue := none }
      if s.nat O.spindleState = 7 then s.flywheel else s
    | some t =>
      let s := s.modSpindle fun x => { x with angleDue := some (max (due + 500) (now / 500 * 500)) }
      if due + 404 < now then
        let s := s.advanceAngle.modSpindle fun x => { x with angleMisses := x.angleMisses + 1 }
        let s := s.deadlineMiss 3 41 0 ((due + 404) / 120) (now / 120)
        if s.nat O.spindleState = 7 ∧ 24 ≤ s.spindle.angleMisses then s.flywheel else s
      else s.modSpindle fun x => { x with theta := t / 4, headAngle := true, angleMisses := 0 })

/-- ZONE_TABLE_RPM_CHANGE: the zone tables in force name another speed: the heads unload, then 4810h.01 and the speed change, with a
Shelf record, and the heads load again AtSpeed (R290). -/
def execZoneTableRpmChange (s : State) : Host.Outcome State Fault Refusal :=
  .next (match s.layout.tables.head? with
    | none => s
    | some t =>
      let old := s.nat O.spindleNominalRpm
      if t.nominalRpm = old ∨ s.nat O.spindleState ≠ 5 then s
      else if ¬ s.allParked then
        s.each (List.range s.actCount) fun s a => if (s.act a).load = 1 ∨ (s.act a).load = 2 then s.startUnload a true else s
      else
        let s := (s.setNat O.spindleNominalRpm t.nominalRpm).note 0x11 0 [old, t.nominalRpm]
        (s.modSpindle fun x => { x with errorRun := 0 }).spindleEnter (if old < t.nominalRpm then 4 else 6))

/-! ### Tables, PWM, sampling (R303 to R305, R317) -/

/-- One entry of the sine table, in its low 12 bits: as written, or of the default table (R303). -/
def State.sineEntry (s : State) (i : Nat) : Nat :=
  (if s.spindle.sine = [] then Config.defaultSine i else ofLe ((s.spindle.sine.drop (2 * i)).take 2)) % 4096

/-- Duty of a phase in 2^-28 of the period at an angle in 2^-16 cycle and a modulation in 2^-16 (R303). -/
def State.sineDuty (s : State) (angle modulation shift : Nat) : Int :=
  2 ^ 27 + modulation * ((s.sineEntry ((angle + 65536 - shift) % 65536 / 64) : Int) - 2048)

/-- Whether the sinusoidal table is in use (R303). -/
def State.sineUsed (s : State) : Bool :=
  let st := s.nat O.spindleState
  decide (st = 3 ∨ st = 7 ∨ st = 8) || (decide (st = 10) && decide (s.nat O.angleSource = 2))

/-- How a phase of the bridge is driven in a period: both gates off, its low side on for a time, or its high side on for a duty and its
low side for the rest; times in 2^-28 of the period (R283, R301). -/
inductive Leg where
  | float
  | low (on : Int)
  | pwm (duty : Int)
  deriving DecidableEq, Repr

/-- Legs of the sinusoidal table at an angle; in ClockAngle and Flywheel a phase within FloatWindow of its crossing floats (R303,
R307). -/
def State.sineLegs (s : State) (angle modulation : Nat) : List Leg :=
  let st := s.nat O.spindleState
  [0, 21845, 43691].map fun shift =>
    let phase := (angle + 65536 - shift) % 32768
    if (st = 7 ∨ st = 8) ∧ min phase (32768 - phase) * 720 ≤ s.nat O.floatWindow * 65536 then .float
    else .pwm (s.sineDuty angle modulation shift)

/-- Legs of a plain step of six-step (R301). -/
def plainLegs (step : Nat) (duty : Int) : List Leg :=
  (List.range 3).map fun i => if i = highPhase step then .pwm duty else if i = lowPhase step then .low (2 ^ 28) else .float

/-- Legs in the slope from a step to the next, `w` of 2^16 of it past: the outgoing phase's duty falls, the incoming one's rises (R302). -/
def slopeLegs (step : Nat) (duty w : Int) : List Leg :=
  let next := (step + 1) % 6
  let part (x v : Int) : Int := x * v / 65536
  (List.range 3).map fun i =>
    if highPhase step = highPhase next then
      if i = highPhase step then .pwm duty
      else if i = lowPhase step then .low (part (2 ^ 28) (65536 - w)) else .low (part (2 ^ 28) w)
    else if i = lowPhase step then .low (2 ^ 28)
    else if i = highPhase step then .pwm (part duty (65536 - w)) else .pwm (part duty w)

/-- Legs of six-step in the period that begins at an instant (R301, R302). -/
def State.sixLegs (s : State) (now modulation : Nat) : List Leg :=
  let half := s.slopeHalf
  let duty : Int := ((min modulation 65536 * 4096 : Nat) : Int)
  let step := s.spindle.step
  if half = 0 then plainLegs step duty
  else if now < s.spindle.commutedAt + half then
    slopeLegs ((step + 5) % 6) duty (32768 + ((now - s.spindle.commutedAt : Nat) : Int) * 32768 / half)
  else if s.commuteAt < now + half then
    slopeLegs step duty (min 65536 (32768 + ((now : Int) - s.commuteAt) * 32768 / half))
  else plainLegs step duty

/-- Time for which a leg's high side is on. -/
def Leg.duty : Leg → Int
  | .pwm d => d
  | _ => 0

/-- A period's sampling (R304, R305): the phases of most, middle and least duty, shortfalls ΔA and ΔB against a least window, the
instants of the samples, 0.2 µs before the windows end, and whether the windows can be opened. With one phase floating the other
two have one window, which in a plain step is the on-time. -/
def samplePlan (least ahead : Int) (legs : List Leg) : Option ((Nat × Int × Nat × Int) × List Int) :=
  let full : Int := 2 ^ 28
  let rise (d : Int) : Int := (full - d) / 2
  let driven := (legs.zipIdx.filter fun l => decide (l.1 ≠ Leg.float)).map fun l => (l.2, l.1.duty)
  let sorted := driven.foldr (fun x l => l.filter (fun y => decide (x.2 < y.2)) ++ [x] ++ l.filter fun y => decide (y.2 ≤ x.2)) []
  let plain := legs.any fun l => decide (l = Leg.low full)
  match sorted with
  | [hi, mid, lo] =>
    let a := max 0 (least - (hi.2 - mid.2) / 2)
    let b := max 0 (least - (mid.2 - lo.2) / 2)
    if a ≤ rise hi.2 ∧ b ≤ lo.2 then some ((hi.1, a, lo.1, b), [rise mid.2 - ahead, rise lo.2 + b - ahead]) else none
  | [hi, lo] =>
    let width := if plain then hi.2 else (hi.2 - lo.2) / 2
    let a := max 0 (least - width)
    if a ≤ rise hi.2 then some ((hi.1, a, lo.1, 0), [(if plain then full - rise hi.2 else rise lo.2) - ahead]) else none
  | _ => none

/-- On-times of a leg's two gates, its rising edge moved, with DeadTime between the fall of one gate and the rise of the other
(R283, R305). -/
def legGates (dead : Int) (i : Nat) (leg : Leg) (move : Int) : List (Nat × Int × Int) :=
  let full : Int := 2 ^ 28
  (match leg with
    | .float => []
    | .low on => [(2 * i + 1, (full - on) / 2, (full + on) / 2)]
    | .pwm d =>
      let fall := (full + d) / 2
      let rise := min fall ((full - d) / 2 + move)
      [(2 * i, rise, fall), (2 * i + 1, 0, rise - dead), (2 * i + 1, fall + dead, full)]).filter fun g => decide (g.2.1 < g.2.2)

/-- On-times of the six gates, the rising edges of two phases moved (R305). -/
def allGates (dead : Int) (legs : List Leg) (high : Nat) (a : Int) (low : Nat) (b : Int) : List (Nat × Int × Int) :=
  legs.zipIdx.flatMap fun l => legGates dead l.2 l.1 ((if l.2 = high then a else 0) + if l.2 = low then b else 0)

/-- Nanoseconds in 2^-28 of a PWM period. -/
def State.ofNs (s : State) (ns : Nat) : Int := ((ns * s.nat O.pwmFrequency * 2 ^ 28 / 1000000 : Nat) : Int)

/-- The current loop's current where a period is not sampled: predicted from the last two samples, which the spec gives no
formula for (R305). -/
def State.predict (s : State) : State :=
  let (v, s) := (s.bump O.unsampledPeriods).takeFree
  s.modSpindle fun x => { x with shifted := none, predicted := (v : Int) }

/-- A period of a driven bridge: its windows opened, the shifts of the last one compensated, or neither, and its gates (R304, R305). -/
def State.drivePeriod (s : State) (legs : List Leg) (first second : Int) : State :=
  let dead := s.ofNs (s.nat O.deadTime)
  match s.spindle.shifted with
  | some (hi, a, lo, b) => s.predict.emit (.pwm (allGates dead legs hi a lo (-b)) [])
  | none =>
    match samplePlan (s.ofNs (s.nat O.minSampleWindow)) (s.ofNs 200) legs with
    | none => s.predict.emit (.pwm (allGates dead legs 0 0 0 0) [])
    | some ((hi, a, lo, b), instants) =>
      let shifted := decide (0 < a) || decide (0 < b)
      let s := if shifted then s.bump O.shiftedPeriods else s
      (s.modSpindle fun x => { x with
        shifted := if shifted then some (hi, a, lo, b) else none, lastSamples := (first, second) }).emit
        (.pwm (allGates dead legs hi (-a) lo b) instants)

/-- All three low sides on for a period (R317, R319). -/
def lowSidesOn : Output := .pwm [(1, 0, 2 ^ 28), (3, 0, 2 ^ 28), (5, 0, 2 ^ 28)] []

/-- A zero-vector period: a pulse starts only below OV1, and ends where the winding current, sampled at the start of the previous off
interval, has reached BrakeCurrentLimit (R317). -/
def State.zeroVector (s : State) (below : Bool) (current : Int) : State :=
  if below then
    let on := decide (current < s.nat O.brakeCurrentLimit)
    let s := s.modSpindle fun x => { x with zeroPulse := on, ov1Pause := false }
    if on then s.emit lowSidesOn else s
  else
    let s := if s.spindle.ov1Pause then s else s.brakeEvent 3
    s.modSpindle fun x => { x with zeroPulse := false, ov1Pause := true }

/-- A period of InjectionStart: injection along the axis, the polarity pulses along +d and then −d, then the table at the tracker's
angle (R294). -/
def State.injectPeriod (s : State) (tracked modulation : Nat) (first second : Int) : State :=
  let x := s.spindle
  let angle := if x.phase = 1 then (x.startAngle + if x.phaseStart + 500 ≤ s.tick then 32768 else 0) % 65536 else tracked % 65536
  let s := if x.phase = 1 then s else s.emit (.injection angle (s.nat O.injectionAmplitude) (s.nat O.injectionFrequency))
  s.drivePeriod (s.sineLegs angle (if x.phase = 0 then 0 else modulation)) first second

/-- PWM_PERIOD: a period begins `sub` sub-ticks into the tick, at an angle of the injection tracker and a modulation of the current loop
in 2^-16, with the two conversions of the shunt (R576). A spin-up asked for in a stop takes effect; a zero-vector pulse starts only
below OV1, a clamp ends there; otherwise the gates switch by the sinusoidal table or the steps (R283, R301 to R305, R310, R317,
R318). -/
def execPwmPeriod (sub tracked modulation : Nat) (shunt1 shunt2 : Int) (s : State) : Host.Outcome State Fault Refusal :=
  let first := s.shuntMa shunt1
  let second := s.shuntMa shunt2
  let st := s.nat O.spindleState
  let now := s.subTime sub
  let m := min modulation 65536
  let below := decide (s.spindle.busSample * 100 < s.nat O.busNominal * (100 + s.nat O.ov1Percent))
  let phase := s.nat O.brakePhase
  .next (if s.spindle.restart then s.listen
    else if st = 11 ∧ phase = 3 then (if below then (s.brakeIn 2).zeroVector true first else s)
    else if st = 11 ∧ phase = 2 then s.zeroVector below first
    else if st = 11 ∧ phase = 4 then s.emit lowSidesOn
    else if ¬ s.spindle.gates then s
    else if st = 3 then s.injectPeriod tracked m first second
    else if s.onClock then s.drivePeriod (s.sineLegs s.clockElectrical m) first second
    else if st = 8 then s.drivePeriod (s.sineLegs (s.stepAngle now) m) first second
    else if s.sixStep then s.drivePeriod (s.sixLegs now m) first second
    else s)

/-- SINE_TABLE_WRITE: 4830h.07 written, refused where an entry sets a reserved bit, and while the table is in use (R17,
R303). -/
def execSineTableWrite (requester : Requester) (table : List Nat) (s : State) : Host.Outcome State Fault Refusal :=
  .next (s.writeVia requester O.sineTable (.bytes table) fun s =>
    if (List.range 1024).any fun i => decide (4095 < ofLe ((table.drop (2 * i)).take 2)) then .error .range
    else if s.sineUsed then .error .state else .ok (s.modSpindle fun x => { x with sine := table }))

/-- SINE_TABLE_RESTORE: a write of 1 to 4830h.08 restores the default table (R303). -/
def execSineTableRestore (requester : Requester) (s : State) : Host.Outcome State Fault Refusal :=
  .next (s.writeVia requester O.sineTableRestore (.num 1 1) fun s => .ok (s.modSpindle fun x => { x with sine := [] }))

/-! ### Faults of the power stage (R285, R315 to R318) -/

/-- OVERCURRENT_TRIP: the shunt's voltage, in tenths of a microvolt, exceeds the comparator's limit: gates off; during a start the attempt fails, else the engine goes on from
step 3 and the event counts as a failed attempt. In Braking it is a loss of the rotor there, which leaves zero-vector braking
(R285, R297, R306, R315, R576). -/
def execOvercurrentTrip (shunt : Nat) (s : State) : Host.Outcome State Fault Refusal :=
  let st := s.nat O.spindleState
  .next (if shunt ≤ s.overcurrentAt ∨ ¬ s.spindle.gates then s
    else
      let s := s.raiseFault 272 0
      if s.spindle.starting then s.failAttempt false
      else if st = 11 then s.brakeIn 2
      else if s.spindle.powerLost then s.loseToCoast
      else s.loseToCoast.countFailure false)

/-- BUS_VOLTAGE_SAMPLE: a conversion of the bus voltage, and of CHS: regenerative braking switches the chopper at
its two limits (R283, R285, R315, R316, R576). -/
def execBusVoltageSample (bus chs : Nat) (s : State) : Host.Outcome State Fault Refusal :=
  let mv := inputMv bus
  let nominal := s.nat O.busNominal
  let on := decide (nominal * (100 + s.nat O.chopperOnPercent) < mv * 100)
  let off := decide (mv * 100 < nominal * (100 + s.nat O.chopperOffPercent))
  let rising := decide (s.spindle.busSample < mv)
  .next (s.modSpindle fun x => { x with
    busSample := mv, chopperCurrent := s.chopperMa chs
    busRise := if x.chopper && rising then x.busRise + 1 else 0
    chopper := if s.nat O.spindleState = 11 ∧ s.nat O.brakePhase = 1 then (if on then true else if off then false else x.chopper)
      else x.chopper })

/-- CHOPPER_FAULT_DECLARE: while BRK is driven the bus passes OV1 without chopper current, or rises across ChopperRiseSamples
samples (R316). -/
def execChopperFaultDeclare (s : State) : Host.Outcome State Fault Refusal :=
  let x := s.spindle
  let over_ := decide (s.nat O.busNominal * (100 + s.nat O.ov1Percent) < x.busSample * 100)
  .next (if s.nat O.spindleState = 11 ∧ x.chopper ∧
      ((over_ ∧ x.chopperCurrent < s.nat O.chopperMinCurrent) ∨ s.nat O.chopperRiseSamples ≤ x.busRise) then s.chopperFault
    else s)

/-- BUS_OVERVOLTAGE_OV2: a bus sample above OV2 turns every gate and the chopper off; in Braking the clamp holds the bus,
elsewhere it is a loss of the rotor from step 3 (R318). -/
def execBusOvervoltageOv2 (bus : Nat) (s : State) : Host.Outcome State Fault Refusal :=
  let mv := inputMv bus
  let st := s.nat O.spindleState
  .next (if mv * 100 ≤ s.nat O.busNominal * (100 + s.nat O.ov2Percent) then s
    else
      let s := s.modSpindle fun x => { x with busSample := mv, gates := false, chopper := false, zeroPulse := false, lowSides := false }
      let s := s.raiseFault 278 0
      if st = 11 then (s.brakeIn 3).brakeEvent 4
      else if st = 0 ∨ st = 1 ∨ st = 12 ∨ st = 13 then s
      else s.noteLoss.loseToCoast)

/-! ### Ends of braking (R319) -/

/-- BRAKE_END_SPEED: below BrakeEndSpeed all three low sides stay on (R319). -/
def execBrakeEndSpeed (s : State) : Host.Outcome State Fault Refusal :=
  .next (if s.nat O.spindleState = 11 ∧ s.nat O.brakePhase ≠ 4 ∧ ¬ s.atLeast (s.nat O.brakeEndSpeed) then s.brakeIn 4 else s)

/-- BRAKE_NO_CROSSING_TIMEOUT: no crossing for 1 s with the low sides held, or in coasting for a stop: Stopped (R309,
R319). -/
def execBrakeNoCrossingTimeout (s : State) : Host.Outcome State Fault Refusal :=
  let st := s.nat O.spindleState
  .next (if s.tick < s.spindle.lastEvent + 1000000 then s
    else if (st = 11 ∧ s.nat O.brakePhase = 4) ∨ (st = 9 ∧ s.spindle.coastForStop) then s.stopped
    else s)

/-! ### Power loss (R311 to R313, R370) -/

/-- POWER_LOSS_DETECTED: the input, by a conversion of it, has stayed below PowerLossThreshold for PowerLossFilter (R311, R313,
R576). -/
def execPowerLossDetected (vin lasting : Nat) (s : State) : Host.Outcome State Fault Refusal :=
  .next (if inputMv vin < s.nat O.powerLossThreshold ∧ s.nat O.powerLossFilter ≤ lasting then s.powerLoss else s)

/-- HOLD_UP_ENERGY_UPDATE: every millisecond, by a conversion of the bank's voltage (R576). Sustaining holds the bank with a set-point
whose value the spec leaves to the regulation; a bank below HoldUpMinVoltage in Braking ends the drive (R312, R313, R319). -/
def execHoldUpEnergyUpdate (vbank : Nat) (s : State) : Host.Outcome State Fault Refusal :=
  let bank := inputMv vbank
  let s := s.holdUp bank
  .next (if s.nat O.spindleState = 10 then
      let (v, s) := s.takeFree
      s.drive (-((v % ((s.asSetPoint (s.nat O.brakeCurrentLimit)).toNat + 1) : Nat) : Int))
    else if s.nat O.spindleState = 11 ∧ bank < s.nat O.holdUpMinVoltage then
      let s := (s.setNat O.brakePhase 0).coast
      s.modSpindle fun x => { x with enable := false, coastForStop := true, lowSides := false, zeroPulse := false, lastEvent := s.tick }
    else s)

/-- Watermarks and dirty ledger pages as the power-loss record carries them (R509). -/
def State.lossPayload (s : State) : List Nat :=
  let x := s.spindle
  let marks := s.cmds.watermarkDirty.map Prod.fst
  [(x.lossMargin % 2 ^ 32).toNat, x.lossLoaded, s.write.cuts.length, marks.length, s.write.dirty.length] ++
    (s.write.cuts.flatMap fun c => [c.1, c.2.1, c.2.2.1, c.2.2.2]) ++ (marks.flatMap fun a => [a, s.watermark a]) ++
    s.write.dirty.flatMap fun p => [p.1, p.2]

/-- POWER_LOSS_RECORD_APPEND: every actuator is parked or fenced: the record is appended while HoldUpMargin is positive, and
the spindle enters Braking (R313, R370). -/
def execPowerLossRecordAppend (s : State) : Host.Outcome State Fault Refusal :=
  let st := s.nat O.spindleState
  .next (if ¬ s.spindle.powerLost ∨ s.spindle.lossAppended ∨ ¬ s.allParked ∨ s.spindle.lossParks ≠ [] then s
    else
      let s := s.modSpindle fun x => { x with lossAppended := true }
      let s := if 0 < s.obj O.holdUpMargin then s.trunk' 0x11 s.lossPayload true else s
      if st = 8 ∨ st = 9 ∨ st = 10 then s.startBrake 1 else s)

end Sys2Proof.Machine
end

