-- ==== Sys2Proof/Machine/Keys.lean ====
section
/-! DEFINITION. The Key Cupboard's writes, expiry and releases (R419 to R422). -/

namespace Sys2Proof.Machine

/-- Lease end of a key whose lease starts or is renewed now (R421). -/
def State.leaseFromNow (s : State) : Nat := s.tick + 1000000 * s.nat O.keyLeaseTime

/-- Whether a key's lease runs: no command renews it; between downloads the lease of their hold runs (R327, R421). -/
def State.leaseRuns (s : State) (key : Nat) : Bool :=
  let k := s.key key
  decide (k.holder ≠ 0) && decide (k.uses ≤ if key = 1 ∧ s.fw.downloadHolder ≠ 0 then 1 else 0)

/-- What the end of a key's lease entails: claims of the Rafter key's holder end, an uncommitted image is discarded (R224,
R327, R421). -/
def State.endKey (s : State) (key holder : Nat) : State :=
  if key = 2 then
    s.each (List.range 37) fun s n => if s.nat (O.loopClaim + n) = holder then s.setNat (O.loopClaim + n) 0 else s
  else if key = 1 then s.discardImage
  else s

/-- A lease that has fully elapsed ends: the key is free, with its records, its fault and its consequences (R421). -/
def State.expireKey (s : State) (key : Nat) : State :=
  let k := s.key key
  if ¬ s.leaseRuns key ∨ s.tick < k.leaseEnd then s
  else
    let s := ((s.modKey key fun _ => {}).append 0x30 [key, k.holder]).note 0x13 2 [key, k.holder]
    ((s.raiseFault 341 key).bump (O.keyExpiries + key)).endKey key k.holder

/-- A write of 1 to a KeyControl sub-index that a command carries: its requester and the key (R343, R420, R432). -/
def keyWanted (i : Instr) : Option (Requester × Nat) :=
  let named (r : Requester) (object : Nat) (data : List Nat) : Option (Requester × Nat) :=
    if O.keyControl ≤ object ∧ object < O.keyControl + 16 ∧ data = [1] then some (r, object - O.keyControl) else none
  match i with
  | .keyAcquire r key => some (r, key)
  | .dictionaryPut port _ object data _ => named (.ofPort port) object data
  | .usdoRequest _ _ begins write object data last => if begins ∧ write ∧ last then named .mb object data else none
  | _ => none

/-- Whether a write of this tick that still waits acquires a free key ahead of a requester's, in the order MB, HP0, HP1 (R420). -/
def State.keyGoesTo (s : State) (r : Requester) (key : Nat) : Bool :=
  decide ((s.key key).holder = 0) && s.pending.any fun i => (keyWanted i).any fun w =>
    decide (w.2 = key) && decide (requesterPlace w.1 < requesterPlace r)

/-- KEY_ACQUIRE: a write of 1 to a KeyControl sub-index. A lease that ends in this tick has ended before; of the writes of one tick the one
that comes first in the order MB, HP0, HP1 takes a free key (R420, R421). -/
def execKeyAcquire (requester : Requester) (key : Nat) (s : State) : Host.Outcome State Fault Refusal :=
  .next ((s.expireKey key).writeVia requester (O.keyControl + key) (.num 1 1) fun s =>
    let h := (s.key key).holder
    if (h = 0 ∨ h = requester.code) ∧ ¬ s.keyGoesTo requester key then
      .ok (s.modKey key fun k => { k with explicit := requester.code, leaseEnd := s.leaseFromNow })
    else .error .keyElsewhere)

/-- KEY_RELEASE: a write of 0 to a KeyControl sub-index (R420). -/
def execKeyRelease (requester : Requester) (key : Nat) (s : State) : Host.Outcome State Fault Refusal :=
  .next ((s.expireKey key).writeVia requester (O.keyControl + key) (.num 1 0) fun s =>
    let k := s.key key
    if k.holder = 0 then .ok s
    else if k.holder ≠ requester.code then .error .keyElsewhere
    else if k.implicit ≠ 0 then .error .state
    else .ok (s.modKey key fun _ => {}))

/-- KEY_LEASE_EXPIRY: a lease has fully elapsed (R421). -/
def execKeyLeaseExpiry (key : Nat) (s : State) : Host.Outcome State Fault Refusal := .next (s.expireKey key)

/-- Keys released with their records: 1 at sleep, 2 at an NMT Reset Node or a fault reset (R422, R552). -/
def State.releaseKeys (s : State) (which : KeySlot → Bool) (why : Nat) : State :=
  s.each (List.range 16) fun s n =>
    let k := s.key n
    if k.holder ≠ 0 ∧ which k then (s.modKey n fun _ => {}).note 0x14 0 [n, k.holder, why] else s

end Sys2Proof.Machine
end

