-- ==== Sys2Proof/Machine/Power.lean ====
section
/-! DEFINITION. Performance levels, AVSBus, temperature, ageing and read margins (chapter "Power, Performance Levels and Self-Timed
Operation"). -/

namespace Sys2Proof.Machine

/-- State with the power record changed. -/
def State.modPower (s : State) (f : Power → Power) : State := { s with power := f s.power }

/-! ### Levels and AVSBus (R439, R444 to R447) -/

/-- LEVEL_REQUEST_WRITE: a write to 5820h.02 (R38, R439, R444). -/
def execLevelRequestWrite (requester : Requester) (level : Nat) (s : State) : Host.Outcome State Fault Refusal :=
  .next (s.writeVia requester O.performanceLevelRequest (.num 1 level) fun s =>
    .ok (if s.superseded requester O.performanceLevelRequest then s
      else ((s.noteMode requester O.performanceLevelRequest).setNat O.performanceLevelRequest level).startLevelStep))

/-- LEVEL_STEP: a one-level raise or lowering begins (R445). -/
def execLevelStep (s : State) : Host.Outcome State Fault Refusal := .next s.startLevelStep

/-- Voltage the change in progress goes to: of its target level, or of the level reported where it restores or follows an
ageing raise (R445, R447, R463). -/
def State.railTarget (s : State) : Nat :=
  if s.power.restoring ∨ s.power.stepKind = 3 then s.plannedVoltage (s.nat O.performanceLevelCurrent)
  else s.plannedVoltage s.power.stepTarget

/-- The step in progress ended; the next one towards the target follows (R444). -/
def State.endStep (s : State) : State :=
  (s.modPower fun x => { x with stepKind := 0, stepWait := 0, restoring := false }).startLevelStep

/-- A level entered: measured where its last measurement is older than AgeingPeriod (R462). -/
def State.measureEntered (s : State) (level : Nat) : State :=
  if s.nat (O.lastMeasured + level) + 3600000000 * s.nat O.ageingPeriod < s.tick then s.modPower fun x => { x with measureDue := true }
  else s

/-- An AVSBus request without an accepting response (R447): counted and raised; a raise keeps the old level, a lowering goes
back to it; after AvsFailLimit in a row the interface is failed, and a lowering stays taken by its ceiling alone. -/
def State.avsTimeout (s : State) : State :=
  let s := s.bump O.avsTimeouts
  let s := s.modPower fun x => { x with avsFails := x.avsFails + 1, readBack := false }
  let s := s.deadlineMiss 7 46 0 (s.power.avsSent + s.nat O.avsAckTimeout) s.tick
  let failed := decide (s.nat O.avsFailLimit ≤ s.power.avsFails)
  let s := if failed then (s.setNat O.avsState 3).raiseFault 368 0
    else (s.setNat O.avsState 2).modPower fun x => { x with retryAt := s.tick + 1000 * s.nat O.avsRetryDelay }
  if s.power.stepKind = 1 then ((s.returnSurge 3 0).dropSurge 3 0).modPower fun x => { x with stepKind := 0, stepWait := 0 }
  else if s.power.stepKind = 2 ∧ s.power.stepWait ≠ 5 then
    if failed then
      (s.setNat O.performanceLevelCurrent s.power.ceiling).modPower fun x => { x with stepKind := 0, stepWait := 0, restoring := false }
    else (s.setNat O.performanceLevelCurrent (s.power.stepTarget + 1)).modPower fun x => { x with restoring := true }
  else if s.power.stepKind = 3 ∧ failed then s.modPower fun x => { x with stepKind := 0, stepWait := 0 }
  else s

/-- The rail has been read back: the change under way sends its voltage, unless it waits for surge or for withdrawn heads, or the next one
begins (R444, R445, R447). -/
def State.resumeStep (s : State) : State :=
  if s.power.stepKind = 0 then s.startLevelStep
  else if (s.power.stepKind = 1 ∧ ¬ s.surgeGranted? 3 0) ∨ (s.power.stepKind = 2 ∧ s.power.stepWait = 5) then s
  else s.sendVoltage s.railTarget

/-- An interface that serves again: a planned voltage that could not be written meanwhile is written, else the next step begins
(R447). -/
def State.followPlan (s : State) : State :=
  let planned := s.plannedVoltage (s.nat O.performanceLevelCurrent)
  if s.power.stepKind = 0 ∧ s.nat O.coreVoltage ≠ planned then (s.modPower fun x => { x with stepKind := 3 }).sendVoltage planned
  else s.startLevelStep

/-- AVS_RESPONSE: a response to the outstanding request, with its acknowledge field and, for a read, the rail's voltage: the
step goes on after AvsSettleTime; a failed lowering is undone once a request of the old voltage is acknowledged. A response past the time of
R447 is none (R445, R447). -/
def execAvsResponse (accepted : Bool) (mv : Nat) (s : State) : Host.Outcome State Fault Refusal :=
  .next (if s.nat O.avsState ≠ 1 then s
    else if ¬ accepted ∨ s.power.avsSent + s.nat O.avsAckTimeout < s.tick then s.avsTimeout
    else
      let read := s.power.readBack
      let s := (s.setNat O.avsState 0).setNat O.coreVoltage (if read then mv else s.power.avsRequest)
      let s := s.modPower fun x => { x with avsFails := 0, readBack := false }
      if read then s.resumeStep
      else if s.power.restoring ∧ s.nat O.coreVoltage = s.railTarget then
        let level := s.nat O.performanceLevelCurrent
        (((s.modPower fun x => { x with ceiling := level }).admitStreams level).endStep)
      else s.modPower fun x => { x with stepWait := 3, settleEnd := s.tick + s.nat O.avsSettleTime })

/-- AVS_SETTLE_END: AvsSettleTime after an acknowledgement: the next request, or the ceiling of a raise, or the end of the
change; an ageing raise is measured again. During an activation the level in force is kept (R39, R444, R445, R463). -/
def execAvsSettleEnd (s : State) : Host.Outcome State Fault Refusal :=
  .next (if s.power.stepWait ≠ 3 ∨ s.nat O.avsState ≠ 0 ∨ s.tick < s.power.settleEnd then s
    else if s.nat O.coreVoltage ≠ s.railTarget then s.sendVoltage s.railTarget
    else if s.power.stepKind = 1 ∧ s.levelHeld then s
    else if s.power.stepKind = 1 then
      let level := s.power.stepTarget
      let s := (((s.takeLevel level).admitStreams level).measureEntered level).modPower fun x => { x with surgeReturnAt := some (s.tick + 1000) }
      s.endStep
    else if s.power.stepKind = 3 then (s.modPower fun x => { x with measureDue := true }).endStep
    else (s.measureEntered s.power.stepTarget).endStep)

/-- AVS_ACK_TIMEOUT: 200 µs without an accepting response (R447). -/
def execAvsAckTimeout (s : State) : Host.Outcome State Fault Refusal :=
  .next (if s.nat O.avsState = 1 ∧ s.power.avsSent + s.nat O.avsAckTimeout ≤ s.tick then s.avsTimeout else s)

/-- AVS_RETRY_DELAY_END: after AvsRetryDelay the rail voltage is read back before the next write (R447). -/
def execAvsRetryDelayEnd (s : State) : Host.Outcome State Fault Refusal :=
  .next (if s.nat O.avsState ≠ 2 ∨ s.tick < s.power.retryAt then s
    else ((s.setNat O.avsState 1).emit .avsRead).modPower fun x => { x with readBack := true, avsSent := s.tick })

/-- AVS_RESTART: a write of 1 to 5830h.06 leaves the failed state (R447). -/
def execAvsRestart (requester : Requester) (s : State) : Host.Outcome State Fault Refusal :=
  .next (s.writeVia requester O.avsRestart (.num 1 1) fun s =>
    .ok (if s.nat O.avsState = 3 then
        (((s.setNat O.avsState 0).modPower fun x => { x with avsFails := 0 }).endCondition 368).followPlan
      else s))

/-! ### Temperature (R440, R598) -/

/-- The thermal source's condition ends with neither limit in force (R440, R470, R598). -/
def State.thermalEnd (s : State) : State :=
  if s.nat O.thermalLevelLimit = 5 ∧ ¬ s.power.overTemperature then s.endCondition 10 else s

/-- The case estimate in 0.1 degree taken: at 110 degrees every actuator safe-parks and loads are refused, until at 100 degrees or below
they are allowed again (R598). -/
def State.takeTemperature (s : State) (t : Int) : State :=
  let s := (s.setObj O.caseTemperature t).noteWarnings
  if s.power.overTemperature ∧ t ≤ 1000 then (s.modPower fun x => { x with overTemperature := false }).requestLoads
  else if ¬ s.power.overTemperature ∧ 1100 ≤ t then
    ((s.modPower fun x => { x with overTemperature := true }).safeParkAll 6).raiseFault 10 0
  else s

/-- THERMAL_LEVEL_ADJUST: every 10 s the limit falls or rises by one level by the case temperature (R440). -/
def execThermalLevelAdjust (temperature : Int) (s : State) : Host.Outcome State Fault Refusal :=
  let limit := s.nat O.thermalLevelLimit
  let max_ : Int := 10 * s.obj O.thermalLimit
  .next (if s.tick < s.power.thermalAt + 10000000 then s
    else
      let s := (s.modPower fun x => { x with thermalAt := s.tick }).takeTemperature temperature
      let s := if max_ ≤ temperature ∧ 1 < limit then
          let s := s.setNat O.thermalLevelLimit (limit - 1)
          (if limit = 5 then s.raiseFault 10 0 else s).startLevelStep
        else if temperature ≤ max_ - 50 ∧ limit < 5 then (s.setNat O.thermalLevelLimit (limit + 1)).startLevelStep
        else s
      s.thermalEnd)

/-- CASE_TEMPERATURE_CRITICAL: an estimate of the case temperature against the two limits (R598). -/
def execCaseTemperatureCritical (temperature : Int) (s : State) : Host.Outcome State Fault Refusal :=
  .next (s.takeTemperature temperature).thermalEnd

/-! ### Ageing (R462 to R464, R511) -/

/-- The first monitor whose corrected count is below its planned one: number, count, planned count (R463). -/
def belowPlan (counts plan : List Nat) : Option (Nat × Nat × Nat) :=
  ((List.range 64).find? fun i => decide (counts.getD i 0 < plan.getD i 0)).map fun i => (i, counts.getD i 0, plan.getD i 0)

/-- A raise of a level that exceeds its plan, or its cap at the greatest raise (R463, R464). -/
def State.ageLevel (s : State) (level : Nat) (m : Nat × Nat × Nat) : State :=
  let raise := s.nat (O.ageingRaise + level)
  if raise < s.nat O.ageingRaiseMax then
    let raise := raise + s.nat O.ageingStep
    let s := s.setNat (O.ageingRaise + level) raise
    let s := s.append 0x41 [level, raise, s.nat O.levelCap, m.1, m.2.1, m.2.2]
    if level = s.nat O.performanceLevelCurrent ∧ s.power.stepKind = 0 ∧ s.nat O.avsState = 0 then
      (s.modPower fun x => { x with stepKind := 3 }).sendVoltage (s.plannedVoltage level)
    else s.modPower fun x => { x with measureDue := true }
  else
    let s := s.raiseFault 11 level
    if level = 0 then s
    else
      let s := s.setNat O.levelCap (min (s.nat O.levelCap) (level - 1))
      (s.append 0x41 [level, raise, s.nat O.levelCap, m.1, m.2.1, m.2.2]).startLevelStep

/-- REPLICA_MEASUREMENT: the counts of the 64 monitors at the level in force, or, before the spindle starts at power-up, at each
level in turn from PL0 up, corrected to 85 degrees; it takes place where one is due. A level without a plan gets one of 97 % of
its counts (R461 to R464, R511). -/
def execReplicaMeasurement (level : Nat) (counts : List Nat) (s : State) : Host.Outcome State Fault Refusal :=
  let stepping := decide (s.nat O.startupPhase = 3)
  let due := s.power.measureDue || decide (s.nat (O.lastMeasured + level) + 3600000000 * s.nat O.ageingPeriod ≤ s.tick)
  let turn := decide (level = s.power.stepped) || (s.power.measureDue && decide (level + 1 = s.power.stepped))
  let may := if stepping then turn && decide (level ≤ s.nat O.levelCap) else decide (level = s.nat O.performanceLevelCurrent) && due
  let counts := counts.zipIdx.map fun c => Config.corrected c.2 c.1 (s.obj O.caseTemperature)
  .next (if ¬ may ∨ 5 < level ∨ counts.length ≠ 64 ∨ s.nat O.sleepStateCurrent = 4 then s
    else
      let s := ((s.bump O.ageingMeasurements).setNat (O.lastMeasured + level) s.tick).modPower fun x => { x with
        measureDue := false, stepped := if stepping then level + 1 else x.stepped }
      match assoc? s.power.plans level with
      | none =>
        let plan := counts.map fun c => c * 97 / 100
        (s.append 0x40 (level :: plan)).modPower fun x => { x with plans := putKey x.plans level plan }
      | some plan =>
        match belowPlan counts plan with
        | none => s
        | some m => s.ageLevel level m)

/-! ### Read margins (R465) -/

/-- Ladder entries per million sectors over some records; none with sectors counts 0 (R465). -/
def ladderRate (l : List Margin) : Nat :=
  let sectors := (l.map Margin.sectors).sum
  if sectors = 0 then 0 else (l.map Margin.ladders).sum * 1000000 / sectors

/-- READ_MARGIN_RECORD: every 24 h of power-on time each head and zone that has data gains a record of what it has counted; the last
32 are kept, and the ladder entries over the last 7 are held against MarginWarnLimit (R465). -/
def execReadMarginRecord (s : State) : Host.Outcome State Fault Refusal :=
  .next (if s.tick < s.power.marginAt + 86400000000 then s
    else
      let s := s.modPower fun x => { x with marginAt := s.tick }
      let take (x : Head) : Head := { x with
        margins := x.marginNow.foldl (fun l m => putKey l m.1 ((m.2 :: (assoc? l m.1).getD []).take 32)) x.margins, marginNow := [] }
      let s : State := { s with heads := s.heads.map take }
      let bad := (List.range s.headCount).filter fun h =>
        (s.head h).margins.any fun z => decide (s.nat O.marginWarnLimit < ladderRate (z.2.take 7))
      match bad with
      | [] => s.endCondition 207
      | _ => bad.foldl (fun (s : State) h => s.raiseFault 207 h) s)

end Sys2Proof.Machine
end

