-- ==== Sys2Proof/Machine/Faults.lean ====
section
/-! DEFINITION. Commands of the fault collector, the FAULT pin, Trapdoor mode and fault injection (chapter "Fault Collection,
Deadlines and Reactions"), and module events that only raise a source (R468). -/

namespace Sys2Proof.Machine

/-! ### Raisings and clears (R469 to R480) -/

/-- FAULT_RAISING: one raising of a source with its cause reaches the collector (R474, R476). -/
def execFaultRaising (src cause : Nat) (s : State) : Host.Outcome State Fault Refusal := .next (s.raiseFault src cause)

/-- Ended standing faults of some sources cleared, with any park they hold (R477). -/
def State.clearFaults (s : State) (which : Nat → Bool) : State :=
  let gone (f : Standing) : Bool := !f.active && which f.src
  let s := s.modFaults fun x => { x with
    standing := x.standing.filter fun f => !gone f
    suppressed := x.suppressed.filter fun n => x.standing.any fun f => decide (f.src = n) && !gone f }
  (s.noteErrorRegister.noteWarnings).requestLoads

/-- FAULT_CLEAR: a source number, or FFFFh for all, written to 5C02h.01 (R477). -/
def execFaultClear (requester : Requester) (value : Nat) (s : State) : Host.Outcome State Fault Refusal :=
  .next (s.writeVia requester O.faultClear (.num 2 value) fun s =>
    .ok (s.clearFaults fun n => decide (value = 65535) || decide (n = value)))

/-- FAULT_PIN_RELEASE: a write of 1 to 5C01h.03; a raising of the same tick counts as taken before it (R480). -/
def execFaultPinRelease (requester : Requester) (s : State) : Host.Outcome State Fault Refusal :=
  .next (s.writeVia requester O.faultPinRelease (.num 1 1) fun s =>
    .ok (s.modFaults fun x =>
      { x with released := some s.tick, releasePending := decide (x.pin = 1), pin := if x.pin = 1 then 1 else 0 }))

/-- FAULT_PULSE_END: the pulse ends: held, or released where a release is pending (R480). -/
def execFaultPulseEnd (s : State) : Host.Outcome State Fault Refusal :=
  .next (if s.faults.pin ≠ 1 ∨ s.tick < s.faults.pulseEnd then s
    else s.modFaults fun x => { x with pin := if x.releasePending then 0 else 2, releasePending := false })

/-! ### Module and host events that raise a source (R468) -/

/-- MOTION_LINK_ERROR: a CRC error (cause 1) or a lost lane (cause 2) of the motion link. -/
def execMotionLinkError (lane : Bool) (s : State) : Host.Outcome State Fault Refusal :=
  .next (s.raiseFault 12 (if lane then 2 else 1))

/-- CONTROL_MEMORY_ECC_ERROR: corrected, or not. -/
def execControlMemoryEccError (corrected : Bool) (s : State) : Host.Outcome State Fault Refusal :=
  .next (s.raiseFault (if corrected then 8 else 9) 0)

/-- LINK_UNCORRECTABLE_ERROR of a host port. -/
def execLinkUncorrectableError (port : Nat) (s : State) : Host.Outcome State Fault Refusal :=
  .next (s.raiseFault (304 + port) 0)

/-! ### Trapdoor mode (R482 to R486) -/

/-- Whether a token's two public keys hash to a fused key hash and both its signatures verify (R484, R502). -/
def tokenSigned (t : List Nat) (hash : Nat) : Bool :=
  decide (sha384 (cut t 96 2049) = hash) && Config.verifies 1 (cut t 96 97) (t.take 2145) (cut t 2145 96) &&
    Config.verifies 2 (cut t 193 1952) (t.take 2145) (cut t 2241 3309)

/-- Whether a token carries the device's IdentityDigest and a challenge (R484, R502). -/
def tokenFor (t : List Nat) (challenge : Nat) : Bool :=
  decide (cut t 8 48 = leBytes 48 (Config.identity 7)) && decide (cut t 56 32 = leBytes 32 challenge)

/-- Whether a token begins with a Magic and TokenFormat 0001h (R483, R502). -/
def tokenHead (t magic : List Nat) : Bool := decide (cut t 0 4 = magic) && decide (field t 4 2 = 1)

/-- Reason for which an unlock token is refused, if any (R483 to R485); `appended` tells whether its Trunk record could be
appended (R486). -/
def State.trapdoorRefusal (s : State) (t : List Nat) (appended : Bool) : Option Nat :=
  let keyIndex := field t 6 1
  if s.nat O.trapdoorState ≠ 1 then some 1
  else if 3 ≤ s.nat O.trapdoorRefusals then some 2
  else if ¬ tokenHead t [0x54, 0x44, 0x4B, 0x31] ∨ 3 < keyIndex ∨ field t 7 1 ≠ 0 ∨ field t 88 8 ≠ 0 then some 3
  else if ¬ tokenFor t s.sec.trapdoorChallenge then some 4
  else if ¬ tokenSigned t (Config.identity (9 + keyIndex)) then some 5
  else if ¬ appended then some 1
  else none

/-- An unlock token from a path, 1 HP0, 2 HP1, 3 MB, 4 DBG: entered, or refused and raised; a new challenge is drawn either
way (R484 to R486). -/
def State.trapdoorToken (s : State) (path : Nat) (t : List Nat) (appended : Bool) : Option Nat × State :=
  let why := s.trapdoorRefusal t appended
  let old := s.sec.trapdoorChallenge
  let (v, s) := s.takeFree
  let s := { s with sec := { s.sec with trapdoorChallenge := v } }
  match why with
  | none => (none, ((s.append 0x50 [path, field t 6 1, old]).setNat O.trapdoorState 2).raiseFault 372 0)
  | some r =>
    let s := if r = 1 ∧ ¬ appended ∧ s.nat O.trapdoorState = 1 then s.raiseFault 371 0 else s
    (some r, (s.setNat O.trapdoorRefusals (min 3 (s.nat O.trapdoorRefusals + 1))).raiseFault 373 r)

/-- TRAPDOOR_TOKEN: an unlock token written to 6080h.02 (R484 to R486). -/
def execTrapdoorToken (requester : Requester) (token : List Nat) (appended : Bool) (s : State) :
    Host.Outcome State Fault Refusal :=
  .next (match s.checkPut requester O.trapdoorToken (.bytes token) with
    | some x => s.emit (.dict requester.code (x.code requester))
    | none =>
      match s.trapdoorToken requester.code token appended with
      | (none, s) => s.emit (.dict requester.code 0)
      | (some r, s) => s.emit (.dict requester.code ((if r ≤ 2 then DictRefusal.state else .range).code requester)))

/-! ### Fault injection (R488, R489) -/

/-- The condition of an injection point created on its target, or the run's fail reason: 1 the target is absent or not
active, 3 the point does not apply now (R488, R489). -/
def State.injectPoint (s : State) (point n : Nat) : Except Nat State :=
  if point = 1 then
    if n < 72 ∧ s.rslCarries n then .ok (s.eraseBlocks n 1) else .error 1
  else if point = 2 then
    if 8 ≤ n ∨ s.nat (O.pclState + n) ≠ 3 then .error 1
    else
      match (s.pcl n).outstanding with
      | [] => .error 3
      | a :: _ => .ok ((s.bump (O.pclTimeouts + n)).retryAccess n a.tag 1)
  else if point = 3 then
    if ¬ s.hasSlot n ∨ ¬ s.loopRuns n then .error 1
    else
      match (s.loop n).sample with
      | none => .error 3
      | some x => if x.late then .error 3
        else .ok ((s.modLoop n fun l => { l with sample := some { x with late := true } }).markLate n)
  else if point = 4 then
    if ¬ s.hasHead (n / 2) then .error 1
    else if s.detect.turns.any fun t => decide (t.stream = n) && !t.sector.deferred then
      let hold (t : Turn) : Turn := if t.stream = n ∧ ¬ t.sector.deferred then { t with sector := { t.sector with due := 0 } } else t
      .ok { s with detect := { s.detect with turns := s.detect.turns.map hold } }
    else .error 3
  else if point = 5 then if s.nat O.avsState = 1 then .ok s.avsTimeout else .error 3
  else if point = 6 then
    if s.nat O.spindleState = 11 ∧ s.spindle.chopper then .ok (s.modSpindle fun x => { x with chopperCurrent := 0 }) else .error 3
  else if point = 7 then
    if ¬ s.hasHead (n / 2) ∨ ¬ (s.head (n / 2)).onRow then .error 1
    else .ok { s with detect := { s.detect with unmarked := n :: s.detect.unmarked } }
  else .error 1

/-- One raising or condition of the injection run: counted with its tick; the run ends with its last one, or fails (R488,
R489). -/
def State.injectOne (s : State) : State :=
  let r : Except Nat State :=
    if s.nat O.injectKind = 0 then
      if s.sourcePresent (s.nat O.injectSource) then .ok (s.raiseWith (s.nat O.injectSource) (s.nat O.injectCause) true [])
      else .error 1
    else s.injectPoint (s.nat O.injectPoint) (s.nat O.injectTarget)
  match r with
  | .error why => (s.modFaults fun x => { x with injectLeft := 0 }).endRun O.injectRunState why
  | .ok t =>
    let made := t.nat O.injectRunMade
    let t := if made = 0 then t.setNat O.injectRunFirstTick s.tick else t
    let t := (t.setNat O.injectRunLastTick s.tick).setNat O.injectRunMade (made + 1)
    let left := s.faults.injectLeft - 1
    let t := t.modFaults fun x => { x with injectLeft := left, injectNext := s.tick + s.nat O.injectInterval }
    if left = 0 then t.endRun O.injectRunState 0 else t

/-- INJECT_START: a write of 1 to 6401h.07 starts a run, whose first raising is made at once (R488). -/
def execInjectStart (requester : Requester) (s : State) : Host.Outcome State Fault Refusal :=
  .next (s.writeVia requester O.injectCommand (.num 1 1) fun s =>
    if s.nat O.injectRunState = 1 then .error .state
    else
      let s := ((s.startRun O.injectRunState).setNat O.injectRunMade 0).setNat O.injectRunFirstTick 0
      .ok ((s.setNat O.injectRunLastTick 0).modFaults fun x => { x with injectLeft := s.nat O.injectCount }).injectOne)

/-- INJECT_CANCEL: a write of 2 to 6401h.07 cancels the running run (R488, R489). -/
def execInjectCancel (requester : Requester) (s : State) : Host.Outcome State Fault Refusal :=
  .next (s.writeVia requester O.injectCommand (.num 1 2) fun s =>
    .ok ((s.modFaults fun x => { x with injectLeft := 0 }).endRun O.injectRunState 2))

/-- INJECTION_INTERVAL: InjectInterval has passed and the run makes its next one (R488). -/
def execInjectionInterval (s : State) : Host.Outcome State Fault Refusal :=
  .next (if s.nat O.injectRunState = 1 ∧ 0 < s.faults.injectLeft ∧ s.faults.injectNext ≤ s.tick then s.injectOne else s)

end Sys2Proof.Machine
end

