-- ==== Sys2Proof/Machine/Records.lean ====
section
/-! DEFINITION. Commands of the Shelf event recorder, of wall time and of the Trunk (chapter "Shelf Event Recorder and Trunk
Record"). -/

namespace Sys2Proof.Machine

/-- Low and high word of a 64-bit value. -/
def words64 (v : Nat) : List Nat := [v % 2 ^ 32, v / 2 ^ 32 % 2 ^ 32]

/-! ### Clearing the Shelf (R501, R502) -/

/-- The Shelf cleared up to a bound by a clearer: 1 HP0, 2 HP1, 3 MB by key, 4 MB by owner token (R493, R501). -/
def State.clearShelf (s : State) (bound clearer : Nat) : State :=
  let h := s.shelf
  let n := min bound (h.nextSeq - 1)
  let kept := h.records.filter fun r => decide (n < r.seq)
  let words := [clearer] ++ words64 n ++ [h.records.length - kept.length, h.drops.getD 0 0, h.drops.getD 1 0, h.drops.getD 2 0,
    h.refused] ++ words64 bound
  let s := { s with shelf := { h with
    records := kept, updates := 0, drops := [0, 0, 0, 0], refused := 0, firstDrop := 0, lastDrop := 0,
    lastWall := 2 ^ 64 - 1 } }
  match s.shelfEvent 1 65535 2 0 false words with
  | (some q, s) => s.setNat O.lastClearSequence q
  | (none, s) => s

/-- SHELF_CLEAR: the Shelf key's holder writes a bound to 5C20h.03 (R501). -/
def execShelfClear (requester : Requester) (bound : Nat) (s : State) : Host.Outcome State Fault Refusal :=
  .next (s.writeVia requester O.shelfClear (.num 8 bound) fun s => .ok (s.clearShelf bound requester.code))

/-- Reason for which a token under the owner key is refused: the well-formedness of its other fields, and the challenge it must carry
(R502, R536). -/
def State.ownerTokenRefusal (s : State) (t : List Nat) (formatOk : Bool) (challenge : Nat) : Option Nat :=
  if ¬ s.fw.ownerKeySet then some 1
  else if ¬ formatOk ∨ field t 6 2 ≠ 0 then some 2
  else if ¬ tokenFor t challenge then some 3
  else if ¬ tokenSigned t (Config.identity 8) then some 4
  else none

/-- SHELF_CLEAR_TOKEN: a clear token written to 5C21h.02, over the management bus only; a new challenge is drawn after it
(R501, R502). -/
def execShelfClearToken (requester : Requester) (token : List Nat) (s : State) : Host.Outcome State Fault Refusal :=
  .next (match s.checkPut requester O.shelfClearToken (.bytes token) with
    | some x => s.emit (.dict requester.code (x.code requester))
    | none =>
      if requester ≠ .mb then s.emit (.dict requester.code (DictRefusal.denied.code requester))
      else
        let why := s.ownerTokenRefusal token (tokenHead token [0x53, 0x43, 0x54, 0x31]) s.shelf.challenge
        let (v, s) := s.takeFree
        let s := { s with shelf := { s.shelf with challenge := v } }
        match why with
        | none => (s.clearShelf (field token 88 8) 4).emit (.dict 3 0)
        | some r => (s.bump O.shelfTokenRefusals).emit (.dict 3 ((if r = 1 then DictRefusal.state else .range).sdo)))

/-! ### Wall time (R500) -/

/-- Wall time received from a path, 1 HP0, 2 HP1, 3 MB: slewed towards within WallTimeStepLimit, else stepped to with its
record; the first one is always a step (R500). -/
def State.setWall (s : State) (value path : Nat) : State :=
  let now := s.wallTime
  let diff : Int := (value : Int) - now
  if s.wall.set ∧ diff.natAbs ≤ s.nat O.wallTimeStepLimit then
    { s with wall := { s.wall with base := now, baseTick := s.tick - (s.tick - s.wall.baseTick) % 1000, slew := diff } }
  else
    let s := { s with wall := { set := true, base := value, baseTick := s.tick, slew := 0 } }
    (s.bump O.wallTimeSteps).note 2 2 (words64 now ++ words64 value ++ [path])

/-- WALL_TIME_SET: a write to 5C30h.02 (R500). -/
def execWallTimeSet (requester : Requester) (value : Nat) (s : State) : Host.Outcome State Fault Refusal :=
  .next (s.writeVia requester O.wallTimeSet (.num 8 value) fun s => .ok (s.setWall value requester.code))

/-! ### Snapshot lists (R494, R497, R516) -/

/-- SNAPSHOT_LIST_WRITE: the image of the selected code's list written: its code must match, its rate and burst keep their
ranges, no entry sets a reserved bit or names what a list may not, its
bucket fills and ListVersion advances (R17, R494, R497, R516). -/
def execSnapshotListWrite (requester : Requester) (image : List Nat) (s : State) : Host.Outcome State Fault Refusal :=
  .next (s.writeVia requester O.snapshotListImage (.bytes image) fun s =>
    let code := s.nat O.snapshotSelectCode
    let rate := ofLe ((image.drop 2).take 2)
    let burst := ofLe ((image.drop 4).take 2)
    let entries := (List.range 48).map fun i => ofLe ((image.drop (12 + 4 * i)).take 4)
    if ofLe (image.take 2) ≠ code ∨ rate < 1 ∨ 1000 < rate ∨ burst < 1 ∨ 1024 < burst then .error .range
    else if (entries.takeWhile (· ≠ 0)).any fun e => decide (e % 256 / 2 ≠ 0) || !s.listable (e / 65536 * 256 + e / 256 % 256) then
      .error .range
    else
      let c := s.codeConfig code
      .ok (s.setCodeConfig { c with
        rate := rate, burst := burst, version := (c.version + 1) % 65536
        entries := entries
        level := burst * 1000000, filled := s.tick }))

/-! ### The Trunk (R503 to R508, R513) -/

/-- Bytes of a record's payload (R505, R506, R540, R543). -/
def payloadBytes (kind : Nat) (payload : List Nat) : Nat :=
  match kind with
  | 0x01 => 4040
  | 0x10 => 20
  | 0x11 => 12 + 12 * payload.getD 2 0 + 16 * payload.getD 3 0 + 8 * payload.getD 4 0
  | 0x20 => 80
  | 0x40 => 260
  | 0x50 => 40
  | 0x61 => 4 + 12 * payload.headD 0
  | 0x63 => 0
  | 0x12 | 0x13 | 0x30 | 0x62 => 8
  | _ => 16

/-- Length of a record: 48 bytes and its payload, rounded up to a multiple of 8 (R505). -/
def recordLength (kind : Nat) (payload : List Nat) : Nat := (48 + payloadBytes kind payload + 7) / 8 * 8

/-- State with the Trunk changed. -/
def State.modTrunk (s : State) (f : Trunk → Trunk) : State := { s with trunk := f s.trunk }

/-- A unit of the Trunk. -/
def Trunk.unit (t : Trunk) (n : Nat) : TrunkUnit := (assoc? t.units n).getD {}

/-- The Trunk with a unit replaced; its mirrors are behind (R513). -/
def Trunk.setUnit (t : Trunk) (n : Nat) (u : TrunkUnit) : Trunk :=
  { t with
    units := putKey t.units n u
    dirty := (List.range 4).foldl (fun d a =>
      let l := (assoc? d a).getD []
      putKey d a (if l.contains n then l else n :: l)) t.dirty }

/-- First unit and number of units of an area: 0 boot, 1 log (R503). -/
def trunkArea (area : Nat) : Nat × Nat := if area = 0 then (0, 344) else (344, 168)

/-- The next unit of an area's ring that is not retired (R503). -/
def Trunk.next (t : Trunk) (area unit : Nat) : Nat :=
  let (first, n) := trunkArea area
  (((List.range n).map fun i => first + (unit - first + 1 + i) % n).find? fun u => !(t.unit u).retired).getD unit

/-- Records of the log area. -/
def Trunk.logRecords (t : Trunk) : List TrunkRecord :=
  (t.units.filter fun u => decide (344 ≤ u.1)).flatMap fun u => u.2.records

/-- Highest sequence of the records of a kind that satisfy a condition; 0 for none. -/
def Trunk.newest (t : Trunk) (which : TrunkRecord → Bool) : Nat :=
  ((t.logRecords.filter which).map TrunkRecord.seq).foldl max 0

/-- Whether a record is carried when its unit is erased (R506, R508, R543). -/
def Trunk.carries (t : Trunk) (r : TrunkRecord) : Bool :=
  let clean := t.newest fun x => decide (x.kind = 0x62)
  let newestOf (same : TrunkRecord → Bool) : Bool := decide (r.seq = t.newest fun x => decide (x.kind = r.kind) && same x)
  if r.kind = 0x11 ∨ r.kind = 0x63 then decide (clean < r.seq)
  else if r.kind = 0x61 then decide (clean < r.seq) && !t.carryStopped
  else if r.kind = 0x40 ∨ r.kind = 0x41 ∨ r.kind = 0x60 then newestOf fun x => decide (x.payload.headD 0 = r.payload.headD 0)
  else if r.kind = 0x50 then
    decide ((t.logRecords.filter fun x => decide (x.kind = 0x50) && decide (r.seq < x.seq)).length < 64)
  else if r.kind = 0x62 then newestOf fun _ => true
  else if r.kind = 0x20 then
    let lock (x : TrunkRecord) : Bool := decide (x.payload.headD 0 = 9) || decide (x.payload.headD 0 = 10)
    (decide (r.payload.headD 0 = 4) && newestOf fun x => decide (x.payload.headD 0 = 4)) || (lock r && newestOf lock)
  else false

/-- Bytes of the ledger flush records newer than the newest clean point (R508). -/
def Trunk.flushBytes (t : Trunk) : Nat :=
  let clean := t.newest fun x => decide (x.kind = 0x62)
  ((t.logRecords.filter fun x => decide (x.kind = 0x61) && decide (clean < x.seq)).map fun x => recordLength x.kind x.payload).sum

/-- A record placed in an area's open unit, which has room for it. -/
def Trunk.place (t : Trunk) (unit : Nat) (r : TrunkRecord) : Trunk :=
  let u := t.unit unit
  t.setUnit unit { u with records := u.records ++ [r], used := u.used + recordLength r.kind r.payload }

/-- The next unit of an area opened: it was erased ahead, its header follows, and the unit after it is erased once its
carried records are copied (R503, R504, R508). -/
def Trunk.openNext (t : Trunk) (area limit : Nat) : Trunk :=
  let old := if area = 0 then t.bootUnit else t.logUnit
  let n := t.next area old
  let u := t.unit n
  let t := t.setUnit n { u with seq := (t.unit old).seq + 1, used := 0, records := [] }
  let t := if area = 0 then { t with bootUnit := n } else { t with logUnit := n }
  let ahead := t.next area n
  let gone := t.unit ahead
  let copies := if area = 0 then [] else (gone.records.filter t.carries).map fun (r : TrunkRecord) => { r with carried := true }
  let t := copies.foldl (fun (t : Trunk) r => t.place n r) t
  t.setUnit ahead { seq := 0, erases := gone.erases + 1, retired := decide (limit ≤ gone.erases + 1), used := 0, records := [] }

/-- Where the ledger flush records to be carried exceed 32 units, a 0063h record replaces their carrying until the next clean
point (R508). -/
def State.ledgerOverflow (s : State) : State :=
  if 32 * 65472 < s.trunk.flushBytes ∧ ¬ s.trunk.carryStopped then
    (s.modTrunk fun x => { x with carryStopped := true }).append 0x63 []
  else s

/-- The first 32 bytes of a record (R505). -/
def recordHead (kind length boot seq tick wall : Nat) : List Nat :=
  fieldBytes [(2, kind), (2, length), (4, boot), (8, seq), (8, tick), (8, wall)]

/-- Records of an area of the Trunk: 0 boot, 1 log. -/
def Trunk.areaRecords (t : Trunk) (area : Nat) : List TrunkRecord :=
  (t.units.filter fun u => decide (344 ≤ u.1) == decide (area = 1)).flatMap fun u => u.2.records

/-- The newest boot record. -/
def Trunk.bootRecord? (t : Trunk) : Option TrunkRecord :=
  (t.areaRecords 0).foldl (fun (b : Option TrunkRecord) r =>
    match b with
    | some q => if q.seq < r.seq then some r else some q
    | none => some r) none

/-- A boot record's payload made whole as it is appended: PreviousRecordDigest over bytes 0 to L - 17 of the previous boot record, and
both signatures over the record's bytes 0 to 31 and the payload's bytes 0 to 623 (R540). -/
def Trunk.sealBoot (t : Trunk) (a : TrunkAppend) : List Nat :=
  let former := match t.bootRecord? with
    | some r => sha384 (recordHead 1 4088 r.boot r.seq r.tick r.wall ++ r.payload)
    | none => 0
  let body := a.payload.take 72 ++ leBytes 48 former ++ cut a.payload 120 504
  let m := recordHead 1 4088 a.boot t.nextSeq a.tick a.wall ++ body
  body ++ padTo 96 (Config.sign 1 m) ++ padTo 3309 (Config.sign 2 m) ++ List.replicate 11 0

/-- A record appended now by the program engine (R505, R507). -/
def State.program (s : State) (a : TrunkAppend) : State :=
  let area := if a.kind = 1 then 0 else 1
  let r : TrunkRecord := { kind := a.kind, boot := a.boot, seq := s.trunk.nextSeq, tick := a.tick, wall := a.wall,
                           payload := if a.kind = 1 then s.trunk.sealBoot a else a.payload, carried := false, restored := false }
  let open_ (t : Trunk) : Nat := if area = 0 then t.bootUnit else t.logUnit
  let s := if 65472 < (s.trunk.unit (open_ s.trunk)).used + recordLength a.kind a.payload then
      let s := if area = 1 then s.ledgerOverflow else s
      s.modTrunk fun t => t.openNext area (s.nat O.trunkEraseLimit)
    else s
  let t := s.trunk.place (open_ s.trunk) r
  let t := { t with nextSeq := t.nextSeq + 1, failures := 0, carryStopped := t.carryStopped && decide (a.kind ≠ 0x62) }
  (s.modTrunk fun _ => t).setNat O.trunkMirrorState 0

/-- TRUNK_APPEND_COMPLETE: the program engine ends with the append at the front: done, or failed with cause 2 program or 3
erase: its unit is retired and it is tried once more; a second failure loses the record (R503, R507). -/
def execTrunkAppendComplete (cause : Nat) (s : State) : Host.Outcome State Fault Refusal :=
  .next (match s.trunk.queue with
    | [] => s
    | a :: rest =>
      if s.spindle.powerLost ∧ s.obj O.holdUpMargin ≤ 0 then s
      else if cause ≠ 2 ∧ cause ≠ 3 then (s.modTrunk fun x => { x with queue := rest }).program a
      else
        let area := if a.kind = 1 then 0 else 1
        let unit := if area = 0 then s.trunk.bootUnit else s.trunk.logUnit
        let t := (s.trunk.setUnit unit { s.trunk.unit unit with retired := true }).openNext area (s.nat O.trunkEraseLimit)
        let n := s.trunk.failures + 1
        let s := (s.modTrunk fun _ => { t with failures := n }).raiseFault 13 cause
        if n < 2 then s
        else
          let s := s.modTrunk fun x => { x with queue := x.queue.tail, failures := 0 }
          (s.bump O.trunkAppendFailures).raiseFault 371 0)

/-- An actuator's mirror takes the units changed since its last write, each in 16 sectors of the system area with the System flag; not
after a power loss, and not while the head of its surface is fenced (R513). -/
def State.mirrorWrite (s : State) (a : Nat) : State :=
  let units := (assoc? s.trunk.dirty a).getD []
  if ¬ s.hasAct a ∨ ¬ s.mapped a ∨ (s.act a).load ≠ 2 ∨ s.nat (O.headService + 6 * a) = 3 ∨ s.spindle.powerLost then s
  else
    let s := units.foldl (fun (s : State) u => s.emit (.system (6 * a) 6 u 0 (15 * 2 ^ 44 + 0x10000 + 16 * u) (4096 + 32) [])) s
    let held := units.foldl (fun m u => putKey m u (s.trunk.unit u)) ((assoc? s.trunk.mirrors a).getD [])
    let s := s.modTrunk fun x => { x with dirty := putKey x.dirty a [], mirrors := putKey x.mirrors a held }
    s.setNat O.trunkMirrorState (withBit (s.nat O.trunkMirrorState) a)

/-- TRUNK_MIRROR_WRITE: an actuator's mirror is written in a spare revolution (R513). -/
def execTrunkMirrorWrite (act : Nat) (s : State) : Host.Outcome State Fault Refusal := .next (s.mirrorWrite act)

/-- A copy of a record restored from a mirror, appended with Flags bit 1 set (R514). -/
def Trunk.restore (t : Trunk) (limit : Nat) (r : TrunkRecord) : Trunk :=
  let area := if r.kind = 1 then 0 else 1
  let open_ (t : Trunk) : Nat := if area = 0 then t.bootUnit else t.logUnit
  let t := if 65472 < (t.unit (open_ t)).used + recordLength r.kind r.payload then t.openNext area limit else t
  t.place (open_ t) { r with restored := true }

/-- A unit of the NOR found damaged: restored from the mirror copy of the highest UnitSequence among the actuators that loaded; what no
copy holds is noted in a 0070h record (R514). -/
def State.restoreUnit (s : State) (u : Nat) : State :=
  let copies := ((List.range s.actCount).filter fun a => decide ((s.act a).load = 2)).filterMap fun a =>
    ((assoc? s.trunk.mirrors a).bind fun m => assoc? m u)
  let best := copies.foldl (fun (b : TrunkUnit) (c : TrunkUnit) => if b.seq < c.seq then c else b) {}
  let lost := ((s.trunk.unit u).records.filter fun r => !best.records.any fun (x : TrunkRecord) => decide (x.seq = r.seq)).map TrunkRecord.seq
  let s := s.modTrunk fun t => t.setUnit u { t.unit u with records := [], used := 65472 }
  let s := s.modTrunk fun t => best.records.foldl (fun (t : Trunk) r => t.restore (s.nat O.trunkEraseLimit) r) t
  match lost with
  | [] => s
  | n :: rest => s.append 0x70 [rest.foldl min n, rest.foldl max n]

end Sys2Proof.Machine
end

