-- ==== Sys2Proof/Machine/Mgmt.lean ====
section
/-! DEFINITION. Commands of the management bus: bus ports, NMT, LSS, heartbeats, EMCY, TIME and the stored set (chapter "Object
Dictionary, Key Cupboard and Management Bus"). -/

namespace Sys2Proof.Machine

/-- State with the management bus changed. -/
def State.modMb (s : State) (f : MgmtBus → MgmtBus) : State := { s with mb := f s.mb }

/-! ### Ports (R423 to R427) -/

/-- Whether a port takes part in traffic: error-active, error-passive or listen-only, with the motion die powered (R424,
R427, R448). -/
def State.busReceives (s : State) (b : Nat) : Bool :=
  decide (s.nat (O.busState + b) ∈ [1, 2, 6]) && decide (s.nat O.sleepStateCurrent ≠ 4)

/-- Whether the device may send ordinary frames on a port: configured, and neither bus-off, disabled nor listen-only (R424,
R427, R431). -/
def State.busSends (s : State) (b : Nat) : Bool :=
  decide (s.nat (O.busState + b) ∈ [1, 2]) && decide (s.nat O.sleepStateCurrent ≠ 4) && decide (s.mb.nodeId ≠ 255)

/-- The active bus (R425). -/
def State.activeBus (s : State) : Nat := s.nat O.activeBus

/-- Whether the device acts on a frame of a port: frames count only on the active bus (R425). -/
def State.busActs (s : State) (b : Nat) : Bool := decide (b = s.activeBus) && s.busReceives b

/-- A message sent on the active bus, where the port may send. -/
def State.sendMb (s : State) (o : Output) : State := if s.busSends s.activeBus then s.emit o else s

/-- The active bus changed for a cause (R425): the transfer is abandoned, a heartbeat and EMCY FF01h follow, and a Shelf record
is written. -/
def State.changeBus (s : State) (cause : Nat) : State :=
  let b := 1 - s.activeBus
  let s := (s.modMb fun m => { m with usdo := none }).setNat O.activeBus b
  let s := s.sendMb (.heartbeat b s.mb.nmt)
  (s.queueEmcy 0xFF01 [b]).note 0x15 0 [b, cause]

/-- Whether the standby port can take over (R425). -/
def State.standbyFit (s : State) : Bool :=
  decide (s.mb.redundancy = 1) && decide (s.nat (O.busState + (1 - s.activeBus)) ∈ [1, 2])

/-- After a port has become unusable: the other one becomes active where this one was (R425). -/
def State.leaveBus (s : State) (b : Nat) : State :=
  let s := s.noteErrorRegister
  if b = s.activeBus ∧ s.standbyFit then s.changeBus 1 else s

/-- Node-ID and time of a consumer heartbeat entry, where it is configured (R437). -/
def State.consumer (s : State) (i : Nat) : Option (Nat × Nat) :=
  let v := s.nat (O.consumerHeartbeat + i)
  if v / 65536 % 256 = 0 ∨ v % 65536 = 0 then none else some (v / 65536 % 256, v % 65536)

/-- Whether a consumed heartbeat is received on a port within its time. -/
def State.heard (s : State) (b i : Nat) : Bool :=
  match s.consumer i, assoc? (s.bus b).seen i with
  | some (_, ms), some t => decide (s.tick ≤ t + 1000 * ms)
  | _, _ => false

/-- The active bus changes where every configured heartbeat is lost on it and at least one is received on the standby bus
(R425). -/
def State.checkConsumers (s : State) : State :=
  let used := (List.range 4).filter fun i => (s.consumer i).isSome
  let a := s.activeBus
  if s.mb.redundancy = 1 ∧ used ≠ [] ∧ (used.all fun i => (s.bus a).lost.contains i) ∧ (used.any fun i => s.heard (1 - a) i) then
    s.changeBus 2
  else s

/-- BUS_OFF: a port goes bus-off; beyond BusOffLimit in 60 s it is disabled and its source is raised (R424). -/
def execBusOff (bus : Nat) (s : State) : Host.Outcome State Fault Refusal :=
  .next (if ¬ s.busReceives bus then s
    else
      let recent := s.tick :: (s.bus bus).offTicks.filter fun t => decide (s.tick < t + 60000000)
      let s := (s.bump (O.busOffEvents + bus)).modBus bus fun p => { p with
        offTicks := recent, recoverAt := s.tick + 1000 * s.mb.recoveryDelay }
      let s := if s.mb.offLimit < recent.length then (s.setNat (O.busState + bus) 5).raiseFault (336 + bus) 1
        else s.setNat (O.busState + bus) 3
      s.leaveBus bus)

/-- BUS_OFF_RECOVERY_START: BusOffRecoveryDelay after bus-off (R424). -/
def execBusOffRecoveryStart (bus : Nat) (s : State) : Host.Outcome State Fault Refusal :=
  .next (if s.nat (O.busState + bus) = 3 ∧ (s.bus bus).recoverAt ≤ s.tick then s.setNat (O.busState + bus) 4 else s)

/-- BUS_OFF_RECOVERED: 128 occurrences of 11 recessive bits: the counters are 0, EMCY 8140h is sent, and a port in listen-only
is so again (R424, R427, R434). -/
def execBusOffRecovered (bus : Nat) (s : State) : Host.Outcome State Fault Refusal :=
  .next (if s.nat (O.busState + bus) ≠ 4 then s
    else
      let s := s.setNat (O.busState + bus) (if (s.bus bus).listenOnly then 6 else 1)
      let s := (s.setNat (O.txErrorCounter + bus) 0).setNat (O.rxErrorCounter + bus) 0
      (s.queueEmcy 0x8140 [bus]).noteErrorRegister)

/-- ERROR_PASSIVE_CHANGE: the error counters of a port, error-passive from 128 on (R424, R434). -/
def execErrorPassiveChange (bus transmit receive : Nat) (s : State) : Host.Outcome State Fault Refusal :=
  .next (if ¬ s.busReceives bus then s
    else
      let s := (s.setNat (O.txErrorCounter + bus) (min transmit 255)).setNat (O.rxErrorCounter + bus) (min receive 255)
      let passive := decide (128 ≤ transmit ∨ 128 ≤ receive)
      if passive ∧ s.nat (O.busState + bus) = 1 then
        (s.setNat (O.busState + bus) 2).queueEmcy 0x8120 [bus]
      else if ¬ passive ∧ s.nat (O.busState + bus) = 2 then (s.setNat (O.busState + bus) 1).noteErrorRegister
      else s)

/-- ARBITRATION_LOST: counted; the frame is sent again (R424). -/
def execArbitrationLost (bus : Nat) (s : State) : Host.Outcome State Fault Refusal :=
  .next (if s.busReceives bus then s.bump (O.arbitrationLosses + bus) else s)

/-- STALE_FRAME_DROP: the frame queued at a tick is still unsent 100 ms later: dropped and counted (R424). -/
def execStaleFrameDrop (bus queued : Nat) (s : State) : Host.Outcome State Fault Refusal :=
  .next (if s.nat (O.busState + bus) ≠ 0 ∧ queued + 100000 ≤ s.tick then s.bump (O.staleFramesDropped + bus) else s)

/-- FOREIGN_FRAME: ignored and counted (R426). -/
def execForeignFrame (bus : Nat) (s : State) : Host.Outcome State Fault Refusal :=
  .next (if s.busReceives bus then s.bump (O.foreignFrames + bus) else s)

/-- DUPLICATE_NODE_ID: a valid frame on an own identifier puts the port into listen-only (R427, R434). -/
def execDuplicateNodeId (bus : Nat) (s : State) : Host.Outcome State Fault Refusal :=
  .next (if ¬ s.busSends bus then s
    else
      let s := ((s.raiseFault (338 + bus) 0).bump (O.duplicateNodeEvents + bus)).setNat (O.busState + bus) 6
      let s := s.modBus bus fun p => { p with listenOnly := true }
      (s.leaveBus bus).queueEmcy 0x8150 [bus])

/-- BUS_SELECT: a write to 2100h.02; refused while the other port is bus-off, disabled or listen-only (R425). -/
def execBusSelect (requester : Requester) (value : Nat) (s : State) : Host.Outcome State Fault Refusal :=
  .next (s.writeVia requester O.busSelect (.num 1 value) fun s =>
    if value = s.activeBus then .ok s
    else if s.nat (O.busState + value) ∈ [1, 2] then .ok (s.changeBus 3)
    else .error .state)

/-- MB_PORT_RESTART: a write of 1 to a sub-index of 2108h enables a disabled port and ends its listen-only; with
BusRedundancy at 0 MB-B stays disabled (R424, R425, R427). -/
def execMbPortRestart (requester : Requester) (bus : Nat) (s : State) : Host.Outcome State Fault Refusal :=
  .next (s.writeVia requester (O.mbPortRestart + bus) (.num 1 1) fun s =>
    if s.nat (O.busState + bus) ∉ [5, 6] ∨ (bus = 1 ∧ s.mb.redundancy = 0) then .ok s
    else
      let s := ((s.setNat (O.busState + bus) 1).setNat (O.txErrorCounter + bus) 0).setNat (O.rxErrorCounter + bus) 0
      let s := s.modBus bus fun p => { p with listenOnly := false, offTicks := [] }
      .ok (((s.endCondition (336 + bus)).endCondition (338 + bus)).noteErrorRegister))

/-! ### Stored set (R411 to R413) -/

/-- Objects outside the stored set though rw or rwk: selectors, keys, claims, LarderEnable, the identity strings, and those
whose write starts a run or an action (R411). SnapshotListImage and SineTable are stored apart from the values. -/
def storedExcept (k : Nat) : Bool :=
  decide (k ∈ [O.zoneTableSurface, O.spareTableSurface, O.spareTableZone, O.mapNamespace, O.preampAccessPcl, O.preampAccessHead,
    O.preampAccessAddress, O.preampAccessData, O.eqSelectStream, O.eqSelectZone, O.outcomeSelectStream, O.coefIndex,
    O.traceReadChannel, O.marginSelectHead, O.marginSelectZone, O.shelfReadSequence, O.snapshotSelectCode, O.trunkReadSequence,
    O.trunkReadArea, O.bootRecordSelect]) ||
  decide (k ∈ [O.coefLoop, O.coefClaim, O.larderEnable, O.storeParameters, O.restoreDefaults, O.preampAccessStart, O.loopIdRequest,
    O.statsClear, O.coefCopyActive, O.coefValue, O.coefSeal, O.inactiveImage, O.swapRequest, O.groupSwapRequest, O.traceCommand,
    O.sineTable, O.shelfClear, O.snapshotListImage, O.crateBlock, O.stageRequest, O.activateRequest, O.ownerLockToken, O.svnCommit,
    O.injectCommand]) ||
  decide (k / 256 = 0x5002) || decide (k / 256 = 0x6040)

/-- Whether an object belongs to the stored set (R411). -/
def inStoredSet (k : Nat) : Bool :=
  match findRow k with
  | some r => decide (r.access = .rw ∨ r.access = .rwk) && !storedExcept k
  | none => false

/-- The copy in force: the one of the higher sequence (R413). -/
def State.storedCopy (s : State) : Option StoredCopy :=
  match s.mb.storedA, s.mb.storedB with
  | some a, some b => if a.seq < b.seq then some b else some a
  | some a, none => some a
  | none, b => b

/-- STORE_PARAMETERS: "save" written to 1010h.01: the stored set goes to the copy of the lower sequence, with the higher
sequence plus 1 (R412, R413). -/
def execStoreParameters (requester : Requester) (value : Nat) (s : State) : Host.Outcome State Fault Refusal :=
  .next (s.writeVia requester O.storeParameters (.num 4 value) fun s =>
    let a := (s.mb.storedA.map StoredCopy.seq).getD 0
    let b := (s.mb.storedB.map StoredCopy.seq).getD 0
    let c : StoredCopy := { seq := max a b + 1, values := s.objs.filter fun p => inStoredSet p.1, sine := s.spindle.sine,
                            lists := s.shelf.codes }
    .ok (s.modMb fun m => if b < a then { m with storedB := some c } else { m with storedA := some c }))

/-- RESTORE_DEFAULTS: "load" written to 1011h.01: both copies are erased (R412). -/
def execRestoreDefaults (requester : Requester) (value : Nat) (s : State) : Host.Outcome State Fault Refusal :=
  .next (s.writeVia requester O.restoreDefaults (.num 4 value) fun s =>
    .ok (s.modMb fun m => { m with storedA := none, storedB := none }))

/-! ### NMT (R428 to R431) -/

/-- Initialisation left: Pre-operational with the boot-up message once a node-ID is configured, and Operational by itself where
bit 2 of NmtStartup is set (R429, R431). -/
def State.nmtBoot (s : State) : State :=
  let s := s.modMb fun m => { m with
    nmt := 0, usdo := none, emcyQueue := [], tpdoLast := [], tpdoValues := [], tpdoSyncs := [], rpdoHeld := [] }
  if s.mb.nodeId = 255 then s
  else
    let s := s.sendMb (.heartbeat s.activeBus 0)
    s.modMb fun m => { m with
      nmt := if (s.nat O.nmtStartup).testBit 2 then 5 else 127
      heartbeatNext := s.tick + 1000 * s.nat O.producerHeartbeat }

/-- The settings of R437 that a Reset Communication puts in force. -/
def State.takeBusSettings (s : State) : State :=
  let s := s.modMb fun m => { m with
    redundancy := s.nat O.busRedundancy, recoveryDelay := s.nat O.busOffRecoveryDelay, offLimit := s.nat O.busOffLimit }
  if s.mb.redundancy = 0 then (s.setNat O.activeBus 0).setNat (O.busState + 1) 5 else s

/-- A new node-ID in force: a port leaves listen-only where it differs from the former one (R427, R431). -/
def State.takeNode (s : State) (n : Nat) : State :=
  let fresh := decide (n ≠ s.mb.nodeId)
  let s := s.modMb fun m => { m with nodeId := n, pendingNode := none }
  if fresh then
    s.each [0, 1] fun s b =>
      if (s.bus b).listenOnly then
        let s := s.modBus b fun p => { p with listenOnly := false }
        let s := if s.nat (O.busState + b) = 6 then s.setNat (O.busState + b) 1 else s
        s.endCondition (338 + b)
      else s
  else s

/-- Reset Communication (R430): 1000h to 1FFFh reloaded from the stored set, an LSS node-ID applied, and Initialisation. -/
def State.resetCommunication (s : State) : State :=
  let profile (k : Nat) : Bool := decide (0x100000 ≤ k) && decide (k < 0x200000)
  let s := { s with objs := s.objs.filter fun p => !profile p.1 }
  let s : State := match s.storedCopy with
    | some c => (c.values.filter fun (p : Nat × Int) => profile p.1).foldl (fun (s : State) (p : Nat × Int) => s.setObj p.1 p.2) s
    | none => s
  let s : State := match s.mb.pendingNode with
    | some n => s.takeNode n
    | none => s
  ((s.takeBusSettings.nmtBoot).modBus 0 fun p => { p with seen := [], lost := [] }).modBus 1 fun p => { p with seen := [], lost := [] }

/-- An NMT command frame on a port, addressed to a node or, with 0, to all: it is a wake source, and acts once the device has a
node-ID and has left Initialisation (R425, R429, R455, R577). An unconfigured device takes only a reset to all nodes for a node-ID
that LSS has configured. -/
def State.nmtFrame (s : State) (bus node : Nat) (reset : Bool) (act : State → State) : State :=
  let wakes := decide (bus = s.activeBus) && decide (s.nat (O.busState + bus) ∈ [1, 2, 6]) &&
    (decide (node = 0) || (decide (node = s.mb.nodeId) && decide (node ≠ 255)))
  if ¬ wakes then s
  else
    let serves := s.busReceives bus && (decide (s.mb.nmt ≠ 0) || (reset && s.mb.pendingNode.isSome && decide (s.mb.nodeId = 255)))
    let s := s.wake 4
    if serves then act s else s

/-- NMT_START_REMOTE_NODE (R429). -/
def execNmtStartRemoteNode (bus node : Nat) (s : State) : Host.Outcome State Fault Refusal :=
  .next (s.nmtFrame bus node false fun s => s.modMb fun m => { m with nmt := 5 })

/-- NMT_STOP_REMOTE_NODE (R429). -/
def execNmtStopRemoteNode (bus node : Nat) (s : State) : Host.Outcome State Fault Refusal :=
  .next (s.nmtFrame bus node false fun s => s.modMb fun m => { m with nmt := 4, usdo := none })

/-- NMT_ENTER_PRE_OPERATIONAL (R429). -/
def execNmtEnterPreOperational (bus node : Nat) (s : State) : Host.Outcome State Fault Refusal :=
  .next (s.nmtFrame bus node false fun s => s.modMb fun m => { m with nmt := 127 })

/-- NMT_RESET_NODE: as a Reset Communication, and MB's keys are released with their records (R422, R430). -/
def execNmtResetNode (bus node : Nat) (s : State) : Host.Outcome State Fault Refusal :=
  .next (s.nmtFrame bus node true fun s => (s.releaseKeys (fun k => decide (k.holder = 3)) 2).resetCommunication)

/-- NMT_RESET_COMMUNICATION (R430). -/
def execNmtResetCommunication (bus node : Nat) (s : State) : Host.Outcome State Fault Refusal :=
  .next (s.nmtFrame bus node true State.resetCommunication)

/-! ### LSS (R427, R431) -/

/-- Whether an LSS frame of a port is taken: on the active bus, or on a port in listen-only (R425, R427). -/
def State.lssServed (s : State) (bus : Nat) : Bool :=
  s.busReceives bus && (decide (bus = s.activeBus) || (s.bus bus).listenOnly)

/-- LSS_SWITCH_STATE_GLOBAL: mode 1 is configuration, 0 waiting (R431). -/
def execLssSwitchStateGlobal (bus mode : Nat) (s : State) : Host.Outcome State Fault Refusal :=
  .next (if s.lssServed bus then s.modMb fun m => { m with lssConfig := decide (mode = 1) } else s)

/-- LSS_SWITCH_STATE_SELECTIVE: the device whose four entries of 1018h match enters configuration and answers (R431). -/
def execLssSwitchStateSelective (bus vendor product revision serial : Nat) (s : State) : Host.Outcome State Fault Refusal :=
  let own (i : Nat) : Nat := (s.view (O.identity + i)).toNat
  .next (if s.lssServed bus ∧ [vendor, product, revision, serial] = [own 0, own 1, own 2, own 3] then
      (s.modMb fun m => { m with lssConfig := true }).emit (.lss bus 0x44 0)
    else s)

/-- LSS_CONFIGURE_NODE_ID: 1 to 127, or FFh for none, from the next Reset Communication; any other value is answered with error
1 (R431). -/
def execLssConfigureNodeId (bus node : Nat) (s : State) : Host.Outcome State Fault Refusal :=
  .next (if ¬ s.lssServed bus ∨ ¬ s.mb.lssConfig then s
    else if (1 ≤ node ∧ node ≤ 127) ∨ node = 255 then
      (s.modMb fun m => { m with pendingNode := some node }).emit (.lss bus 0x11 0)
    else s.emit (.lss bus 0x11 1))

/-- LSS_STORE_CONFIGURATION: the node-ID configured, or else the one in force, goes to the NOR (R431). -/
def execLssStoreConfiguration (bus : Nat) (s : State) : Host.Outcome State Fault Refusal :=
  let n := s.mb.pendingNode.getD s.mb.nodeId
  .next (if ¬ s.lssServed bus ∨ ¬ s.mb.lssConfig then s
    else (s.modMb fun m => { m with storedNode := if n = 255 then none else some n }).emit (.lss bus 0x17 0))

/-- LSS_INQUIRE_IDENTITY: an entry 0 to 3 of 1018h (R431). -/
def execLssInquireIdentity (bus entry : Nat) (s : State) : Host.Outcome State Fault Refusal :=
  .next (if s.lssServed bus ∧ s.mb.lssConfig then
      s.emit (.lss bus (0x5A + entry) (s.view (O.identity + entry)).toNat)
    else s)

/-- LSS_INQUIRE_NODE_ID (R431). -/
def execLssInquireNodeId (bus : Nat) (s : State) : Host.Outcome State Fault Refusal :=
  .next (if s.lssServed bus ∧ s.mb.lssConfig then s.emit (.lss bus 0x5E s.mb.nodeId) else s)

/-- LSS_FASTSCAN: an unconfigured device in waiting compares the bits of an identity entry from `bit` up; the start of a scan has
bit 128 (R431). After the last bit of the last entry it enters configuration. -/
def execLssFastscan (bus number bit sub following : Nat) (s : State) : Host.Outcome State Fault Refusal :=
  let own := (s.view (O.identity + s.mb.fastscanSub)).toNat
  .next (if ¬ s.lssServed bus ∨ s.mb.lssConfig ∨ s.mb.nodeId ≠ 255 ∨ s.mb.pendingNode.isSome then s
    else if bit = 128 then (s.modMb fun m => { m with fastscanSub := 0 }).emit (.lss bus 0x4F 0)
    else if sub ≠ s.mb.fastscanSub ∨ 31 < bit ∨ own / 2 ^ bit ≠ number / 2 ^ bit then s
    else
      let s := s.emit (.lss bus 0x4F 0)
      if bit ≠ 0 then s
      else s.modMb fun m => { m with fastscanSub := following % 4, lssConfig := decide (following < sub) })

/-- LSS_CONFIGURE_BIT_TIMING: refused, with error 1 (R431). -/
def execLssConfigureBitTiming (bus : Nat) (s : State) : Host.Outcome State Fault Refusal :=
  .next (if s.lssServed bus ∧ s.mb.lssConfig then s.emit (.lss bus 0x13 1) else s)

/-! ### Messages (R424, R428, R434, R436) -/

/-- EMCY_SEND: the oldest queued message, at least EmcyInhibit after the last one (R429, R434). -/
def execEmcySend (s : State) : Host.Outcome State Fault Refusal :=
  .next (match s.mb.emcyQueue with
    | [] => s
    | (code, register, bytes) :: rest =>
      let early : Bool := match s.mb.emcyLast with
        | some t => decide (s.tick < t + 100 * s.nat O.emcyInhibit)
        | none => false
      if early ∨ ¬ s.nmtServes ∨ ¬ s.busSends s.activeBus then s
      else
        let s := s.modMb fun m => { m with emcyQueue := rest }
        if (s.view O.emcyCobId).toNat.testBit 31 then s
        else (s.modMb fun m => { m with emcyLast := some s.tick }).emit (.emcy s.activeBus code register (padTo 8 bytes)))

/-- HEARTBEAT_PRODUCE: every ProducerHeartbeat, in every NMT state but Initialisation (R428, R429). -/
def execHeartbeatProduce (s : State) : Host.Outcome State Fault Refusal :=
  let period := 1000 * s.nat O.producerHeartbeat
  .next (if period = 0 ∨ s.mb.nmt = 0 ∨ s.tick < s.mb.heartbeatNext then s
    else (s.sendMb (.heartbeat s.activeBus s.mb.nmt)).modMb fun m => { m with heartbeatNext := s.tick + period })

/-- CONSUMER_HEARTBEAT_RECEIVED: the heartbeat of a node on either bus restarts the time of its entries there (R425). -/
def execConsumerHeartbeatReceived (bus node : Nat) (s : State) : Host.Outcome State Fault Refusal :=
  let mine := (List.range 4).filter fun i => (s.consumer i).map Prod.fst = some node
  .next (if ¬ s.busReceives bus ∨ mine = [] then s
    else
      let s := s.modBus bus fun p => { p with
        seen := mine.foldl (fun l i => putKey l i s.tick) p.seen, lost := p.lost.filter fun i => !mine.contains i }
      let s := if bus = s.activeBus ∧ (s.bus bus).lost = [] then s.endCondition 340 else s
      s.checkConsumers)

/-- CONSUMER_HEARTBEAT_LOST: an entry's time has passed on a bus since its last heartbeat there: on the active bus its source is
raised and EMCY 8130h is sent (R425, R436). -/
def execConsumerHeartbeatLost (bus entry : Nat) (s : State) : Host.Outcome State Fault Refusal :=
  .next (if (s.consumer entry).isNone ∨ (assoc? (s.bus bus).seen entry).isNone ∨ s.heard bus entry ∨ (s.bus bus).lost.contains entry ∨
      s.nat O.sleepStateCurrent = 4 then s
    else
      let s := s.modBus bus fun p => { p with lost := entry :: p.lost }
      let s := if bus = s.activeBus then (s.raiseFault 340 (entry + 1)).queueEmcy 0x8130 [bus] else s
      s.checkConsumers)

/-- A frame of the active bus that the device does not consume in its NMT state: ignored and counted (R425, R426). -/
def State.foreign (s : State) (bus : Nat) : State := if s.busActs bus then s.bump (O.foreignFrames + bus) else s

/-- TIME_MESSAGE: on the active bus it sets wall time, where 1012h says consume (R426, R436, R500). -/
def execTimeMessage (bus value : Nat) (s : State) : Host.Outcome State Fault Refusal :=
  .next (if s.busActs bus ∧ s.nmtServes ∧ (s.nat O.timeCobId).testBit 31 ∧ s.mb.nodeId ≠ 255 then s.setWall value 3
    else s.foreign bus)

end Sys2Proof.Machine
end

