-- ==== Sys2Proof/Machine/Runs.lean ====
section
/-! DEFINITION. Runs of the mapping object (R83) and of the Larder's switch and invalidate (R400 to R404). -/

namespace Sys2Proof.Machine

/-! ### Mapping an LBA (R83) -/

/-- MAP_LBA_REQUEST: a write to 3050h.01 starts a run for the namespace then in 3050h.02 (R83, R416). -/
def execMapLbaRequest (requester : Requester) (lba : Nat) (s : State) : Host.Outcome State Fault Refusal :=
  .next (s.writeVia requester O.mapLbaRequest (.num 8 lba) fun s =>
    if s.nat O.mapState = 1 then .error .state
    else
      let s := (s.startRun O.mapState).setNat O.mapLba lba
      let s := s.setNat O.mapNsid (s.nat O.mapNamespace)
      .ok { s with layout := { s.layout with mapping := some (lba, s.nat O.mapNamespace) } })

/-- MAP_RUN_END: the mapping in force gives the run's values, or its fail reason: 2 namespace absent, 1 beyond capacity, 3
tables not loaded (R71, R76 to R79, R83). -/
def execMapRunEnd (s : State) : Host.Outcome State Fault Refusal :=
  .next (match s.layout.mapping with
    | none => s
    | some (lba, nsid) =>
      let s := { s with layout := { s.layout with mapping := none } }
      if ¬ s.nsActive nsid then s.endRun O.mapState 2
      else if s.nsCapacity nsid ≤ lba then s.endRun O.mapState 1
      else
        match s.locate nsid lba with
        | none => s.endRun O.mapState 3
        | some p =>
          let s := ((s.setNat O.mapActuator p.act).setNat O.mapSurface p.surface).setNat O.mapZone p.zone
          let s := ((s.setNat O.mapLane p.lane).setNat O.mapTrack p.track).setNat O.mapSector p.sector
          let s := (s.setNat O.mapStartBit p.startBit).setNat O.mapRemapped (if p.remapped then 1 else 0)
          s.endRun O.mapState 0)

/-! ### The Larder (R400 to R404) -/

/-- LARDER_ENABLE: a write of 1 to 5010h.01, accepted once an invalidate has run since the disable (R38, R401). -/
def execLarderEnable (requester : Requester) (s : State) : Host.Outcome State Fault Refusal :=
  .next (s.writeVia requester O.larderEnable (.num 1 1) fun s =>
    if s.nat O.larderEnable = 1 then .ok (s.acceptMode requester O.larderEnable 1)
    else if s.nat O.invalidateSinceDisable = 1 ∧ s.nat O.invalidateRunState ≠ 1 then .ok (s.acceptMode requester O.larderEnable 1)
    else .error .state)

/-- LARDER_DISABLE: a write of 0 to 5010h.01 (R38, R400). -/
def execLarderDisable (requester : Requester) (s : State) : Host.Outcome State Fault Refusal :=
  .next (s.writeVia requester O.larderEnable (.num 1 0) fun s =>
    .ok (s.acceptMode requester O.larderEnable 0))

/-- LARDER_INVALIDATE: a write of 1 to 5010h.02 starts a run, only while the Larder is disabled and none runs (R402). -/
def execLarderInvalidate (requester : Requester) (s : State) : Host.Outcome State Fault Refusal :=
  .next (s.writeVia requester O.larderInvalidate (.num 1 1) fun s =>
    if s.nat O.larderEnable = 1 ∨ s.nat O.invalidateRunState = 1 then .error .state
    else .ok (s.startRun O.invalidateRunState))

/-- LARDER_INVALIDATE_COMPLETE: every tag is Invalid and InvalidateSinceDisable is 1 (R402, R404). -/
def execLarderInvalidateComplete (s : State) : Host.Outcome State Fault Refusal :=
  .next (if s.nat O.invalidateRunState ≠ 1 then s
    else
      let lines := (s.larder.lines.filter fun l => decide (l.state ≠ .invalid)).length
      let s := (s.setNat O.invalidateRunLarderLines lines).setNat O.invalidateRunPantryLines s.larder.pantry.length
      let s := (s.cacheClear.setNat O.invalidateRunTick s.tick).setNat O.invalidateSinceDisable 1
      s.endRun O.invalidateRunState 0)

end Sys2Proof.Machine
end

