-- ==== Sys2Proof/Machine/Firmware.lean ====
section
/-! DEFINITION. Crates, staging, activation, the owner lock, measurements and boot records (chapter "Firmware Update, Boot Record
and Attestation"). -/

namespace Sys2Proof.Machine

/-- State with the firmware state changed. -/
def State.modFw (s : State) (f : Firmware → Firmware) : State := { s with fw := f s.fw }

/-! ### Sets and sequences (R517 to R524) -/

/-- The six components. -/
def components : List Nat := [1, 2, 3, 4, 5, 6]

/-- Length of the signed region of a Crate: the manifest and the matrix (R520). -/
def signedLength (c : List Nat) : Nat := 752 + 12 * field c 21 1

/-- Rows of the compatibility matrix (R522). -/
def matrixRows (c : List Nat) : List (List Nat) :=
  (List.range (field c 21 1)).map fun r => (List.range 6).map fun k => field c (752 + 12 * r + 2 * k) 2

/-- The six interface versions of a set. -/
def FwSlot.tuple (f : FwSlot) : List Nat := components.map f.iface

/-- Components with a non-zero Order, in increasing Order (R524). -/
def FwSlot.sequence (f : FwSlot) : List Nat := components.flatMap fun o => components.filter fun c => decide (f.order c = o)

/-- Whether every tuple of an activation sequence is a row of a matrix: the first, and the one after each step (R524). -/
def tuplesOk (rows : List (List Nat)) (target : FwSlot) : List Nat → List Nat → Bool
  | t, [] => rows.contains t
  | t, c :: rest => rows.contains t && tuplesOk rows target (t.set (c - 1) (target.iface c)) rest

/-- The inactive slot (R518). -/
def State.inactiveSlot (s : State) : Nat := 3 - s.fw.active

/-- The set in the active slot, and the one in the inactive slot. -/
def State.activeSet (s : State) : FwSlot := s.fwSlot s.fw.active

/-- The set an activation targets. -/
def State.targetSet (s : State) : FwSlot := s.fwSlot s.inactiveSlot

/-- Components an activation switches, in its order: those of a staged set, or the last activation's in reverse (R529). -/
def State.activationSteps (s : State) : List Nat :=
  if s.targetSet.kind = 2 then s.activeSet.sequence.reverse else s.targetSet.sequence

/-- Whether the tuples of the activation sequence are rows of the matrix it is checked against (R524, R529). -/
def State.sequenceOk (s : State) : Bool :=
  let rows := matrixRows (if s.targetSet.kind = 2 then s.activeSet.header else s.targetSet.header)
  tuplesOk rows s.targetSet s.activeSet.tuple s.activationSteps

/-! ### Measurements and boot records (R538, R540) -/

/-- Digest of the configuration as it is now: 256 bytes of variant, strap, TrapdoorState, fused version, owner and vendor key
hashes. -/
def State.configDigest (s : State) : Nat :=
  sha384 (fieldBytes ([(1, s.platform.variant), (1, if s.platform.straps.testBit 7 then 0 else 1), (1, s.nat O.trapdoorState), (1, 0),
    (4, s.fw.fusedVersion), (48, if s.fw.ownerKeySet then Config.identity 8 else 0)] ++
    ((List.range 4).map fun i => (48, Config.identity (9 + i))) ++ [(8, 0)]))

/-- The chain value of digests 1 to 9: each step hashes the value before, the index and the digest (R538). -/
def chainValue (digests : List Nat) : Nat :=
  digests.zipIdx.foldl (fun c d => sha384 (leBytes 48 c ++ [d.2 + 1] ++ leBytes 48 d.1)) 0

/-- The chain run over the active set (R538). -/
def State.measure (s : State) : State :=
  let digests := [Config.identity 13, Config.identity 14] ++ (components.map fun c => sha384 (s.activeSet.image c)) ++ [s.configDigest]
  s.modFw fun f => { f with measurements := digests, chain := chainValue digests }

/-- A measurement entry of a boot record: index, value type, security version, digest (R540). -/
def State.bootEntry (s : State) (i : Nat) : List Nat :=
  fieldBytes [(1, i), (1, if i = 1 then 0 else if i = 9 then 2 else 1), (2, 0),
    (4, if 3 ≤ i ∧ i ≤ 8 then s.activeSet.security (i - 2) else 0), (48, s.fw.measurements.getD (i - 1) 0)]

/-- A boot record of a kind, 1 power-up, 2 fault reset, 3 activation: measured and appended; the previous record's digest and the
signatures join it as it is programmed (R540). `flags` holds bits 0 and 1; bit 2 is the owner lock, bit 3 the Trapdoor strap. -/
def State.bootAppend (s : State) (kind flags : Nat) : State :=
  let s := ({ s with trunk := { s.trunk with bootNumber := s.trunk.bootNumber + 1 } }).measure
  let bits := flags + 4 * s.nat O.ownerLockState + (if s.platform.straps.testBit 7 then 0 else 8)
  s.append 0x01 (fieldBytes [(2, 1), (1, kind), (1, s.fw.active), (4, bits), (4, s.fw.fusedVersion), (4, s.activeSet.securityVersion),
    (8, s.activeSet.revision), (48, s.fw.chain), (48, 0)] ++ (List.range 9).flatMap fun i => s.bootEntry (i + 1))

/-! ### Firmware history and refusals (R528, R543) -/

/-- A firmware-history record about a slot (R543): kind, component, slot, reason or cause, holder, revision, version, pulse, and
ManifestDigest. -/
def State.history (s : State) (kind component slot reason holder pulse : Nat) : State :=
  let f := s.fwSlot slot
  s.append 0x20 [kind, component, slot, reason, holder, f.revision, f.securityVersion, pulse,
    sha384 (f.header.take (signedLength f.header))]

/-- The component that a refusal names: its own, or the first of an order; with neither, one that the spec leaves open. -/
def State.namedComponent (s : State) (component : Nat) (order : List Nat) : Nat × State :=
  if component ≠ 0 then (component, s)
  else
    match order with
    | c :: _ => (c, s)
    | [] =>
      let (v, s) := s.takeFree
      (v % 6 + 1, s)

/-- A refusal in log page C0h and in the firmware history (R338, R528). -/
def State.logRefusal (s : State) (holder reason component : Nat) (order : List Nat) : State :=
  let (c, s) := s.namedComponent component order
  let s := { s with sub := { s.sub with refusals := ((s.tick, reason, c, holder) :: s.sub.refusals).take 16 } }
  s.history 6 c s.inactiveSlot reason holder 0

/-- A Firmware Commit completed: its hold of the Firmware key ends, and with it the hold of its port's download (R327). -/
def State.endCommit (s : State) (commit : Option (Nat × Nat)) (sct sc : Nat) : State :=
  match commit with
  | none => s
  | some (p, i) =>
    match s.ctx? p 0 i with
    | none => s
    | some c =>
      let s := if c.holdsKey then s.dropHold 1 else s
      let s := if s.fw.downloadHolder = p + 1 then (s.dropHold 1).modFw fun f => { f with downloadHolder := 0 } else s
      s.finish p 0 i sct sc 0

/-- UpdateState where no activation is armed or under way: 1 while the inactive slot holds a staged set. -/
def State.restState (s : State) : Nat := if s.targetSet.valid ∧ s.targetSet.kind = 1 then 1 else 0

/-! ### Receiving a Crate (R525) -/

/-- A piece of a Crate stored, where its offset and length keep the rules of R525; one at offset 0 starts a new Crate. -/
def State.storePiece (s : State) (offset : Nat) (data : List Nat) : Option State :=
  if offset % 4096 ≠ 0 ∨ (offset ≠ 0 ∧ offset ≠ s.fw.crate.length) ∨ data = [] ∨ 7864320 < offset + data.length then none
  else some (s.modFw fun f => { f with crate := (if offset = 0 then [] else f.crate) ++ data, started := true })

/-- FIRMWARE_IMAGE_DOWNLOAD: a piece at offset 0 takes the Firmware key implicitly for the port (R327, R525). -/
def execFirmwareImageDownload (port cid offset : Nat) (data : List Nat) (s : State) : Host.Outcome State Fault Refusal :=
  .next (s.admin port cid fun s =>
    let h := (s.key 1).holder
    if h ≠ 0 ∧ h ≠ port + 1 then ((7, 0xC1, 0), s)
    else
      match s.storePiece offset data with
      | none => (invalidField, s)
      | some t =>
        let t := if offset = 0 ∧ t.fw.downloadHolder ≠ port + 1 then
            match t.takeKey 1 port with
            | some (true, u) => u.modFw fun f => { f with downloadHolder := port + 1 }
            | some (false, u) => u
            | none => t
          else t
        let t := if t.fw.downloadHolder = port + 1 then t.modKey 1 fun k => { k with leaseEnd := t.leaseFromNow } else t
        (done, t))

/-- CRATE_BLOCK_WRITE: a block written to 6000h.02 at CrateOffset (R525). -/
def execCrateBlockWrite (requester : Requester) (data : List Nat) (s : State) : Host.Outcome State Fault Refusal :=
  .next (s.writeVia requester O.crateBlock (.bytes data) fun s =>
    match s.storePiece (s.nat O.crateOffset) data with
    | none => .error .range
    | some t => .ok t)

/-! ### Staging (R526, R549) -/

/-- Slot that a staging writes: the inactive one, or, in the recovery state, the one that stage 1 would take (R549). -/
def State.stagingSlot (s : State) : Nat := if s.fw.recovery then s.fw.active else s.inactiveSlot

/-- Staging started: the target slot's header is invalidated (R526). -/
def State.startStaging (s : State) (holder : Nat) (commit : Option (Nat × Nat)) : State :=
  let s := s.modFwSlot s.stagingSlot fun f => { f with valid := false, kind := 0 }
  let s := s.setNat O.updateState 0
  s.modFw fun f => { f with staging := some (holder, f.crate, commit), started := false }

/-- Whether staging is refused: UpdateState is 2 or 3, or a staging is under way (R526). -/
def State.stagingRefused (s : State) : Bool := decide (2 ≤ s.nat O.updateState) || s.fw.staging.isSome

/-- A Firmware Commit fetched: its context holds the Firmware key, or Key Held Elsewhere (R327). -/
def State.takeCommit (s : State) (port cid : Nat) (body : State → State) : State :=
  let (ok, s) := s.fetch port 0
  if ¬ ok then s
  else
    match s.takeKey 1 port with
    | none => s.answer port 0 cid 7 0xC1 0
    | some (holds, s) => body (s.addAdmin port cid holds)

/-- FIRMWARE_COMMIT_STAGE: commit action 000b starts staging; 001b, 010b and 100b to 111b are Invalid Field (R526, R529). -/
def execFirmwareCommitStage (port cid action fwSlot : Nat) (s : State) : Host.Outcome State Fault Refusal :=
  .next (s.takeCommit port cid fun s =>
    let me := some (port, cid)
    if action ≠ 0 then s.endCommit me 0 2
    else if 2 < fwSlot ∨ fwSlot = s.fw.active then s.endCommit me 1 6
    else if s.stagingRefused then (s.logRefusal (port + 1) 0x09 0 s.activationSteps).endCommit me 1 0x13
    else s.startStaging (port + 1) me)

/-- STAGE_REQUEST: a write of 1 to 6000h.04 starts a run of 6001h (R526). -/
def execStageRequest (requester : Requester) (s : State) : Host.Outcome State Fault Refusal :=
  .next (s.writeVia requester O.stageRequest (.num 1 1) fun s =>
    if s.nat O.stagingRunState = 1 then .error .state
    else
      let s := s.startRun O.stagingRunState
      let s := s.setNat O.stagingRunSlot s.stagingSlot
      .ok (if s.stagingRefused then (s.logRefusal requester.code 0x09 0 s.activationSteps).endRun O.stagingRunState 0x09
        else s.startStaging requester.code none))

/-- Field of a component's entry in a Crate (R521). -/
def crateField (c : List Nat) (k at_ n : Nat) : Nat := field c (32 + 120 * (k - 1) + at_) n

/-- Place of a component in a Crate's activation order. -/
def crateOrder (c : List Nat) (k : Nat) : Nat := crateField c k 1 1

/-- Section of a component. -/
def crateSection (c : List Nat) (k : Nat) : List Nat := cut c (crateField c k 16 4) (crateField c k 20 4)

/-- Whether a component's section holds the image itself. -/
def crateFull (c : List Nat) (k : Nat) : Bool := (crateField c k 2 1).testBit 0

/-- What a slot keeps of a Crate: its manifest, matrix and signature block (R517, R520). -/
def crateHeader (c : List Nat) : List Nat := c.take (signedLength c + 5454)

/-- Whether the two public keys of a header hash to the fused vendor key hash and both its signatures verify (R522). -/
def headerSigned (c : List Nat) : Bool :=
  let n := signedLength c
  let m := c.take n
  decide (sha384 (cut c n 2049) = Config.identity (9 + field c 7 1)) && Config.verifies 1 (cut c n 97) m (cut c (n + 2049) 96) &&
    Config.verifies 2 (cut c (n + 97) 1952) m (cut c (n + 2145) 3309)

/-- Whether a component's entry is well formed; in the recovery state the rules of R549 take the place of those on its order, its base
and its section (R521, R549). -/
def entryFormed (c : List Nat) (recovery : Bool) (k : Nat) : Bool :=
  let offset := crateField c k 16 4
  let length := crateField c k 20 4
  decide (crateField c k 0 1 = k) && decide (crateField c k 2 2 < 2) && decide (crateField c k 6 2 = 0) &&
    (recovery || (decide (crateOrder c k ≤ 6) &&
      if crateOrder c k = 0 then decide (offset = 0) && decide (length = 0) && decide (crateField c k 24 48 = 0)
      else decide (signedLength c + 5454 ≤ offset) && decide (offset + length ≤ c.length) &&
        (!crateFull c k || decide (crateField c k 24 48 = 0))))

/-- Whether a Crate's length, manifest, entries and reserved fields are well formed (R520, R521, R526). -/
def crateFormed (c : List Nat) (recovery : Bool) : Bool :=
  let orders := (components.map (crateOrder c)).filter (· ≠ 0)
  decide (cut c 0 4 = [0x43, 0x52, 0x41, 0x54]) && decide (field c 4 2 = 1) && decide (field c 7 1 ≤ 3) &&
    (cut c 8 8).all (fun b => decide (0x20 ≤ b) && decide (b < 0x7F)) && decide (field c 20 1 < 8) &&
    decide (1 ≤ field c 21 1) && decide (field c 21 1 ≤ 64) && decide (field c 22 2 = 0) && decide (field c 24 4 = c.length) &&
    decide (field c 28 4 = 0) && decide (signedLength c + 5454 ≤ c.length) && components.all (entryFormed c recovery) &&
    (recovery || (decide (orders.length = field c 6 1) && decide (orders.eraseDups = orders) && decide (orders ≠ [])))

/-- A delta expanded over a base image: copies, adds with their padding, and the end, after which nothing follows; none where an
operation is none of R523 or reaches past the base or the section. -/
def expandDelta (base : List Nat) : Nat → List Nat → List Nat → Option (List Nat)
  | 0, _, _ => none
  | fuel + 1, d, out =>
    let w := field d 0 8
    let n := w / 2 ^ 32 % 2 ^ 30
    let from_ := w % 2 ^ 32
    let rest := d.drop 8
    let padded := (n + 7) / 8 * 8
    if d.length < 8 then none
    else
      match w / 2 ^ 62 with
      | 0 => if n = 0 ∧ from_ = 0 ∧ rest = [] then some out else none
      | 1 => if n = 0 ∨ base.length < from_ + n then none else expandDelta base fuel rest (out ++ cut base from_ n)
      | 2 =>
        if n = 0 ∨ from_ ≠ 0 ∨ rest.length < padded ∨ (cut rest n (padded - n)).any (· ≠ 0) then none
        else expandDelta base fuel (rest.drop padded) (out ++ rest.take n)
      | _ => none

/-- The image that a Crate builds for a component: of the active slot where it is unchanged, its section, or its delta over the active
image; none where its length is not ImageLength or the delta is malformed (R523, R526, R549). -/
def State.builtImage (s : State) (c : List Nat) (k : Nat) : Option (List Nat) :=
  let part := crateSection c k
  let base := s.activeSet.image k
  if ¬ s.fw.recovery ∧ crateOrder c k = 0 then some base
  else
    let b := if s.fw.recovery ∨ crateFull c k then some part else expandDelta base (part.length / 8 + 1) part []
    b.filter fun (i : List Nat) => decide (i.length = crateField c k 12 4)

/-- Whether a component's entry passes check 5 of R526: the base of a delta, or an unchanged image, is the active image; in the recovery
state the entry holds a full image (R549). -/
def State.baseOk (s : State) (c : List Nat) (k : Nat) : Bool :=
  let active := sha384 (s.activeSet.image k)
  if s.fw.recovery then
    crateFull c k && decide (crateField c k 24 48 = 0) && decide (crateField c k 16 4 ≠ 0) &&
      decide (crateField c k 20 4 = crateField c k 12 4) && decide (crateField c k 20 4 ≠ 0) &&
      decide (crateField c k 16 4 + crateField c k 20 4 ≤ c.length)
  else if crateOrder c k = 0 then decide (crateField c k 72 48 = active)
  else crateFull c k || decide (crateField c k 24 48 = active)

/-- The slot that a Crate builds. -/
def State.crateSlot (s : State) (c : List Nat) : FwSlot :=
  { valid := true, kind := 1, header := crateHeader c, images := components.map fun k => (s.builtImage c k).getD [] }

/-- Bytes of LdpcBaseMatrix. -/
def baseMatrixBytes : List Nat := padTo 20440 (Config.provisioned 3)

/-- First check of R526 that fails, with its reason and the component it names, 0 for none. -/
def State.stagingRefusal (s : State) (c : List Nat) : Option (Nat × Nat) :=
  let set : FwSlot := s.crateSlot c
  let rows := matrixRows c
  let fits := if s.fw.recovery then rows.contains set.tuple else tuplesOk rows set s.activeSet.tuple set.sequence
  let built (k : Nat) : Bool := ((s.builtImage c k).map fun i => decide (sha384 i = crateField c k 72 48)).getD false
  if ¬ crateFormed c s.fw.recovery then some (0x20, 0)
  else if ¬ (field c 20 1).testBit s.platform.variant then some (0x21, 0)
  else if ¬ headerSigned c then some (0x22, 0)
  else if 64 < set.securityVersion ∨ set.securityVersion < s.fw.fusedVersion then some (0x25, 0)
  else
    match components.find? fun k => !s.baseOk c k with
    | some k => some (0x23, k)
    | none =>
      if ¬ fits then some (0x07, 0)
      else
        match components.find? fun k => !built k with
        | some k => some (0x24, k)
        | none =>
          if Config.tablesHash (set.image 6) ≠ sha384 baseMatrixBytes then some (0x27, 6)
          else if ¬ setAdmitted ((List.range 37).filter s.hasSlot) (set.image 4) then some (0x28, 4)
          else none

/-- Whether stage 1 may run a slot's set: its vendor key hash and signatures, every image's ResultHash, and the fused counter (R519,
R541). -/
def State.slotVerified (s : State) (f : FwSlot) : Bool :=
  f.valid && headerSigned f.header && (components.all fun k => decide (sha384 (f.image k) = crateField f.header k 72 48)) &&
    decide (s.fw.fusedVersion ≤ f.securityVersion)

/-! ### Component 6 (R531) -/

/-- Adaptation that waits is discarded: its swap and the block under way (R39). -/
def State.dropAdaptation (s : State) : State :=
  { s with detect := { s.detect with streams := s.detect.streams.map fun st =>
      if st.swap = 1 then { st.newBlock with swap := 0 } else st.newBlock } }

/-- The detector tables of a slot loaded: every set takes their values; a head that reads swaps at its next sector boundary, the others
at once (R137, R139, R531). -/
def State.loadTables (s : State) (slot : Nat) : State :=
  let reads (n : Nat) : Bool := (s.head (n / 2)).onRow && (s.head (n / 2)).admitted
  let now := (List.range 48).map s.setNow
  let take (p : Stream × Nat) : Stream :=
    if reads p.2 then
      { tableSets p.1 with
        taps := if p.1.bank = 0 then [now.getD p.2 [], []] else [[], now.getD p.2 []], swap := 4 }
    else tableSets p.1
  { s with detect := { s.detect with tables := slot, streams := s.detect.streams.zipIdx.map take, saved := [] } }

/-- Staging ended for its Commit or its run. -/
def State.closeStaging (s : State) (commit : Option (Nat × Nat)) (reason : Nat) : State :=
  let s := s.modFw fun f => { f with staging := none }
  if commit.isSome then s.endCommit commit (if reason = 0 then 0 else 1) (if reason = 0 then 0 else 7)
  else
    let s := if reason = 0 then s.setBlob O.stagingRunRevision (leBytes 8 (s.fwSlot (s.nat O.stagingRunSlot)).revision) else s
    s.endRun O.stagingRunState reason

/-! ### Guards (R530) -/

/-- Whether the motion guard refuses (R252, R291, R530). -/
def State.moving (s : State) : Bool :=
  ((List.range s.actCount).any fun a => decide ((s.act a).load = 1) || decide ((s.act a).load = 3) || (s.act a).seeking) ||
    decide (s.nat O.spindleState ∉ [0, 5, 13])

/-- First check of R530 that refuses an activation: its reason, and the component it concerns, 0 for none. -/
def State.guardRefusal (s : State) : Option (Nat × Nat) :=
  let guards := s.nat O.updateGuards
  let older := s.activationSteps.find? fun c => decide (s.targetSet.security c < s.activeSet.security c)
  if ¬ s.targetSet.valid ∨ s.targetSet.kind = 0 then some (0x08, 0)
  else if s.targetSet.securityVersion < s.fw.fusedVersion ∨ 64 < s.targetSet.securityVersion then some (0x25, 0)
  else if s.sub.format.isSome ∨ s.sub.sanitize.isSome then some (0x05, 0)
  else if ¬ s.sequenceOk then some (0x07, 0)
  else if guards.testBit 0 ∧ older.isSome then some (0x01, older.getD 0)
  else if guards.testBit 2 ∧ (s.nat O.holdUpCapacitance = 0 ∨ s.obj O.holdUpMargin < s.obj O.holdUpGuardMargin) then some (0x03, 0)
  else if guards.testBit 3 ∧ s.nat O.ownerLockState = 1 then some (0x04, 0)
  else if guards.testBit 1 ∧ s.moving then some (0x02, 0)
  else none

/-! ### Activation (R529 to R533) -/

/-- An activation ended: nothing is armed, fetching resumes, calibration and restocking go on (R373, R531). -/
def State.closeActivation (s : State) : State :=
  let s := { s with cmds := { s.cmds with fetchStopped := none } }
  (s.modFw fun f => { f with phase := 0, motionWait := none, pulseSeen := false, steps := [], doneSteps := [] }).startLevelStep

/-- The run of 6012h, or the Commit, of the activation ended with a reason (R528, R545). -/
def State.answerActivation (s : State) (reason : Nat) : State :=
  let s := if s.fw.run then (s.setNat O.activationRunEndTick s.tick).endRun O.activationRunState reason else s
  let s := s.endCommit s.fw.commit (if reason = 0 then 0 else 1) (if reason = 0 then 0 else 0x13)
  s.modFw fun f => { f with run := false, commit := none }

/-- The activation armed or under way refused (R528). -/
def State.refuseActivation (s : State) (reason component : Nat) : State :=
  let s := s.logRefusal s.fw.holder reason component s.fw.steps
  ((s.setNat O.updateState s.restState).closeActivation).answerActivation reason

/-- Limit of a component's step in microseconds (R531). -/
def State.stepLimit (s : State) (c : Nat) : Nat :=
  if c = 1 then 400000
  else if c = 2 then 300000
  else if c = 3 then 500000
  else if c = 4 then (s.nat O.microcodeHealthFrames + 2) * 16000 / 120
  else if c = 5 then 50000
  else 200000

/-- The next step begun (R531); none from the detection of power loss (R533). -/
def State.startStep (s : State) : State :=
  match s.fw.steps with
  | [] => s
  | c :: _ =>
    if s.spindle.powerLost then s
    else
      let s := if s.fw.doneSteps = [] ∧ s.fw.run then s.setNat O.activationRunFirstTick s.tick else s
      let s := s.modFw fun f => { f with phase := 4, stepStart := s.tick }
      if c = 1 then s.modMb fun m => { m with usdo := none }
      else if c = 3 then s.restartPace
      else if c = 4 then s.requestMicrocode ((s.fwSlot s.inactiveSlot).image 4)
      else if c = 6 then s.loadTables s.inactiveSlot
      else s

/-- The activation fires (R348, R373, R531). -/
def State.fire (s : State) : State :=
  let s := (s.setNat O.updateState 3).history 2 0 s.inactiveSlot 0 s.fw.holder s.fw.pulse
  let s := s.postAll 2 1 3 (some 9)
  let s := { s with sec := { s.sec with
    negotiated := [0, 0, 0, 0], waiting := [none, none, none, none], resync := [true, true, true, true] } }
  let s := ((s.cancelSwaps (List.range 37) 2).dropCalibration).dropAdaptation
  let s := s.abortEntry 2 2
  let s := { s with cmds := { s.cmds with fetchStopped := some s.tick } }
  s.modFw fun f => { f with
    phase := 2, firedAt := s.tick, steps := s.activationSteps, doneSteps := [], motionWait := none, pulseSeen := false }

/-- An activation requested by a holder: it fires, or, scheduled, is armed, where the guards pass (R529, R530, R535). -/
def State.requestActivation (s : State) (kind holder : Nat) (commit : Option (Nat × Nat)) (run : Bool) : State :=
  let order := s.activationSteps
  let s := s.modFw fun f => { f with
    kind := kind, holder := holder, commit := commit, run := run, pulse := if kind = 2 then s.nat O.scheduledPulse else 0
    steps := order }
  match s.guardRefusal with
  | some (reason, c) => s.refuseActivation reason c
  | none =>
    if kind = 1 then s.fire
    else
      let s := (s.setNat O.updateState 2).modFw fun f => { f with phase := 1 }
      s.history 7 0 s.inactiveSlot 0 holder s.fw.pulse

/-- Whether an activation is already scheduled or under way, or a staging runs (R528, R530). -/
def State.activationBusy (s : State) : Bool := decide (s.fw.phase ≠ 0) || s.fw.staging.isSome

/-- FIRMWARE_COMMIT_ACTIVATE: commit action 011b (R529, R530). -/
def execFirmwareCommitActivate (port cid fwSlot : Nat) (s : State) : Host.Outcome State Fault Refusal :=
  .next (s.takeCommit port cid fun s =>
    let me := some (port, cid)
    if 2 < fwSlot ∨ fwSlot = s.fw.active then s.endCommit me 1 6
    else if s.activationBusy then
      (s.logRefusal (port + 1) 0x09 0 (if s.fw.phase = 0 then s.activationSteps else s.fw.steps)).endCommit me 1 0x13
    else s.requestActivation 1 (port + 1) me false)

/-- A run of 6012h started by a write to ActivateRequest (R529, R545). -/
def State.activateVia (s : State) (requester : Requester) (kind : Nat) : State :=
  let s := ((s.startRun O.activationRunState).setNat O.activationRunKind kind).setNat O.activationRunSteps 0
  if s.activationBusy then
    (s.logRefusal requester.code 0x09 0 (if s.fw.phase = 0 then s.activationSteps else s.fw.steps)).endRun O.activationRunState 0x09
  else s.requestActivation kind requester.code none true

/-- ACTIVATE_IMMEDIATE: a write of 1 to 6010h.02 (R529). -/
def execActivateImmediate (requester : Requester) (s : State) : Host.Outcome State Fault Refusal :=
  .next (s.writeVia requester O.activateRequest (.num 1 1) fun s =>
    if s.nat O.activationRunState = 1 then .error .state else .ok (s.activateVia requester 1))

/-- ACTIVATE_ARM: a write of 2 to 6010h.02, with wall time set and the pulse far enough ahead (R529, R535). -/
def execActivateArm (requester : Requester) (s : State) : Host.Outcome State Fault Refusal :=
  .next (s.writeVia requester O.activateRequest (.num 1 2) fun s =>
    if s.nat O.activationRunState = 1 ∨ ¬ s.wall.set ∨
        s.nat O.scheduledPulse < s.nat O.tbiPulseLabel + s.nat O.scheduleLead + 1 then .error .state
    else .ok (s.activateVia requester 2))

/-- An arming cancelled: cause 1 command, 2 S5 (R535, R543). The reason that its run then reads the spec leaves open. -/
def State.cancelArming (s : State) (cause : Nat) : State :=
  let s := s.history 8 0 s.inactiveSlot cause s.fw.holder s.fw.pulse
  let (v, s) := s.takeFree
  ((s.setNat O.updateState s.restState).closeActivation).answerActivation (v % 255 + 1)

/-- ACTIVATE_CANCEL: a write of 3 to 6010h.02 (R535). -/
def execActivateCancel (requester : Requester) (s : State) : Host.Outcome State Fault Refusal :=
  .next (s.writeVia requester O.activateRequest (.num 1 3) fun s =>
    if s.fw.phase ≠ 1 then .error .state else .ok (s.cancelArming 1))

/-- Fetched I/O commands that remain (R373). -/
def State.ioRemains (s : State) : Bool := s.cmds.ctxs.any fun c => decide (c.sqid ≠ 0)

/-- The end of the drain: the guards are checked again, a failing motion guard waited on for up to 200 ms; a scheduled activation
waits for its pulse (R530, R531, R535). -/
def State.drained (s : State) : State :=
  match s.guardRefusal with
  | some (reason, c) =>
    if reason ≠ 0x02 then s.refuseActivation reason c
    else
      match s.fw.motionWait with
      | none => s.modFw fun f => { f with motionWait := some s.tick }
      | some t => if s.tick < t + 200000 then s else s.refuseActivation reason c
  | none => if s.fw.kind = 2 ∧ ¬ s.fw.pulseSeen then s.modFw fun f => { f with phase := 3 } else s.startStep

/-- ACTIVATION_DRAIN_END: no fetched I/O command remains (R373, R531). -/
def execActivationDrainEnd (s : State) : Host.Outcome State Fault Refusal :=
  .next (if s.fw.phase ≠ 2 ∨ s.ioRemains then s else s.drained)

/-- ACTIVATION_DRAIN_TIMEOUT: fetched I/O commands remain after ActivationDrainLimit (R373). -/
def execActivationDrainTimeout (s : State) : Host.Outcome State Fault Refusal :=
  .next (if s.fw.phase ≠ 2 ∨ ¬ s.ioRemains ∨ s.tick < s.fw.firedAt + 1000 * s.nat O.activationDrainLimit then s
    else s.refuseActivation 0x06 0)

/-- The new set made active: a record of kind 4, a boot record, and the end of the activation (R531). -/
def State.setActive (s : State) : State :=
  let old := s.fw.active
  let target := s.inactiveSlot
  let s := s.history 4 0 target 0 s.fw.holder s.fw.pulse
  let s := ((s.modFwSlot target fun f => { f with kind := 0 }).modFwSlot old fun f => { f with kind := 2 }).modFw fun f => { f with
    active := target }
  let s := ({ s with detect := { s.detect with tables := target } } : State)
  let s := (s.bootAppend 3 0).bump O.activations
  ((s.setNat O.updateState 0).closeActivation).answerActivation 0

/-- ACTIVATION_STEP_END: the step's component is switched and serves; for the Rafter microcode the health window has ended
(R531). -/
def execActivationStepEnd (s : State) : Host.Outcome State Fault Refusal :=
  .next (match s.fw.steps with
    | [] => s
    | c :: rest =>
      if s.fw.phase ≠ 4 ∨ s.spindle.powerLost ∨
          (c = 4 ∧ (s.rafter.swapAt.isSome ∨ s.rafter.health ≠ 0 ∨ s.rafter.microSwap)) ∨
          (c = 6 ∧ s.detect.streams.any fun st => decide (st.swap = 4)) then s
      else
        let s := s.history 3 c s.inactiveSlot 0 s.fw.holder s.fw.pulse
        let s := s.modFw fun f => { f with steps := rest, doneSteps := c :: f.doneSteps }
        let s := if s.fw.run then s.setNat O.activationRunSteps s.fw.doneSteps.length else s
        if rest = [] then s.setActive else s.startStep)

/-- A component returned to its former image (R532): the former microcode set, or the former tables. -/
def State.returnComponent (s : State) (c : Nat) (switched : Bool) : State :=
  if c = 4 then
    if switched ∨ s.rafter.health ≠ 0 then s.swapBack
    else if s.rafter.swapAt.isSome then s.withdrawMicrocode
    else s
  else if c = 6 then s.loadTables s.fw.active
  else if c = 3 then s.restartPace
  else s

/-- A step failed: every switched component goes back, and the activation is refused with reason 0Bh; a return that itself fails
ends in a fault reset (R532). -/
def State.failStep (s : State) (returnFailed : Bool) : State :=
  match s.fw.steps with
  | [] => s
  | c :: _ =>
    let s := s.fw.doneSteps.foldl (fun s k => s.returnComponent k true) (s.returnComponent c false)
    let s := (s.raiseFault 369 c).history 5 c s.inactiveSlot 0x0B s.fw.holder s.fw.pulse
    let s := (s.refuseActivation 0x0B c).setNat O.updateState 1
    if returnFailed ∧ s.faults.resetDue.isNone then { s with faults := { s.faults with resetDue := some s.tick } } else s

/-- ACTIVATION_STEP_TIMEOUT: a step has passed its limit (R531, R532). -/
def execActivationStepTimeout (returnFailed : Bool) (s : State) : Host.Outcome State Fault Refusal :=
  .next (match s.fw.steps with
    | [] => s
    | c :: _ => if s.fw.phase ≠ 4 ∨ s.tick ≤ s.fw.stepStart + s.stepLimit c then s else s.failStep returnFailed)

/-- MICROCODE_HEALTH_WINDOW_END: at a sub-tick of this tick the window ends, or, at a major frame, the reversion asked for within it
takes effect and fails the activation's step (R231, R532). -/
def execMicrocodeHealthWindowEnd (sub : Nat) (s : State) : Host.Outcome State Fault Refusal :=
  let now := s.subTime sub
  .next (if s.rafter.health = 0 then s
    else if s.rafter.microSwap then
      if now % 16000 ≠ 0 then s
      else
        let s := s.revertMicrocode
        if s.fw.phase = 4 ∧ s.fw.steps.head? = some 4 then s.failStep false else s
    else if s.rafter.health ≤ now then s.endHealth
    else s)

/-! ### Scheduled activation (R534, R535) -/

/-- Label of an edge at a wall time in milliseconds: the second it starts, within 400 ms (R534). -/
def pulseLabel (wall : Nat) : Option Nat :=
  let p := (wall + 500) / 1000
  if ((wall : Int) - 1000 * p).natAbs ≤ 400 then some p else none

/-- TBI_EDGE: an edge of a width in nanoseconds. Labelled, it may fire an armed activation or start the steps of one that has
drained (R534, R535, R578). -/
def execTbiEdge (width : Nat) (s : State) : Host.Outcome State Fault Refusal :=
  .next (if width < 1000 ∨ ¬ s.wall.set then s
    else
      match pulseLabel s.wallTime with
      | none => s
      | some p =>
        let s := s.setNat O.tbiPulseLabel p
        if s.fw.phase = 1 ∧ p + 2 = s.fw.pulse then
          match s.guardRefusal with
          | some (reason, c) => s.refuseActivation reason c
          | none => s.fire
        else if s.fw.kind = 2 ∧ p = s.fw.pulse then
          if s.fw.phase = 3 then s.startStep
          else if s.fw.phase = 2 then s.modFw fun f => { f with pulseSeen := true }
          else s
        else s)

/-- SCHEDULED_PULSE_MISSED: wall time has passed the expected pulse by 1.5 s (R535). -/
def execScheduledPulseMissed (s : State) : Host.Outcome State Fault Refusal :=
  let due := if s.fw.phase = 1 then s.fw.pulse - 2 else s.fw.pulse
  .next (if ¬ s.wall.set ∨ s.fw.kind ≠ 2 ∨ s.fw.pulseSeen ∨ s.fw.phase = 0 ∨ s.fw.phase = 4 ∨ s.wallTime ≤ 1000 * due + 1500 then s
    else s.refuseActivation 0x0A 0)

/-! ### The fused version and the owner lock (R519, R536, R537) -/

/-- SVN_COMMIT: a write of 1 to 6070h.02 advances the counter to the active set's version; `appended` tells whether its record of
kind 11 could be appended first (R519). -/
def execSvnCommit (requester : Requester) (appended : Bool) (s : State) : Host.Outcome State Fault Refusal :=
  .next (s.writeVia requester O.svnCommit (.num 1 1) fun s =>
    let v := s.activeSet.securityVersion
    if s.fw.fusedVersion = v ∨ 2 ≤ s.nat O.updateState ∨ ¬ appended then .error .state
    else .ok ((s.history 11 0 s.fw.active 0 requester.code 0).modFw fun f => { f with fusedVersion := v }))

/-- An owner token written to 6020h.03, whose Operation, 1 set or 2 clear, is byte 88: refused as in R502, or its record is appended and
the lock changes; a new challenge is drawn (R536, R537). -/
def State.ownerToken (s : State) (requester : Requester) (t : List Nat) (appended : Bool) : State :=
  match s.checkPut requester O.ownerLockToken (.bytes t) with
  | some x => s.emit (.dict requester.code (x.code requester))
  | none =>
    let operation := field t 88 1
    let formed := tokenHead t [0x4F, 0x4C, 0x4B, 0x31] && decide (1 ≤ operation) && decide (operation ≤ 2) && decide (field t 89 7 = 0)
    let why := s.ownerTokenRefusal t formed s.fw.ownerChallenge
    let (v, s) := s.takeFree
    let s := s.modFw fun f => { f with ownerChallenge := v }
    let refuse (s : State) (x : DictRefusal) : State := (s.bump O.ownerLockRefusals).emit (.dict requester.code (x.code requester))
    match why with
    | some r => refuse s (if r = 1 then .state else .range)
    | none =>
      if ¬ appended then refuse (s.raiseFault 371 0) .state
      else
        let s := s.history (8 + operation) 0 s.fw.active 0 requester.code 0
        (s.setNat O.ownerLockState (2 - operation)).emit (.dict requester.code 0)

/-- OWNER_LOCK_SET: an owner token of Operation 1 is written (R536, R537). -/
def execOwnerLockSet (requester : Requester) (token : List Nat) (appended : Bool) (s : State) : Host.Outcome State Fault Refusal :=
  .next (s.ownerToken requester token appended)

/-- OWNER_LOCK_CLEAR: an owner token of Operation 2 is written (R536, R537). -/
def execOwnerLockClear (requester : Requester) (token : List Nat) (appended : Bool) (s : State) : Host.Outcome State Fault Refusal :=
  .next (s.ownerToken requester token appended)

end Sys2Proof.Machine
end

