-- ==== Sys2Proof/Machine/Sleep.lean ====
section
/-! DEFINITION. Sleep: the target, the two-phase entry, the commit point, wakes (R450 to R457). -/

namespace Sys2Proof.Machine

/-- SLEEP_STATE_REQUEST_WRITE: a write to 5810h.02 (R38, R450, R455). -/
def execSleepStateRequestWrite (requester : Requester) (value : Nat) (s : State) : Host.Outcome State Fault Refusal :=
  .next (s.writeVia requester O.sleepStateRequest (.num 1 value) fun s =>
    .ok (if s.superseded requester O.sleepStateRequest then s
      else ((s.noteMode requester O.sleepStateRequest).setNat O.sleepStateRequest value).requestChanged 2))

/-- What a block does when its turn to quiesce comes (R39, R113, R262, R309, R452). -/
def State.quiesce (s : State) (block : Nat) : State :=
  let target := s.nat O.sleepEntryTarget
  let s := s.modPower fun x => { x with block := block }
  if block = 4 then (s.dropCalibration.cancelFirmwareSwaps).endRun O.returnRunState 6
  else if block = 5 then
    s.each (List.range s.actCount) fun s a => if (s.act a).load = 1 ∨ (s.act a).load = 2 then s.startUnload a false else s
  else if block = 6 then
    s.each (List.range s.pclCount) fun s k =>
      let s := (s.pclAsk k 3 0 0x04 0 false).linksDown k
      s.modPcl k fun c => { c with phase := 0, broughtUp := false }
  else if block = 7 ∧ target = 4 then
    let s := s.modPower fun x => { x with spindleStart := s.tick }
    if s.nat O.spindleState = 12 ∨ s.nat O.spindleState = 9 then s else s.stopSpindle 3 true
  else s

/-- Refusal of a block now: its code, or none (R325, R452). -/
def State.blockRefusal (s : State) (block : Nat) : Option Nat :=
  let deep := decide (s.nat O.sleepEntryTarget = 4)
  if block = 1 then
    if deep ∧ (List.range s.portCount).any fun p => !(s.port p).perst && !((s.port p).d3hot && (s.port p).linkL23) then some 1 else none
  else if block = 2 then
    if (deep ∧ 2 ≤ s.nat O.updateState) ∨ s.nat O.updateState = 3 then some 2 else none
  else if block = 3 then
    if deep ∧ s.keys.any fun k => decide (k.implicit ≠ 0) then some 3 else none
  else if block = 4 then if s.sub.format.isSome ∨ s.sub.sanitize.isSome then some 4 else none
  else if block = 5 then if s.parkFailed then some 6 else none
  else if block = 7 then
    if deep ∧ (s.nat O.spindleState = 12 ∨ s.nat O.spindleState = 9) then some 7 else none
  else none

/-- Whether a block has quiesced (R402, R418, R452): the media block once every media operation in flight has drained. -/
def State.quiesced (s : State) (block : Nat) : Bool :=
  let deep := decide (s.nat O.sleepEntryTarget = 4)
  if block = 3 then !deep || runObjects.all fun r => decide (s.nat r.1 ≠ 1)
  else if block = 4 then
    decide (s.cmds.ops = []) && decide (s.write.chunks = []) && decide (s.detect.ladders = []) &&
      (s.detect.reads.all fun d => decide (d.want = [])) &&
      s.cmds.ctxs.all fun c => !c.started || (decide (c.toIssue = []) && decide (c.want = []))
  else if block = 5 then s.allParked
  else if block = 7 then !deep || decide (s.nat O.spindleState = 0)
  else true

/-- What the media block has written when it votes (R139, R280, R367, R452, R510, R513). -/
def State.mediaVote (s : State) : State :=
  let s := if s.write.dirty = [] then s else s.flushLedger
  let s := s.saveSets
  let s := s.each (List.range s.actCount) fun s a => (s.append 0x60 [a, s.watermark a]).mirrorWrite a
  ({ s with cmds := { s.cmds with watermarkDirty := [] } }).append 0x62 [s.nat O.sleepEntryTarget]

/-- The commit point (R422, R454): the new state is in force, waiting Set Features complete, the ceiling falls, the spindle
slows or stops; for S4 keys are released, the core loses its power and the TAP is held in reset (R580). -/
def State.commitSleep (s : State) : State :=
  let target := s.nat O.sleepEntryTarget
  let s := ((s.setNat O.sleepEntryState 2).setNat O.sleepStateCurrent target).endPowerWaits false
  let s := s.modPower fun x => { x with block := 0 }
  if target = 4 then
    let s := s.releaseKeys (fun k => decide (k.explicit ≠ 0)) 1
    let s := s.each (List.range s.pclCount) fun s k =>
      ((s.dropAccesses k).setNat (O.pclState + k) 1).modPcl k fun c => { c with locked := false, goodRun := 0, upstreamLost := false }
    { s with platform := { s.platform with vregEnable := false }, dbg := {} }
  else if target = 3 then (s.stopSpindle 2 false).startLevelStep
  else s.slowSpindle.startLevelStep

/-- Whether an edge of TBI that waits in this tick fires the armed activation, which then goes ahead of the sleep entry (R40, R534). -/
def State.firesNow (s : State) : Bool :=
  s.pending.any fun i => match i with
    | .tbiEdge width =>
      decide (1000 ≤ width) && s.wall.set && decide (s.fw.phase = 1) && decide ((pulseLabel s.wallTime).map (· + 2) = some s.fw.pulse) &&
        s.guardRefusal.isNone
    | _ => false

/-- The next block's turn; one that does nothing votes by its own event. -/
def State.nextBlock (s : State) (block : Nat) : State := s.quiesce (block + 1)

/-- SLEEP_BLOCK_VOTE: the block whose turn it is votes or refuses. The last vote is the commit point; `wake` is a wake source
that reaches the arbiter in its cycle, and which of the two comes first the spec leaves open. An activation that fires in the same
tick goes first, and the firmware block refuses (R40, R452, R454, R456). -/
def execSleepBlockVote (block : Nat) (wake : Option Nat) (s : State) : Host.Outcome State Fault Refusal :=
  .next (if s.nat O.sleepEntryState ≠ 1 ∨ block ≠ s.power.block then s
    else
      match s.blockRefusal block with
      | some code => s.abortEntry code block
      | none =>
        if ¬ s.quiesced block then s
        else if block < 8 then
          let s := if block = 4 then s.mediaVote else s
          let s := if block = 7 then
              s.modPower fun x => { x with prepareStart := x.prepareStart + (s.tick - x.spindleStart) * (if s.nat O.sleepEntryTarget = 4 then 1 else 0) }
            else s
          s.nextBlock block
        else if s.firesNow then s.abortEntry 2 2
        else
          match wake with
          | none => s.commitSleep
          | some bit =>
            let (v, s) := s.takeFree
            if v % 2 = 0 then (s.wake bit).setNat O.arbiterOutcome 1
            else (s.commitSleep.setNat O.arbiterOutcome 2).wake bit)

/-- SLEEP_STATE_REACHED: the ceiling is at PL0, or the core rail is off; a held wake is replayed (R454, R455). -/
def execSleepStateReached (s : State) : Host.Outcome State Fault Refusal :=
  let there := if s.nat O.sleepStateCurrent = 4 then !s.platform.vregEnable else decide (s.power.ceiling = 0)
  .next (if s.nat O.sleepEntryState ≠ 2 ∨ ¬ there then s
    else
      let timer := s.nat O.wakeTimer
      let s := (s.setNat O.sleepEntryState 3).modPower fun x => { x with
        wakeAt := if timer = 0 then none else some (s.tick + 1000000 * timer) }
      if s.power.heldWake = 0 then s else (s.setNat O.sleepEntryState 6).startExit)

/-- SLEEP_PREPARE_TIMEOUT: the prepare phase, without the spindle's braking, has passed PrepareLimit (R452, R460). -/
def execSleepPrepareTimeout (s : State) : Host.Outcome State Fault Refusal :=
  let block := s.power.block
  let due := s.power.prepareStart + 1000 * s.nat O.prepareLimit
  let braking := decide (block = 7) && decide (s.nat O.sleepEntryTarget = 4)
  .next (if s.nat O.sleepEntryState ≠ 1 ∨ braking ∨ s.tick < due then s
    else (s.deadlineMiss 9 49 block due s.tick).abortEntry 15 block)

/-- SPINDLE_STOP_LIMIT: for S4 the spindle is not Stopped within SpindleStopLimit (R452). -/
def execSpindleStopLimit (s : State) : Host.Outcome State Fault Refusal :=
  .next (if s.nat O.sleepEntryState ≠ 1 ∨ s.power.block ≠ 7 ∨ s.nat O.sleepEntryTarget ≠ 4 ∨ s.nat O.spindleState = 0 ∨
      s.tick < s.power.spindleStart + 1000000 * s.nat O.spindleStopLimit then s
    else s.abortEntry 7 7)

/-- WAKE_EVENT: the Loft domain latches a wake source, in the states in which its row latches it (R455). -/
def execWakeEvent (source : Nat) (s : State) : Host.Outcome State Fault Refusal :=
  let now := s.nat O.sleepStateCurrent
  .next (if 5 < source ∨ (source < 3 ∧ now = 4) ∨ (source = 5 ∧ now = 1) then s else s.wake source)

/-- WAKE_TIMER_EXPIRY: WakeTimer has run since the state was reached (R455). -/
def execWakeTimerExpiry (s : State) : Host.Outcome State Fault Refusal :=
  .next (match s.power.wakeAt with
    | some t =>
      if t ≤ s.tick ∧ 2 ≤ s.nat O.sleepStateCurrent then (s.modPower fun x => { x with wakeAt := none }).wake 5 else s
    | none => s)

/-- SLEEP_IDLE_TIME_EXPIRY: SleepIdleTime without an I/O fetch, so the device takes the target again (R451, R453). -/
def execSleepIdleTimeExpiry (s : State) : Host.Outcome State Fault Refusal :=
  .next (if s.power.blocked ∧ s.power.idleSince + 1000000 * s.nat O.sleepIdleTime ≤ s.tick then
      (s.modPower fun x => { x with blocked := false }).considerSleep
    else s)

end Sys2Proof.Machine
end

