-- ==== Sys2Proof/Machine/Security.lean ====
section
/-! DEFINITION. SPDM on its four transports, MCTP control, Security Send and Security Receive (R346 to R348, R542). -/

namespace Sys2Proof.Machine

/-- State with the responders changed. -/
def State.modSec (s : State) (f : Security → Security) : State := { s with sec := f s.sec }

/-- Whether a transport serves: its port is in the variant, in S1 to S3; MCTP needs the port's link (R346). -/
def State.spdmServes (s : State) (t : Nat) : Bool :=
  s.hasPort (t % 2) && decide (s.nat O.sleepStateCurrent ≠ 4) && (decide (2 ≤ t) || (s.port (t % 2)).linkUp)

/-- An SPDM response: sent on MCTP, kept for Security Receive on a security transport (R346). -/
def State.respond (s : State) (t response : Nat) (content : List Nat) : State :=
  if t < 2 then s.emit (.spdm t response content)
  else s.modSec fun x => { x with waiting := x.waiting.set t (some (response, content)) }

/-- An ERROR response: 1 InvalidRequest, 3 Busy, 4 UnexpectedRequest, 7 UnsupportedRequest, 43h RequestResynch. -/
def State.spdmError (s : State) (t code : Nat) : State := s.respond t 0x7F [code]

/-- A request taken by a responder in the order of R347 and R348: Busy during an activation or while the previous request is
unanswered, RequestResynch after an activation until GET_VERSION, UnexpectedRequest below the negotiated state that it needs. -/
def State.spdmRequest (s : State) (t : Nat) (isVersion : Bool) (needs : Nat) (answer : State → State) : State :=
  if ¬ s.spdmServes t then s
  else if s.nat O.updateState = 3 ∨ (s.sec.waiting.getD t none).isSome then s.emit (.spdm t 0x7F [3])
  else if s.sec.resync.getD t false ∧ ¬ isVersion then s.spdmError t 0x43
  else if s.sec.negotiated.getD t 0 < needs then s.spdmError t 4
  else answer s

/-- Negotiated state of a transport set. -/
def State.setNegotiated (s : State) (t n : Nat) : State := s.modSec fun x => { x with negotiated := x.negotiated.set t n }

/-- GET_VERSION: 1.2; it ends RequestResynch (R346 to R348). Contents are the bytes of a message after its response code: Param1,
Param2 and the body of the SPDM 1.2 message. -/
def State.spdmVersion (s : State) (t : Nat) : State :=
  s.spdmRequest t true 0 fun s =>
    ((s.modSec fun x => { x with resync := x.resync.set t false }).setNegotiated t 1).respond t 0x04 [0, 0, 0, 1, 0x00, 0x12]

/-- GET_CAPABILITIES: CERT_CAP, CHAL_CAP, MEAS_CAP 10b, and both sizes 4,096; the spec gives no CTExponent, which is free (R347). -/
def State.spdmCapabilities (s : State) (t : Nat) : State :=
  s.spdmRequest t false 1 fun s =>
    let (ct, s) := s.takeFree
    (s.setNegotiated t 2).respond t 0x61 ([0, 0] ++ fieldBytes [(1, 0), (1, ct), (2, 0), (4, 0x16), (4, 4096), (4, 4096)])

/-- NEGOTIATE_ALGORITHMS: ECDSA P-384 for BaseAsymAlgo, SHA-384 for BaseHashAlgo and MeasurementHashAlgo, where the requester offers
them (R347). -/
def State.spdmAlgorithms (s : State) (t : Nat) (offered : Bool) : State :=
  s.spdmRequest t false 2 fun s =>
    if offered then ((s.setNegotiated t 3).bump (O.spdmSessions + t)).respond t 0x63
      ([0, 0] ++ fieldBytes [(2, 36), (1, 1), (1, 0), (4, 4), (4, 0x80), (4, 2), (12, 0), (4, 0)])
    else s.spdmError t 1

/-- Digest of the slot 0 certificate chain. -/
def chainDigest : List Nat := leBytes 48 (sha384 (Config.provisioned 1))

/-- GET_DIGESTS: of certificate slot 0 (R347). -/
def State.spdmDigests (s : State) (t : Nat) : State := s.spdmRequest t false 3 fun s => s.respond t 0x01 ([0, 1] ++ chainDigest)

/-- GET_CERTIFICATE: a part of the slot 0 chain, and what is left of it (R347). -/
def State.spdmCertificate (s : State) (t certSlot offset length : Nat) : State :=
  s.spdmRequest t false 3 fun s =>
    let chain := Config.provisioned 1
    let part := (chain.drop offset).take (min length 4088)
    if certSlot ≠ 0 ∨ chain.length ≤ offset then s.spdmError t 1
    else s.respond t 0x02 ([0, 0] ++ fieldBytes [(2, part.length), (2, chain.length - offset - part.length)] ++ part)

/-- CHALLENGE: the chain's digest, the responder's nonce and an ECDSA signature over the response and the requester's nonce (R347,
R539). -/
def State.spdmChallenge (s : State) (t certSlot nonce : Nat) : State :=
  s.spdmRequest t false 3 fun s =>
    if certSlot ≠ 0 then s.spdmError t 1
    else
      let (own, s) := s.takeFree
      let body := [0, 1] ++ chainDigest ++ leBytes 32 own ++ [0, 0]
      s.respond t 0x03 (body ++ padTo 96 (Config.sign 1 (leBytes 32 nonce ++ body)))

/-- Value type and value of a measurement block 1 to 13 (R542): index 9 is taken afresh; 11 to 13 are the signed 656 bytes of the
current boot record and its two signatures. -/
def State.measurementValue (s : State) (i : Nat) : Nat × List Nat :=
  let digest (v : Nat) : List Nat := leBytes 48 v
  let record := match s.trunk.bootRecord? with
    | some r => recordHead 1 4088 r.boot r.seq r.tick r.wall ++ r.payload
    | none => []
  if i = 9 then (2, digest s.configDigest)
  else if i = 10 then (3, digest s.fw.chain)
  else if i = 11 then (0x84, record.take 656)
  else if i = 12 then (0x84, cut record 752 3309)
  else if i = 13 then (0x84, cut record 656 96)
  else (if i = 1 then 0 else 1, digest (s.fw.measurements.getD (i - 1) 0))

/-- A measurement block in the DMTF format: index, specification, size, value type, value size, value (R542). -/
def State.measurementBlock (s : State) (i : Nat) : List Nat :=
  let (kind, v) := s.measurementValue i
  fieldBytes [(1, i), (1, 1), (2, v.length + 3), (1, kind), (2, v.length)] ++ v

/-- GET_MEASUREMENTS: 0 asks for the number of blocks, 13; FFh for every block but 12; the response is signed (R542). -/
def State.spdmMeasurements (s : State) (t certSlot measurement nonce : Nat) : State :=
  s.spdmRequest t false 3 fun s =>
    let blocks := if measurement = 0 then [] else if measurement = 0xFF then ((List.range 14).drop 1).filter (· ≠ 12) else [measurement]
    if certSlot ≠ 0 ∨ (13 < measurement ∧ measurement ≠ 0xFF) then s.spdmError t 1
    else
      let (own, s) := s.takeFree
      let record := blocks.flatMap s.measurementBlock
      let body := [if measurement = 0 then 13 else 0, 0, blocks.length] ++ leBytes 3 record.length ++ record ++ leBytes 32 own ++ [0, 0]
      s.respond t 0x60 (body ++ padTo 96 (Config.sign 1 (leBytes 32 nonce ++ body)))

/-- Any other request: UnsupportedRequest (R347). -/
def State.spdmUnsupported (s : State) (t : Nat) : State := s.spdmRequest t false 0 fun s => s.spdmError t 7

/-- GET_VERSION. -/
def execSpdmGetVersion (transport : Nat) (s : State) : Host.Outcome State Fault Refusal := .next (s.spdmVersion transport)

/-- GET_CAPABILITIES. -/
def execSpdmGetCapabilities (transport : Nat) (s : State) : Host.Outcome State Fault Refusal := .next (s.spdmCapabilities transport)

/-- NEGOTIATE_ALGORITHMS. -/
def execSpdmNegotiateAlgorithms (transport : Nat) (offered : Bool) (s : State) : Host.Outcome State Fault Refusal :=
  .next (s.spdmAlgorithms transport offered)

/-- GET_DIGESTS. -/
def execSpdmGetDigests (transport : Nat) (s : State) : Host.Outcome State Fault Refusal := .next (s.spdmDigests transport)

/-- GET_CERTIFICATE. -/
def execSpdmGetCertificate (transport certSlot offset length : Nat) (s : State) : Host.Outcome State Fault Refusal :=
  .next (s.spdmCertificate transport certSlot offset length)

/-- CHALLENGE. -/
def execSpdmChallenge (transport certSlot nonce : Nat) (s : State) : Host.Outcome State Fault Refusal :=
  .next (s.spdmChallenge transport certSlot nonce)

/-- GET_MEASUREMENTS. -/
def execSpdmGetMeasurements (transport certSlot measurement nonce : Nat) (s : State) : Host.Outcome State Fault Refusal :=
  .next (s.spdmMeasurements transport certSlot measurement nonce)

/-- SPDM_UNSUPPORTED_REQUEST. -/
def execSpdmUnsupportedRequest (transport : Nat) (s : State) : Host.Outcome State Fault Refusal :=
  .next (s.spdmUnsupported transport)

/-! ### Security Send and Security Receive (R346) -/

/-- SECURITY_SEND: an SPDM request by its request code on the port's security transport; any other protocol is Invalid Field. -/
def execSecuritySend (port cid protocol request certSlot offset length nonce : Nat) (s : State) :
    Host.Outcome State Fault Refusal :=
  let t := 2 + port
  .next (s.admin port cid fun s =>
    if protocol ≠ 0xE8 then (invalidField, s)
    else
      (done,
        if request = 0x84 then s.spdmVersion t
        else if request = 0xE1 then s.spdmCapabilities t
        else if request = 0xE3 then s.spdmAlgorithms t true
        else if request = 0x81 then s.spdmDigests t
        else if request = 0x82 then s.spdmCertificate t certSlot offset length
        else if request = 0x83 then s.spdmChallenge t certSlot nonce
        else if request = 0xE0 then s.spdmMeasurements t certSlot offset nonce
        else s.spdmUnsupported t))

/-- SECURITY_RECEIVE: protocol 00h lists the two protocols; that of SPDM returns the response that waits. -/
def execSecurityReceive (port cid protocol : Nat) (s : State) : Host.Outcome State Fault Refusal :=
  let t := 2 + port
  .next (s.admin port cid fun s =>
    if protocol = 0 then (done, s.emit (.hostData port cid [0, 0xE8]))
    else if protocol ≠ 0xE8 then (invalidField, s)
    else
      match s.sec.waiting.getD t none with
      | some (name, content) =>
        let s := s.modSec fun x => { x with waiting := x.waiting.set t none }
        (done, s.emit (.spdm t name content))
      | none => (done, s.emit (.hostData port cid [])))

/-! ### MCTP control (R346) -/

/-- Whether a port's MCTP endpoint answers: link up, in S1 to S3. -/
def State.mctpServes (s : State) (p : Nat) : Bool := s.hasPort p && (s.port p).linkUp && decide (s.nat O.sleepStateCurrent ≠ 4)

/-- SET_ENDPOINT_ID: operations 0 and 1 set it; 0 and FFh are no endpoint ID and are refused with completion code 2. -/
def execSetEndpointId (port operation eid : Nat) (s : State) : Host.Outcome State Fault Refusal :=
  .next (if ¬ s.mctpServes port then s
    else if 1 < operation ∨ eid = 0 ∨ 255 ≤ eid then s.emit (.mctp port 1 [2])
    else (s.modPort port fun p => { p with mctpEid := eid }).emit (.mctp port 1 [0, 0, eid]))

/-- GET_ENDPOINT_ID. -/
def execGetEndpointId (port : Nat) (s : State) : Host.Outcome State Fault Refusal :=
  .next (if s.mctpServes port then s.emit (.mctp port 2 [0, (s.port port).mctpEid]) else s)

/-- GET_MCTP_VERSION_SUPPORT: for the base, the control protocol and SPDM; any other message type is answered with code 80h. -/
def execGetMctpVersionSupport (port messageType : Nat) (s : State) : Host.Outcome State Fault Refusal :=
  .next (if ¬ s.mctpServes port then s
    else if messageType = 0xFF ∨ messageType = 0 ∨ messageType = 5 then s.emit (.mctp port 4 [0, 1, Config.identity 15])
    else s.emit (.mctp port 4 [0x80]))

/-- GET_MESSAGE_TYPE_SUPPORT: message type 05h. -/
def execGetMessageTypeSupport (port : Nat) (s : State) : Host.Outcome State Fault Refusal :=
  .next (if s.mctpServes port then s.emit (.mctp port 5 [0, 1, 5]) else s)

end Sys2Proof.Machine
end

