-- ==== Sys2Proof/Machine/Startup.lean ====
section
/-! DEFINITION. Power-up and fault resets, the steps of start-up, supplies and media readiness (chapter "Start-up, Reset and
Variants"), and the end of a staging, which in the recovery state resets the device. -/

namespace Sys2Proof.Machine

/-! ### What the NOR holds (R463, R503, R511, R514, R518) -/

/-- Every programmed record of the Trunk. -/
def Trunk.all (t : Trunk) : List TrunkRecord := t.units.flatMap fun u => u.2.records

/-- The newest record that satisfies a condition. -/
def Trunk.latest (t : Trunk) (which : TrunkRecord → Bool) : Option TrunkRecord :=
  (t.all.filter which).foldl (fun (b : Option TrunkRecord) r =>
    match b with
    | none => some r
    | some q => if q.seq < r.seq then some r else some q) none

/-- The Trunk as the device finds it when it comes up: appends not programmed are lost, and where one was being programmed its record is
absent and the next append of its area opens a new unit (R503, R505, R507, R508, R514). -/
def Trunk.powerUp (t : Trunk) : Trunk :=
  let cut (area unit : Nat) (units : List (Nat × TrunkUnit)) : List (Nat × TrunkUnit) :=
    if (t.queue.head?.map fun a => decide ((a.kind = 1) = (area = 0))).getD false then putKey units unit { t.unit unit with used := 65473 }
    else units
  { units := cut 1 t.logUnit (cut 0 t.bootUnit t.units), mirrors := t.mirrors, bootUnit := t.bootUnit, logUnit := t.logUnit, dirty := t.dirty
    nextSeq := (t.all.map TrunkRecord.seq).foldl max 0 + 1
    bootNumber := ((t.all.filter fun r => decide (r.kind = 1)).map TrunkRecord.boot).foldl max 0
    carryStopped := decide ((t.newest fun r => decide (r.kind = 0x62)) < t.newest fun r => decide (r.kind = 0x63)) }

/-- Slot that the newest firmware-history record of kind 4 names, or slot 1 (R518). -/
def Trunk.bootSlot (t : Trunk) : Nat :=
  match t.latest fun r => decide (r.kind = 0x20) && decide (r.payload.headD 0 = 4) with
  | some r => if r.payload.getD 2 1 = 2 then 2 else 1
  | none => 1

/-- Plans, AgeingRaise and LevelCap of the newest records (R463, R511). -/
def State.takeAgeing (s : State) : State :=
  let of (kind level : Nat) : Option TrunkRecord := s.trunk.latest fun r => decide (r.kind = kind) && decide (r.payload.headD 0 = level)
  let s := s.each (List.range 6) fun s level =>
    let s : State := match of 0x40 level with
      | some r => s.modPower fun x => { x with plans := putKey x.plans level r.payload.tail }
      | none => s
    match of 0x41 level with
    | some r => s.setNat (O.ageingRaise + level) (r.payload.getD 1 0)
    | none => s
  match s.trunk.latest fun r => decide (r.kind = 0x41) with
  | some r => s.setNat O.levelCap (r.payload.getD 2 5)
  | none => s

/-- OwnerLockState of the newest record of kinds 9 and 10 (R536, R543). -/
def State.takeOwnerLock (s : State) : State :=
  match s.trunk.latest fun r => decide (r.kind = 0x20) && (decide (r.payload.headD 0 = 9) || decide (r.payload.headD 0 = 10)) with
  | some r => s.setNat O.ownerLockState (if r.payload.headD 0 = 9 then 1 else 0)
  | none => s.setNat O.ownerLockState 0

/-! ### What both resets do (R533, R535, R550, R558) -/

/-- Firmware state after a reset: slots, fuses and the lock stay; what was armed or under way is cut (R533, R535). -/
def Firmware.afterReset (f : Firmware) (t : Trunk) : Firmware :=
  let unsaved := t.queue.any fun a => decide (a.kind = 0x20) && decide (a.payload.headD 0 = 4)
  { slots := f.slots, active := t.bootSlot, fusedVersion := f.fusedVersion, ownerKeySet := f.ownerKeySet
    cut := if f.phase = 1 then 1 else if 2 ≤ f.phase ∨ unsaved then 2 else 0
    holder := f.holder, pulse := f.pulse }

/-- Subsystem state after a reset: a Format NVM runs again from step 1, a Sanitize from the start of its pass, and neither has a
command to answer (R377, R378). -/
def Subsystem.afterReset (x : Subsystem) : Subsystem :=
  { formatId := x.formatId, sanitizeStatus := x.sanitizeStatus, sanitizePasses := x.sanitizePasses
    sanitizeDword10 := x.sanitizeDword10, smart := { x.smart with busySince := none }
    format := x.format.map fun f => { f with port := 2, cid := 0, left := none }
    sanitize := x.sanitize.map fun p => { p with left := none } }

/-- Subsystem state after the power returns: one more power cycle (R339). -/
def Subsystem.nextPower (x : Subsystem) (tick : Nat) : Subsystem :=
  let y := x.afterReset
  { y with smart := { y.smart with powerCycles := y.smart.powerCycles + 1, poweredTicks := y.smart.poweredTicks + tick } }

/-- The management bus after a reset: its node-ID from LSS or the straps (R431), the stored copies kept. -/
def MgmtBus.afterReset (m : MgmtBus) (straps : Nat) : MgmtBus :=
  { storedA := m.storedA, storedB := m.storedB, storedNode := m.storedNode
    nodeId := match m.storedNode with
      | some n => n
      | none => if straps % 128 = 0 then 255 else straps % 128 }

/-- Cellar state after a reset: the slots with a commit-record copy on media are those the scan collects (R366 to R369). -/
def Commands.afterReset (c : Commands) : Commands :=
  { slots := (c.slots.filter fun x => decide (x.stage < 4) && decide (1 ≤ x.copies)).map fun x => { x with stage := 3 }
    nextSlot := c.nextSlot, ringHead := c.ringHead }

/-! ### Power-up reset (R546, R550) -/

/-- Objects that outlast a loss of power: the format in force and the identity strings (R75, R349). -/
def outlastsPower (k : Nat) : Bool := decide (k / 256 = 0x3020 ∨ k / 256 = 0x5002)

/-- Start-up stops with FAULT held low (R548, R581, R589). -/
def State.holdFault (s : State) : State := s.modFaults fun x => { x with pin := 2, pulseEnd := 0, releasePending := false }

/-- The boot ROM halts: FAULT held low, and a challenge drawn for DBG (R548, R579). -/
def State.bootHalt (s : State) : State :=
  let (v, s) := s.takeFree
  let s := s.holdFault.modFw fun f => { f with halted := true }
  { s with sec := { s.sec with trapdoorChallenge := v }, dbg := { s.dbg with tokenStatus := 0 } }

/-- The Loft domain comes up: everything but NOR, media and fuses is at its default, and step 1 runs (R18, R22, R323, R479, R482,
R550, R551). -/
def State.powerUp (s : State) (variant straps cause : Nat) : State :=
  let (c1, s) := s.takeFree
  let (c2, s) := s.takeFree
  let (c3, s) := s.takeFree
  let t := s.trunk.powerUp
  let n : State := {
    freeIx := s.freeIx, pending := s.pending, outbox := s.outbox, blobs := s.blobs
    objs := s.objs.filter fun p => outlastsPower p.1
    platform := { variant := min variant 2, straps := straps % 512
                  subsystemIds := (s.nat O.subsystemVendorId, s.nat O.subsystemId) }
    trunk := t, shelf := { challenge := c1 }, mb := s.mb.afterReset straps, sub := s.sub.nextPower s.tick, cmds := s.cmds.afterReset
    detect := { saved := s.detect.saved }, pos := { saved := s.pos.saved }
    write := { ledger := s.write.media, base := s.write.base, media := s.write.media, doubt := s.write.doubt, doubtAll := s.write.doubtAll
               pageSeq := s.write.pageSeq }
    spindle := { mrpm := s.spindle.mrpm }
    fw := { s.fw.afterReset s.trunk with active := t.bootSlot, ownerChallenge := c2 }
    sec := { trapdoorChallenge := c3 } }
  let n := n.takeAgeing.takeOwnerLock
  let n := (n.setNat O.powerUpCause cause).setNat O.lastResetKind 1
  let n := n.setNat O.trapdoorState (if straps.testBit 7 then 0 else 1)
  if straps.testBit 8 then (n.holdFault).modFw fun f => { f with halted := true } else n

/-- POWER_UP_RESET: the Loft domain's supplies and REFCLK become valid; fuses give the variant, and the straps are read (R546,
R551). -/
def execPowerUpReset (variant straps : Nat) (s : State) : Host.Outcome State Fault Refusal :=
  .next (s.powerUp variant straps (if s.spindle.powerLost then 2 else 1))

/-- INPUT_POWER_RETURN: after a power loss the device resets as at power-up, once the spindle is Stopped or the bank is below
HoldUpMinVoltage (R311). -/
def execInputPowerReturn (straps : Nat) (s : State) : Host.Outcome State Fault Refusal :=
  .next (if s.spindle.powerLost ∧ (s.nat O.spindleState = 0 ∨ s.nat O.holdUpVoltage < s.nat O.holdUpMinVoltage) then
      s.powerUp s.platform.variant straps 2
    else s)

/-! ### Supplies and the reference clock (R589, R594) -/

/-- Supplies of R585 in the order of its table: 0 VDD_CORE, 1 to 10 the others. -/
def State.supplyUp (s : State) (i : Nat) : Bool := s.platform.supplies.testBit i

/-- Every supply but VDD_CORE is above its threshold (R589). -/
def State.othersUp (s : State) : Bool := (List.range 10).all fun i => s.supplyUp (i + 1)

/-- State with the platform changed. -/
def State.modPlatform (s : State) (f : Platform → Platform) : State := { s with platform := f s.platform }

/-- Nominal voltage of a supply in millivolts; that of VDD_CORE is the value last acknowledged, and 0.60 V while it starts (R585, R588,
R589). -/
def State.nominal (s : State) (supply : Nat) : Nat :=
  if supply = 0 then (if s.platform.coreWait then 600 else s.nat O.coreVoltage) else [0, 750, 900, 1100, 400, 1800, 900, 3300, 1800, 1800, 3300].getD supply 0

/-- Whether a voltage in millivolts is above a supply's monitor threshold, 93 % of its nominal value (R589). -/
def State.aboveThreshold (s : State) (supply mv : Nat) : Bool := decide (93 * s.nominal supply < 100 * mv)

/-- SUPPLY_ABOVE_THRESHOLD: a supply, in millivolts, passes its threshold. With VDD_CORE an exit from S4 goes on with the memories of Rafter
rebuilt, or becomes a power-up reset where a working image does not match its measurement (R209, R457, R589). -/
def execSupplyAboveThreshold (supply mv : Nat) (imagesOk : Bool) (s : State) : Host.Outcome State Fault Refusal :=
  .next (if 10 < supply ∨ ¬ s.aboveThreshold supply mv then s
    else if supply ≠ 0 then s.modPlatform fun p => { p with supplies := withBit p.supplies supply }
    else if ¬ s.platform.coreWait ∨ ¬ s.platform.vregEnable then s
    else
      let sleep := s.platform.fromSleep
      let s := s.modPlatform fun p => { p with supplies := withBit p.supplies 0, coreWait := false, fromSleep := false }
      if ¬ sleep then s
      else if imagesOk then s.rebuildLoops.goOn true
      else s.powerUp s.platform.variant s.platform.straps 3)

/-- VDD_CORE_START_TIMEOUT: VDD_CORE is not up 5 ms after VREG_EN rose: VREG_EN falls, and rises again 100 ms later; the third
failure halts the device (R589). -/
def execVddCoreStartTimeout (s : State) : Host.Outcome State Fault Refusal :=
  let p := s.platform
  .next (if ¬ p.coreWait then s
    else if p.vregEnable ∧ p.coreStart + 5000 ≤ s.tick then
      let s := s.modPlatform fun x => { x with vregEnable := false, coreAttempts := x.coreAttempts + 1, coreStart := s.tick }
      if 3 ≤ s.platform.coreAttempts then
        (s.modPlatform fun x => { x with coreWait := false }).bootHalt.setNat O.startupPhase 1
      else s
    else if ¬ p.vregEnable ∧ p.coreStart + 100000 ≤ s.tick then
      s.modPlatform fun x => { x with vregEnable := true, coreStart := s.tick }
    else s)

/-- SUPPLY_DIP: a supply, in millivolts, at or below its threshold for a time in microseconds in S1 to S3: a power loss, but for VDD_CORE
during an AVSBus step (R589). -/
def execSupplyDip (supply mv lasting : Nat) (s : State) : Host.Outcome State Fault Refusal :=
  let stepping := decide (supply = 0) && (decide (s.power.stepKind ≠ 0) || s.power.restoring)
  .next (if lasting ≤ 10 ∨ s.aboveThreshold supply mv ∨ ¬ s.supplyUp supply ∨ s.nat O.sleepStateCurrent = 4 ∨ stepping then s else s.powerLoss)

/-- REFCLK_STOP: REFCLK stops for a time in microseconds, in any state: as a supply dip (R594). -/
def execRefclkStop (lasting : Nat) (s : State) : Host.Outcome State Fault Refusal :=
  .next (if lasting ≤ 2 then s else s.powerLoss)

/-! ### Fault reset (R475, R552) -/

/-- Objects that a fault reset keeps: those of the Loft domain, of the format and the identity, the link counters, and what the level,
the spindle engine, the hold-up inputs and the Trunk still hold (R106, R440, R463, R475, R480, R550, R552). -/
def outlastsFault (k : Nat) : Bool :=
  let ro : Bool := match findRow k with
    | some r => decide (r.access = .ro)
    | none => false
  outlastsPower k || (ro && (decide (k / 256 ∈ [0x3101, 0x3102, 0x3103, 0x3104, 0x2001, 0x5811, 0x5C01, 0x5C02, 0x5C03, 0x5C14, 0x5C15, 0x5C20, 0x5C21, 0x5C30, 0x5D00,
    0x4860, 0x5822, 0x5824]) ||
    decide (k ∈ [O.caseTemperature, O.coreVoltage, O.performanceLevelCurrent, O.levelCap, O.spindleState, O.spindleSpeed, O.angleSource,
      O.startAttemptsUsed, O.chopperState, O.brakePhase, O.brakeEvents, O.ownerLockState, O.ownerLockRefusals, O.trapdoorState,
      O.trapdoorRefusals, O.measurementMismatches])))

/-- A chunk that the reset cuts with sectors written: its entry is no longer trusted (R186, R193). -/
def State.cutChunks (s : State) : State :=
  (s.write.chunks.filter fun w => w.isHome && (w.open_ || decide (0 < w.written))).foldl (fun (s : State) w =>
    s.setEntry w.head w.stripe { s.entry w.head w.stripe with trusted := false }) s

/-- The fault reset: actuators parked, both ports reset, keys released with their records, fences cleared, the processors
restarted from step 3; the Loft domain and the spindle engine go on (R475, R550, R552, R558). -/
def State.faultReset (s : State) : State :=
  let s := s.each (List.range s.actCount) fun s a => s.parkSequence a 6
  let s := s.each (List.range s.portCount) State.resetController
  let s := (s.abortEntry 2 2).releaseKeys (fun k => decide (k.holder ≠ 0)) 2
  let s := (if s.nat O.spindleState = 1 then s.dropSpinUp.stopped else s).cutChunks
  let drives := s.spindle.gates
  let f := s.faults
  let n : State := { s with
    objs := s.objs.filter fun p => outlastsFault p.1
    platform := { s.platform with bootKind := 2, recovered := false, coreWait := false, fromSleep := false, vregEnable := true }
    keys := List.replicate 16 {}
    faults := { f with resetDue := none, injectLeft := 0
                       resetTicks := s.tick :: f.resetTicks.filter fun t => decide (s.tick < t + 3600000000) }
    shelf := { s.shelf with codes := [] }
    mb := s.mb.afterReset s.platform.straps
    ports := s.ports.map fun p => { perst := p.perst }
    sub := s.sub.afterReset, cmds := s.cmds.afterReset
    larder := { lines := s.larder.lines.filter fun l => decide (l.state = .valid), plru := s.larder.plru, pantry := s.larder.pantry }
    layout := {}, links := {}, heads := List.replicate 24 {}
    acts := s.acts.map fun x => { load := x.load, parkEnd := x.parkEnd, parkReruns := x.parkReruns, parkCause := x.parkCause
                                  vcmSeq := x.vcmSeq, loadWanted := true }
    pos := { saved := s.pos.saved }, detect := { saved := s.detect.saved }
    write := { ledger := s.write.ledger, base := s.write.base, dirty := s.write.dirty, media := s.write.media, doubt := s.write.doubt
               doubtAll := s.write.doubtAll, pageSeq := s.write.pageSeq, flushedAt := s.tick }
    rafter := { holdSpindle := drives, spindleOut := s.rafter.spindleOut }
    power := { ceiling := s.power.ceiling, plans := s.power.plans, granted := s.power.granted.filter fun g => decide (g.priority = 1) }
    fw := { s.fw.afterReset s.trunk with ownerChallenge := s.fw.ownerChallenge }
    sec := { trapdoorChallenge := s.sec.trapdoorChallenge }
    dbg := s.dbg }
  let n := n.each (List.range n.headCount) fun s h => if (s.act (actOf h)).load = 0 then s else s.setNat (O.positionState + h) 9
  let n := ((n.setNat O.lastResetKind 2).bump O.faultResets).setNat O.startupPhase 2
  let n := (n.setNat O.mediaReadyTick 0).setNat O.adminReadyTick 0
  n.leaveFailed

/-- FAULT_RESET: the reset that is due starts once the append and the EMCY message of its raising are complete, or at its latest
instant (R475, R532). -/
def execFaultReset (s : State) : Host.Outcome State Fault Refusal :=
  .next (match s.faults.resetDue with
    | none => s
    | some t =>
      if s.tick < t ∧ (s.trunk.queue ≠ [] ∨ s.mb.emcyQueue ≠ []) then s
      else if s.spindle.powerLost ∨ s.fw.halted then s
      else s.faultReset)

/-! ### Steps 1 to 4 of start-up (R413, R518, R538, R541, R546, R548) -/

/-- Whether a stored value keeps the range of its object on this variant (R413). -/
def State.storedFits (s : State) (k : Nat) (v : Int) : Bool :=
  match findRow k with
  | some r => decide (r.lo ≤ v) && decide (v ≤ r.hi) && !s.keyUnitAbsent k
  | none => false

/-- The stored set loaded: the copy of the highest sequence whose CRC is correct; defaults where both are blank, and with its
source raised where none is correct (R411, R413). -/
def State.loadStored (s : State) (copyOk : List Bool) : State :=
  let good (i : Nat) (c : Option StoredCopy) : Option StoredCopy := if copyOk.getD i true then c else none
  let best := ({ s with mb := { s.mb with storedA := good 0 s.mb.storedA, storedB := good 1 s.mb.storedB } }).storedCopy
  match best with
  | none => if s.mb.storedA.isNone ∧ s.mb.storedB.isNone then s else s.raiseFault 342 0
  | some c =>
    let s := c.values.foldl (fun (s : State) v =>
      if s.storedFits v.1 v.2 then s.setObj v.1 v.2 else s.bump O.storedValuesReplaced) s
    let s := (s.modSpindle fun x => { x with sine := c.sine }).setNat O.storedSetSequence c.seq
    { s with shelf := { s.shelf with codes := c.lists.map fun x => { x with limited := 0, level := x.burst * 1000000, filled := s.tick } } }

/-- The slot that stage 1 boots, and whether it is the fallback (R519, R541). -/
def State.bootChoice (s : State) (slotOk : List Bool) : Option (Nat × Bool) :=
  let ok (n : Nat) : Bool := slotOk.getD (n - 1) true && s.slotVerified (s.fwSlot n)
  let named := s.trunk.bootSlot
  if ok named then some (named, false) else if ok (3 - named) then some (3 - named, true) else none

/-- The loops built from the Rafter microcode image of the active set (R209, R215). -/
def State.buildLoops (s : State) : State :=
  let set := s.activeSet.image 4
  let bank := s.nat O.microcodeBankActive
  let s := s.each ((List.range 37).filter s.hasSlot) fun s n =>
    let coefs := if setCarries set n 1 then [] else setCoefs set n
    let crc := crc32c (bankBytes coefs)
    (s.modLoop n fun l => { l with
      bank0 := coefs, bank1 := coefs, seal0 := crc, control := coefs, controlSeal := crc
      states := if setCarries set n 2 then [] else setStates set n
      entry0 := if bank = 0 then descriptor set n 0 2 else l.entry0
      entry1 := if bank = 0 then l.entry1 else descriptor set n 0 2 }).setNat (O.loopCycles + n) (setCycles set n)
  (s.fillStore (s.nat O.microcodeBankActive) set).setNat O.rafterState 1

/-- What the last reset cut is recorded (R533, R535): 1 an arming, 2 an activation, whose set stays staged. -/
def State.recordCut (s : State) : State :=
  let cut := s.fw.cut
  let s := s.modFw fun f => { f with cut := 0 }
  let s := if cut = 2 then
      ((s.modFwSlot s.fw.active fun f => { f with kind := 0 }).modFwSlot s.inactiveSlot fun f => { f with kind := 1 }).history
        12 0 s.inactiveSlot 0 s.fw.holder s.fw.pulse
    else if cut = 1 then s.history 8 0 s.inactiveSlot 2 s.fw.holder s.fw.pulse
    else s
  s.setNat O.updateState (if cut = 2 then 1 else s.restState)

/-- Step 3 with a valid slot: the stored set, the boot record, the records of what was cut, and the management core's services
(R413, R518, R540, R541). -/
def State.bootStage (s : State) (slot : Nat) (fallback : Bool) (r : StartupReport) : State :=
  let s := (s.modFw fun f => { f with active := slot }).loadStored r.copyOk
  let s : State := { s with detect := { s.detect with tables := slot } }
  let s := s.buildLoops.bootAppend s.platform.bootKind (if fallback then 3 else 0)
  let s := s.note 4 0 [s.platform.bootKind, s.trunk.bootNumber]
  let s := if fallback then
      ((s.bump O.measurementMismatches).raiseFault 370 0).history 4 0 slot 0 0 0
    else s
  (((s.recordCut.takeBusSettings).nmtBoot).modPower fun x => { x with stepped := 0 }).setNat O.startupPhase 3

/-- Stage 1 finds no valid set: the recovery state (R548). -/
def State.enterRecovery (s : State) (copyOk : List Bool) : State :=
  let s := (s.loadStored copyOk).modFw fun f => { f with active := s.trunk.bootSlot, recovery := true }
  ((s.holdFault.takeBusSettings).nmtBoot).setNat O.startupPhase 9

/-- CSTS.RDY set on the enabled controllers that wait with a value of CC.CRIME (R330). -/
def State.readyPorts (s : State) (crime : Bool) : State :=
  s.each (List.range s.portCount) fun s p =>
    if (s.port p).enabled ∧ (s.port p).crime = crime then s.modPort p fun x => { x with ready := true } else s

/-- Step 5 begun: bring-up of every preamplifier, and the spin-up (R112, R292, R546). -/
def State.beginSpinUpStep (s : State) : State :=
  let s := (s.each (List.range s.pclCount) State.bringUp).setNat O.startupPhase 5
  let s := s.each (List.range s.actCount) fun s a => s.modAct a fun x => { x with loadWanted := true }
  s.requestSpinUp

/-- Step 4 ends: the admin queue serves, the speed loop and the level follow (R220, R330, R444). -/
def State.endManagement (s : State) : State :=
  let s := s.each (List.range s.portCount) fun s p => s.modPort p fun x => { x with crwmt := s.crwmt }
  let s := (s.readyPorts true).setNat O.adminReadyTick s.tick
  let s := (s.speedLoop s.spindle.gates).startLevelStep
  if (List.range s.portCount).any fun p => (s.port p).enabled && (s.port p).crime then s.setNat O.startupPhase 4 else s.beginSpinUpStep

/-! ### Steps 5 to 8 of start-up (R194, R368, R510, R512, R514, R547) -/

/-- Whether every mapped actuator has loaded or been fenced. -/
def State.mappedDone (s : State) : Bool :=
  (List.range s.actCount).all fun a => !s.mapped a || decide ((s.act a).load = 2) || decide (s.nat (O.actuatorService + a) = 3)

/-- Step 6 ends: after a power-up the calibration pass of every loaded actuator has run (R271, R552). -/
def State.endLoadStep (s : State) (r : StartupReport) : State :=
  let s := if s.platform.bootKind = 2 then s
    else s.each (List.range s.actCount) fun s a =>
      if (s.act a).load = 2 ∧ ¬ (s.act a).calibrated then s.calibrate a false r.heads r.loops else s
  s.setNat O.startupPhase 7

/-- The latest of some generations in the order of R193. -/
def latestGen (gens : List Nat) : Option Nat :=
  gens.foldl (fun (b : Option Nat) g =>
    match b with
    | some h => if genAhead g h then some g else some h
    | none => some g) none

/-- One home chunk classified by the generations of its sectors that decode, against the generation of the collected slot that covers
it: retired, live with its entry learnt, or to be restocked again before the media are ready (R368). -/
def State.classify (s : State) (x : Nat × Nat × List (Option Nat)) : State :=
  let (nsid, chunk, found) := x
  let gens := found.filterMap id
  match s.slotFor nsid (64 * chunk), s.locate nsid (64 * chunk) with
  | some c, some p =>
    let g := if chunk = c.lba / 64 then c.gen1 else c.gen2
    let reached (h : Nat) : Bool := decide (h = g) || genAhead h g
    if gens ≠ [] ∧ gens.all reached then s.chunkRestocked nsid chunk
    else if gens ≠ [] ∧ ¬ gens.any reached then
      s.setEntry p.surface p.stripe { gen := (latestGen gens).getD 0 % 65536, trusted := true }
    else
      let s := s.setEntry p.surface p.stripe { gen := (g + 65535) % 65536, trusted := true }
      { s with write := { s.write with again := (nsid, chunk) :: s.write.again } }
  | _, _ => s

/-- Every entry of a ledger page marked untrusted (R194). -/
def State.doubtPage (s : State) (p : Nat × Nat) : State :=
  let inPage (k : Nat) : Bool := decide ((splitKey k).1 = p.1) && decide (ledgerPage (splitKey k).2 = p.2)
  { s with write := { s.write with
      ledger := s.write.ledger.map fun e => if inPage e.1 then (e.1, { e.2 with trusted := false }) else e
      doubt := if s.write.doubt.contains p then s.write.doubt else p :: s.write.doubt } }

/-- Every entry of every surface marked untrusted (R510). -/
def State.doubtEvery (s : State) : State :=
  { s with write := { s.write with
      ledger := s.write.ledger.map fun e => (e.1, { e.2 with trusted := false }), doubtAll := true } }

/-- Pairs at the front of a list of numbers. -/
def pairs : Nat → List Nat → List (Nat × Nat)
  | n + 1, a :: b :: rest => (a, b) :: pairs n rest
  | _, _ => []

/-- Pages that a ledger flush record lists (R506). -/
def flushPages (payload : List Nat) : List (Nat × Nat) :=
  (List.range (payload.headD 0)).map fun i => (payload.getD (1 + 3 * i) 0, payload.getD (2 + 3 * i) 0)

/-- Ledger actions after an unclean power loss: by its record, or by the flush records newer than the last clean point (R194,
R510). -/
def State.ledgerActions (s : State) : State :=
  let t := s.trunk
  match t.latest fun r => decide (r.kind = 0x11) && decide (r.boot + 1 = t.bootNumber) with
  | some r =>
    let c := r.payload.getD 2 0
    let w := r.payload.getD 3 0
    let s := (pairs (r.payload.getD 4 0) (r.payload.drop (5 + 4 * c + 2 * w))).foldl State.doubtPage s
    (List.range c).foldl (fun (s : State) i =>
      let surface := r.payload.getD (5 + 4 * i) 0
      let stripe := r.payload.getD (8 + 4 * i) 0
      s.setEntry surface stripe { s.entry surface stripe with trusted := false }) s
  | none =>
    let clean := t.newest fun r => decide (r.kind = 0x62)
    if t.logRecords.any fun r => decide (r.kind = 0x63) && decide (clean < r.seq) then s.doubtEvery
    else
      ((t.logRecords.filter fun r => decide (r.kind = 0x61) && decide (clean < r.seq)).flatMap fun r => flushPages r.payload).foldl
        State.doubtPage s

/-- Braking records of earlier boots without an end (R512). -/
def State.brakingActions (s : State) : State :=
  let open_ (r : TrunkRecord) : Bool := decide (r.kind = 0x12) && decide (r.boot < s.trunk.bootNumber) &&
    !s.trunk.logRecords.any fun x => decide (x.kind = 0x14) && decide (x.boot = r.boot)
  (s.trunk.logRecords.filter open_).foldl (fun (s : State) r => s.append 0x15 [r.boot, r.tick]) s

/-- Step 1 of a Format NVM: the mapping and the mapped set, the actuators of the variant that are not fenced (R75, R377). -/
def State.fixMapping (s : State) (mapping : Nat) : State :=
  let acts := (List.range s.actCount).filter fun a => decide (s.nat (O.actuatorService + a) ≠ 3)
  let s := (s.setNat O.domainMapping mapping).setNat O.mappedActuators (acts.map (2 ^ ·)).sum
  s.refreshCapacity.setNat O.formatProgress 0

/-- Step 7: Cellar classification, ledger actions, braking records, mirrors; an unfinished Format NVM starts again (R194, R368,
R377, R512, R514). -/
def State.recoverMedia (s : State) (r : StartupReport) : State :=
  let s := r.chunks.foldl State.classify s
  let s := if s.platform.bootKind = 1 then s.ledgerActions.brakingActions else s
  let s := r.damaged.foldl State.restoreUnit s
  let s : State := match s.sub.format with
    | some f => s.fixMapping f.mapping
    | none => s
  s.modPlatform fun p => { p with recovered := true }

/-- STARTUP_STEP_END: the step in progress ends with what it found, and the next one begins (R546, R548). -/
def execStartupStepEnd (report : StartupReport) (s : State) : Host.Outcome State Fault Refusal :=
  let phase := s.nat O.startupPhase
  .next (if s.fw.halted ∨ s.spindle.powerLost then s
    else if phase = 0 then
      if ¬ s.othersUp then s
      else (s.modPlatform fun p => { p with
        vregEnable := true, coreWait := true, coreStart := s.tick, coreAttempts := 0, fromSleep := false }).setNat O.startupPhase 1
    else if phase = 1 then
      if ¬ s.supplyUp 0 then s
      else if report.stage1Ok.all (! ·) then s.bootHalt
      else
        let s := ((s.setNat O.performanceLevelCurrent 0).setNat O.coreVoltage 600).modPower fun x => { x with ceiling := 0 }
        s.setNat O.startupPhase 2
    else if phase = 2 then
      match s.bootChoice report.slotOk with
      | some (slot, fallback) => s.bootStage slot fallback report
      | none => s.enterRecovery report.copyOk
    else if phase = 3 then if s.power.stepped ≤ min 5 (s.nat O.levelCap) then s else s.endManagement
    else if phase = 4 then s.beginSpinUpStep
    else if phase = 5 then
      if s.nat O.spindleState ≠ 5 then s else (s.setNat O.startupPhase 6).requestLoads
    else if phase = 6 then if s.mappedDone then s.endLoadStep report else s
    else if phase = 7 ∧ ¬ s.platform.recovered then s.recoverMedia report
    else s)

/-- MEDIA_READY: the spindle AtSpeed, every mapped actuator loaded or fenced, step 7 ended with its restocks: the tick is set and
the controllers with CC.CRIME 0 become ready (R330, R368, R547). -/
def execMediaReady (s : State) : Host.Outcome State Fault Refusal :=
  .next (if s.nat O.startupPhase ≠ 7 ∨ ¬ s.platform.recovered ∨ s.nat O.spindleState ≠ 5 ∨ ¬ s.mappedDone ∨ s.write.again ≠ [] ∨
      s.spindle.powerLost then s
    else ((s.setNat O.mediaReadyTick s.tick).setNat O.startupPhase 8).readyPorts false)

/-! ### The end of a staging (R526, R549) -/

/-- STAGING_END: the checks and builds end with what they found: the slot header is written and UpdateState becomes 1, or the
staging is refused. In the recovery state the slot becomes active and the device resets, unless a record could not be
appended. -/
def execStagingEnd (appended : Bool) (s : State) : Host.Outcome State Fault Refusal :=
  .next (match s.fw.staging with
    | none => s
    | some (holder, crate, commit) =>
      let set := s.crateSlot crate
      match s.stagingRefusal crate with
      | some (reason, k) => (s.logRefusal holder reason k set.sequence).closeStaging commit reason
      | none =>
        let slot := s.stagingSlot
        let recovery := s.fw.recovery
        if recovery ∧ ¬ appended then (s.raiseFault 371 0).modFw fun f => { f with staging := none }
        else
          let s := (s.modFwSlot slot fun _ => set).history 1 0 slot 0 holder 0
          if recovery then
            let s := (s.history 4 0 slot 0 holder 0).closeStaging commit 0
            let s := s.trunk.queue.foldl State.program s
            s.powerUp s.platform.variant s.platform.straps 1
          else (s.setNat O.updateState 1).closeStaging commit 0)

end Sys2Proof.Machine
end

