-- ==== Sys2Proof/Machine/HostPorts.lean ====
section
/-! DEFINITION. Host links, controller resets, readiness, shutdown and function power states (R322 to R331, R341, R372, R373). -/

namespace Sys2Proof.Machine

/-- CSTS.RDY set on a controller that is enabled and not in reset: with CC.CRIME at 1 once the admin queue serves, at 0 once the
media are ready (R330). In the recovery state neither ever holds (R548). -/
def State.settleReady (s : State) (p : Nat) : State :=
  let x := s.port p
  let due := if x.crime then s.nat O.adminReadyTick else s.nat O.mediaReadyTick
  if x.enabled ∧ ¬ x.draining ∧ due ≠ 0 then s.modPort p fun x => { x with ready := true } else s

/-- Controller reset by the host: R372, the requested power state at its default, and the sleep target taken again (R324,
R341). -/
def State.hostReset (s : State) (p : Nat) : State :=
  if ¬ s.hasPort p then s
  else ((s.resetController p).setNat (O.powerStateRequested + p) 0).requestChanged 1

/-- A host link down (R341, R349). -/
def State.linkLost (s : State) (p : Nat) : State :=
  ((s.modPort p fun x => { x with linkUp := false }).setNat (O.hostLinkSpeed + p) 0).setNat (O.hostLinkWidth + p) 0

/-- NSSR_SUBSYSTEM_RESET: 4E564D65h written to NSSR resets both controllers, and both links retrain (R373, R550). -/
def execNssrSubsystemReset (port value : Nat) (s : State) : Host.Outcome State Fault Refusal :=
  .next (if ¬ s.hasPort port ∨ ¬ (s.port port).linkUp ∨ value ≠ 0x4E564D65 then s
    else
      let s := s.setNat O.lastResetKind 3
      let s := s.each (List.range s.portCount) fun s p => (s.hostReset p).linkLost p
      s.note 4 0 [3, s.trunk.bootNumber])

/-- CONTROLLER_ENABLE_CLEAR: CC.EN written from 1 to 0 (R324, R372). -/
def execControllerEnableClear (port : Nat) (s : State) : Host.Outcome State Fault Refusal :=
  .next (if (s.port port).enabled then s.hostReset port else s)

/-- CONTROLLER_ENABLE_SET: CC.EN written from 0 to 1, with CC.CRIME and the admin submission queue's entries (R330). Heads that a
shutdown unloaded load again. -/
def execControllerEnableSet (port : Nat) (crime : Bool) (adminSize : Nat) (s : State) : Host.Outcome State Fault Refusal :=
  .next (if ¬ s.hasPort port ∨ ¬ (s.port port).linkUp ∨ (s.port port).enabled ∨ adminSize < 2 ∨ 4096 < adminSize then s
    else
      let s := s.modPort port fun x => { x with 
        enabled := true, crime := crime, ready := false, enableTick := s.tick, adminSize := adminSize }
      let s := if s.sub.unloadedByShutdown then
          let s := { s with sub := { s.sub with unloadedByShutdown := false } }
          (s.each (List.range s.actCount) fun s a => if s.nat (O.actuatorService + a) = 3 then s
            else s.modAct a fun x => { x with loadWanted := true }).requestLoads
        else s
      s.settleReady port)

/-- FUNCTION_LEVEL_RESET: a controller reset of the port (R324). -/
def execFunctionLevelReset (port : Nat) (s : State) : Host.Outcome State Fault Refusal :=
  .next (if (s.port port).linkUp then s.hostReset port else s)

/-- HOT_RESET_OR_LINK_DOWN: a controller reset of the port (R324); a link that is down sets no constraint (R341). -/
def execHotResetOrLinkDown (port : Nat) (linkDown : Bool) (s : State) : Host.Outcome State Fault Refusal :=
  .next (if ¬ (s.port port).linkUp ∨ ¬ s.hasPort port then s
    else
      let s := s.modPort port fun x => { x with d3hot := false, linkL23 := false }
      (if linkDown then s.linkLost port else s).hostReset port)

/-- PERST_ASSERT: a controller reset of the port, its link down (R324, R450). -/
def execPerstAssert (port : Nat) (s : State) : Host.Outcome State Fault Refusal :=
  .next (if ¬ s.hasPort port then s
    else ((s.modPort port fun x => { x with perst := true, d3hot := false, linkL23 := false }).linkLost port).hostReset port)

/-- PERST_DEASSERT: a wake that the Loft domain latches (R325, R455). -/
def execPerstDeassert (port : Nat) (s : State) : Host.Outcome State Fault Refusal :=
  .next (if ¬ s.hasPort port ∨ ¬ (s.port port).perst then s
    else (s.modPort port fun x => { x with perst := false }).wake 3)

/-- CONTROLLER_RESET_DRAIN_END: no command of the reset port remains, and its reset is complete (R372). -/
def execControllerResetDrainEnd (port : Nat) (s : State) : Host.Outcome State Fault Refusal :=
  .next (if ¬ (s.port port).draining ∨ s.cmds.ctxs.any (fun c => decide (c.port = port)) then s
    else (s.modPort port fun x => { x with draining := false }).settleReady port)

/-- CRWMT_EXPIRY: with CC.CRIME at 0 the media are not ready when CRWMT expires, and CSTS.RDY is set anyway (R330); never in the
recovery state (R548). -/
def execCrwmtExpiry (port : Nat) (s : State) : Host.Outcome State Fault Refusal :=
  let x := s.port port
  .next (if ¬ s.hasPort port ∨ ¬ x.enabled ∨ x.crime ∨ x.draining ∨ s.fw.recovery ∨ s.fw.halted ∨
      s.tick < x.enableTick + 500000 * x.crwmt then s
    else s.modPort port fun x => { x with ready := true })

/-- HOST_LINK_UP: the link finishes training at a speed code and width; the port constrains the sleep target again (R341,
R349). -/
def execHostLinkUp (port speed width : Nat) (s : State) : Host.Outcome State Fault Refusal :=
  .next (if ¬ s.hasPort port ∨ (s.port port).perst ∨ s.nat O.sleepStateCurrent = 4 ∨ speed = 0 ∨ 5 < speed ∨
      (width ≠ 1 ∧ width ≠ 2 ∧ width ≠ 4) then s
    else
      let s := s.modPort port fun x => { x with linkUp := true, linkL23 := false }
      ((s.setNat (O.hostLinkSpeed + port) speed).setNat (O.hostLinkWidth + port) width).requestChanged 1)

/-- FUNCTION_POWER_STATE_CHANGE: the function enters D3hot, its link L2/L3 Ready, or it returns to D0: its constraint changes
(R325, R450). -/
def execFunctionPowerStateChange (port : Nat) (d3hot l23 : Bool) (s : State) : Host.Outcome State Fault Refusal :=
  .next (if ¬ s.hasPort port ∨ ¬ (s.port port).linkUp then s
    else (s.modPort port fun x => { x with d3hot := d3hot, linkL23 := d3hot && l23 }).requestChanged 1)

/-! ### Shutdown (R331) -/

/-- SHUTDOWN_NOTIFICATION: CC.SHN written with 1 (normal) or 2 (abrupt) (R331). -/
def execShutdownNotification (port kind : Nat) (s : State) : Host.Outcome State Fault Refusal :=
  .next (if ¬ s.hasPort port ∨ ¬ (s.port port).linkUp ∨ (s.port port).shutdown ≠ 0 ∨ (kind ≠ 1 ∧ kind ≠ 2) then s
    else s.modPort port fun x => { x with shutdown := 1 })

/-- Whether a started write of a port is not on media. -/
def State.writesRemain (s : State) (p : Nat) : Bool :=
  s.cmds.ctxs.any fun c => decide (c.port = p) && c.kind.writes && c.started

/-- SHUTDOWN_COMPLETE: the port's started writes are on media: CSTS.SHST reads 10b, and the heads unload once every present
controller whose link is up has shut down (R331). -/
def execShutdownComplete (port : Nat) (s : State) : Host.Outcome State Fault Refusal :=
  .next (if (s.port port).shutdown ≠ 1 ∨ s.writesRemain port then s
    else
      let s := s.modPort port fun x => { x with shutdown := 2 }
      if (List.range s.portCount).all fun p => !(s.port p).linkUp || decide ((s.port p).shutdown = 2) then
        let s := { s with sub := { s.sub with unloadedByShutdown := true } }
        s.each (List.range s.actCount) fun s a => s.startUnload a false
      else s)

end Sys2Proof.Machine
end

