-- ==== Sys2Proof/Machine/Admin.lean ====
section
/-! DEFINITION. Admin commands: queues, Identify, log pages, features, events, self-tests, Format NVM and Sanitize (R332 to R342,
R345, R377, R378). Byte places that the spec leaves to the NVMe standard are the standard's (log entry 8). -/

namespace Sys2Proof.Machine

/-! ### Data structures as bytes -/

/-- One field of a data structure: first byte, bytes, value. -/
abbrev PageField := Nat × Nat × Nat

/-- A data structure of `n` bytes from its fields, little-endian; every other byte is zero. -/
def pageBytes (n : Nat) (fields : List PageField) : List Nat :=
  (List.range n).map fun i =>
    match fields.find? fun f => decide (f.1 ≤ i) && decide (i < f.1 + f.2.1) with
    | some f => f.2.2 / 256 ^ (i - f.1) % 256
    | none => 0

/-- A string padded with spaces to `n` bytes, as a field value. -/
def spaced (n : Nat) (b : List Nat) : Nat := ofLe ((b ++ List.replicate n 0x20).take n)

/-- Data of an admin command moved to the host. -/
def State.sendData (s : State) (port cid : Nat) (bytes : List Nat) : State :=
  s.emit (.hostData port cid (bytes.map fun (b : Nat) => (b : Int)))

/-! ### Queues (R329, R332) -/

/-- Whether a new queue may take a number: 1 to the queues granted, not in use (R332, R340). -/
def queueFree (qs : List IoQueue) (granted q : Nat) : Bool :=
  decide (1 ≤ q) && decide (q ≤ granted + 1) && qs.all fun k => decide (k.id ≠ q)

/-- Whether a queue size is 2 to 16,384 entries (R329). -/
def queueSize (n : Nat) : Bool := decide (2 ≤ n) && decide (n ≤ 16384)

/-- CREATE_IO_COMPLETION_QUEUE: contiguous, of an unused number and one of the 129 vectors (R322, R329, R332). -/
def execCreateIoCompletionQueue (port cid qid size vector : Nat) (contiguous : Bool) (s : State) : Host.Outcome State Fault Refusal :=
  .next (s.admin port cid fun s =>
    let x := s.port port
    if ¬ queueFree x.cqs x.queuesGranted.2 qid then ((1, 1, 0), s)
    else if ¬ queueSize size then ((1, 2, 0), s)
    else if ¬ contiguous then (invalidField, s)
    else if 128 < vector then ((1, 8, 0), s)
    else
      let q : IoQueue := { id := qid, size := size, cqid := vector, tail := 0, head := 0 }
      (done, s.modPort port fun x => { x with cqs := x.cqs ++ [q] }))

/-- CREATE_IO_SUBMISSION_QUEUE: contiguous, of an unused number, on an existing completion queue (R329, R332). -/
def execCreateIoSubmissionQueue (port cid qid size cqid : Nat) (contiguous : Bool) (s : State) : Host.Outcome State Fault Refusal :=
  .next (s.admin port cid fun s =>
    let x := s.port port
    if x.cqs.all fun k => decide (k.id ≠ cqid) then ((1, 0, 0), s)
    else if ¬ queueFree x.sqs x.queuesGranted.1 qid then ((1, 1, 0), s)
    else if ¬ queueSize size then ((1, 2, 0), s)
    else if ¬ contiguous then (invalidField, s)
    else
      let q : IoQueue := { id := qid, size := size, cqid := cqid, tail := 0, head := 0 }
      (done, s.modPort port fun x => { x with sqs := x.sqs ++ [q] }))

/-- A command of a deleted submission queue ends with Command Aborted due to SQ Deletion, unless its completion is committed. -/
def State.endQueued (s : State) (c : Ctx) : State :=
  if c.latch ≠ .clear then s
  else if c.kind.writes then
    if c.started then s.stopWrite c (0, 8) else (s.writeLost c).finish c.port c.sqid c.cid 0 8 0
  else (s.cancelRead c).finish c.port c.sqid c.cid 0 8 0

/-- DELETE_IO_SUBMISSION_QUEUE (R332). -/
def execDeleteIoSubmissionQueue (port cid qid : Nat) (s : State) : Host.Outcome State Fault Refusal :=
  .next (s.admin port cid fun s =>
    if (s.port port).sqs.all fun k => decide (k.id ≠ qid) then ((1, 1, 0), s)
    else
      let s := s.syncSlots
      let s := (s.cmds.ctxs.filter fun c => decide (c.port = port) && decide (c.sqid = qid)).foldl State.endQueued s
      (done, s.modPort port fun x => { x with sqs := x.sqs.filter fun k => decide (k.id ≠ qid) }))

/-- DELETE_IO_COMPLETION_QUEUE: refused while a submission queue uses it (R332). -/
def execDeleteIoCompletionQueue (port cid qid : Nat) (s : State) : Host.Outcome State Fault Refusal :=
  .next (s.admin port cid fun s =>
    let x := s.port port
    if x.cqs.all fun k => decide (k.id ≠ qid) then ((1, 1, 0), s)
    else if x.sqs.any fun k => decide (k.cqid = qid) then ((1, 0x0C, 0), s)
    else (done, s.modPort port fun x => { x with cqs := x.cqs.filter fun k => decide (k.id ≠ qid) }))

/-! ### Identify (R336, R337, R555) -/

/-- Sum of the mapped domains' capacities in sectors (R336). -/
def State.totalCapacity (s : State) : Nat := ([0, 1, 2, 3].map fun a => s.nat (O.domainCapacityA + a)).sum

/-- Sectors in the active namespaces. -/
def State.namedCapacity (s : State) : Nat := ([1, 2, 3, 4].map s.nsCapacity).sum

/-- Identify Controller: its identifiers, CNTLID 1 on HP0 and 2 on HP1, the thermal limits (R323, R326, R336, R449, R597). -/
def State.identifyController (s : State) (port : Nat) : List Nat :=
  let nqn := padTo 256 (Config.subNqn (s.blob O.nqnAuthority) (s.blob O.serialNumber))
  pageBytes 4096
    ([(0, 2, Config.identity 5), (2, 2, s.platform.subsystemIds.1), (4, 20, spaced 20 (s.blob O.serialNumber)),
      (24, 40, spaced 40 (s.blob O.modelNumber)), (64, 8, (s.fwSlot s.fw.active).revision), (72, 1, 6), (73, 3, s.nat O.ieeeOui),
      (76, 1, 3), (77, 1, 8), (78, 2, port + 1), (80, 4, 0x20000), (92, 4, 0x300), (96, 4, 0x10)] ++
     [(256, 2, 0x17), (258, 1, 3), (259, 1, 7), (260, 1, 0x14), (261, 1, 6), (262, 1, 63), (263, 1, 2), (266, 2, 368), (268, 2, 378),
      (270, 2, 50), (280, 16, s.totalCapacity * 4096), (296, 16, (s.totalCapacity - s.namedCapacity) * 4096), (316, 2, 15),
      (318, 1, 1), (319, 1, 1), (328, 4, 4), (340, 2, 1)] ++
     [(512, 1, 0x66), (513, 1, 0x44), (516, 4, 4), (520, 2, 0x8C), (524, 1, 1), (526, 2, 63), (528, 2, 63), (536, 4, 1),
      (768, 256, ofLe nqn)] ++
     [(2048, 2, 4800), (2080, 2, 400), (2083, 1, 2), (2084, 4, 1500000), (2088, 4, 6000000), (2112, 2, 320), (2115, 1, 2),
      (2116, 4, 1500000), (2120, 4, 25000000)])

/-- The hash that a namespace's identifiers come from (R555). -/
def State.nsHash (s : State) (n : Nat) : List Nat :=
  leBytes 48 (sha384 (leBytes 48 (Config.identity 7) ++ leBytes 8 s.sub.formatId ++ leBytes 4 n))

/-- NGUID: bytes 0 to 15 of the hash (R555). -/
def State.nguid (s : State) (n : Nat) : List Nat := (s.nsHash n).take 16

/-- EUI64: IeeeOui, most significant byte first, then bytes 0 to 4 of the hash; 0 while IeeeOui is 0 (R555). -/
def State.eui64 (s : State) (n : Nat) : List Nat :=
  if s.nat O.ieeeOui = 0 then List.replicate 8 0 else (leBytes 3 (s.nat O.ieeeOui)).reverse ++ (s.nsHash n).take 5

/-- Identify Namespace of an active namespace, shared by both controllers (R328, R337). -/
def State.identifyNamespace (s : State) (n : Nat) : List Nat :=
  let cap := s.nsCapacity n
  pageBytes 4096 [(0, 8, cap), (8, 8, cap), (16, 8, cap), (24, 1, 0x12), (30, 1, 1), (34, 2, 63), (36, 2, 63), (40, 2, 255),
    (44, 2, 255), (64, 2, 63), (66, 2, 63), (99, 1, if s.nsReadOnly n then 1 else 0), (102, 2, 1), (104, 16, ofLe (s.nguid n)),
    (120, 8, ofLe (s.eui64 n)), (128, 4, 12 * 65536)]

/-- IDENTIFY_CONTROLLER: Identify with CNS 01h (R336). -/
def execIdentifyController (port cid : Nat) (s : State) : Host.Outcome State Fault Refusal :=
  .next (s.admin port cid fun s => (done, s.sendData port cid (s.identifyController port)))

/-- IDENTIFY_NAMESPACE: Identify with CNS 00h; an inactive NSID from 1 to 4 returns zeros (R337). -/
def execIdentifyNamespace (port cid nsIdent : Nat) (s : State) : Host.Outcome State Fault Refusal :=
  .next (s.admin port cid fun s =>
    if s.nsActive nsIdent then (done, s.sendData port cid (s.identifyNamespace nsIdent))
    else if 1 ≤ nsIdent ∧ nsIdent ≤ 4 then (done, s.sendData port cid (List.replicate 4096 0))
    else ((0, 0x0B, 0), s))

/-- Namespace Identification Descriptors (CNS 03h): EUI64 where there is one, and NGUID (R555). -/
def State.descriptors (s : State) (n : Nat) : List Nat :=
  (if s.nat O.ieeeOui = 0 then [] else [1, 8, 0, 0] ++ s.eui64 n) ++ [2, 16, 0, 0] ++ s.nguid n

/-- IDENTIFY_LIST: Identify with CNS 02h (active NSIDs above one), 03h (descriptors), 05h and 06h (the NVM command set's own
structures, all zero); another CNS is an invalid field (R332, R335). -/
def execIdentifyList (port cid cns nsIdent : Nat) (s : State) : Host.Outcome State Fault Refusal :=
  .next (s.admin port cid fun s =>
    let send (b : List Nat) : (Nat × Nat × Nat) × State := (done, s.sendData port cid (padTo 4096 b))
    if cns = 2 then send (([1, 2, 3, 4].filter fun n => s.nsActive n && decide (nsIdent < n)).flatMap (leBytes 4))
    else if cns = 3 then if s.nsActive nsIdent then send (s.descriptors nsIdent) else ((0, 0x0B, 0), s)
    else if cns = 5 then
      if 1 ≤ nsIdent ∧ nsIdent ≤ 4 then send [] else ((0, 0x0B, 0), s)
    else if cns = 6 then send []
    else (invalidField, s))

/-! ### Log pages (R338, R339, R527) -/

/-- Error Information: 64 entries, newest first. -/
def Port.errorPage (x : Port) : List Nat :=
  padTo 4096 (x.errors.flatMap fun e =>
    pageBytes 64 [(0, 8, e.getD 6 0), (8, 2, e.getD 0 0), (10, 2, e.getD 1 0), (12, 2, 2 * (e.getD 3 0 + 256 * e.getD 2 0)),
      (16, 8, e.getD 5 0), (24, 4, e.getD 4 0)])

/-- Thousands of 512-byte units of a number of sectors, rounded up. -/
def dataUnits (sectors : Nat) : Nat := (8 * sectors + 999) / 1000

/-- Percentage Used: the largest share of the 60 mV ageing allowance used (R339). -/
def State.percentageUsed (s : State) : Nat :=
  ((List.range 6).map fun l => s.nat (O.ageingRaise + l) * 100 / 60).foldl max 0

/-- SMART / Health Information (R339). -/
def State.smartPage (s : State) : List Nat :=
  let m := s.sub.smart
  let busy := m.busyTicks + (match m.busySince with
    | some t => s.tick - t
    | none => 0)
  pageBytes 512 [(0, 1, s.criticalWarning), (1, 2, s.kelvin), (3, 1, s.availableSpare), (4, 1, 10), (5, 1, s.percentageUsed),
    (32, 16, dataUnits m.sectorsRead), (48, 16, dataUnits m.sectorsWritten), (64, 16, m.reads), (80, 16, m.writes),
    (96, 16, busy / 60000000), (112, 16, m.powerCycles), (128, 16, s.powerOnHours), (144, 16, s.nat O.powerLossEvents),
    (160, 16, s.nat (O.ladderOutcomes + 5))]

/-- Firmware Slot Information (R527). -/
def State.firmwarePage (s : State) : List Nat :=
  let rev (n : Nat) : Nat := if (s.fwSlot n).valid then (s.fwSlot n).revision else 0
  pageBytes 512 [(0, 1, s.fw.active), (8, 8, rev 1), (16, 8, rev 2)]

/-- Commands Supported and Effects: bit 0 supported; bit 1 content, bit 3 namespace inventory, bit 4 controller capabilities
(R338). -/
def effectsPage : List Nat :=
  let admin := ([0x00, 0x01, 0x02, 0x04, 0x05, 0x06, 0x08, 0x09, 0x0A, 0x0C, 0x10, 0x11, 0x14, 0x81, 0x82, 0xC4].map fun c => (4 * c, 4, 1)) ++
    [(4 * 0x80, 4, 0x0B), (4 * 0x84, 4, 0x0B), (4 * 0xC5, 4, 0x11)]
  let io := [0x00, 0x01, 0x02, 0x08, 0x09, 0x0C].map fun c => (1024 + 4 * c, 4, 1)
  pageBytes 4096 (admin ++ io)

/-- Device Self-test: the running test, then 20 results, newest first. -/
def State.selfTestPage (s : State) : List Nat :=
  let running := (s.sub.selfTest.map SelfTest.code).getD 0
  let entry (e : Nat × Nat × Nat × Nat) : List Nat := pageBytes 28 [(0, 1, e.2.1 + 16 * e.1), (1, 1, e.2.2.1), (4, 8, e.2.2.2)]
  let unused := pageBytes 28 [(0, 1, 15)]
  [running, 0, 0, 0] ++ (s.sub.selfTests.flatMap entry) ++ (List.replicate (20 - s.sub.selfTests.length) unused).flatten

/-- Rotational Media Information of endurance group 1 (R338). -/
def State.rotationalPage (s : State) : List Nat :=
  pageBytes 512 [(0, 2, 1), (2, 2, s.actCount), (4, 2, s.nat O.spindleNominalRpm), (8, 4, s.sub.smart.spinUps),
    (12, 4, s.sub.smart.failedSpinUps), (16, 4, s.sub.smart.loads), (20, 4, s.sub.smart.failedLoads), (24, 4, s.sub.smart.spinDowns)]

/-- Passes of a Sanitize: bits 7:4 of dword 10, where 0 stands for 16 (R378). -/
def SanitizeRun.total (p : SanitizeRun) : Nat := if p.dword10 / 16 % 16 = 0 then 16 else p.dword10 / 16 % 16

/-- Surfaces that a format or a sanitize pass writes: those of the mapped actuators whose heads can write (R377, R378). -/
def State.wipeSurfaces (s : State) : List Nat := (List.range s.headCount).filter fun h => s.mapped (actOf h) && !s.headFenced h

/-- Progress of a running Sanitize in 1/65,536 of its work: surfaces written of all its passes; 65,535 where none runs (R378). -/
def State.sanitizeProgress (s : State) : Nat :=
  match s.sub.sanitize with
  | none => 65535
  | some p =>
    let n := s.wipeSurfaces.length
    min 65534 (65536 * (p.passes * n + (match p.left with
      | some l => n - l.length
      | none => 0)) / max 1 (p.total * n))

/-- Sanitize Status: progress, status with the passes complete, dword 10 of the command; no time is estimated (R338, R378). -/
def State.sanitizePage (s : State) : List Nat :=
  pageBytes 512 ([(0, 2, s.sanitizeProgress), (2, 2, s.sub.sanitizeStatus + 8 * s.sub.sanitizePasses), (4, 4, s.sub.sanitizeDword10)] ++
    (List.range 6).map fun i => (8 + 4 * i, 4, 2 ^ 32 - 1))

/-- Header of a vendor page: its number of entries. -/
def vendorPage (n : Nat) (entries : List Nat) : List Nat := leBytes 4 n ++ [0, 0, 0, 0] ++ entries

/-- Activation Refusal (R338). -/
def State.refusalPage (s : State) : List Nat :=
  vendorPage s.sub.refusals.length (s.sub.refusals.flatMap fun e =>
    leBytes 8 e.1 ++ [e.2.1 % 256, e.2.2.1 % 256, e.2.2.2 % 256, 0, 0, 0, 0, 0])

/-- Unrecoverable Sectors (R338). -/
def State.unrecoverablePage (s : State) : List Nat :=
  vendorPage s.sub.unrecoverable.length (s.sub.unrecoverable.flatMap fun e =>
    leBytes 8 e.1 ++ leBytes 4 e.2.1 ++ leBytes 8 e.2.2.1 ++ leBytes 8 e.2.2.2)

/-- Head Service: one entry per head (R338). -/
def State.headPage (s : State) : List Nat :=
  vendorPage s.headCount ((List.range s.headCount).flatMap fun h =>
    let service := s.nat (O.headService + h)
    let bits := (if bitOf (s.nat O.narrowHeadMask) h then 1 else 0) + (if service = 3 then 2 else 0) + (if service = 2 then 4 else 0)
    [h, s.nat (O.positionState + h) % 256, s.nat (O.clockState + h) % 256, bits] ++ leBytes 2 (s.nat (O.headPace + h)) ++ [0, 0])

/-- Fault Summary of a controller (R338). -/
def Port.faultPage (x : Port) : List Nat :=
  vendorPage x.faultSummary.length (x.faultSummary.flatMap fun e =>
    leBytes 2 e.1 ++ [e.2.1 % 256, 0] ++ leBytes 8 e.2.2.1 ++ leBytes 8 e.2.2.2)

/-- A log page by its identifier; none for another (R338). -/
def State.logPage (s : State) (port page : Nat) : Option (List Nat) :=
  if page = 0x01 then some (s.port port).errorPage
  else if page = 0x02 then some s.smartPage
  else if page = 0x03 then some s.firmwarePage
  else if page = 0x04 then some (padTo 4096 ((s.port port).changedNamespaces.flatMap (leBytes 4)))
  else if page = 0x05 then some effectsPage
  else if page = 0x06 then some s.selfTestPage
  else if page = 0x16 then some s.rotationalPage
  else if page = 0x81 then some s.sanitizePage
  else if page = 0xC0 then some s.refusalPage
  else if page = 0xC1 then some s.unrecoverablePage
  else if page = 0xC2 then some s.headPage
  else if page = 0xC3 then some (s.port port).faultPage
  else none

/-- A read of a page with Retain Asynchronous Event clear: its events may be posted again, and what it lists since the last such
read is taken off it (R338, R342). -/
def clearPage (page : Nat) (x : Port) : Port :=
  { x with
    masked := x.masked.filter fun m => decide (m.2 ≠ page)
    changedNamespaces := if page = 4 then [] else x.changedNamespaces
    faultSummary := if page = 0xC3 then [] else x.faultSummary }

/-- GET_LOG_PAGE: a page's bytes from an offset on, or Invalid Log Page (R338). -/
def execGetLogPage (port cid page nsIdent : Nat) (rae : Bool) (offset length : Nat) (s : State) : Host.Outcome State Fault Refusal :=
  .next (s.admin port cid fun s =>
    match s.logPage port page with
    | none => ((1, 9, 0), s)
    | some b =>
      if page = 2 ∧ nsIdent ≠ 0 ∧ nsIdent ≠ 0xFFFFFFFF then (invalidField, s)
      else
        let s := s.sendData port cid (padTo length (b.drop offset))
        (done, if rae then s else s.modPort port (clearPage page)))

/-! ### Features (R340 to R342) -/

/-- A Set Features whose value is accepted or refused: the Save bit is not supported (R335, R340). -/
def State.setFeature (s : State) (port cid : Nat) (save ok : Bool) (f : Port → Port) : State :=
  s.admin port cid fun s => if save ∨ ¬ ok then (invalidField, s) else (done, s.modPort port f)

/-- SET_FEATURES_ARBITRATION: the burst of bits 2:0; priority weights are ignored (R340). -/
def execSetFeaturesArbitration (port cid value : Nat) (save : Bool) (s : State) : Host.Outcome State Fault Refusal :=
  .next (s.setFeature port cid save (decide (value / 8 % 32 = 0)) fun x => { x with arbitration := value % 8 })

/-- SET_FEATURES_TEMPERATURE_THRESHOLD: bits 15:0 the threshold, 19:16 the composite sensor, 21:20 over or under (R340). -/
def execSetFeaturesTemperatureThreshold (port cid value : Nat) (save : Bool) (s : State) : Host.Outcome State Fault Refusal :=
  let sensor := value / 65536 % 16
  let kind := value / 0x100000
  .next (s.setFeature port cid save ((decide (sensor = 0) || decide (sensor = 15)) && decide (kind < 2)) fun x =>
    if kind = 0 then { x with tempOver := value % 65536 } else { x with tempUnder := value % 65536 })

/-- SET_FEATURES_ERROR_RECOVERY: TLER n gives LadderTimeLimit n × 100 ms, 0 gives 10,000 ms; DULBE 0 only (R340). -/
def execSetFeaturesErrorRecovery (port cid nsIdent value : Nat) (save : Bool) (s : State) : Host.Outcome State Fault Refusal :=
  .next (s.admin port cid fun s =>
    if save ∨ 100 < value then (invalidField, s)
    else if nsIdent ≠ 0xFFFFFFFF ∧ ¬ s.nsActive nsIdent then ((0, 0x0B, 0), s)
    else (done, s.setNat O.ladderTimeLimit (if value = 0 then 10000 else 100 * value)))

/-- SET_FEATURES_NUMBER_OF_QUEUES: up to 128 of each are granted; both numbers count from zero (R340). -/
def execSetFeaturesNumberOfQueues (port cid submission completion : Nat) (save : Bool) (s : State) : Host.Outcome State Fault Refusal :=
  .next (s.admin port cid fun s =>
    let x := s.port port
    if save ∨ 65535 ≤ submission ∨ 65535 ≤ completion then (invalidField, s)
    else if x.sqs ≠ [] ∨ x.cqs ≠ [] then ((0, 0x0C, 0), s)
    else
      let granted := (min submission 127, min completion 127)
      ((0, 0, granted.1 + 65536 * granted.2), s.modPort port fun x => { x with queuesGranted := granted }))

/-- SET_FEATURES_INTERRUPT_COALESCING: bits 7:0 the threshold, 15:8 the time (R340). -/
def execSetFeaturesInterruptCoalescing (port cid value : Nat) (save : Bool) (s : State) : Host.Outcome State Fault Refusal :=
  .next (s.setFeature port cid save (decide (value < 65536)) fun x => { x with coalescing := value })

/-- SET_FEATURES_INTERRUPT_VECTOR_CONFIG: bits 15:0 one of the 129 vectors, bit 16 no coalescing (R322, R340). -/
def execSetFeaturesInterruptVectorConfig (port cid value : Nat) (save : Bool) (s : State) : Host.Outcome State Fault Refusal :=
  .next (s.setFeature port cid save (decide (value < 131072) && decide (value % 65536 ≤ 128)) fun x =>
    { x with vectors := putKey x.vectors (value % 65536) (value / 65536) })

/-- SET_FEATURES_WRITE_ATOMICITY_NORMAL: accepted, without effect (R340). -/
def execSetFeaturesWriteAtomicityNormal (port cid value : Nat) (save : Bool) (s : State) : Host.Outcome State Fault Refusal :=
  .next (s.setFeature port cid save (decide (value < 2)) fun x => { x with atomicity := value })

/-- SET_FEATURES_ASYNC_EVENT_CONFIG: bits 3:0, 8 and 9; another bit is reserved (R340, R342). -/
def execSetFeaturesAsyncEventConfig (port cid value : Nat) (save : Bool) (s : State) : Host.Outcome State Fault Refusal :=
  .next (s.setFeature port cid save (decide (value &&& 0x30F = value)) fun x => { x with eventMask := value })

/-- SET_FEATURES_POWER_MANAGEMENT: the port's requested state in bits 4:0, a Workload Hint of 0 to 2 in bits 7:5. It completes at once where the combined request does not change
or no entry begins, otherwise with the entry it waits on (R341). -/
def execSetFeaturesPowerManagement (port cid value : Nat) (save : Bool) (s : State) : Host.Outcome State Fault Refusal :=
  let (ok, s) := s.fetch port 0
  .next (if ¬ ok then s
    else if save ∨ 96 ≤ value ∨ 2 < value % 32 then s.answer port 0 cid 0 2 0
    else
      let former := s.nat (O.powerStateRequested + port)
      let before := s.hostConstraint
      let s := s.setNat (O.powerStateRequested + port) (value % 32)
      if s.hostConstraint = before then s.answer port 0 cid 0 0 0
      else
        let s := s.requestChanged 1
        if s.nat O.sleepEntryState = 1 then
          (s.addAdmin port cid false).modPort port fun x =>
            { x with powerWait := (cid, former) :: x.powerWait }
        else s.answer port 0 cid 0 0 0)

/-- Current value of a feature, by its identifier; none for one not implemented (R340). -/
def State.feature (s : State) (x : Port) (port feature value : Nat) : Option Nat :=
  if feature = 1 then some x.arbitration
  else if feature = 2 then some (s.nat (O.powerStateRequested + port))
  else if feature = 4 then some (if value / 0x100000 % 4 = 1 then x.tempUnder else x.tempOver)
  else if feature = 5 then
    let t := s.nat O.ladderTimeLimit
    some (if t = 10000 then 0 else (t + 99) / 100)
  else if feature = 7 then some (x.queuesGranted.1 + 65536 * x.queuesGranted.2)
  else if feature = 8 then some x.coalescing
  else if feature = 9 then some (value % 65536 + 65536 * (assoc? x.vectors (value % 65536)).getD 0)
  else if feature = 0x0A then some x.atomicity
  else if feature = 0x0B then some x.eventMask
  else none

/-- Default value of a feature, by its identifier (R199, R340). -/
def featureDefault (feature value : Nat) : Nat :=
  if feature = 4 then if value / 0x100000 % 4 = 1 then 0 else 368
  else if feature = 5 then 5
  else if feature = 7 then 127 + 65536 * 127
  else if feature = 9 then value % 65536
  else if feature = 0x0B then 783
  else 0

/-- GET_FEATURES: the current (0), default (1) or supported (3) value; another select, or another identifier, is an invalid
field (R340). -/
def execGetFeatures (port cid feature select value nsIdent : Nat) (s : State) : Host.Outcome State Fault Refusal :=
  .next (s.admin port cid fun s =>
    match s.feature (s.port port) port feature value with
    | none => (invalidField, s)
    | some v =>
      if feature = 5 ∧ nsIdent ≠ 0xFFFFFFFF ∧ ¬ s.nsActive nsIdent then ((0, 0x0B, 0), s)
      else if feature = 9 ∧ 128 < value % 65536 then (invalidField, s)
      else if select = 0 then ((0, 0, v), s)
      else if select = 1 then ((0, 0, featureDefault feature value), s)
      else if select = 3 then ((0, 0, 4), s)
      else (invalidField, s))

/-! ### Asynchronous events and self-tests (R342, R345) -/

/-- ASYNCHRONOUS_EVENT_REQUEST: held until an event is posted to it, at once where one waits; at most 8 are outstanding
(R332, R342). -/
def execAsynchronousEventRequest (port cid : Nat) (s : State) : Host.Outcome State Fault Refusal :=
  let (ok, s) := s.fetch port 0
  .next (if ¬ ok then s
    else if 8 ≤ (s.port port).aer.length then s.answer port 0 cid 1 5 0
    else
      match (s.port port).held with
      | (type, info, page) :: rest =>
        let s := s.modPort port fun x => { x with held := rest }
        (s.emit (.asyncEvent port cid type info page)).answer port 0 cid 0 0 (type + 256 * info + 65536 * page)
      | [] =>
        (s.addCtx { port := port, sqid := 0, cid := cid, kind := .admin }).modPort port fun x => { x with aer := x.aer ++ [cid] })

/-- Link errors counted since power-up: header errors, CRC mismatches and erased blocks of the reader links (R106). -/
def State.linkErrors (s : State) : Nat :=
  ((List.range 72).map fun n => s.nat (O.rslHeaderErrors + n) + s.nat (O.rslIntervalCrcErrors + n) + s.nat (O.rslErasedBlocks + n)).sum

/-- Lane rows that an extended self-test reads, with their heads: one in every 1,024 of each zone of each unfenced surface (R345). -/
def State.testRows (s : State) : List (Nat × Nat) :=
  (s.layout.tables.filter fun t => !s.headFenced t.surface).flatMap fun t => t.entries.flatMap fun e =>
    (List.range ((e.laneCount + 1023) / 1024)).map fun k => (t.surface, e.firstLane + 1024 * k)

/-- A self-test started by a port: not while one, a Format NVM or a Sanitize runs (R345, R376). -/
def State.startSelfTest (s : State) (port cid code : Nat) : State :=
  s.admin port cid fun s =>
    if s.sub.selfTest.isSome ∨ s.sub.format.isSome ∨ s.sub.sanitize.isSome then ((1, 0x1D, 0), s)
    else
      let rows := if code = 2 then s.testRows else []
      (done, { s with sub := { s.sub with
        selfTest := some { code := code, port := port, cid := cid, errors := s.linkErrors, rows := rows } } })

/-- DEVICE_SELF_TEST_SHORT: code 1h (R345). -/
def execDeviceSelfTestShort (port cid : Nat) (s : State) : Host.Outcome State Fault Refusal := .next (s.startSelfTest port cid 1)

/-- DEVICE_SELF_TEST_EXTENDED: code 2h (R345). -/
def execDeviceSelfTestExtended (port cid : Nat) (s : State) : Host.Outcome State Fault Refusal := .next (s.startSelfTest port cid 2)

/-- DEVICE_SELF_TEST_ABORT: code Fh aborts the running test from either controller (R345). -/
def execDeviceSelfTestAbort (port cid : Nat) (s : State) : Host.Outcome State Fault Refusal :=
  .next (s.admin port cid fun s => (done, s.endSelfTest 1 0))

/-- The first segment of a self-test that fails, 0 for none: 1 a decoder whose test codeword fails or that is withdrawn, 2 link errors
since the test began, 3 a preamplifier with a status flag, 4 a hold-up sense input below its limit, 5 a lane row with a sector that
the ladder could not recover (R345, log entry 127). -/
def State.failedSegment (s : State) (t : SelfTest) (bad : List Nat) (vin bank : Nat) : Nat :=
  if bad ≠ [] ∨ s.detect.withdrawn ≠ [] then 1
  else if t.errors < s.linkErrors then 2
  else if (List.range s.pclCount).any fun k => decide ((s.pcl k).summary ≠ 0) then 3
  else if inputMv vin < s.nat O.powerLossThreshold ∨ inputMv bank < s.nat O.holdUpMinVoltage then 4
  else if t.lost then 5
  else 0

/-- A lane row of an extended self-test: read in a spare revolution, and noted once its every sector is final (R274, R345). -/
def State.testRow (s : State) (t : SelfTest) (head lane : Nat) : State :=
  match s.readFor 9 head lane with
  | none => if s.headFenced head ∨ ¬ s.spareFor (actOf head) 6 then s else s.startRead 9 (actOf head) head lane (s.laneWants head lane [0, 1])
  | some d =>
    if d.want ≠ [] then s
    else
      let s := s.endRead d
      { s with sub := { s.sub with
        selfTest := some { t with rows := t.rows.filter (· ≠ (head, lane)), lost := t.lost || d.results.any fun r => r.found.isNone } } }

/-- SELF_TEST_COMPLETE: an extended test goes on with its next lane row; a test without one ends with what it found: `failed` names the
decoders whose test codeword failed, which are withdrawn, and `vin` and `bank` are conversions of the two hold-up sense inputs (R146,
R345, R576). -/
def execSelfTestComplete (failed : List Nat) (vin bank : Nat) (s : State) : Host.Outcome State Fault Refusal :=
  .next (match s.sub.selfTest with
    | none => s
    | some t =>
      match t.rows.find? fun r => !s.headFenced r.1 with
      | some r => s.testRow t r.1 r.2
      | none =>
        let segment := s.failedSegment t failed vin bank
        (s.withdrawDecoders failed).endSelfTest (if segment = 0 then 0 else 7) segment)

/-! ### Format NVM (R75, R333, R377) -/

/-- Whether a format must be refused with Invalid Format: no actuator to map, or a ledger that does not fit (R191, R377). -/
def State.formatUnfit (s : State) : Bool :=
  let acts := (List.range s.actCount).filter fun a => decide (s.nat (O.actuatorService + a) ≠ 3)
  acts.isEmpty || acts.any fun a =>
    (headsOf a).any fun h => decide (Config.ledgerRoom h < (s.domainCapacity a / 384 + 1791) / 1792)

/-- Read-ahead in flight and the clean chunk buffers, whose data the media will no longer return, dropped as a format or a sanitize begins
(R75, R377, R378; log entry 133). -/
def State.forgetCopies (s : State) : State :=
  let s := s.dropAhead
  { s with larder := { s.larder with buffers := s.larder.buffers.filter fun b => !b.clean } }

/-- FORMAT_NVM: takes the Format key and fixes the mapping and the mapped set; the tables, sectors, ledger and slots follow
(R327, R333, R376, R377). -/
def execFormatNvm (port cid nsIdent value mapping : Nat) (s : State) : Host.Outcome State Fault Refusal :=
  let (ok, s) := s.fetch port 0
  .next (if ¬ ok then s
    else if s.sub.sanitize.isSome then s.answer port 0 cid 0 0x1D 0
    else
      match s.takeKey 0 port with
      | none => s.answer port 0 cid 7 0xC1 0
      | some (held, t) =>
        let refuse (sct sc : Nat) : State := (if held then t.dropHold 0 else t).answer port 0 cid sct sc 0
        if s.sub.format.isSome then refuse 0 0x84
        else if value ≠ 0 ∨ 1 < mapping then refuse 0 2
        else if nsIdent ≠ 0xFFFFFFFF ∧ ¬ s.nsActive nsIdent then refuse 0 0x0B
        else if s.formatUnfit then refuse 1 0x0A
        else
          let t := (t.endSelfTest 4 0).forgetCopies.addAdmin port cid false
          let t : State := { t with sub := { t.sub with
            format := some { port := port, cid := cid, mapping := mapping }, formatHolds := held } }
          t.fixMapping mapping)

/-- Every slot of the Cellar discarded and each watermark at the next SlotSequence (R377, R378). -/
def State.discardSlots (s : State) : State :=
  let s : State := { s with
    cmds := { s.cmds with slots := [], watermarkDirty := [] }
    write := { s.write with again := [], chunks := s.write.chunks.filter fun w => decide (w.kind = 0) } }
  s.each ((List.range 4).filter fun a => s.mapped a) fun s a => s.append 0x60 [a, s.watermark a]

/-- HeadSkew of a zone as a format measures it: the clock count of the surface's head less that of the actuator's reference head, both
Confirmed, scaled to the zone and reduced to half a revolution either way (R59, log entry 128). -/
def State.measuredSkew (s : State) (surface : Nat) (e : ZoneEntry) : Int :=
  let ref := 6 * actOf surface
  if s.nat (O.clockState + surface) = 3 ∧ s.nat (O.clockState + ref) = 3 then
    let own := bitsPerRev (s.headZone surface)
    let rev : Int := bitsPerRev e
    let d := roundDiv (((s.countNow surface : Int) - s.countNow ref) * rev) (64 * max 1 own)
    if rev = 0 then 0 else (d + rev / 2) % rev - rev / 2
  else e.headSkew

/-- A table of a surface written to its three copies: 1 and 2 on the surface, 3 on its partner (R61). -/
def State.writeCopies (s : State) (surface kind number : Nat) (b : List Nat) : State :=
  ((s.systemWrite surface kind number 1 b).systemWrite surface kind number 2 b).systemWrite (partnerSurface surface) kind number 3 b

/-- The zone and spare tables of the mapped actuators written with a new FormatId and the measured skews, the spare tables'
TableSequence advanced: copies 1 and 2 on the surface, copy 3 on its partner (R59, R61, R377). -/
def State.rewriteTables (s : State) (id : Nat) : State :=
  let hit (surface : Nat) : Bool := s.mapped (actOf surface)
  let s : State := { s with
    sub := { s.sub with formatId := id }
    layout := { s.layout with
      tables := s.layout.tables.map fun (t : ZoneTable) => if hit t.surface then
          { t with formatId := id, entries := t.entries.map fun e => { e with headSkew := s.measuredSkew t.surface e } } else t
      spares := s.layout.spares.map fun (t : SpareTable) => if hit t.surface then { t with formatId := id, sequence := (t.sequence + 1) % 2 ^ 32 } else t
      remaps := [] } }
  let s := (s.layout.tables.filter fun t => hit t.surface).foldl (fun (s : State) t => s.writeCopies t.surface 1 t.surface (zoneTableBytes t)) s
  (s.layout.spares.filter fun t => hit t.surface).foldl (fun (s : State) t => s.writeCopies t.surface 2 t.zone (spareTableBytes t)) s

/-- Runout tables, trims, saved calibration and equaliser sets reset by a format (R139, R280). -/
def State.resetCalibration (s : State) : State :=
  let s := s.each (List.range s.headCount) fun s h =>
    (s.setObj (O.heaterTrim + h) 0).modHead h fun x => { x with trims := [], rro := [], rroSum := [], rroCount := [], rroRevs := 0 }
  ({ s with pos := { s.pos with saved := [] } }).restoreSets

/-- Every sector of a surface written whole, sectors with a number in their 4,096 bytes (R377, R378). -/
def State.wipe (s : State) (surface flags : Nat) (advanced : Bool) (data : Nat) : State := s.emit (.wiped surface flags advanced data)

/-- Ledger entries of a surface after it is written whole: all of one generation and trusted (R56, R189, R377). -/
def State.resetLedger (s : State) (surface : Nat) : State :=
  let other (k : Nat) : Bool := decide (k / 2 ^ 32 ≠ surface)
  { s with write := { s.write with
      ledger := s.write.ledger.filter fun e => other e.1, media := s.write.media.filter fun e => other e.1
      dirty := s.write.dirty.filter fun x => decide (x.1 ≠ surface), doubt := s.write.doubt.filter fun x => decide (x.1 ≠ surface)
      base := dropKey s.write.base surface } }

/-- The first step of a format after its mapping: tables written, calibration results reset, and the calibration pass (R271, R280,
R377). -/
def State.formatTables (s : State) (f : FormatRun) (heads : List HeadCal) (loops : List LoopCal) : State :=
  let (v, s) := s.takeFree
  let s := (s.rewriteTables (v % 2 ^ 64)).resetCalibration
  let s := s.each ((List.range s.actCount).filter fun a => s.mapped a && decide ((s.act a).load = 2)) fun s a =>
    s.calibrate a true heads loops
  { s with sub := { s.sub with format := some { f with left := some s.wipeSurfaces } } }

/-- The end of a format, whose every surface is written: slots discarded, caches invalidated, the notice raised, and the command
completes with its key released (R39, R327, R342, R377, R403). -/
def State.formatEnds (s : State) (f : FormatRun) : State :=
  let s : State := { s with write := { s.write with ledger := [], media := [], dirty := [], doubt := [], doubtAll := false, base := [], adjacent := [] } }
  let s := s.discardSlots.cacheClear
  let s := if s.nat O.larderEnable = 1 then s else s.setNat O.invalidateSinceDisable 1
  let s := (s.refreshCapacity.countSpares.setNat O.formatProgress 1000)
  let s := if s.sub.formatHolds then s.dropHold 0 else s
  let s : State := { s with sub := { s.sub with format := none, formatHolds := false } }
  let s := (s.noteNamespaces ([1, 2, 3, 4].filter s.nsActive)).postAll 2 0 4 (some 8)
  if f.port < 2 then (if f.lost then s.finish f.port 0 f.cid 2 0x80 0 else s.finish f.port 0 f.cid 0 0 0) else s

/-- A lane that a format's write of its surface found defective, by zone and LaneOffset, mapped to the lowest free spare of the zone, the
spare table written; none free, the format's write fails (R72, R198, R377; log entries 119 and 130). -/
def State.formatRemap (s : State) (surface : Nat) (lane : Nat × Nat) : Option State :=
  match (s.spareTable surface lane.1).bind fun t =>
      (t.entries.zipIdx.find? fun e => decide (e.1.state = 0)).map fun e => mapSpare t lane.2 e.2 with
  | some t => some ({ s with layout := { s.layout with
      spares := s.layout.spares.map fun (x : SpareTable) => if x.surface = surface ∧ x.zone = lane.1 then t else x } }.writeCopies
        surface 2 lane.1 (spareTableBytes t))
  | none => none

/-- The lanes of a surface that a format found defective remapped in turn; false with one that finds no spare (R198, R377). -/
def State.formatRemaps (s : State) (surface : Nat) (lanes : List (Nat × Nat)) : Bool × State :=
  lanes.foldl (fun (x : Bool × State) lane =>
    match s.zoneOf surface lane.1 with
    | some e =>
      if e.laneCount ≤ lane.2 then x
      else match x.2.formatRemap surface lane with
        | some t => (x.1, t)
        | none => (false, x.2)
    | none => x) (true, s)

/-- A surface of a running format written with zero data and the reset header, its ledger entries 0 and its defective lanes remapped;
with the last one the format ends (R53, R377). -/
def State.formatSurface (s : State) (f : FormatRun) (left : List Nat) (defects : List (Nat × Nat)) : State :=
  let rest := (left.filter fun h => !s.headFenced h)
  let (whole, s) := match rest with
    | [] => (true, s)
    | h :: _ => ((s.wipe h 4096 false 0).resetLedger h).formatRemaps h defects
  let n := s.wipeSurfaces.length
  let f : FormatRun := { f with left := some rest.tail, lost := f.lost || !whole }
  if rest.tail = [] then s.formatEnds f
  else ({ s with sub := { s.sub with format := some f } }).setNat O.formatProgress (1000 * (n - rest.tail.length) / max 1 n)

/-- FORMAT_NVM_COMPLETE: a running format goes on by its next part while the heads are loaded at speed: first the tables and the
calibration pass, whose results it takes, then one surface after the other, `defects` naming the lanes, by zone and LaneOffset, that the
write found defective; the last one ends it (R377). -/
def execFormatNvmComplete (heads : List HeadCal) (loops : List LoopCal) (defects : List (Nat × Nat)) (s : State) : Host.Outcome State Fault Refusal :=
  .next (match s.sub.format with
    | none => s
    | some f =>
      if s.nat O.spindleState ≠ 5 ∨ ¬ s.mappedDone ∨ s.spindle.powerLost then s
      else
        match f.left with
        | none => s.formatTables f heads loops
        | some l => s.formatSurface f l defects)

/-! ### Sanitize (R378) -/

/-- SANITIZE: the overwrite action of dword 10, its passes in bits 7:4, the inversion in bit 8. The command completes once the operation
has started, which holds the Format key (R327, R335, R376, R378). -/
def execSanitize (port cid dword10 pattern : Nat) (s : State) : Host.Outcome State Fault Refusal :=
  let (ok, s) := s.fetch port 0
  .next (if ¬ ok then s
    else if s.sub.sanitize.isSome then s.answer port 0 cid 0 0x1D 0
    else
      match s.takeKey 0 port with
      | none => s.answer port 0 cid 7 0xC1 0
      | some (held, t) =>
        let refuse (sct sc : Nat) : State := (if held then t.dropHold 0 else t).answer port 0 cid sct sc 0
        if s.sub.format.isSome then refuse 0 0x84
        else if dword10 % 8 ≠ 3 ∨ 1024 ≤ dword10 then refuse 0 2
        else
          let t := (t.endSelfTest 9 0).forgetCopies.discardSlots
          let t : State := { t with sub := { t.sub with
            sanitize := some { dword10 := dword10, pattern := pattern % 2 ^ 32 }, sanitizeHolds := held, sanitizeStatus := 2
            sanitizePasses := 0, sanitizeDword10 := dword10 } }
          t.answer port 0 cid 0 0 0)

/-- The 4,096 bytes that a pass writes: the pattern of dword 11, inverted in every second pass where OIPBP is set (R378). -/
def SanitizeRun.data (p : SanitizeRun) : Nat :=
  let word := if p.dword10.testBit 8 ∧ p.passes % 2 = 1 then 2 ^ 32 - 1 - p.pattern else p.pattern
  ((List.range 1024).map fun i => word * 2 ^ (32 * i)).sum

/-- Ledger entries of a surface whose every sector has been written once more (R56, R189). -/
def State.advanceLedger (s : State) (surface : Nat) : State :=
  let next (e : Nat × LedgerEntry) : Nat × LedgerEntry :=
    if e.1 / 2 ^ 32 = surface then (e.1, { e.2 with gen := (e.2.gen + 1) % 65536 }) else e
  let base := ((assoc? s.write.base surface).getD 0 + 1) % 65536
  { s with write := { s.write with
      ledger := s.write.ledger.map next, media := s.write.media.map next
      base := if base = 0 then dropKey s.write.base surface else putKey s.write.base surface base } }

/-- A running Sanitize ended, completed or failed: its key is released (R327, R378). -/
def State.sanitizeEnds (s : State) (status : Nat) : State :=
  let s := if s.sub.sanitizeHolds then s.dropHold 0 else s
  { s with sub := { s.sub with sanitize := none, sanitizeHolds := false, sanitizeStatus := status } }

/-- Cached lines with a sector whose home is on a surface, or on a head that no pass can write, invalidated as the first pass overwrites
it (R403). -/
def State.forgetSurface (s : State) (surface : Nat) : State :=
  let here (nsid line : Nat) : Bool := match s.locate nsid (16 * line) with
    | some p => decide (p.surface = surface) || s.headFenced p.surface
    | none => true
  { s with larder := { s.larder with
      lines := s.larder.lines.filter fun l => !here l.nsid l.line
      pantry := s.larder.pantry.filter fun l => !here l.nsid l.line } }

/-- A surface of the present pass written. -/
def State.wipeNext (s : State) (surface : Nat) (p : SanitizeRun) : State := (s.wipe surface 4098 true p.data).advanceLedger surface

/-- A surface of the present pass written with the Sanitized flag; with the last surface of the last pass the operation ends (R54,
R378). -/
def State.sanitizeSurface (s : State) (p : SanitizeRun) : State :=
  let left := (p.left.getD s.wipeSurfaces).filter fun h => !s.headFenced h
  let s := match left with
    | [] => s
    | h :: _ => (if p.passes = 0 then s.forgetSurface h else s).wipeNext h p
  let over_ := decide (left.tail = [])
  let p : SanitizeRun := { p with passes := p.passes + over_.toNat, left := if over_ then none else some left.tail }
  let s : State := { s with sub := { s.sub with sanitize := some p, sanitizePasses := p.passes } }
  if p.total ≤ p.passes then s.sanitizeEnds 1 else s

/-- SANITIZE_COMPLETE: a running Sanitize goes on by one surface while the heads are loaded at speed; the last surface of the last pass
completes it, and a write that fails, `ok` being false, ends it as failed (R378). -/
def execSanitizeComplete (ok : Bool) (s : State) : Host.Outcome State Fault Refusal :=
  .next (match s.sub.sanitize with
    | none => s
    | some p =>
      if s.nat O.spindleState ≠ 5 ∨ ¬ s.mappedDone ∨ s.spindle.powerLost then s
      else if ok then s.sanitizeSurface p else s.sanitizeEnds 3)

end Sys2Proof.Machine
end

