-- ==== Sys2Proof/Machine/Package.lean ====
section
/-! DEFINITION. Balls, pair slots and ports of the package, the boundary-scan cells and the state of the ports outside normal service
(R562 to R567, R579 to R582, R586). -/

namespace Sys2Proof.Machine

/-! ### Balls (R563, R564) -/

/-- A ball by its row and column, 1 to 52 each (R562, R563). -/
structure Ball where
  row : Nat
  col : Nat
  deriving DecidableEq, Repr

/-- The two balls of a pair slot of a row: the positive and the negative leg (R564). -/
def slotBalls (row slot : Nat) : Ball × Ball := (⟨row, 3 * slot + 2⟩, ⟨row, 3 * slot + 3⟩)

/-- A differential pair of a port (R565): a lane of a reader link, a writer link, pair 0 reference, 1 downstream or 2 upstream of a
control link, a milliactuator output, pair 0 CMD or 1 MEAS of a voice-coil link, a pair of a host port, a trace pair. -/
inductive Pair where
  | rsl (link lane : Nat)
  | wrl (link : Nat)
  | pcl (link pair : Nat)
  | mao (head : Nat)
  | vcm (act pair : Nat)
  | host (port pair : Nat)
  | trace (pair : Nat)
  deriving DecidableEq, Repr

/-- Row and slot of a differential pair (R565). -/
def Pair.place : Pair → Nat × Nat
  | .rsl n k => (1 + (2 * n + k) / 16, (2 * n + k) % 16)
  | .wrl w => if w < 16 then (11, w) else (12, w - 16)
  | .pcl k j => if 3 * k + j < 8 then (12, 8 + (3 * k + j)) else (13, 3 * k + j - 8)
  | .mao m => if m < 16 then (47, m) else (48, m - 16)
  | .vcm x d => (48, 8 + (2 * x + d))
  | .host p j => (51 + p, j)
  | .trace t => (50, 8 + t)

/-- Balls of a differential pair, positive leg first. -/
def Pair.balls (p : Pair) : Ball × Ball := slotBalls p.place.1 p.place.2

/-- Every differential pair of the package. -/
def allPairs : List Pair :=
  ((List.range 72).flatMap fun n => [.rsl n 0, .rsl n 1]) ++ (List.range 24).map .wrl ++
    ((List.range 8).flatMap fun k => [.pcl k 0, .pcl k 1, .pcl k 2]) ++ (List.range 24).map .mao ++
    ((List.range 4).flatMap fun x => [.vcm x 0, .vcm x 1]) ++ ((List.range 2).flatMap fun p => (List.range 9).map (.host p)) ++
    (List.range 5).map .trace

/-- Single-ended digital balls of ports: UH, UL, VH, VL, WH, WL, BRK and EN of SPL; CLK, MDATA, SDATA and VREG_EN of AVS; TBI, FAULT_N,
REFCLK; SCLK, CS_N, MOSI and MISO of SNS0 and of SNS1; TXD and RXD of MB-A and of MB-B; TCK, TMS, TDI, TDO and TRST_N of DBG;
HP0_PERST_N and HP1_PERST_N (R566). -/
def digitalBalls : List Ball :=
  [⟨49, 2⟩, ⟨49, 3⟩, ⟨49, 4⟩, ⟨49, 5⟩, ⟨49, 6⟩, ⟨49, 7⟩, ⟨49, 8⟩, ⟨49, 9⟩, ⟨49, 26⟩, ⟨49, 27⟩, ⟨49, 28⟩, ⟨49, 29⟩, ⟨49, 31⟩, ⟨49, 32⟩,
   ⟨49, 34⟩, ⟨50, 2⟩, ⟨50, 3⟩, ⟨50, 4⟩, ⟨50, 5⟩, ⟨50, 7⟩, ⟨50, 8⟩, ⟨50, 9⟩, ⟨50, 10⟩, ⟨50, 12⟩, ⟨50, 13⟩, ⟨50, 15⟩, ⟨50, 16⟩, ⟨50, 18⟩,
   ⟨50, 19⟩, ⟨50, 20⟩, ⟨50, 21⟩, ⟨50, 22⟩, ⟨51, 30⟩, ⟨52, 30⟩]

/-- Analogue balls of ports: CHS of SPL; U, V, W, CT, BUS, AGND, SHP and SHN of SSP; VIN, VBANK and AGND of HUM (R566). -/
def analogueBalls : List Ball :=
  [⟨49, 11⟩, ⟨49, 13⟩, ⟨49, 14⟩, ⟨49, 15⟩, ⟨49, 16⟩, ⟨49, 17⟩, ⟨49, 18⟩, ⟨49, 19⟩, ⟨49, 20⟩, ⟨49, 22⟩, ⟨49, 23⟩, ⟨49, 24⟩]

/-- Strap balls: NODEID0 to NODEID6, TRAPDOOR_N, TEST (R581). -/
def strapBalls : List Ball := (List.range 9).map fun i => ⟨50, 40 + i⟩

/-- Every ball of a port (R563, R567). -/
def portBalls : List Ball := (allPairs.flatMap fun p => [p.balls.1, p.balls.2]) ++ digitalBalls ++ analogueBalls

/-- What a ball is (R563). -/
inductive BallUse where
  | port | strap | ground
  | supply (number : Nat)
  deriving DecidableEq, Repr

/-- Number of the supply of a row and column of rows 14 to 46, in the order of R585: 0 VDD_CORE, 1 VDD_RIM, 2 VDDA_HS, 3 VDD_HBM,
4 VDDQ_HBM, 5 VPP_HBM, 6 VDD_MOTION, 7 VDDA_33, 8 VDD_LOFT, 9 VDDIO_18, 10 VDDIO_33 (R586). -/
def supplyAt (b : Ball) : Nat :=
  if b.row ≤ 16 then 2
  else if b.row ≤ 18 then 1
  else if b.row ≤ 36 then 0
  else if b.row ≤ 38 then 3
  else if b.row = 39 then 4
  else if b.row = 40 then if b.col ≤ 16 then 5 else 1
  else if b.row ≤ 42 then 0
  else if b.row = 43 then 6
  else if b.row = 44 then 7
  else if b.row = 45 then if b.col ≤ 26 then 10 else 9
  else if b.col ≤ 26 then 8 else 2

/-- Use of a ball: in rows 14 to 46 those whose row and column add to an even number are ground and the others supplies; every ball
of the other rows that no port and no strap takes is ground (R563, R586). -/
def ballUse (b : Ball) : BallUse :=
  if 14 ≤ b.row ∧ b.row ≤ 46 then if (b.row + b.col) % 2 = 0 then .ground else .supply (supplyAt b)
  else if strapBalls.contains b then .strap
  else if portBalls.contains b then .port
  else .ground

/-! ### Boundary scan (R579, R582) -/

/-- The boundary-scan cells: every single-ended digital port ball and every strap ball (R579, log entry 129). -/
def scanCells : List Ball := digitalBalls ++ strapBalls

/-- Whether a pair belongs to a unit that the variant has (R553, R582). -/
def State.pairFitted (s : State) : Pair → Bool
  | .rsl n _ => s.hasHead (n / 3)
  | .wrl w => s.hasHead w
  | .pcl k _ => s.hasAct (k / 2)
  | .mao m => s.hasHead m
  | .vcm x _ => s.hasAct x
  | .host p _ => s.hasPort p
  | .trace _ => true

/-- Whether a boundary-scan cell belongs to a unit that the variant has: only HP1_PERST_N may not (R582). -/
def State.cellFitted (s : State) (b : Ball) : Bool := decide (b ≠ ⟨52, 30⟩) || s.hasPort 1

/-- Levels at the boundary-scan cells as captured, cell by cell: those of an absent unit read 0 (R582). -/
def State.scanned (s : State) (levels : Nat) : Nat :=
  (scanCells.zipIdx.filter fun x => levels.testBit x.2 && s.cellFitted x.1).foldl (fun m x => withBit m x.2) 0

/-! ### Ports outside normal service (R580) -/

/-- Kinds of port (R567). -/
inductive PortKind where
  | rsl | wrl | pcl | mao | vcm | spl | sense | host | mb | avs | sensor | clocks | dbg
  deriving DecidableEq, Repr

/-- What a port does outside normal service: it is active, its receivers are unterminated, its outputs are in high impedance, its
transmitter rests in electrical idle or at 0 V, its outputs are low or recessive, its inputs are observed only or not at all (R580). -/
inductive PortCondition where
  | active | unterminated | highImpedance | electricalIdle | zeroVolts | low | recessive | observed | off | reset
  deriving DecidableEq, Repr

/-- The state of the device that R580 goes by: 0 Loft up, before the regulator enable; 1 S1 to S3; 2 S4, where the motion die is off. -/
def State.portPhase (s : State) : Nat :=
  if s.nat O.sleepStateCurrent = 4 then 2 else if s.nat O.startupPhase = 0 ∧ ¬ s.platform.vregEnable then 0 else 1

/-- Condition of a kind of port in a phase (R113, R284, R325, R580). -/
def PortKind.condition (k : PortKind) (phase : Nat) : PortCondition :=
  match k with
  | .rsl => if phase = 1 then .active else .unterminated
  | .wrl => if phase = 1 then .electricalIdle else .highImpedance
  | .pcl => if phase = 1 then .active else .highImpedance
  | .mao => if phase = 1 then .zeroVolts else .highImpedance
  | .vcm => if phase = 1 then .active else .off
  | .spl => if phase = 1 then .active else .highImpedance
  | .sense => if phase = 1 then .active else .off
  | .host => if phase = 1 then .active else .observed
  | .mb => if phase = 1 then .active else .recessive
  | .avs => if phase = 1 then .active else .low
  | .sensor => if phase = 1 then .active else .highImpedance
  | .clocks => .active
  | .dbg => if phase = 2 then .reset else .active

/-- Condition of a port of the device now; the ports of an absent unit are inert, their outputs in high impedance (R580, R582). -/
def State.portCondition (s : State) (k : PortKind) (fitted : Bool) : PortCondition :=
  if ¬ fitted then (if k = .rsl then .unterminated else .highImpedance) else k.condition s.portPhase

/-- Kind of port that a pair belongs to (R567). -/
def Pair.kind : Pair → PortKind
  | .rsl _ _ => .rsl
  | .wrl _ => .wrl
  | .pcl _ _ => .pcl
  | .mao _ => .mao
  | .vcm _ _ => .vcm
  | .host _ _ => .host
  | .trace _ => .dbg

/-- Condition of a differential pair now (R580, R582). -/
def State.pairCondition (s : State) (p : Pair) : PortCondition := s.portCondition p.kind (s.pairFitted p)

end Sys2Proof.Machine
end

