-- ==== Sys2Proof/Machine/Jtag.lean ====
section
/-! DEFINITION. The DBG test access port (R579, R580). Its instruction register holds 1 BYPASS, 2 IDCODE, 3 SAMPLE/PRELOAD, 4 EXTEST,
5 CLAMP, 6 HIGHZ; IDCODE is selected after a reset of the port. Outputs are driven by 0 the device, 1 the boundary-scan cells,
2 nothing. -/

namespace Sys2Proof.Machine

/-- An instruction taken by the test access port, with what drives the outputs under it; none in S4, where the port is held in
reset (R580). -/
def State.jtag (s : State) (instruction drive : Nat) : State :=
  if s.nat O.sleepStateCurrent = 4 then s
  else { s with dbg := { s.dbg with instruction := instruction, drive := drive } }

/-- BYPASS: the one-bit bypass register is selected. -/
def execJtagBypass (s : State) : Host.Outcome State Fault Refusal := .next (s.jtag 1 0)

/-- IDCODE: the register of R579 is selected, and shifted out. -/
def execJtagIdcode (s : State) : Host.Outcome State Fault Refusal :=
  .next (if s.nat O.sleepStateCurrent = 4 then s else (s.jtag 2 0).emit (.dbg s.idCode))

/-- SAMPLE/PRELOAD: the levels at the cells, bit i of `capture` at cell i, are sampled and shifted out, and the cells are preloaded,
while the device drives its outputs (R579, R582). -/
def execJtagSamplePreload (capture preload : Nat) (s : State) : Host.Outcome State Fault Refusal :=
  .next (if s.nat O.sleepStateCurrent = 4 then s
    else
      let s := s.jtag 3 0
      let levels := s.scanned capture
      ({ s with dbg := { s.dbg with captured := levels, boundary := preload % 2 ^ scanCells.length } }).emit (.dbg levels))

/-- EXTEST: the outputs are driven from the cells. -/
def execJtagExtest (s : State) : Host.Outcome State Fault Refusal := .next (s.jtag 4 1)

/-- CLAMP: the outputs are held from the cells with the bypass register selected. -/
def execJtagClamp (s : State) : Host.Outcome State Fault Refusal := .next (s.jtag 5 1)

/-- HIGHZ: the outputs are in high impedance with the bypass register selected. -/
def execJtagHighz (s : State) : Host.Outcome State Fault Refusal := .next (s.jtag 6 2)

/-- DBG_TOKEN_SHIFT: during the halt of R548 an unlock token shifted into TOKEN is checked; its status byte reads 1 entered, or 80h
plus the refusal reason (R579). -/
def execDbgTokenShift (token : List Nat) (appended : Bool) (s : State) : Host.Outcome State Fault Refusal :=
  .next (if ¬ s.fw.halted ∨ s.nat O.startupPhase ≠ 1 then s
    else
      let (why, s) := s.trapdoorToken 4 token appended
      let status := match why with
        | none => 1
        | some r => 0x80 + r
      ({ s with dbg := { s.dbg with tokenStatus := status } }).emit (.dbg status))

end Sys2Proof.Machine
end

