-- ==== Sys2Proof/Machine/Fencing.lean ====
section
/-! DEFINITION. Fencing and returning heads and actuators by command (R556, R559 to R561). Units of a return run: 0 to 23 a head,
64 + a an actuator. -/

namespace Sys2Proof.Machine

/-- FENCE_HEAD: a write to 2014h.01 fences a head with cause 6 (R556, R560). -/
def execFenceHead (requester : Requester) (head : Nat) (s : State) : Host.Outcome State Fault Refusal :=
  .next (s.writeVia requester O.fenceHead (.num 1 head) fun s => .ok (s.fenceHead head 6).endFencedIo)

/-- Whether a return run is refused as a state conflict: an activation, a Format NVM or Sanitize, outside S1, or a run already
running (R416, R559). -/
def State.returnRefused (s : State) : Bool :=
  decide (s.nat O.updateState = 3) || s.sub.format.isSome || s.sub.sanitize.isSome || decide (s.nat O.sleepStateCurrent ≠ 1) ||
    decide (s.nat O.returnRunState = 1)

/-- A return run started on a unit. -/
def State.startReturn (s : State) (unit : Nat) : State :=
  ((s.startRun O.returnRunState).setNat O.returnRunUnit unit).setNat O.returnRunSteps 0

/-- The load of a return run whose links are up: a parked actuator is asked to load; a head's run fails where the actuator is fenced or
a park stands on it (R559). -/
def State.returnLoad (s : State) (unit a : Nat) : State :=
  let s := s.setNat O.returnRunSteps 1
  if unit < 64 ∧ (s.nat (O.actuatorService + a) = 3 ∨ s.parkHeld a) then s.endRun O.returnRunState 2
  else s.requestLoad a

/-- RETURN_HEAD: a write to 2014h.02 starts a run with the head's registers for its zone and its links, from step 4 of R112
(R559). -/
def execReturnHead (requester : Requester) (head : Nat) (s : State) : Host.Outcome State Fault Refusal :=
  .next (s.writeVia requester O.returnHead (.num 1 head) fun s =>
    if s.returnRefused then .error .state
    else
      let s := s.startReturn head
      let s : State := match s.layout.tables.find? fun t => decide (t.surface = head) with
        | some t => match t.entries[(s.head head).zone]? with
          | some e => s.zoneWrites head t.nominalRpm e
          | none => s
        | none => s
      let s := s.each (rslsOf head) fun s n => (s.setNat (O.rslState + n) 1).modRsl n fun r => { r with attempts := 0 }
      let s := (s.modWrl head fun w => { w with due := true, attempts := 0 }).trainHead head none
      .ok s)

/-- RETURN_ACTUATOR: a write to 2014h.03 starts a run with both preamplifiers, from step 1 of R112 (R559). -/
def execReturnActuator (requester : Requester) (act : Nat) (s : State) : Host.Outcome State Fault Refusal :=
  .next (s.writeVia requester O.returnActuator (.num 1 act) fun s =>
    if s.returnRefused then .error .state
    else
      .ok ((s.startReturn (64 + act)).each [2 * act, 2 * act + 1] State.bringUp))

/-- The heads a return run concerns. -/
def returnHeads (unit : Nat) : List Nat := if unit < 64 then [unit] else headsOf (unit - 64)

/-- A return run ended as failed: steps passed before the failed one, and the reason (R561). -/
def State.returnFails (s : State) (reason : Nat) : State :=
  (s.setNat O.returnRunSteps (if reason ≤ 4 then reason - 1 else 2)).endRun O.returnRunState reason

/-- A returned head starts in stripe-parallel service with its runs at zero (R559). -/
def State.rejoin (s : State) (h : Nat) : State :=
  if s.nat (O.headService + h) = 3 then s
  else
    let s := ((s.setNat (O.positionState + h) 4).setStatusBit h 5 true).setNat (O.paceRun + h) 0
    let s := s.modHead h fun x => { x with target := x.lane, presented := 0, completed := 0, paces := [] }
    ((((s.enterZone h (s.act (actOf h)).zone).predictCount h).provisional h).refreshHead h).restHeater h

/-- The fence of a return run's unit lifted, and steps 3 and 4 applied: calibration results, zone and spare tables (R271,
R559). -/
def State.unfence (s : State) (unit : Nat) (heads : List HeadCal) (loops : List LoopCal) (zones : List ZoneCopy)
    (spares : List SpareCopy) : State :=
  let units := returnHeads unit
  let a := if unit < 64 then actOf unit else unit - 64
  let s := s.each units fun s h => (s.setNat (O.headService + h) 1).setNat (O.headFenceCause + h) 0
  let s := if unit < 64 then s
    else ((s.setNat (O.actuatorService + a) 1).setNat (O.actuatorFenceCause + a) 0).endCondition (240 + 8 * a + 6)
  let s := if unit < 64 then (heads.filter fun c => decide (c.head = unit)).foldl (fun (s : State) c => s.takeHeadCal false c) s
    else s.calibrate a false heads loops
  ((s.takeTables a units zones).takeSpares a units spares).countSpares

/-- Whether every spare table of some surfaces has a correct copy (R72). -/
def State.sparesOk (s : State) (heads : List Nat) (spares : List SpareCopy) : Bool :=
  (s.layout.tables.filter fun t => heads.contains t.surface).all fun t =>
    (List.range t.entries.length).all fun z => goodSpares spares t z ≠ []

/-- The last steps of a return run whose links and load passed: the fence clears, or the unit is fenced as before or anew (R559). -/
def State.finishReturn (s : State) (unit : Nat) (heads : List HeadCal) (loops : List LoopCal) (zones : List ZoneCopy)
    (spares : List SpareCopy) : State :=
  let units := returnHeads unit
  let a := if unit < 64 then actOf unit else unit - 64
  let former := s.nat (O.actuatorFenceCause + a)
  let t := s.unfence unit heads loops zones spares
  let bad := units.find? fun h => decide (t.nat (O.headService + h) = 3)
  let actBad := decide (64 ≤ unit) && decide (t.nat (O.actuatorService + a) = 3)
  if actBad ∨ bad.isSome ∨ ¬ t.sparesOk units spares then
    let reason := if actBad then actReason (t.nat (O.actuatorFenceCause + a))
      else match bad with
        | some h => headReason (t.nat (O.headFenceCause + h))
        | none => 4
    let t := if 64 ≤ unit ∧ ¬ actBad then t.fenceAct a former
      else if bad.isNone ∧ ¬ actBad then units.foldl (fun (t : State) h => t.fenceHead h (s.nat (O.headFenceCause + h))) t
      else t
    (t.returnFails reason).endFencedIo
  else
    let t := (t.each units State.rejoin).refreshCapacity
    let t := ((t.refreshService a).admitStreams t.power.ceiling).noteWarnings
    (t.setNat O.returnRunSteps 4).endRun O.returnRunState 0

/-- RETURN_RUN_END: a run whose links have failed ends, one whose links are up loads its actuator, and one on a loaded actuator ends with
what its calibration passes and table reads found; until then it goes on (R559, R561). -/
def execReturnRunEnd (heads : List HeadCal) (loops : List LoopCal) (zones : List ZoneCopy) (spares : List SpareCopy)
    (s : State) : Host.Outcome State Fault Refusal :=
  let unit := s.nat O.returnRunUnit
  let units := returnHeads unit
  let a := if unit < 64 then actOf unit else unit - 64
  let links (v : Nat) : Bool := units.any fun h =>
    ([3 * h, 3 * h + 1, 3 * h + 2].any fun n => decide (s.nat (O.rslState + n) = v)) || decide (s.nat (O.wrlState + h) = v)
  .next (if s.nat O.returnRunState ≠ 1 then s
    else if links 5 then s.returnFails 1
    else if links 1 ∨ links 2 then s
    else if (s.act a).load ≠ 2 then s.returnLoad unit a
    else s.finishReturn unit heads loops zones spares)

end Sys2Proof.Machine
end

