-- ==== Sys2Proof/Machine/Images.lean ====
section
/-! DEFINITION. DOMAIN and VISIBLE_STRING values as bytes, and what a read of the dictionary gives (R165, R233 to R237, R343, R344,
R408 to R410, R465, R492 to R505, R516, R540). -/

namespace Sys2Proof.Machine

/-! ### Detection, Rafter and spindle (R165, R235, R237, R286, R303, R465) -/

/-- Taps and interference coefficient of a stream's zone: those of the active bank in the head's current zone, else those stored for
the zone or of the detector tables (R139, R165). -/
def State.zoneTaps (s : State) (stream zone : Nat) : List Int :=
  if zone = (s.head (stream / 2)).zone then s.bankTaps stream (s.stream stream).bank
  else (assoc? (s.stream stream).stored zone).getD ((List.range 18).map (Config.tableTap s.tables stream zone))

/-- EqImage (R165). -/
def State.eqBytes (s : State) (stream zone : Nat) : List Nat :=
  let taps := s.zoneTaps stream zone
  let n := (assoc? (s.stream stream).zoneSwaps zone).getD (0, 0)
  [stream, zone, 0, 0] ++ ((List.range 17).flatMap fun i => leInt 2 (taps.getD i 0)) ++ [0, 0] ++ fieldBytes [(4, n.1), (4, n.2)]

/-- OutcomeCountImage (R165). -/
def State.outcomeBytes (s : State) (stream : Nat) : List Nat :=
  [stream, 0, 0, 0] ++ (List.range 16).flatMap fun c => leBytes 4 (min ((s.stream stream).outcomes.getD c 0) (2 ^ 32 - 1))

/-- InactiveImage or ActiveImage of a slot: the active bank is one that was sealed (R223, R237). -/
def State.bankImage (s : State) (slot : Nat) (active : Bool) : List Nat :=
  let b := if active then s.activeBank slot else 1 - s.activeBank slot
  let state := if active then 1 else s.nat (O.loopBankState + slot)
  [slot, b, state, 0] ++ leBytes 4 (if state = 0 then 0 else (s.loop slot).seal b) ++ bankBytes ((s.loop slot).bank b)

/-- TraceImage of a channel; what no sample fills stays as it was cleared at arming (R233, R235). -/
def State.traceBytes (s : State) (c : Nat) : List Nat :=
  let ch := s.rafter.channels.getD c {}
  let samples := ch.samples.reverse.take 65536
  [c, s.nat (O.traceDecimation + c)] ++ fieldBytes [(2, s.nat (O.traceSource + c)), (4, ch.trigger),
    (8, (samples.head?.map Prod.snd).getD 0), (4, samples.length), (4, 0)] ++
    padTo 262144 (samples.flatMap fun x => leInt 4 x.1)

/-- IndexAngleImage: absent heads 0. -/
def State.indexAngleBytes (s : State) : List Nat :=
  (List.range 24).flatMap fun h => leBytes 4 (if s.hasHead h then (assoc? s.spindle.indexAngles h).getD 0 else 0)

/-- The sine table in force (R303). -/
def State.sineBytes (s : State) : List Nat :=
  if s.spindle.sine = [] then (List.range 1024).flatMap fun i => leBytes 2 (Config.defaultSine i % 4096) else s.spindle.sine

/-- A day's read-margin record as bytes; the mean iterations of a day without a Good first read are open (R465). -/
def Margin.bytes (open_ : Nat) (m : Margin) : List Nat :=
  fieldBytes [(2, if m.goods = 0 then open_ else min 65535 (256 * m.iterations / m.goods)),
    (2, min 65535 (1000000 * m.ladders / max 1 m.sectors)), (4, m.sectors / 1000), (4, m.lost)]

/-- MarginImage (R465); records without data are open. -/
def State.marginBytes (s : State) (head zone : Nat) : List Nat :=
  let records := (assoc? (s.head head).margins zone).getD []
  let free := Config.freeValue s.freeIx
  [head, zone, records.length, 0] ++ records.flatMap (Margin.bytes free) ++ leBytes (12 * (32 - records.length)) free

/-! ### Shelf (R492, R499, R516) -/

/-- An event record. -/
def shelfBytes (r : ShelfRecord) : List Nat :=
  withCrc (fieldBytes [(8, r.seq), (8, r.tick), (8, r.wall), (2, r.code), (2, r.source), (1, r.severity), (1, r.cause),
    (1, (if r.injected then 1 else 0) + if r.unreadable then 2 else 0), (1, r.words.length)] ++
    ((List.range 48).flatMap fun i => leBytes 4 (r.words.getD i 0)) ++ fieldBytes [(2, r.fixed), (2, r.listVersion), (16, 0)]) ++
    [0x53, 0x48, 0x45, 0x4C, 0x46, 0x52, 0x45, 0x43]

/-- Slot 0; the spec gives the summary no severity (R493, R499). -/
def State.summaryBytes (s : State) : List Nat :=
  let h := s.shelf
  shelfBytes { slot := 0, seq := h.updates, tick := h.lastDrop, wall := h.lastWall, code := 3, source := 65535,
               severity := Config.freeValue s.freeIx % 4, cause := 0, injected := false, unreadable := false,
               words := (List.range 4).map (fun i => h.drops.getD i 0 % 2 ^ 32) ++ words64 h.refused ++ words64 h.firstDrop ++ words64 h.lastDrop,
               fixed := 10, listVersion := (s.codeConfig 3).version }

/-- The record of the lowest sequence number from a selector on (R496). -/
def State.shelfRecord? (s : State) (from_ : Nat) : Option ShelfRecord :=
  (s.shelf.records.filter fun r => decide (from_ ≤ r.seq)).foldl (fun (b : Option ShelfRecord) r =>
    match b with
    | some q => if r.seq < q.seq then some r else some q
    | none => some r) none

/-- SnapshotListImage of an event code (R516). -/
def State.listBytes (s : State) (code : Nat) : List Nat :=
  let c := s.codeConfig code
  fieldBytes [(2, code), (2, c.rate), (2, c.burst), (2, c.version), (4, c.limited)] ++
    (List.range 48).flatMap fun i => leBytes 4 (c.entries.getD i 0)

/-! ### Trunk (R505, R506, R509, R540, R543) -/

/-- Widths of the fields a payload keeps, with 0-filled reserved bytes as fields of their own: `none` stands for a reserved field of a
length, `some` for the next value. -/
def payloadFields (kind : Nat) (p : List Nat) : List (Nat × Nat) :=
  let v (i : Nat) : Nat := p.getD i 0
  match kind with
  | 0x01 => p.map fun b => (1, b)
  | 0x10 => [(2, v 0), (1, v 1), (1, v 2), (8, v 3), (4, v 4), (4, 0)]
  | 0x11 =>
    let c := v 2
    let w := v 3
    [(4, v 0), (1, v 1), (1, 0), (2, c), (2, w), (2, v 4)] ++
      ((List.range c).flatMap fun i => [(1, v (5 + 4 * i)), (1, v (6 + 4 * i)), (2, v (7 + 4 * i)), (4, v (8 + 4 * i)), (4, 0)]) ++
      ((List.range w).flatMap fun i => [(1, v (5 + 4 * c + 2 * i)), (7, 0), (8, v (6 + 4 * c + 2 * i))]) ++
      ((List.range (v 4)).flatMap fun i => [(1, v (5 + 4 * c + 2 * w + 2 * i)), (3, 0), (4, v (6 + 4 * c + 2 * w + 2 * i))])
  | 0x12 => [(2, v 0), (1, v 1), (1, v 2), (4, 0)]
  | 0x13 => [(1, v 0), (1, v 1), (2, v 2), (2, v 3), (2, 0)]
  | 0x14 => [(1, v 0), (1, 0), (2, v 1), (4, 0), (8, v 2)]
  | 0x15 => [(4, v 0), (8, v 1), (4, 0)]
  | 0x20 => [(1, v 0), (1, v 1), (1, v 2), (1, v 3), (1, v 4), (3, 0), (8, v 5), (4, v 6), (4, 0), (8, v 7), (48, v 8)]
  | 0x30 => [(1, v 0), (1, v 1), (6, 0)]
  | 0x40 => [(1, v 0), (3, 0)] ++ (List.range 64).map fun i => (4, v (1 + i))
  | 0x41 => [(1, v 0), (1, v 1), (1, v 2), (1, v 3), (4, v 4), (4, v 5), (4, 0)]
  | 0x50 => [(1, v 0), (1, v 1), (6, 0), (32, v 2)]
  | 0x60 => [(1, v 0), (7, 0), (8, v 1)]
  | 0x61 => [(2, v 0), (2, 0)] ++
      (List.range (v 0)).flatMap fun i => [(1, v (1 + 3 * i)), (3, 0), (4, v (2 + 3 * i)), (4, v (3 + 3 * i))]
  | 0x62 => [(1, v 0), (7, 0)]
  | 0x70 => [(8, v 0), (8, v 1)]
  | _ => []

/-- A whole Trunk record (R505). -/
def trunkBytes (r : TrunkRecord) : List Nat :=
  let l := recordLength r.kind r.payload
  withCrc (recordHead r.kind l r.boot r.seq r.tick r.wall ++
    padTo (l - 48) (fieldBytes (payloadFields r.kind r.payload)) ++
    [(if r.carried then 1 else 0) + (if r.restored then 2 else 0), 0, 0, 0]) ++ [0x54, 0x52, 0x55, 0x4E, 0x4B, 0x52, 0x45, 0x43]

/-- The record of the lowest sequence from a selector on (R515). -/
def lowestRecord (l : List TrunkRecord) (from_ : Nat) : Option TrunkRecord :=
  (l.filter fun r => decide (from_ ≤ r.seq)).foldl (fun (b : Option TrunkRecord) r =>
    match b with
    | some q => if r.seq < q.seq then some r else some q
    | none => some r) none

/-- The boot record of a BootNumber, or the newest for 0 (R544). -/
def State.bootRecord? (s : State) (boot : Nat) : Option TrunkRecord :=
  let l := (s.trunk.areaRecords 0).filter fun r => decide (r.kind = 1)
  if boot = 0 then s.trunk.bootRecord?
  else l.find? fun r => decide (r.boot = boot)

/-! ### Reads (R343, R344, R408, R410) -/

/-- ASCII of the part number of the variant (R437, R553). -/
def State.partNumber (s : State) : List Nat :=
  [0x56, 0x5A, 0x2D, 0x52, 0x58] ++
    (if s.platform.variant = 0 then [0x32, 0x34, 0x34, 0x38]
     else if s.platform.variant = 1 then [0x31, 0x32, 0x32, 0x34] else [0x30, 0x36, 0x31, 0x32])

/-- Bytes of a DOMAIN or VISIBLE_STRING; none where the read is refused as a state conflict. CrateBlock and OwnerLockToken are
readable by their class and the spec gives them no value: a free one. -/
def State.image (s : State) (k : Nat) : Option (List Nat) :=
  let free := Config.freeValue s.freeIx
  if k = O.deviceName then some s.partNumber
  else if k = O.zoneTableImage then (s.zoneTable (s.nat O.zoneTableSurface)).map zoneTableBytes
  else if k = O.spareTableImage then (s.spareTable (s.nat O.spareTableSurface) (s.nat O.spareTableZone)).map spareTableBytes
  else if k = O.ldpcBaseMatrix then some (padTo 20440 (Config.provisioned 3))
  else if k = O.eqImage then some (s.eqBytes (s.nat O.eqSelectStream) (s.nat O.eqSelectZone))
  else if k = O.outcomeCountImage then some (s.outcomeBytes (s.nat O.outcomeSelectStream))
  else if k = O.inactiveImage then some (s.bankImage s.coefSlot false)
  else if k = O.activeImage then some (s.bankImage s.coefSlot true)
  else if k = O.traceImage then if s.nat O.traceState = 3 then some (s.traceBytes (s.nat O.traceReadChannel)) else none
  else if k = O.indexAngleImage then some s.indexAngleBytes
  else if k = O.sineTable then some s.sineBytes
  else if k = O.marginImage then some (s.marginBytes (s.nat O.marginSelectHead) (s.nat O.marginSelectZone))
  else if k = O.shelfClearChallenge then some (leBytes 32 s.shelf.challenge)
  else if k = O.shelfRecordImage then (s.shelfRecord? (s.nat O.shelfReadSequence)).map shelfBytes
  else if k = O.shelfSummaryImage then some s.summaryBytes
  else if k = O.snapshotListImage then some (s.listBytes (s.nat O.snapshotSelectCode))
  else if k = O.trunkRecordImage then
    (lowestRecord (s.trunk.areaRecords (s.nat O.trunkReadArea)) (s.nat O.trunkReadSequence)).map trunkBytes
  else if k = O.activeRevision then some (leBytes 8 (s.fwSlot s.fw.active).revision)
  else if k = O.ownerLockChallenge then some (leBytes 32 s.fw.ownerChallenge)
  else if k = O.trapdoorChallenge then some (leBytes 32 s.sec.trapdoorChallenge)
  else if k = O.bootRecordImage then (s.bootRecord? (s.nat O.bootRecordSelect)).map trunkBytes
  else if k = O.chainValue then some (leBytes 48 s.fw.chain)
  else if k = O.identityCertChainEcdsa then some (Config.provisioned 1)
  else if k = O.identityCertChainMlDsa then some (Config.provisioned 2)
  else if k = O.identityDigest then some (leBytes 48 (Config.identity 7))
  else if k = O.crateBlock then some (leBytes (1 + free % 4096) (free / 4096))
  else if k = O.ownerLockToken then some (leBytes 5550 free)
  else some (s.blob k)

/-- Size in bytes of a value of basic type at a key; a sub-index 00h that counts is UNSIGNED8 (R8). -/
def basicSize (k : Nat) : Nat :=
  match findRow k with
  | some r => r.ty.size
  | none => 1

/-- Whether a key holds a DOMAIN or VISIBLE_STRING. -/
def isImage (k : Nat) : Bool :=
  match findRow k with
  | some r => decide (r.ty.size = 0)
  | none => false

/-- Value of a key as it is transferred, for a buffer of a length where the path has one; or the refusal (R343, R344, R408). -/
def State.readValue (s : State) (k : Nat) (buffer : Option Nat) : Except DictRefusal (List Nat) :=
  match s.checkGet k buffer with
  | some x => .error x
  | none =>
    if isImage k then
      match s.image k with
      | none => .error .state
      | some b =>
        match buffer with
        | some n => if n < b.length then .error .length else .ok b
        | none => .ok b
    else .ok (leInt (basicSize k) (s.view k))

/-- What a read changes: a stopped trace's channel counts as read, and the last one makes the trace Idle (R233); an image with open
bytes uses a free value. -/
def State.noteRead (s : State) (k : Nat) : State :=
  if k = O.traceImage then
    let m := withBit s.rafter.traceRead (s.nat O.traceReadChannel)
    let s := { s with rafter := { s.rafter with traceRead := m } }
    if m % 256 = 255 then ({ s with rafter := { s.rafter with traceRead := 0 } }).setNat O.traceState 0 else s
  else if k = O.marginImage ∨ k = O.shelfSummaryImage ∨ k = O.crateBlock ∨ k = O.ownerLockToken then { s with freeIx := s.freeIx + 1 }
  else s

end Sys2Proof.Machine
end

