-- ==== Sys2Proof/Machine/Dictionary.lean ====
section
/-! DEFINITION. Dictionary access by NVMe, USDO and PDO, and writes of objects with no row of their own (R343, R344, R408 to R410,
R428 to R433). -/

namespace Sys2Proof.Machine

/-! ### Writes -/

/-- Number of a value of basic type, in two's complement for the signed types (R408). -/
def typedValue (ty : ObjType) (b : List Nat) : Int :=
  let v := ofLe (b.map (· % 256))
  match ty with
  | .i16 => if v < 2 ^ 15 then v else (v : Int) - 2 ^ 16
  | .i32 => if v < 2 ^ 31 then v else (v : Int) - 2 ^ 32
  | _ => v

/-- What bytes written to a key carry. -/
def objData (k : Nat) (b : List Nat) : ObjData :=
  match findRow k with
  | some r => if r.ty.size = 0 then .bytes (b.map (· % 256)) else .num b.length (typedValue r.ty b)
  | none => .bytes b

/-- Number that a write carries; 0 for bytes. -/
def dataInt (d : ObjData) : Int :=
  match d with
  | .num _ v => v
  | .bytes _ => 0

/-- PDO whose mapping a key belongs to: the key of its count, and whether it is an RPDO (R433). -/
def mapOf (k : Nat) : Option (Nat × Bool) :=
  let base := k / 256 * 256
  if k % 256 ≤ 64 then
    if base = O.rpdo1Count ∨ base = O.rpdo2Count then some (base, true)
    else if base = O.tpdo1Count ∨ base = O.tpdo2Count ∨ base = O.tpdo3Count ∨ base = O.tpdo4Count then some (base, false)
    else none
  else none

/-- Whether a mapping entry names an object that a PDO may carry, with its length in bits (R433). -/
def State.mayMap (s : State) (rpdo : Bool) (entry : Nat) : Bool :=
  let k := entry / 256
  s.indexServed (k / 256) && (match findRow k with
    | none => false
    | some r =>
      decide (r.ty.size ≠ 0) && decide (entry % 256 = 8 * r.ty.size) && !s.keyUnitAbsent k &&
        (if rpdo then decide (r.access = .rw ∨ r.access = .wo) else decide (r.access ≠ .wo)))

/-- Whether the first entries of a mapping are all admitted and take at most 64 bytes (R433). -/
def State.mappingOk (s : State) (rpdo : Bool) (entries : List Nat) : Bool :=
  entries.all (s.mayMap rpdo) && decide ((entries.map fun e => e % 256 / 8).sum ≤ 64)

/-- Entries of a mapping in force. -/
def State.mapEntries (s : State) (base : Nat) : List Nat := (List.range (s.nat base)).map fun i => s.nat (base + 1 + i)

/-- A write of a mapping object: the mapping it leaves must keep R433. An entry beyond the count may be 0. -/
def State.putMapping (s : State) (k base : Nat) (rpdo : Bool) (v : Int) : Except DictRefusal State :=
  let t := s.setObj k v
  let entry := v.toNat
  if k ≠ base ∧ ¬ (entry = 0 ∧ s.nat base < k - base) ∧ ¬ s.mayMap rpdo entry then .error .mapping
  else if ¬ t.mappingOk rpdo (t.mapEntries base) then .error .mapping
  else .ok t

/-- Configuration objects of detection, whose value is in force on a head from its next sector boundary on (R164). -/
def detectionKeys : List Nat :=
  [O.clockLoopBandwidth, O.clockAmpLimit, O.clockFaultPeriods, O.clockJitterLimit, O.acquireWindow, O.flywheelLimit, O.offsetRunLimit,
   O.offsetTrackSectors, O.eqAdaptEnable, O.eqStepShift, O.eqBlockSectors, O.eqTapStepLimit, O.iterLimit, O.streamQueueDepth,
   O.decodeDeadline, O.deferEnable, O.deferSlotsMax, O.deferExitSectors, O.deferredDeadline, O.countFramingEnable]

/-- The value in force so far kept on every head that reads, until its next sector boundary (R164). -/
def State.keepConfig (s : State) (k : Nat) : State :=
  if detectionKeys.contains k then
    let v := s.obj k
    s.each ((List.range s.headCount).filter fun h => (s.head h).admitted) fun s h => s.modHead h fun x =>
      { x with oldConfig := if (assoc? x.oldConfig k).isSome then x.oldConfig else (k, v) :: x.oldConfig }
  else s

/-- A write to an object that no other row names, once R344 lets it (R236, R281, R349, R433, R437). -/
def State.putPlain (s : State) (r : Requester) (k : Nat) (d : ObjData) : Except DictRefusal State :=
  let v := dataInt d
  let index := k / 256
  if k = O.calibrationShare then .ok (s.acceptMode r k v)
  else if (index = 0x4180 ∨ index = 0x4181 ∨ index = 0x4182) ∧ (s.nat O.traceState = 1 ∨ s.nat O.traceState = 2) then .error .state
  else if k = O.coefIndex ∧ ¬ (s.hasSlot s.coefSlot ∧ s.nat (O.loopClaim + s.coefSlot) = r.code) then .error .state
  else if index = 0x5002 then
    .ok ((match d with
      | .num _ v => s.setObj k v
      | .bytes b => s.setBlob k b).setBlob (k + 0x1000000) [1])
  else
    match mapOf k with
    | some (base, rpdo) => s.putMapping k base rpdo v
    | none =>
      let was := s.nat k
      let s := (s.keepConfig k).setObj k v
      if O.consumerHeartbeat ≤ k ∧ k < O.consumerHeartbeat + 4 then
        let i := k - O.consumerHeartbeat
        .ok (s.each [0, 1] fun s b => s.modBus b fun p => { p with seen := dropKey p.seen i, lost := p.lost.filter (· ≠ i) })
      else if k = O.producerHeartbeat then .ok (s.modMb fun m => { m with heartbeatNext := s.tick + 1000 * v.toNat })
      else if k = O.feedForwardEnable then .ok s.feedForward
      else if k = O.readAheadEnable ∧ v = 0 then .ok s.dropAhead
      else if k = O.sensorFitted then .ok (s.refitSensors was)
      else .ok s

/-- State after an outcome; a stop leaves it as it was. -/
def State.after (s : State) (o : Host.Outcome State Fault Refusal) : State :=
  match o with
  | .next t => t
  | _ => s

/-- A write of a whole value of basic type carried out by the row that its object has, where it has one. -/
def State.actNumber (s : State) (r : Requester) (k v : Nat) (i : Int) : Option (Host.Outcome State Fault Refusal) :=
  if k = O.eqRestore then some (execEqRestore r s)
  else if k = O.outcomeCounterClear then some (execOutcomeCounterClear r s)
  else if k = O.narrowEnable then some (execNarrowEnableWrite r v s)
  else if k = O.paceInterval then some (execPaceIntervalWrite r v s)
  else if k = O.preampAccessStart then some (if v = 1 then execPreampAccessRead r s else execPreampAccessWrite r s)
  else if k = O.counterClear then some (execLinkCounterClear r s)
  else if k = O.coefClaim then some (if v = 1 then execCoefClaim r s else execCoefRelease r s)
  else if k = O.coefCopyActive then some (execCoefCopyActive r s)
  else if k = O.coefValue then some (execCoefValueWrite r i s)
  else if k = O.coefSeal then some (execCoefSeal r s)
  else if k = O.swapRequest then some (execSwapRequest r 0 v s)
  else if k = O.groupSwapRequest then some (execGroupSwapRequest r 0 v s)
  else if k = O.statsClear then some (execRafterStatsClear r s)
  else if k = O.traceCommand then
    some (if v = 1 then execTraceArm r s else if v = 2 then execTraceTrigger r s else execTraceStop r s)
  else if k = O.loopIdRequest then some (execLoopIdRequest r v s)
  else if k = O.spinUpTokenGrant then some (execSpinUpTokenGrant r s)
  else if k = O.spindleRetry then some (execSpindleRetry r s)
  else if k = O.sineTableRestore then some (execSineTableRestore r s)
  else if O.keyControl ≤ k ∧ k < O.keyControl + 16 then
    some (if v = 1 then execKeyAcquire r (k - O.keyControl) s else execKeyRelease r (k - O.keyControl) s)
  else if k = O.performanceLevelRequest then some (execLevelRequestWrite r v s)
  else if k = O.avsRestart then some (execAvsRestart r s)
  else if k = O.sleepStateRequest then some (execSleepStateRequestWrite r v s)
  else if k = O.faultClear then some (execFaultClear r v s)
  else if k = O.faultPinRelease then some (execFaultPinRelease r s)
  else if k = O.injectCommand then some (if v = 1 then execInjectStart r s else execInjectCancel r s)
  else if k = O.shelfClear then some (execShelfClear r v s)
  else if k = O.wallTimeSet then some (execWallTimeSet r v s)
  else if k = O.stageRequest then some (execStageRequest r s)
  else if k = O.activateRequest then
    some (if v = 1 then execActivateImmediate r s else if v = 2 then execActivateArm r s else execActivateCancel r s)
  else if k = O.storeParameters then some (execStoreParameters r v s)
  else if k = O.restoreDefaults then some (execRestoreDefaults r v s)
  else if k = O.busSelect then some (execBusSelect r v s)
  else if O.mbPortRestart ≤ k ∧ k < O.mbPortRestart + 2 then some (execMbPortRestart r (k - O.mbPortRestart) s)
  else if k = O.larderEnable then some (if v = 1 then execLarderEnable r s else execLarderDisable r s)
  else if k = O.larderInvalidate then some (execLarderInvalidate r s)
  else if k = O.mapLbaRequest then some (execMapLbaRequest r v s)
  else if k = O.fenceHead then some (execFenceHead r v s)
  else if k = O.returnHead then some (execReturnHead r v s)
  else if k = O.returnActuator then some (execReturnActuator r v s)
  else if k = O.svnCommit then
    let (ok, s) := s.takeFree
    some (execSvnCommit r (decide (ok % 2 = 1)) s)
  else none

/-- A write of a DOMAIN carried out by the row that its object has, where it has one. Whether the record of a token could be appended
is open here. -/
def State.actBytes (s : State) (r : Requester) (k : Nat) (b : List Nat) : Option (Host.Outcome State Fault Refusal) :=
  if k = O.inactiveImage then some (execInactiveImageWrite r b s)
  else if k = O.sineTable then some (execSineTableWrite r b s)
  else if k = O.snapshotListImage then some (execSnapshotListWrite r b s)
  else if k = O.crateBlock then some (execCrateBlockWrite r b s)
  else if k = O.shelfClearToken then some (execShelfClearToken r b s)
  else if k = O.trapdoorToken then
    let (ok, s) := s.takeFree
    some (execTrapdoorToken r b (decide (ok % 2 = 1)) s)
  else if k = O.ownerLockToken then
    let (ok, s) := s.takeFree
    let appended := decide (ok % 2 = 1)
    some (if field b 88 1 = 2 then execOwnerLockClear r b appended s else execOwnerLockSet r b appended s)
  else none

/-- A write of a value by a requester, applied whole or refused under R344; the answer is the message sent last (R343, R344, R409). -/
def State.putObject (s : State) (r : Requester) (k : Nat) (d : ObjData) : State :=
  match s.checkPut r k d with
  | some x => s.emit (.dict r.code (x.code r))
  | none =>
    let act : Option (Host.Outcome State Fault Refusal) := match d with
      | .num _ v => s.actNumber r k v.toNat v
      | .bytes b => s.actBytes r k b
    match act with
    | some o => s.after o
    | none => s.writeVia r k d fun s => s.putPlain r k d

/-- The answer to a write taken back from the messages: its status, and the state without the message. -/
def State.takeAnswer (s : State) : Nat × State :=
  match s.outbox with
  | .dict _ status :: rest => (status, { s with outbox := rest })
  | _ => (0, s)

/-- OBJECT_WRITE: a write, from any path, to an object that has no row of its own (R409). -/
def execObjectWrite (requester : Requester) (object : Nat) (data : ObjData) (s : State) : Host.Outcome State Fault Refusal :=
  .next (s.putObject requester object data)

/-! ### NVMe (R343, R344) -/

/-- DICTIONARY_GET: C4h reads one sub-index into a buffer of 1 to 1,048,576 bytes; dword 0 is the value's size (R343). -/
def execDictionaryGet (port cid object length reserved : Nat) (s : State) : Host.Outcome State Fault Refusal :=
  .next (s.admin port cid fun s =>
    if reserved ≠ 0 ∨ length < 1 ∨ 1048576 < length then (invalidField, s)
    else
      match s.readValue object (some length) with
      | .error x => ((7, x.nvme, 0), s)
      | .ok b => ((0, 0, b.length), (s.noteRead object).sendData port cid b))

/-- DICTIONARY_PUT: C5h writes one sub-index (R343, R344). -/
def execDictionaryPut (port cid object : Nat) (data : List Nat) (reserved : Nat) (s : State) : Host.Outcome State Fault Refusal :=
  .next (s.admin port cid fun s =>
    if reserved ≠ 0 then (invalidField, s)
    else
      let (status, s) := (s.putObject (.ofPort port) object (objData object data)).takeAnswer
      (if status = 0 then done else (7, status, 0), s))

/-! ### USDO (R429, R432) -/

/-- A write of bytes by the management bus: its SDO abort code, 0 where it is applied, and the state after it. -/
def State.putMb (s : State) (k : Nat) (b : List Nat) : Nat × State := (s.putObject .mb k (objData k b)).takeAnswer

/-- A USDO write applied at its last segment, and answered (R432). -/
def State.usdoWrite (s : State) (k : Nat) (b : List Nat) : State :=
  let (status, s) := s.putMb k b
  s.sendMb (if status = 0 then .sdoDone else .sdoAbort status)

/-- USDO_REQUEST: a frame that begins, continues or ends the one transfer; a beginning during another is aborted with 0800 0020h
(R429, R432). -/
def execUsdoRequest (bus client : Nat) (begins write : Bool) (object : Nat) (data : List Nat) (last : Bool) (s : State) :
    Host.Outcome State Fault Refusal :=
  .next (if ¬ s.busActs bus ∨ ¬ s.nmtServes ∨ s.mb.nodeId = 255 then s.foreign bus
    else if begins then
      if s.mb.usdo.isSome then s.sendMb (.sdoAbort 0x08000020)
      else if write then
        if last then s.usdoWrite object data
        else s.modMb fun m => { m with usdo := some { client := client, key := object, isWrite := true, gathered := data, lastFrame := s.tick } }
      else
        match s.readValue object none with
        | .error x => s.sendMb (.sdoAbort x.sdo)
        | .ok b =>
          if last then (s.noteRead object).sendMb (.sdoData (b.map fun (x : Nat) => (x : Int)))
          else (s.noteRead object).modMb fun m => { m with usdo := some { client := client, key := object, isWrite := false, gathered := b, lastFrame := s.tick } }
    else
      match s.mb.usdo with
      | none => s
      | some u =>
        if u.client ≠ client then s
        else if last then
          let s := s.modMb fun m => { m with usdo := none }
          if u.isWrite then s.usdoWrite u.key (u.gathered ++ data)
          else s.sendMb (.sdoData (u.gathered.map fun (x : Nat) => (x : Int)))
        else
          let u := { u with gathered := if u.isWrite then u.gathered ++ data else u.gathered, lastFrame := s.tick }
          s.modMb fun m => { m with usdo := some u })

/-- USDO_TIMEOUT: no frame of the client for UsdoTimeout: abort 0504 0000h, and the transfer is abandoned (R432). -/
def execUsdoTimeout (s : State) : Host.Outcome State Fault Refusal :=
  .next (match s.mb.usdo with
    | some u =>
      if s.tick < u.lastFrame + 1000 * s.nat O.usdoTimeout then s
      else (s.modMb fun m => { m with usdo := none }).sendMb (.sdoAbort 0x05040000)
    | none => s)

/-! ### PDOs (R428, R429, R433) -/

/-- Bytes cut into the values of mapping entries, in order. -/
def cutPdo : List Nat → List Nat → List (Nat × List Nat)
  | [], _ => []
  | e :: rest, b => (e / 256, b.take (e % 256 / 8)) :: cutPdo rest (b.drop (e % 256 / 8))

/-- An RPDO's values written; one that R344 refuses is dropped and counted (R433). -/
def State.applyRpdo (s : State) (number : Nat) (data : List Nat) : State :=
  (cutPdo (s.mapEntries (O.rpdo1Count + 256 * (number - 1))) data).foldl (fun (s : State) (w : Nat × List Nat) =>
    let (status, s) := s.putMb w.1 w.2
    if status = 0 then s else s.bump O.rpdoWritesDropped) s

/-- RPDO_RECEIVED: an enabled RPDO in Operational; one of transmission type 0 to 240 takes effect at the next SYNC (R429, R433). -/
def execRpdoReceived (bus number : Nat) (data : List Nat) (s : State) : Host.Outcome State Fault Refusal :=
  let base := O.rpdo1CobId + 256 * (number - 1)
  .next (if ¬ s.busActs bus ∨ s.mb.nmt ≠ 5 ∨ number < 1 ∨ 2 < number ∨ (s.view base).toNat.testBit 31 then s.foreign bus
    else if s.nat (base + 1) ≤ 240 then s.modMb fun m => { m with rpdoHeld := putKey m.rpdoHeld number data }
    else s.applyRpdo number data)

/-- Values a TPDO carries now, in mapped order; one that is invalid under R415 is open. -/
def State.tpdoNow (s : State) (number : Nat) : List Int :=
  (s.mapEntries (O.tpdo1Count + 256 * (number - 1))).zipIdx.map fun (e : Nat × Nat) =>
    if s.runValueInvalid (e.1 / 256) then (Config.freeValue (s.freeIx + e.2) : Int) else s.view (e.1 / 256)

/-- Whether a TPDO may be sent: 1 to 4, enabled, mapped, in Operational (R429, R433). -/
def State.tpdoEnabled (s : State) (number : Nat) : Bool :=
  decide (1 ≤ number) && decide (number ≤ 4) && decide (s.mb.nmt = 5) &&
    !(s.view (O.tpdo1CobId + 256 * (number - 1))).toNat.testBit 31 &&
    decide (s.nat (O.tpdo1Count + 256 * (number - 1)) ≠ 0) && s.busSends s.activeBus

/-- A TPDO sent. -/
def State.sendTpdo (s : State) (number : Nat) : State :=
  let values := s.tpdoNow number
  let s := s.modMb fun m => { m with
    tpdoLast := putKey m.tpdoLast number s.tick, tpdoValues := putKey m.tpdoValues number values, tpdoSyncs := putKey m.tpdoSyncs number 0 }
  ({ s with freeIx := s.freeIx + values.length }).emit (.tpdo s.activeBus number values)

/-- Whether a TPDO's values have changed since it was sent. -/
def State.tpdoChanged (s : State) (number : Nat) : Bool := decide (assoc? s.mb.tpdoValues number ≠ some (s.tpdoNow number))

/-- TPDO_TRANSMIT: an event-driven TPDO is sent when a mapped value has changed, its inhibit time past, or when its event timer
expires (R433). -/
def execTpdoTransmit (number : Nat) (s : State) : Host.Outcome State Fault Refusal :=
  let base := O.tpdo1CobId + 256 * (number - 1)
  let timer := s.nat (base + 4)
  let past (d : Nat) : Bool := match assoc? s.mb.tpdoLast number with
    | some t => decide (t + d ≤ s.tick)
    | none => true
  .next (if ¬ s.tpdoEnabled number ∨ s.nat (base + 1) ≤ 240 then s
    else if past (100 * s.nat (base + 2)) ∧ (s.tpdoChanged number ∨ (timer ≠ 0 ∧ past (1000 * timer))) then s.sendTpdo number
    else s)

/-- A synchronous TPDO at a SYNC: type 0 where a value has changed, type n at every n-th one. -/
def State.syncTpdo (s : State) (number : Nat) : State :=
  let type := s.nat (O.tpdo1Type + 256 * (number - 1))
  if ¬ s.tpdoEnabled number ∨ 240 < type then s
  else if type = 0 then if s.tpdoChanged number then s.sendTpdo number else s
  else
    let n := (assoc? s.mb.tpdoSyncs number).getD 0 + 1
    if type ≤ n then s.sendTpdo number
    else s.modMb fun m => { m with tpdoSyncs := putKey m.tpdoSyncs number n }

/-- SYNC_MESSAGE: held RPDOs take effect and synchronous TPDOs are sent (R428, R429, R433). -/
def execSyncMessage (bus : Nat) (s : State) : Host.Outcome State Fault Refusal :=
  .next (if ¬ s.busActs bus ∨ s.mb.nmt ≠ 5 then s.foreign bus
    else
      let held := s.mb.rpdoHeld
      let s := s.modMb fun m => { m with rpdoHeld := [] }
      let s := [1, 2].foldl (fun (s : State) n => match assoc? held n with
        | some b => s.applyRpdo n b
        | none => s) s
      [1, 2, 3, 4].foldl State.syncTpdo s)

end Sys2Proof.Machine
end

