-- ==== Sys2Proof/Machine/Dispatch.lean ====
section
/-! DEFINITION. One arm for each command: the effect of the command on everything but the queue. -/

namespace Sys2Proof.Machine

/-- The effect of command `i` on state `s`, its queue untouched. -/
def exec (i : Instr) (s : State) : Host.Outcome State Fault Refusal :=
  match i with
  | .powerUpReset variant straps => Sys2Proof.Machine.execPowerUpReset variant straps s
  | .startupStepEnd report => Sys2Proof.Machine.execStartupStepEnd report s
  | .mediaReady => Sys2Proof.Machine.execMediaReady s
  | .supplyDip supply mv lasting => Sys2Proof.Machine.execSupplyDip supply mv lasting s
  | .vddCoreStartTimeout => Sys2Proof.Machine.execVddCoreStartTimeout s
  | .refclkStop lasting => Sys2Proof.Machine.execRefclkStop lasting s
  | .powerLossDetected vin lasting => Sys2Proof.Machine.execPowerLossDetected vin lasting s
  | .powerLossRecordAppend => Sys2Proof.Machine.execPowerLossRecordAppend s
  | .holdUpEnergyUpdate vbank => Sys2Proof.Machine.execHoldUpEnergyUpdate vbank s
  | .faultReset => Sys2Proof.Machine.execFaultReset s
  | .nssrSubsystemReset port value => Sys2Proof.Machine.execNssrSubsystemReset port value s
  | .controllerEnableClear port => Sys2Proof.Machine.execControllerEnableClear port s
  | .controllerEnableSet port crime adminSize => Sys2Proof.Machine.execControllerEnableSet port crime adminSize s
  | .functionLevelReset port => Sys2Proof.Machine.execFunctionLevelReset port s
  | .hotResetOrLinkDown port linkDown => Sys2Proof.Machine.execHotResetOrLinkDown port linkDown s
  | .perstAssert port => Sys2Proof.Machine.execPerstAssert port s
  | .perstDeassert port => Sys2Proof.Machine.execPerstDeassert port s
  | .controllerResetDrainEnd port => Sys2Proof.Machine.execControllerResetDrainEnd port s
  | .shutdownNotification port kind => Sys2Proof.Machine.execShutdownNotification port kind s
  | .shutdownComplete port => Sys2Proof.Machine.execShutdownComplete port s
  | .doorbellWrite port qid tail => Sys2Proof.Machine.execDoorbellWrite port qid tail s
  | .contextFreed port => Sys2Proof.Machine.execContextFreed port s
  | .deleteIoSubmissionQueue port cid qid => Sys2Proof.Machine.execDeleteIoSubmissionQueue port cid qid s
  | .createIoSubmissionQueue port cid qid size cqid contiguous => Sys2Proof.Machine.execCreateIoSubmissionQueue port cid qid size cqid contiguous s
  | .deleteIoCompletionQueue port cid qid => Sys2Proof.Machine.execDeleteIoCompletionQueue port cid qid s
  | .createIoCompletionQueue port cid qid size vector contiguous => Sys2Proof.Machine.execCreateIoCompletionQueue port cid qid size vector contiguous s
  | .getLogPage port cid page nsIdent rae offset length => Sys2Proof.Machine.execGetLogPage port cid page nsIdent rae offset length s
  | .identifyController port cid => Sys2Proof.Machine.execIdentifyController port cid s
  | .identifyNamespace port cid nsIdent => Sys2Proof.Machine.execIdentifyNamespace port cid nsIdent s
  | .identifyList port cid cns nsIdent => Sys2Proof.Machine.execIdentifyList port cid cns nsIdent s
  | .abort port cid target targetCid outstanding => Sys2Proof.Machine.execAbort port cid target targetCid outstanding s
  | .setFeaturesArbitration port cid value save => Sys2Proof.Machine.execSetFeaturesArbitration port cid value save s
  | .setFeaturesPowerManagement port cid value save => Sys2Proof.Machine.execSetFeaturesPowerManagement port cid value save s
  | .setFeaturesTemperatureThreshold port cid value save => Sys2Proof.Machine.execSetFeaturesTemperatureThreshold port cid value save s
  | .setFeaturesErrorRecovery port cid nsIdent value save => Sys2Proof.Machine.execSetFeaturesErrorRecovery port cid nsIdent value save s
  | .setFeaturesNumberOfQueues port cid submission completion save => Sys2Proof.Machine.execSetFeaturesNumberOfQueues port cid submission completion save s
  | .setFeaturesInterruptCoalescing port cid value save => Sys2Proof.Machine.execSetFeaturesInterruptCoalescing port cid value save s
  | .setFeaturesInterruptVectorConfig port cid value save => Sys2Proof.Machine.execSetFeaturesInterruptVectorConfig port cid value save s
  | .setFeaturesWriteAtomicityNormal port cid value save => Sys2Proof.Machine.execSetFeaturesWriteAtomicityNormal port cid value save s
  | .setFeaturesAsyncEventConfig port cid value save => Sys2Proof.Machine.execSetFeaturesAsyncEventConfig port cid value save s
  | .getFeatures port cid feature select value nsIdent => Sys2Proof.Machine.execGetFeatures port cid feature select value nsIdent s
  | .asynchronousEventRequest port cid => Sys2Proof.Machine.execAsynchronousEventRequest port cid s
  | .firmwareImageDownload port cid offset data => Sys2Proof.Machine.execFirmwareImageDownload port cid offset data s
  | .firmwareCommitStage port cid action fwSlot => Sys2Proof.Machine.execFirmwareCommitStage port cid action fwSlot s
  | .firmwareCommitActivate port cid fwSlot => Sys2Proof.Machine.execFirmwareCommitActivate port cid fwSlot s
  | .deviceSelfTestShort port cid => Sys2Proof.Machine.execDeviceSelfTestShort port cid s
  | .deviceSelfTestExtended port cid => Sys2Proof.Machine.execDeviceSelfTestExtended port cid s
  | .deviceSelfTestAbort port cid => Sys2Proof.Machine.execDeviceSelfTestAbort port cid s
  | .selfTestComplete failed vin bank => Sys2Proof.Machine.execSelfTestComplete failed vin bank s
  | .formatNvm port cid nsIdent value mapping => Sys2Proof.Machine.execFormatNvm port cid nsIdent value mapping s
  | .formatNvmComplete heads loops defects => Sys2Proof.Machine.execFormatNvmComplete heads loops defects s
  | .sanitize port cid dword10 pattern => Sys2Proof.Machine.execSanitize port cid dword10 pattern s
  | .sanitizeComplete ok => Sys2Proof.Machine.execSanitizeComplete ok s
  | .securitySend port cid protocol request certSlot offset length nonce => Sys2Proof.Machine.execSecuritySend port cid protocol request certSlot offset length nonce s
  | .securityReceive port cid protocol => Sys2Proof.Machine.execSecurityReceive port cid protocol s
  | .dictionaryGet port cid object length reserved => Sys2Proof.Machine.execDictionaryGet port cid object length reserved s
  | .dictionaryPut port cid object data reserved => Sys2Proof.Machine.execDictionaryPut port cid object data reserved s
  | .objectWrite requester object data => Sys2Proof.Machine.execObjectWrite requester object data s
  | .read port qid cid nsid slba count fua limited => Sys2Proof.Machine.execRead port qid cid nsid slba count fua limited s
  | .write port qid cid nsid slba count data => Sys2Proof.Machine.execWrite port qid cid nsid slba count data s
  | .writeZeroes port qid cid nsid slba count => Sys2Proof.Machine.execWriteZeroes port qid cid nsid slba count s
  | .verify port qid cid nsid slba count limited => Sys2Proof.Machine.execVerify port qid cid nsid slba count limited s
  | .flush port qid cid nsid => Sys2Proof.Machine.execFlush port qid cid nsid s
  | .datasetManagement port qid cid nsid sequential => Sys2Proof.Machine.execDatasetManagement port qid cid nsid sequential s
  | .rangeLockGranted port qid cid => Sys2Proof.Machine.execRangeLockGranted port qid cid s
  | .mediaOpIssue port qid cid => Sys2Proof.Machine.execMediaOpIssue port qid cid s
  | .hostCommandDeadline port qid cid => Sys2Proof.Machine.execHostCommandDeadline port qid cid s
  | .readAheadFill nsid number => Sys2Proof.Machine.execReadAheadFill nsid number s
  | .mergeBufferFreed => Sys2Proof.Machine.execMergeBufferFreed s
  | .mergeWindowExpiry nsid chunk => Sys2Proof.Machine.execMergeWindowExpiry nsid chunk s
  | .cellarSlotPlace port qid cid ring => Sys2Proof.Machine.execCellarSlotPlace port qid cid ring s
  | .restockChunk nsid chunk => Sys2Proof.Machine.execRestockChunk nsid chunk s
  | .watermarkAppend act => Sys2Proof.Machine.execWatermarkAppend act s
  | .activationDrainEnd => Sys2Proof.Machine.execActivationDrainEnd s
  | .activationDrainTimeout => Sys2Proof.Machine.execActivationDrainTimeout s
  | .sectorFramed stream sector frac => Sys2Proof.Machine.execSectorFramed stream sector frac s
  | .decoderTurnEnd decoder time => Sys2Proof.Machine.execDecoderTurnEnd decoder time s
  | .deferredDecode stream time => Sys2Proof.Machine.execDeferredDecode stream time s
  | .decoderSelfTest failed => Sys2Proof.Machine.execDecoderSelfTest failed s
  | .ladderExtendedDecode ladder time => Sys2Proof.Machine.execLadderExtendedDecode ladder time s
  | .ladderCountFramedReread ladder time => Sys2Proof.Machine.execLadderCountFramedReread ladder time s
  | .ladderAveragingPass ladder time => Sys2Proof.Machine.execLadderAveragingPass ladder time s
  | .ladderOffsetRead ladder time => Sys2Proof.Machine.execLadderOffsetRead ladder time s
  | .ladderHeaterStep ladder time => Sys2Proof.Machine.execLadderHeaterStep ladder time s
  | .ladderTimeLimit ladder => Sys2Proof.Machine.execLadderTimeLimit ladder s
  | .clockWaitLimit ladder => Sys2Proof.Machine.execClockWaitLimit ladder s
  | .captureSlotFreed => Sys2Proof.Machine.execCaptureSlotFreed s
  | .sectorRefresh nsid lba => Sys2Proof.Machine.execSectorRefresh nsid lba s
  | .writeBurstOpen head nsid lba => Sys2Proof.Machine.execWriteBurstOpen head nsid lba s
  | .writeBurstEnd head => Sys2Proof.Machine.execWriteBurstEnd head s
  | .writeRetryLimitReached head nsid lba => Sys2Proof.Machine.execWriteRetryLimitReached head nsid lba s
  | .chunkFillRead head nsid lba => Sys2Proof.Machine.execChunkFillRead head nsid lba s
  | .ledgerLearnRead nsid lba => Sys2Proof.Machine.execLedgerLearnRead nsid lba s
  | .ledgerAudit nsid lba => Sys2Proof.Machine.execLedgerAudit nsid lba s
  | .ledgerFlush => Sys2Proof.Machine.execLedgerFlush s
  | .verifyReadback head nsid lba => Sys2Proof.Machine.execVerifyReadback head nsid lba s
  | .adjacentCheckRead head lane => Sys2Proof.Machine.execAdjacentCheckRead head lane s
  | .laneRemapCopy surface zone offset => Sys2Proof.Machine.execLaneRemapCopy surface zone offset s
  | .laneRemapCommit surface zone offset good => Sys2Proof.Machine.execLaneRemapCommit surface zone offset good s
  | .positionSample head sub => Sys2Proof.Machine.execPositionSample head sub s
  | .seekRequest act zone row only => Sys2Proof.Machine.execSeekRequest act zone row only s
  | .handOver act sub => Sys2Proof.Machine.execHandOver act sub s
  | .stripeCrossing head outerFirst inward => Sys2Proof.Machine.execStripeCrossing head outerFirst inward s
  | .laneCheckRead head => Sys2Proof.Machine.execLaneCheckRead head s
  | .laneUncertain act => Sys2Proof.Machine.execLaneUncertain act s
  | .actuatorLoad act zones spares => Sys2Proof.Machine.execActuatorLoad act zones spares s
  | .loadTimeout act => Sys2Proof.Machine.execLoadTimeout act s
  | .actuatorUnload act => Sys2Proof.Machine.execActuatorUnload act s
  | .safeParkTimeEnd act => Sys2Proof.Machine.execSafeParkTimeEnd act s
  | .sensorTransaction sensor miso => Sys2Proof.Machine.execSensorTransaction sensor miso s
  | .shockHoldExpiry => Sys2Proof.Machine.execShockHoldExpiry s
  | .shockReloadDelay => Sys2Proof.Machine.execShockReloadDelay s
  | .sensorRetry sensor miso => Sys2Proof.Machine.execSensorRetry sensor miso s
  | .lenderAssign head => Sys2Proof.Machine.execLenderAssign head s
  | .headHold head => Sys2Proof.Machine.execHeadHold head s
  | .readOnlyEnd head => Sys2Proof.Machine.execReadOnlyEnd head s
  | .rroLearnUpdate head coefWord => Sys2Proof.Machine.execRroLearnUpdate head coefWord s
  | .loopIdentificationEnd slot gain modeShift frequency words => Sys2Proof.Machine.execLoopIdentificationEnd slot gain modeShift frequency words s
  | .heaterCalibration head => Sys2Proof.Machine.execHeaterCalibration head s
  | .calibrationCheckEnd head => Sys2Proof.Machine.execCalibrationCheckEnd head s
  | .loopIdRequest requester slot => Sys2Proof.Machine.execLoopIdRequest requester slot s
  | .indexFieldDetected head => Sys2Proof.Machine.execIndexFieldDetected head s
  | .acquisitionTimeout head => Sys2Proof.Machine.execAcquisitionTimeout head s
  | .eqAdaptBlock stream => Sys2Proof.Machine.execEqAdaptBlock stream s
  | .detectorBankSwap head sector => Sys2Proof.Machine.execDetectorBankSwap head sector s
  | .detectorSetsSave => Sys2Proof.Machine.execDetectorSetsSave s
  | .eqIdleCalibrationRead stream => Sys2Proof.Machine.execEqIdleCalibrationRead stream s
  | .paceIntervalEnd => Sys2Proof.Machine.execPaceIntervalEnd s
  | .narrowServiceStart head => Sys2Proof.Machine.execNarrowServiceStart head s
  | .narrowServiceEnd head => Sys2Proof.Machine.execNarrowServiceEnd head s
  | .deferralExit stream => Sys2Proof.Machine.execDeferralExit stream s
  | .streamAdmissionRecompute narrowActs => Sys2Proof.Machine.execStreamAdmissionRecompute narrowActs s
  | .admissionTakeEffect act => Sys2Proof.Machine.execAdmissionTakeEffect act s
  | .pclStatusFrame pcl frame => Sys2Proof.Machine.execPclStatusFrame pcl frame s
  | .pclWriteAck pcl frame => Sys2Proof.Machine.execPclWriteAck pcl frame s
  | .pclReadData pcl frame => Sys2Proof.Machine.execPclReadData pcl frame s
  | .pclNak pcl frame => Sys2Proof.Machine.execPclNak pcl frame s
  | .registerAccessTimeout pcl tag => Sys2Proof.Machine.execRegisterAccessTimeout pcl tag s
  | .pclUpstreamLost pcl => Sys2Proof.Machine.execPclUpstreamLost pcl s
  | .rslDataBlock link lane header body overflow => Sys2Proof.Machine.execRslDataBlock link lane header body overflow s
  | .rslAlignmentMarker link body0 body1 skew => Sys2Proof.Machine.execRslAlignmentMarker link body0 body1 skew s
  | .linkTrainingEnd kind link lock sweep headers skew intervals => Sys2Proof.Machine.execLinkTrainingEnd kind link lock sweep headers skew intervals s
  | .linkTrainingDeadline kind link => Sys2Proof.Machine.execLinkTrainingDeadline kind link s
  | .failedLinkRetry kind link => Sys2Proof.Machine.execFailedLinkRetry kind link s
  | .chipWarningClear pcl => Sys2Proof.Machine.execChipWarningClear pcl s
  | .preampAccessRead requester => Sys2Proof.Machine.execPreampAccessRead requester s
  | .preampAccessWrite requester => Sys2Proof.Machine.execPreampAccessWrite requester s
  | .linkCounterClear requester => Sys2Proof.Machine.execLinkCounterClear requester s
  | .loopSampleBoundary slot sub => Sys2Proof.Machine.execLoopSampleBoundary slot sub s
  | .loopSampleDeadline slot sub => Sys2Proof.Machine.execLoopSampleDeadline slot sub s
  | .outputApplication slot sub => Sys2Proof.Machine.execOutputApplication slot sub s
  | .vcmMeasFrame act frame => Sys2Proof.Machine.execVcmMeasFrame act frame s
  | .commutationAngleUpdate sub => Sys2Proof.Machine.execCommutationAngleUpdate sub s
  | .mcNop slot => Sys2Proof.Machine.execMcNop slot s
  | .mcIn slot dst imm shift round satCount => Sys2Proof.Machine.execMcIn slot dst imm shift round satCount s
  | .mcOut slot srcA imm => Sys2Proof.Machine.execMcOut slot srcA imm s
  | .mcMov slot dst srcA shift round satCount => Sys2Proof.Machine.execMcMov slot dst srcA shift round satCount s
  | .mcAdd slot dst srcA srcB shift round satCount => Sys2Proof.Machine.execMcAdd slot dst srcA srcB shift round satCount s
  | .mcSub slot dst srcA srcB shift round satCount => Sys2Proof.Machine.execMcSub slot dst srcA srcB shift round satCount s
  | .mcMul slot dst srcA coefWord shift round satCount => Sys2Proof.Machine.execMcMul slot dst srcA coefWord shift round satCount s
  | .mcMac slot dst srcA srcB coefWord shift round satCount => Sys2Proof.Machine.execMcMac slot dst srcA srcB coefWord shift round satCount s
  | .mcBiq slot dst srcA coefWord stateBase sections shift round satCount => Sys2Proof.Machine.execMcBiq slot dst srcA coefWord stateBase sections shift round satCount s
  | .mcSsb slot dst srcA coefWord stateBase imm shift round satCount => Sys2Proof.Machine.execMcSsb slot dst srcA coefWord stateBase imm shift round satCount s
  | .mcLim slot dst srcA coefWord shift round satCount => Sys2Proof.Machine.execMcLim slot dst srcA coefWord shift round satCount s
  | .mcInt slot dst srcA coefWord stateBase shift round satCount => Sys2Proof.Machine.execMcInt slot dst srcA coefWord stateBase shift round satCount s
  | .mcSel slot dst srcA srcB imm shift round satCount => Sys2Proof.Machine.execMcSel slot dst srcA srcB imm shift round satCount s
  | .mcLut slot dst srcA coefWord sections shift round satCount => Sys2Proof.Machine.execMcLut slot dst srcA coefWord sections shift round satCount s
  | .mcEnds slot sub => Sys2Proof.Machine.execMcEnds slot sub s
  | .bankIntegrityCheck sub found => Sys2Proof.Machine.execBankIntegrityCheck sub found s
  | .coefSwapTakeEffect slot sub => Sys2Proof.Machine.execCoefSwapTakeEffect slot sub s
  | .microcodeSwap sub => Sys2Proof.Machine.execMicrocodeSwap sub s
  | .microcodeHealthWindowEnd sub => Sys2Proof.Machine.execMicrocodeHealthWindowEnd sub s
  | .coefClaim requester => Sys2Proof.Machine.execCoefClaim requester s
  | .coefRelease requester => Sys2Proof.Machine.execCoefRelease requester s
  | .coefCopyActive requester => Sys2Proof.Machine.execCoefCopyActive requester s
  | .coefValueWrite requester value => Sys2Proof.Machine.execCoefValueWrite requester value s
  | .coefSeal requester => Sys2Proof.Machine.execCoefSeal requester s
  | .inactiveImageWrite requester image => Sys2Proof.Machine.execInactiveImageWrite requester image s
  | .swapRequest requester sub mask => Sys2Proof.Machine.execSwapRequest requester sub mask s
  | .groupSwapRequest requester sub group => Sys2Proof.Machine.execGroupSwapRequest requester sub group s
  | .rafterStatsClear requester => Sys2Proof.Machine.execRafterStatsClear requester s
  | .traceArm requester => Sys2Proof.Machine.execTraceArm requester s
  | .traceTrigger requester => Sys2Proof.Machine.execTraceTrigger requester s
  | .traceStop requester => Sys2Proof.Machine.execTraceStop requester s
  | .spinUpRequest => Sys2Proof.Machine.execSpinUpRequest s
  | .spinUpTokenGrant requester => Sys2Proof.Machine.execSpinUpTokenGrant requester s
  | .spinUpTokenTimeout => Sys2Proof.Machine.execSpinUpTokenTimeout s
  | .spinUpSlotDelayEnd => Sys2Proof.Machine.execSpinUpSlotDelayEnd s
  | .surgeGrant => Sys2Proof.Machine.execSurgeGrant s
  | .surgeReturn priority item => Sys2Proof.Machine.execSurgeReturn priority item s
  | .chopperTestEnd chs => Sys2Proof.Machine.execChopperTestEnd chs s
  | .listeningEnd => Sys2Proof.Machine.execListeningEnd s
  | .rotorAngleResolved ratio angle => Sys2Proof.Machine.execRotorAngleResolved ratio angle s
  | .resolveTimeout => Sys2Proof.Machine.execResolveTimeout s
  | .polarityPulsesEnd plus minus => Sys2Proof.Machine.execPolarityPulsesEnd plus minus s
  | .backEmfCrossing phase v0 v1 sub tracked => Sys2Proof.Machine.execBackEmfCrossing phase v0 v1 sub tracked s
  | .commutationInstant sub tracked => Sys2Proof.Machine.execCommutationInstant sub tracked s
  | .lockedRotorTimeout => Sys2Proof.Machine.execLockedRotorTimeout s
  | .lockedRotorRetry => Sys2Proof.Machine.execLockedRotorRetry s
  | .spinUpTimeLimit => Sys2Proof.Machine.execSpinUpTimeLimit s
  | .speedErrorCheck sub => Sys2Proof.Machine.execSpeedErrorCheck sub s
  | .flywheelCyclesEnd => Sys2Proof.Machine.execFlywheelCyclesEnd s
  | .coastEnd weak => Sys2Proof.Machine.execCoastEnd weak s
  | .pwmPeriod sub tracked modulation shunt1 shunt2 => Sys2Proof.Machine.execPwmPeriod sub tracked modulation shunt1 shunt2 s
  | .overcurrentTrip shunt => Sys2Proof.Machine.execOvercurrentTrip shunt s
  | .busOvervoltageOv2 bus => Sys2Proof.Machine.execBusOvervoltageOv2 bus s
  | .chopperFaultDeclare => Sys2Proof.Machine.execChopperFaultDeclare s
  | .brakeEndSpeed => Sys2Proof.Machine.execBrakeEndSpeed s
  | .brakeNoCrossingTimeout => Sys2Proof.Machine.execBrakeNoCrossingTimeout s
  | .spindleRetry requester => Sys2Proof.Machine.execSpindleRetry requester s
  | .sineTableRestore requester => Sys2Proof.Machine.execSineTableRestore requester s
  | .sineTableWrite requester table => Sys2Proof.Machine.execSineTableWrite requester table s
  | .zoneTableRpmChange => Sys2Proof.Machine.execZoneTableRpmChange s
  | .levelRequestWrite requester level => Sys2Proof.Machine.execLevelRequestWrite requester level s
  | .levelStep => Sys2Proof.Machine.execLevelStep s
  | .avsResponse accepted mv => Sys2Proof.Machine.execAvsResponse accepted mv s
  | .avsSettleEnd => Sys2Proof.Machine.execAvsSettleEnd s
  | .avsAckTimeout => Sys2Proof.Machine.execAvsAckTimeout s
  | .avsRetryDelayEnd => Sys2Proof.Machine.execAvsRetryDelayEnd s
  | .avsRestart requester => Sys2Proof.Machine.execAvsRestart requester s
  | .thermalLevelAdjust temperature => Sys2Proof.Machine.execThermalLevelAdjust temperature s
  | .caseTemperatureCritical temperature => Sys2Proof.Machine.execCaseTemperatureCritical temperature s
  | .replicaMeasurement level counts => Sys2Proof.Machine.execReplicaMeasurement level counts s
  | .readMarginRecord => Sys2Proof.Machine.execReadMarginRecord s
  | .sleepStateRequestWrite requester value => Sys2Proof.Machine.execSleepStateRequestWrite requester value s
  | .sleepBlockVote block wake => Sys2Proof.Machine.execSleepBlockVote block wake s
  | .sleepStateReached => Sys2Proof.Machine.execSleepStateReached s
  | .sleepPrepareTimeout => Sys2Proof.Machine.execSleepPrepareTimeout s
  | .wakeEvent source => Sys2Proof.Machine.execWakeEvent source s
  | .wakeTimerExpiry => Sys2Proof.Machine.execWakeTimerExpiry s
  | .sleepIdleTimeExpiry => Sys2Proof.Machine.execSleepIdleTimeExpiry s
  | .faultRaising src cause => Sys2Proof.Machine.execFaultRaising src cause s
  | .faultClear requester value => Sys2Proof.Machine.execFaultClear requester value s
  | .faultPinRelease requester => Sys2Proof.Machine.execFaultPinRelease requester s
  | .faultPulseEnd => Sys2Proof.Machine.execFaultPulseEnd s
  | .emcySend => Sys2Proof.Machine.execEmcySend s
  | .trapdoorToken requester token appended => Sys2Proof.Machine.execTrapdoorToken requester token appended s
  | .injectStart requester => Sys2Proof.Machine.execInjectStart requester s
  | .injectCancel requester => Sys2Proof.Machine.execInjectCancel requester s
  | .injectionInterval => Sys2Proof.Machine.execInjectionInterval s
  | .shelfClear requester bound => Sys2Proof.Machine.execShelfClear requester bound s
  | .shelfClearToken requester token => Sys2Proof.Machine.execShelfClearToken requester token s
  | .wallTimeSet requester value => Sys2Proof.Machine.execWallTimeSet requester value s
  | .snapshotListWrite requester image => Sys2Proof.Machine.execSnapshotListWrite requester image s
  | .trunkAppendComplete cause => Sys2Proof.Machine.execTrunkAppendComplete cause s
  | .trunkMirrorWrite act => Sys2Proof.Machine.execTrunkMirrorWrite act s
  | .storeParameters requester value => Sys2Proof.Machine.execStoreParameters requester value s
  | .restoreDefaults requester value => Sys2Proof.Machine.execRestoreDefaults requester value s
  | .keyAcquire requester key => Sys2Proof.Machine.execKeyAcquire requester key s
  | .keyRelease requester key => Sys2Proof.Machine.execKeyRelease requester key s
  | .keyLeaseExpiry key => Sys2Proof.Machine.execKeyLeaseExpiry key s
  | .nmtStartRemoteNode bus node => Sys2Proof.Machine.execNmtStartRemoteNode bus node s
  | .nmtStopRemoteNode bus node => Sys2Proof.Machine.execNmtStopRemoteNode bus node s
  | .nmtEnterPreOperational bus node => Sys2Proof.Machine.execNmtEnterPreOperational bus node s
  | .nmtResetNode bus node => Sys2Proof.Machine.execNmtResetNode bus node s
  | .nmtResetCommunication bus node => Sys2Proof.Machine.execNmtResetCommunication bus node s
  | .lssSwitchStateGlobal bus mode => Sys2Proof.Machine.execLssSwitchStateGlobal bus mode s
  | .lssSwitchStateSelective bus vendor product revision serial => Sys2Proof.Machine.execLssSwitchStateSelective bus vendor product revision serial s
  | .lssConfigureNodeId bus node => Sys2Proof.Machine.execLssConfigureNodeId bus node s
  | .lssStoreConfiguration bus => Sys2Proof.Machine.execLssStoreConfiguration bus s
  | .lssInquireIdentity bus entry => Sys2Proof.Machine.execLssInquireIdentity bus entry s
  | .lssInquireNodeId bus => Sys2Proof.Machine.execLssInquireNodeId bus s
  | .lssFastscan bus number bit sub following => Sys2Proof.Machine.execLssFastscan bus number bit sub following s
  | .lssConfigureBitTiming bus => Sys2Proof.Machine.execLssConfigureBitTiming bus s
  | .usdoRequest bus client begins write object data last => Sys2Proof.Machine.execUsdoRequest bus client begins write object data last s
  | .usdoTimeout => Sys2Proof.Machine.execUsdoTimeout s
  | .rpdoReceived bus number data => Sys2Proof.Machine.execRpdoReceived bus number data s
  | .tpdoTransmit number => Sys2Proof.Machine.execTpdoTransmit number s
  | .heartbeatProduce => Sys2Proof.Machine.execHeartbeatProduce s
  | .consumerHeartbeatLost bus entry => Sys2Proof.Machine.execConsumerHeartbeatLost bus entry s
  | .timeMessage bus value => Sys2Proof.Machine.execTimeMessage bus value s
  | .foreignFrame bus => Sys2Proof.Machine.execForeignFrame bus s
  | .arbitrationLost bus => Sys2Proof.Machine.execArbitrationLost bus s
  | .staleFrameDrop bus queued => Sys2Proof.Machine.execStaleFrameDrop bus queued s
  | .busOff bus => Sys2Proof.Machine.execBusOff bus s
  | .busOffRecoveryStart bus => Sys2Proof.Machine.execBusOffRecoveryStart bus s
  | .busOffRecovered bus => Sys2Proof.Machine.execBusOffRecovered bus s
  | .duplicateNodeId bus => Sys2Proof.Machine.execDuplicateNodeId bus s
  | .busSelect requester value => Sys2Proof.Machine.execBusSelect requester value s
  | .mbPortRestart requester bus => Sys2Proof.Machine.execMbPortRestart requester bus s
  | .larderEnable requester => Sys2Proof.Machine.execLarderEnable requester s
  | .larderDisable requester => Sys2Proof.Machine.execLarderDisable requester s
  | .larderInvalidate requester => Sys2Proof.Machine.execLarderInvalidate requester s
  | .larderInvalidateComplete => Sys2Proof.Machine.execLarderInvalidateComplete s
  | .narrowEnableWrite requester value => Sys2Proof.Machine.execNarrowEnableWrite requester value s
  | .paceIntervalWrite requester value => Sys2Proof.Machine.execPaceIntervalWrite requester value s
  | .eqRestore requester => Sys2Proof.Machine.execEqRestore requester s
  | .outcomeCounterClear requester => Sys2Proof.Machine.execOutcomeCounterClear requester s
  | .mapLbaRequest requester lba => Sys2Proof.Machine.execMapLbaRequest requester lba s
  | .mapRunEnd => Sys2Proof.Machine.execMapRunEnd s
  | .crateBlockWrite requester data => Sys2Proof.Machine.execCrateBlockWrite requester data s
  | .stageRequest requester => Sys2Proof.Machine.execStageRequest requester s
  | .stagingEnd appended => Sys2Proof.Machine.execStagingEnd appended s
  | .activateImmediate requester => Sys2Proof.Machine.execActivateImmediate requester s
  | .activateArm requester => Sys2Proof.Machine.execActivateArm requester s
  | .activateCancel requester => Sys2Proof.Machine.execActivateCancel requester s
  | .activationStepEnd => Sys2Proof.Machine.execActivationStepEnd s
  | .activationStepTimeout returnFailed => Sys2Proof.Machine.execActivationStepTimeout returnFailed s
  | .tbiEdge width => Sys2Proof.Machine.execTbiEdge width s
  | .scheduledPulseMissed => Sys2Proof.Machine.execScheduledPulseMissed s
  | .svnCommit requester appended => Sys2Proof.Machine.execSvnCommit requester appended s
  | .ownerLockSet requester token appended => Sys2Proof.Machine.execOwnerLockSet requester token appended s
  | .ownerLockClear requester token appended => Sys2Proof.Machine.execOwnerLockClear requester token appended s
  | .spdmGetVersion transport => Sys2Proof.Machine.execSpdmGetVersion transport s
  | .spdmGetCapabilities transport => Sys2Proof.Machine.execSpdmGetCapabilities transport s
  | .spdmNegotiateAlgorithms transport offered => Sys2Proof.Machine.execSpdmNegotiateAlgorithms transport offered s
  | .spdmGetDigests transport => Sys2Proof.Machine.execSpdmGetDigests transport s
  | .spdmGetCertificate transport certSlot offset length => Sys2Proof.Machine.execSpdmGetCertificate transport certSlot offset length s
  | .spdmChallenge transport certSlot nonce => Sys2Proof.Machine.execSpdmChallenge transport certSlot nonce s
  | .spdmGetMeasurements transport certSlot measurement nonce => Sys2Proof.Machine.execSpdmGetMeasurements transport certSlot measurement nonce s
  | .spdmUnsupportedRequest transport => Sys2Proof.Machine.execSpdmUnsupportedRequest transport s
  | .setEndpointId port operation eid => Sys2Proof.Machine.execSetEndpointId port operation eid s
  | .getEndpointId port => Sys2Proof.Machine.execGetEndpointId port s
  | .getMctpVersionSupport port messageType => Sys2Proof.Machine.execGetMctpVersionSupport port messageType s
  | .getMessageTypeSupport port => Sys2Proof.Machine.execGetMessageTypeSupport port s
  | .fenceHead requester head => Sys2Proof.Machine.execFenceHead requester head s
  | .returnHead requester head => Sys2Proof.Machine.execReturnHead requester head s
  | .returnActuator requester act => Sys2Proof.Machine.execReturnActuator requester act s
  | .returnRunEnd heads loops zones spares => Sys2Proof.Machine.execReturnRunEnd heads loops zones spares s
  | .jtagBypass => Sys2Proof.Machine.execJtagBypass s
  | .jtagIdcode => Sys2Proof.Machine.execJtagIdcode s
  | .jtagSamplePreload capture preload => Sys2Proof.Machine.execJtagSamplePreload capture preload s
  | .jtagExtest => Sys2Proof.Machine.execJtagExtest s
  | .jtagClamp => Sys2Proof.Machine.execJtagClamp s
  | .jtagHighz => Sys2Proof.Machine.execJtagHighz s
  | .dbgTokenShift token appended => Sys2Proof.Machine.execDbgTokenShift token appended s
  | .inputPowerReturn straps => Sys2Proof.Machine.execInputPowerReturn straps s
  | .spindleStopLimit => Sys2Proof.Machine.execSpindleStopLimit s
  | .crwmtExpiry port => Sys2Proof.Machine.execCrwmtExpiry port s
  | .busVoltageSample bus chs => Sys2Proof.Machine.execBusVoltageSample bus chs s
  | .functionPowerStateChange port d3hot l23 => Sys2Proof.Machine.execFunctionPowerStateChange port d3hot l23 s
  | .hostLinkUp port speed width => Sys2Proof.Machine.execHostLinkUp port speed width s
  | .errorPassiveChange bus transmit receive => Sys2Proof.Machine.execErrorPassiveChange bus transmit receive s
  | .consumerHeartbeatReceived bus node => Sys2Proof.Machine.execConsumerHeartbeatReceived bus node s
  | .syncMessage bus => Sys2Proof.Machine.execSyncMessage bus s
  | .motionLinkError lane => Sys2Proof.Machine.execMotionLinkError lane s
  | .controlMemoryEccError corrected => Sys2Proof.Machine.execControlMemoryEccError corrected s
  | .linkUncorrectableError port => Sys2Proof.Machine.execLinkUncorrectableError port s
  | .supplyAboveThreshold supply mv imagesOk => Sys2Proof.Machine.execSupplyAboveThreshold supply mv imagesOk s

end Sys2Proof.Machine
end

