-- ==== Sys2Proof/Safety.lean ====
section
/-! DEFINITION. What every run keeps: the dictionary's store is in its canonical form, and each unit the spec numbers has its record. -/

namespace Sys2Proof.Machine

/-- The invariant of the block, over the parts of the state it speaks of. -/
structure Kept (objs : List (Nat × Int)) (keys ports buses heads acts streams pcls rsls wrls loops channels slots : Nat) : Prop where
  /-- The object store lists its keys strictly rising and no value equal to its default. -/
  store : storeWf objDefault objs = true
  /-- The Key Cupboard has keys 0 to 15 (R419). -/
  keys : keys = 16
  /-- There are two host ports and two management-bus ports (R322, R423). -/
  ports : ports = 2
  buses : buses = 2
  /-- There are 24 heads, 4 actuators and 48 data streams (R1). -/
  heads : heads = 24
  acts : acts = 4
  streams : streams = 48
  /-- There are 8 control links, 72 reader links and 24 writer links (R84). -/
  pcls : pcls = 8
  rsls : rsls = 72
  wrls : wrls = 24
  /-- There are 37 loop slots and 8 trace channels (R200, R232). -/
  loops : loops = 37
  channels : channels = 8
  /-- There are two firmware slots (R517). -/
  slots : slots = 2

/-- The invariant of a state. -/
def State.Inv (s : State) : Prop :=
  Kept s.objs s.keys.length s.ports.length s.mb.ports.length s.heads.length s.acts.length s.detect.streams.length s.links.pcls.length
    s.links.rsls.length s.links.wrls.length s.rafter.loops.length s.rafter.channels.length s.fw.slots.length

end Sys2Proof.Machine
end

