-- ==== Sys2Proof/Certificates/Slice0/Obligations.lean ====
section
/-! DEFINITION. The statements for the provers: what the commands of every family do, what a step runs, and the invariant that every
step keeps. -/

open Sys2Proof Sys2Proof.Machine

/-- For every command and state, one step of the state with the command at the front of its queue is the command's own meaning on
the state with the rest of the queue. -/
def Obligations.StepRunsFrontCommand : Prop :=
  ∀ (c : Instr) (rest : List Instr) (s : State), step { s with pending := c :: rest } = exec c { s with pending := rest }

/-- With no command waiting a step answers the state one tick of the timebase later (the model's choice, log entry 1), with the mode
changes that wait for an idle tick applied and the parks that a stagger holds back for that tick started; where nothing waits, the
tick is all that changes. -/
def Obligations.EmptyQueueLetsOneTickPass : Prop :=
  ∀ s : State, s.pending = [] → step s = .next s.idleTick ∧
    (s.spindle.lossParks = [] → s.mb.modes = [] → s.idleTick = { s with tick := s.tick + 1 })

/-- The state after reset keeps the invariant: a canonical object store, and one record for each unit the spec numbers. -/
def Obligations.ResetKeepsInvariant : Prop := State.reset.Inv

/-- From every state that keeps the invariant, a step that answers a next state answers one that keeps it, whatever the command and
its operands. -/
def Obligations.StepKeepsInvariant : Prop :=
  ∀ s t : State, s.Inv → step s = .next t → t.Inv

/-- Where the checks of a write refuse it, OBJECT_WRITE answers the refusal's code and leaves every object, every stored image and
every other part of the state as it was. -/
def Obligations.RefusedObjectWriteChangesNothing : Prop :=
  ∀ (r : Requester) (k : Nat) (d : ObjData) (x : DictRefusal) (s : State), s.checkPut r k d = some x →
    ∃ t, exec (.objectWrite r k d) s = .next t ∧ t.outbox = .dict r.code (x.code r) :: s.outbox ∧
      { t with outbox := s.outbox } = s

/-- OBJECT_WRITE to a sub-index that the dictionary does not list, to a read-only one, or to one whose guarding key another
requester holds answers a refusal and changes nothing else. -/
def Obligations.UnservedWritesAreRefused : Prop :=
  ∀ (r : Requester) (k : Nat) (d : ObjData) (s : State), s.indexServed (k / 256) = true → isCountKey k = false →
    (findRow k = none → exec (.objectWrite r k d) s = .next (s.emit (.dict r.code (DictRefusal.subAbsent.code r)))) ∧
    (∀ row, findRow k = some row → s.keyUnitAbsent k = false →
      (row.access = .ro ∨ row.access = .const →
        exec (.objectWrite r k d) s = .next (s.emit (.dict r.code (DictRefusal.putReadOnly.code r)))) ∧
      (∀ g, ¬ (row.access = .ro ∨ row.access = .const) → row.guardKey = some g → (s.key g).holder = 0 →
        exec (.objectWrite r k d) s = .next (s.emit (.dict r.code (DictRefusal.keyFree.code r)))) ∧
      (∀ g, ¬ (row.access = .ro ∨ row.access = .const) → row.guardKey = some g → (s.key g).holder ≠ 0 → (s.key g).holder ≠ r.code →
        exec (.objectWrite r k d) s = .next (s.emit (.dict r.code (DictRefusal.keyElsewhere.code r)))))

/-- POWER_UP_RESET leaves the state of a power-up reset, MEDIA_READY ends the last start-up step once every condition holds,
SUPPLY_DIP and REFCLK_STOP that last long enough start the power-loss reaction, INPUT_POWER_RETURN restarts, SUPPLY_ABOVE_THRESHOLD
notes the supply (a start of VDD_CORE in sleep goes on or restarts), and VDD_CORE_START_TIMEOUT switches the regulator off, halts
after the third attempt, or tries again. -/
def Obligations.SupplyCommandsRun : Prop :=
  (∀ variant straps s, exec (.powerUpReset variant straps) s = .next (s.powerUp variant straps (if s.spindle.powerLost then 2 else 1))) ∧
  (∀ s : State, s.nat O.startupPhase = 7 → s.platform.recovered = true → s.nat O.spindleState = 5 → s.mappedDone = true →
    s.write.again = [] → s.spindle.powerLost = false →
    exec .mediaReady s = .next (((s.setNat O.mediaReadyTick s.tick).setNat O.startupPhase 8).readyPorts false)) ∧
  (∀ supply mv lasting (s : State), 10 < lasting → s.aboveThreshold supply mv = false → s.supplyUp supply = true →
    s.nat O.sleepStateCurrent ≠ 4 → (supply = 0 → s.power.stepKind = 0 ∧ s.power.restoring = false) →
    exec (.supplyDip supply mv lasting) s = .next s.powerLoss) ∧
  (∀ lasting (s : State), 2 < lasting → exec (.refclkStop lasting) s = .next s.powerLoss) ∧
  (∀ straps (s : State), s.spindle.powerLost = true → (s.nat O.spindleState = 0 ∨ s.nat O.holdUpVoltage < s.nat O.holdUpMinVoltage) →
    exec (.inputPowerReturn straps) s = .next (s.powerUp s.platform.variant straps 2)) ∧
  (∀ supply mv ok (s : State), supply ≤ 10 → supply ≠ 0 → s.aboveThreshold supply mv = true →
    exec (.supplyAboveThreshold supply mv ok) s = .next (s.modPlatform fun p => { p with supplies := withBit p.supplies supply })) ∧
  (∀ mv ok (s : State), s.aboveThreshold 0 mv = true → s.platform.coreWait = true → s.platform.vregEnable = true →
    exec (.supplyAboveThreshold 0 mv ok) s = .next (
      let u := s.modPlatform fun p => { p with supplies := withBit p.supplies 0, coreWait := false, fromSleep := false }
      if s.platform.fromSleep = false then u
      else if ok then u.rebuildLoops.goOn true else u.powerUp u.platform.variant u.platform.straps 3)) ∧
  (∀ s : State, s.platform.coreWait = true → s.platform.vregEnable = true → s.platform.coreStart + 5000 ≤ s.tick →
    exec .vddCoreStartTimeout s = .next (
      let u := s.modPlatform fun x => { x with vregEnable := false, coreAttempts := x.coreAttempts + 1, coreStart := s.tick }
      if 3 ≤ u.platform.coreAttempts then (u.modPlatform fun x => { x with coreWait := false }).bootHalt.setNat O.startupPhase 1 else u)) ∧
  (∀ s : State, s.platform.coreWait = true → s.platform.vregEnable = false → s.platform.coreStart + 100000 ≤ s.tick →
    exec .vddCoreStartTimeout s = .next (s.modPlatform fun x => { x with vregEnable := true, coreStart := s.tick }))

/-- STARTUP_STEP_END ends the step in progress: the other supplies enable VDD_CORE, the boot ROM's checks enter phase 2 at PL0 and
600 mV or halt, the boot slot is taken or recovery entered, and the management, spin-up, load and recovery steps end as their
operations say. -/
def Obligations.StartupStepsEnd : Prop :=
  ∀ (report : StartupReport) (s : State), s.fw.halted = false → s.spindle.powerLost = false →
    (s.nat O.startupPhase = 0 → s.othersUp = true →
      exec (.startupStepEnd report) s = .next ((s.modPlatform fun p => { p with
        vregEnable := true, coreWait := true, coreStart := s.tick, coreAttempts := 0, fromSleep := false }).setNat O.startupPhase 1)) ∧
    (s.nat O.startupPhase = 1 → s.supplyUp 0 = true → (∃ b ∈ report.stage1Ok, b = true) →
      exec (.startupStepEnd report) s = .next ((((s.setNat O.performanceLevelCurrent 0).setNat O.coreVoltage 600).modPower
        fun x => { x with ceiling := 0 }).setNat O.startupPhase 2)) ∧
    (s.nat O.startupPhase = 1 → s.supplyUp 0 = true → (∀ b ∈ report.stage1Ok, b = false) →
      exec (.startupStepEnd report) s = .next s.bootHalt) ∧
    (s.nat O.startupPhase = 2 → exec (.startupStepEnd report) s = .next (match s.bootChoice report.slotOk with
      | none => s.enterRecovery report.copyOk
      | some (slot, fallback) => s.bootStage slot fallback report)) ∧
    (s.nat O.startupPhase = 3 → min 5 (s.nat O.levelCap) < s.power.stepped → exec (.startupStepEnd report) s = .next s.endManagement) ∧
    (s.nat O.startupPhase = 4 → exec (.startupStepEnd report) s = .next s.beginSpinUpStep) ∧
    (s.nat O.startupPhase = 5 → s.nat O.spindleState = 5 →
      exec (.startupStepEnd report) s = .next ((s.setNat O.startupPhase 6).requestLoads)) ∧
    (s.nat O.startupPhase = 6 → s.mappedDone = true → exec (.startupStepEnd report) s = .next (s.endLoadStep report)) ∧
    (s.nat O.startupPhase = 7 → s.platform.recovered = false → exec (.startupStepEnd report) s = .next (s.recoverMedia report))

/-- After POWER_UP_RESET the reset kind and cause are set, the Trunk is as its own power-up leaves it, the ledger is the one on
media, the stored parameters stay, and the caches and the commands in flight are gone. -/
def Obligations.PowerUpResetKeeps : Prop :=
  ∀ variant straps (s : State), ∃ t, exec (.powerUpReset variant straps) s = .next t ∧
    t.nat O.lastResetKind = 1 ∧ t.nat O.powerUpCause = (if s.spindle.powerLost then 2 else 1) ∧
    t.trunk = s.trunk.powerUp ∧ t.write.ledger = s.write.media ∧ t.mb.storedA = s.mb.storedA ∧ t.mb.storedB = s.mb.storedB ∧
    t.larder = {} ∧ t.cmds = s.cmds.afterReset ∧ t.platform.variant = min variant 2

/-- FAULT_RESET resets once its raising is recorded and reported, or its time has come; NSSR_SUBSYSTEM_RESET written with its value
resets every controller and its link and makes a record. -/
def Obligations.ResetsRun : Prop :=
  (∀ due (s : State), s.faults.resetDue = some due → (due ≤ s.tick ∨ (s.trunk.queue = [] ∧ s.mb.emcyQueue = [])) →
    s.spindle.powerLost = false → s.fw.halted = false → exec .faultReset s = .next s.faultReset) ∧
  (∀ port (s : State), s.hasPort port = true → (s.port port).linkUp = true →
    exec (.nssrSubsystemReset port 0x4E564D65) s =
      .next (((s.setNat O.lastResetKind 3).each (List.range (s.setNat O.lastResetKind 3).portCount) fun u p => (u.hostReset p).linkLost p).note 4 0
        [3, (((s.setNat O.lastResetKind 3).each (List.range (s.setNat O.lastResetKind 3).portCount) fun u p => (u.hostReset p).linkLost p)).trunk.bootNumber]))

/-- POWER_LOSS_DETECTED whose conversion lies under the threshold for the filter time starts the loss reaction;
POWER_LOSS_RECORD_APPEND, once every actuator is parked, appends the record where the margin is positive and starts the brake of a
spindle that still turns; HOLD_UP_ENERGY_UPDATE takes the bank's conversion and drives or ends a regenerative brake;
BUS_VOLTAGE_SAMPLE takes both conversions, counts the bus's rise under a conducting chopper, and switches the chopper at its limits
in phase 1 of braking only. -/
def Obligations.PowerLossCommandsRun : Prop :=
  (∀ vin lasting (s : State), inputMv vin < s.nat O.powerLossThreshold → s.nat O.powerLossFilter ≤ lasting →
    exec (.powerLossDetected vin lasting) s = .next s.powerLoss) ∧
  (∀ s : State, s.spindle.powerLost = true → s.spindle.lossAppended = false → s.allParked = true → s.spindle.lossParks = [] →
    exec .powerLossRecordAppend s = .next (
      let u := s.modSpindle fun x => { x with lossAppended := true }
      let u := if 0 < s.obj O.holdUpMargin then u.trunk' 0x11 u.lossPayload true else u
      if s.nat O.spindleState = 8 ∨ s.nat O.spindleState = 9 ∨ s.nat O.spindleState = 10 then u.startBrake 1 else u)) ∧
  (∀ vbank (s : State), exec (.holdUpEnergyUpdate vbank) s = .next (
    let u := s.holdUp (inputMv vbank)
    if u.nat O.spindleState = 10 then
      u.takeFree.2.drive (-((u.takeFree.1 % ((u.takeFree.2.asSetPoint (u.takeFree.2.nat O.brakeCurrentLimit)).toNat + 1) : Nat) : Int))
    else if u.nat O.spindleState = 11 ∧ inputMv vbank < u.nat O.holdUpMinVoltage then
      (u.setNat O.brakePhase 0).coast.modSpindle fun x => { x with
        enable := false, coastForStop := true, lowSides := false, zeroPulse := false, lastEvent := (u.setNat O.brakePhase 0).coast.tick }
    else u)) ∧
  (∀ bus chs (s : State), ∃ t, exec (.busVoltageSample bus chs) s = .next t ∧ { t with spindle := s.spindle } = s ∧
    t.spindle = { s.spindle with
      busSample := inputMv bus, chopperCurrent := s.chopperMa chs
      busRise := if s.spindle.chopper = true ∧ s.spindle.busSample < inputMv bus then s.spindle.busRise + 1 else 0
      chopper :=
        if s.nat O.spindleState = 11 ∧ s.nat O.brakePhase = 1 then
          if s.nat O.busNominal * (100 + s.nat O.chopperOnPercent) < inputMv bus * 100 then true
          else if inputMv bus * 100 < s.nat O.busNominal * (100 + s.nat O.chopperOffPercent) then false
          else s.spindle.chopper
        else s.spindle.chopper })

/-- CC.EN written to 0 or 1, a function level reset, a hot reset or link loss, PERST# asserted and deasserted, the end of a reset's
drain, the expiry of CRWMT and a change of function power state each have the effect their rules give. -/
def Obligations.ControllerEventsRun : Prop :=
  (∀ port (s : State), (s.port port).enabled = true → exec (.controllerEnableClear port) s = .next (s.hostReset port)) ∧
  (∀ port crime size (s : State), s.hasPort port = true → (s.port port).linkUp = true → (s.port port).enabled = false → 2 ≤ size → size ≤ 4096 →
    exec (.controllerEnableSet port crime size) s = .next (
      let u := s.modPort port fun x => { x with enabled := true, crime := crime, ready := false, enableTick := s.tick, adminSize := size }
      (if s.sub.unloadedByShutdown then
        (State.each { u with sub := { u.sub with unloadedByShutdown := false } } (List.range s.actCount) fun v a =>
          if v.nat (O.actuatorService + a) = 3 then v else v.modAct a fun x => { x with loadWanted := true }).requestLoads
      else u).settleReady port)) ∧
  (∀ port (s : State), (s.port port).linkUp = true → exec (.functionLevelReset port) s = .next (s.hostReset port)) ∧
  (∀ port (s : State), s.hasPort port = true → (s.port port).linkUp = true →
    exec (.hotResetOrLinkDown port false) s = .next ((s.modPort port fun x => { x with d3hot := false, linkL23 := false }).hostReset port)) ∧
  (∀ port (s : State), s.hasPort port = true → (s.port port).linkUp = true →
    exec (.hotResetOrLinkDown port true) s =
      .next (((s.modPort port fun x => { x with d3hot := false, linkL23 := false }).linkLost port).hostReset port)) ∧
  (∀ port (s : State), s.hasPort port = true → exec (.perstAssert port) s =
      .next (((s.modPort port fun x => { x with perst := true, d3hot := false, linkL23 := false }).linkLost port).hostReset port)) ∧
  (∀ port (s : State), s.hasPort port = true → (s.port port).perst = true →
    exec (.perstDeassert port) s = .next ((s.modPort port fun x => { x with perst := false }).wake 3)) ∧
  (∀ port (s : State), (s.port port).draining = true → s.cmds.ctxs.any (fun c => decide (c.port = port)) = false →
    exec (.controllerResetDrainEnd port) s = .next ((s.modPort port fun x => { x with draining := false }).settleReady port)) ∧
  (∀ port (s : State), s.hasPort port = true → (s.port port).enabled = true → (s.port port).crime = false →
    (s.port port).draining = false → s.fw.recovery = false → s.fw.halted = false →
    (s.port port).enableTick + 500000 * (s.port port).crwmt ≤ s.tick →
    exec (.crwmtExpiry port) s = .next (s.modPort port fun x => { x with ready := true })) ∧
  (∀ port d3hot l23 (s : State), s.hasPort port = true → (s.port port).linkUp = true →
    exec (.functionPowerStateChange port d3hot l23) s =
      .next ((s.modPort port fun x => { x with d3hot := d3hot, linkL23 := d3hot && l23 }).requestChanged 1))

/-- A shutdown notification and its completion move CSTS.SHST, the last port's completion unloading the heads; a trained link sets
its speed and width; a doorbell moves its queue's tail; a freed context lets a port fetch again. -/
def Obligations.ShutdownAndFetchRun : Prop :=
  (∀ port kind (s : State), s.hasPort port = true → (s.port port).linkUp = true → (s.port port).shutdown = 0 → (kind = 1 ∨ kind = 2) →
    exec (.shutdownNotification port kind) s = .next (s.modPort port fun x => { x with shutdown := 1 })) ∧
  (∀ port (s : State), (s.port port).shutdown = 1 → s.writesRemain port = false →
    exec (.shutdownComplete port) s = .next (
      let u := s.modPort port fun x => { x with shutdown := 2 }
      if (List.range u.portCount).all fun p => !(u.port p).linkUp || decide ((u.port p).shutdown = 2) then
        State.each { u with sub := { u.sub with unloadedByShutdown := true } } (List.range u.actCount) fun v a => v.startUnload a false
      else u)) ∧
  (∀ port speed width (s : State), s.hasPort port = true → (s.port port).perst = false → s.nat O.sleepStateCurrent ≠ 4 →
    1 ≤ speed → speed ≤ 5 → (width = 1 ∨ width = 2 ∨ width = 4) →
    exec (.hostLinkUp port speed width) s = .next ((((s.modPort port fun x => { x with linkUp := true, linkL23 := false }).setNat
      (O.hostLinkSpeed + port) speed).setNat (O.hostLinkWidth + port) width).requestChanged 1)) ∧
  (∀ port tail (s : State), s.hasPort port = true → (s.port port).enabled = true → tail < (s.port port).adminSize →
    exec (.doorbellWrite port 0 tail) s = .next ((s.modPort port fun p => { p with adminTail := tail }).roomFor port false).2) ∧
  (∀ port qid tail (s : State), s.hasPort port = true → (s.port port).enabled = true → qid ≠ 0 →
    (∃ k ∈ (s.port port).sqs, k.id = qid ∧ tail < k.size) →
    exec (.doorbellWrite port qid tail) s = .next ((s.modPort port fun p => { p with
      sqs := p.sqs.map fun k => if k.id = qid then { k with tail := tail } else k }).roomFor port true).2) ∧
  (∀ port (s : State), (s.port port).fetchPaused = true → s.ctxFree port = true →
    exec (.contextFreed port) s = .next (s.modPort port fun p => { p with fetchPaused := false }))

/-- Of a fetched command: a completion queue of an unused number and a vector, and a submission queue on an existing completion
queue, are created; a completion queue that no submission queue uses, and a submission queue with its commands, are deleted. -/
def Obligations.QueueCommandsRun : Prop :=
  ∀ (port cid : Nat) (s t : State), s.fetch port 0 = (true, t) →
    (∀ qid size vector, queueFree (t.port port).cqs (t.port port).queuesGranted.2 qid = true → queueSize size = true → vector ≤ 128 →
      exec (.createIoCompletionQueue port cid qid size vector true) s = .next ((t.modPort port fun x => { x with
        cqs := x.cqs ++ [{ id := qid, size := size, cqid := vector, tail := 0, head := 0 }] }).answer port 0 cid 0 0 0)) ∧
    (∀ qid size cqid, (∃ k ∈ (t.port port).cqs, k.id = cqid) → queueFree (t.port port).sqs (t.port port).queuesGranted.1 qid = true →
      queueSize size = true →
      exec (.createIoSubmissionQueue port cid qid size cqid true) s = .next ((t.modPort port fun x => { x with
        sqs := x.sqs ++ [{ id := qid, size := size, cqid := cqid, tail := 0, head := 0 }] }).answer port 0 cid 0 0 0)) ∧
    (∀ qid, (∃ k ∈ (t.port port).cqs, k.id = qid) → (∀ k ∈ (t.port port).sqs, k.cqid ≠ qid) →
      exec (.deleteIoCompletionQueue port cid qid) s = .next ((t.modPort port fun x => { x with
        cqs := x.cqs.filter fun k => decide (k.id ≠ qid) }).answer port 0 cid 0 0 0)) ∧
    (∀ qid, (∃ k ∈ (t.port port).sqs, k.id = qid) →
      exec (.deleteIoSubmissionQueue port cid qid) s = .next (((((t.syncSlots).cmds.ctxs.filter fun c => decide (c.port = port) &&
        decide (c.sqid = qid)).foldl State.endQueued t.syncSlots).modPort port fun x => { x with
        sqs := x.sqs.filter fun k => decide (k.id ≠ qid) }).answer port 0 cid 0 0 0))

/-- Of a fetched command with a legal value that is not asked to be saved: each Set Features command changes its own feature of its
port and completes with success; Error Recovery sets the ladder's time limit; Get Features answers the current value, the default or
the capabilities in dword 0. -/
def Obligations.FeatureCommandsRun : Prop :=
  ∀ (port cid value : Nat) (s t : State), s.fetch port 0 = (true, t) →
    (value / 8 % 32 = 0 → exec (.setFeaturesArbitration port cid value false) s =
      .next ((t.modPort port fun x => { x with arbitration := value % 8 }).answer port 0 cid 0 0 0)) ∧
    ((value / 65536 % 16 = 0 ∨ value / 65536 % 16 = 15) → value / 0x100000 < 2 →
      exec (.setFeaturesTemperatureThreshold port cid value false) s = .next ((t.modPort port fun x =>
        if value / 0x100000 = 0 then { x with tempOver := value % 65536 } else { x with tempUnder := value % 65536 }).answer port 0 cid 0 0 0)) ∧
    (∀ n, value ≤ 100 → (n = 0xFFFFFFFF ∨ t.nsActive n = true) → exec (.setFeaturesErrorRecovery port cid n value false) s =
      .next ((t.setNat O.ladderTimeLimit (if value = 0 then 10000 else 100 * value)).answer port 0 cid 0 0 0)) ∧
    (∀ n, value < 65535 → n < 65535 → (t.port port).sqs = [] → (t.port port).cqs = [] →
      exec (.setFeaturesNumberOfQueues port cid value n false) s =
        .next ((t.modPort port fun x => { x with queuesGranted := (min value 127, min n 127) }).answer port 0 cid 0 0
          (min value 127 + 65536 * min n 127))) ∧
    (value < 65536 → exec (.setFeaturesInterruptCoalescing port cid value false) s =
      .next ((t.modPort port fun x => { x with coalescing := value }).answer port 0 cid 0 0 0)) ∧
    (value < 131072 → value % 65536 ≤ 128 → exec (.setFeaturesInterruptVectorConfig port cid value false) s =
      .next ((t.modPort port fun x => { x with vectors := putKey x.vectors (value % 65536) (value / 65536) }).answer port 0 cid 0 0 0)) ∧
    (value < 2 → exec (.setFeaturesWriteAtomicityNormal port cid value false) s =
      .next ((t.modPort port fun x => { x with atomicity := value }).answer port 0 cid 0 0 0)) ∧
    (value &&& 0x30F = value → exec (.setFeaturesAsyncEventConfig port cid value false) s =
      .next ((t.modPort port fun x => { x with eventMask := value }).answer port 0 cid 0 0 0)) ∧
    (∀ feature select n v, t.feature (t.port port) port feature value = some v →
      (feature = 5 → n = 0xFFFFFFFF ∨ t.nsActive n = true) → (feature = 9 → value % 65536 ≤ 128) →
      (select = 0 ∨ select = 1 ∨ select = 3) →
      exec (.getFeatures port cid feature select value n) s = .next (t.answer port 0 cid 0 0
        (if select = 0 then v else if select = 1 then featureDefault feature value else 4)))

/-- Of a fetched command: each Set Features command whose value sets a reserved bit or leaves its range, or that asks to be saved,
completes with Invalid Field in Command and changes no feature. -/
def Obligations.ReservedFeatureFieldsAreRefused : Prop :=
  ∀ (port cid value : Nat) (save : Bool) (s t : State), s.fetch port 0 = (true, t) →
    ((save = true ∨ value / 8 % 32 ≠ 0) → exec (.setFeaturesArbitration port cid value save) s = .next (t.answer port 0 cid 0 2 0)) ∧
    ((save = true ∨ (value / 65536 % 16 ≠ 0 ∧ value / 65536 % 16 ≠ 15) ∨ 2 ≤ value / 0x100000) →
      exec (.setFeaturesTemperatureThreshold port cid value save) s = .next (t.answer port 0 cid 0 2 0)) ∧
    (∀ n, (save = true ∨ 100 < value) → exec (.setFeaturesErrorRecovery port cid n value save) s = .next (t.answer port 0 cid 0 2 0)) ∧
    (∀ n, (save = true ∨ 65535 ≤ value ∨ 65535 ≤ n) →
      exec (.setFeaturesNumberOfQueues port cid value n save) s = .next (t.answer port 0 cid 0 2 0)) ∧
    ((save = true ∨ 65536 ≤ value) → exec (.setFeaturesInterruptCoalescing port cid value save) s = .next (t.answer port 0 cid 0 2 0)) ∧
    ((save = true ∨ 131072 ≤ value ∨ 128 < value % 65536) →
      exec (.setFeaturesInterruptVectorConfig port cid value save) s = .next (t.answer port 0 cid 0 2 0)) ∧
    ((save = true ∨ 2 ≤ value) → exec (.setFeaturesWriteAtomicityNormal port cid value save) s = .next (t.answer port 0 cid 0 2 0)) ∧
    ((save = true ∨ value &&& 0x30F ≠ value) → exec (.setFeaturesAsyncEventConfig port cid value save) s =
      .next (t.answer port 0 cid 0 2 0)) ∧
    ((save = true ∨ 96 ≤ value ∨ 2 < value % 32) → exec (.setFeaturesPowerManagement port cid value save) s =
      .next (t.answer port 0 cid 0 2 0))

/-- Of a fetched command: Identify answers its structure, Get Log Page its bytes and clears the page's event unless asked to retain
it, an Asynchronous Event Request is answered from a held event or held itself, a power-management request sets the port's limit and
is answered at once or waits for the sleep entry it started, and a self-test starts or is aborted; SELF_TEST_COMPLETE runs the
test's next row or ends it with its failing segment. -/
def Obligations.AdminReadsRun : Prop :=
  (∀ (port cid : Nat) (s t : State), s.fetch port 0 = (true, t) →
    exec (.identifyController port cid) s = .next ((t.sendData port cid (t.identifyController port)).answer port 0 cid 0 0 0) ∧
    (∀ n, t.nsActive n = true → exec (.identifyNamespace port cid n) s =
      .next ((t.sendData port cid (t.identifyNamespace n)).answer port 0 cid 0 0 0)) ∧
    (∀ n, exec (.identifyList port cid 2 n) s = .next ((t.sendData port cid (padTo 4096 (([1, 2, 3, 4].filter fun m =>
      t.nsActive m && decide (n < m)).flatMap (leBytes 4)))).answer port 0 cid 0 0 0)) ∧
    (∀ n, t.nsActive n = true → exec (.identifyList port cid 3 n) s =
      .next ((t.sendData port cid (padTo 4096 (t.descriptors n))).answer port 0 cid 0 0 0)) ∧
    (∀ page n rae offset length b, t.logPage port page = some b → (page = 2 → n = 0 ∨ n = 0xFFFFFFFF) →
      exec (.getLogPage port cid page n rae offset length) s = .next (
        let u := t.sendData port cid (padTo length (b.drop offset))
        (if rae then u else u.modPort port (clearPage page)).answer port 0 cid 0 0 0)) ∧
    ((t.port port).aer.length < 8 → (t.port port).held = [] → exec (.asynchronousEventRequest port cid) s =
      .next ((t.addCtx { port := port, sqid := 0, cid := cid, kind := .admin }).modPort port fun x => { x with aer := x.aer ++ [cid] })) ∧
    (∀ type info page rest, (t.port port).aer.length < 8 → (t.port port).held = (type, info, page) :: rest →
      exec (.asynchronousEventRequest port cid) s = .next (((t.modPort port fun x => { x with held := rest }).emit
        (.asyncEvent port cid type info page)).answer port 0 cid 0 0 (type + 256 * info + 65536 * page))) ∧
    (∀ value, value < 96 → value % 32 ≤ 2 → exec (.setFeaturesPowerManagement port cid value false) s = .next (
      let u := t.setNat (O.powerStateRequested + port) (value % 32)
      if u.hostConstraint = t.hostConstraint then u.answer port 0 cid 0 0 0
      else if (u.requestChanged 1).nat O.sleepEntryState = 1 then
        ((u.requestChanged 1).addAdmin port cid false).modPort port fun x =>
          { x with powerWait := (cid, t.nat (O.powerStateRequested + port)) :: x.powerWait }
      else (u.requestChanged 1).answer port 0 cid 0 0 0)) ∧
    (t.sub.selfTest = none → t.sub.format = none → t.sub.sanitize = none →
      exec (.deviceSelfTestShort port cid) s = .next (({ t with sub := { t.sub with selfTest := some {
        code := 1, port := port, cid := cid, errors := t.linkErrors, rows := [] } } } : State).answer port 0 cid 0 0 0) ∧
      exec (.deviceSelfTestExtended port cid) s = .next (({ t with sub := { t.sub with selfTest := some {
        code := 2, port := port, cid := cid, errors := t.linkErrors, rows := t.testRows } } } : State).answer port 0 cid 0 0 0)) ∧
    exec (.deviceSelfTestAbort port cid) s = .next ((t.endSelfTest 1 0).answer port 0 cid 0 0 0)) ∧
  (∀ failed vin bank (x : SelfTest) (r : Nat × Nat) (s : State), s.sub.selfTest = some x →
    (x.rows.find? fun r => !s.headFenced r.1) = some r → exec (.selfTestComplete failed vin bank) s = .next (s.testRow x r.1 r.2)) ∧
  (∀ failed vin bank (x : SelfTest) (s : State), s.sub.selfTest = some x → (∀ r ∈ x.rows, s.headFenced r.1 = true) →
    exec (.selfTestComplete failed vin bank) s = .next ((s.withdrawDecoders failed).endSelfTest
      (if s.failedSegment x failed vin bank = 0 then 0 else 7) (s.failedSegment x failed vin bank)))

/-- Of a fetched command: an Abort of a command still clear sets its latch; a firmware piece in order is stored under the Firmware
key, the first one taking it; commit actions 000b and 011b of the other slot start a staging and an activation. -/
def Obligations.FirmwareAdminRun : Prop :=
  (∀ (port cid : Nat) (s t : State), s.fetch port 0 = (true, t) →
    (∀ target tcid outstanding c, outstanding < 4 → t.syncSlots.ctx? port target tcid = some c → c.latch = .clear → c.orphan = false →
      exec (.abort port cid target tcid outstanding) s =
        .next (((t.syncSlots.bump O.abortsAborted).abortCommand c).answer port 0 cid 0 0 0)) ∧
    (∀ offset data u, ((t.key 1).holder = 0 ∨ (t.key 1).holder = port + 1) → t.storePiece offset data = some u →
      exec (.firmwareImageDownload port cid offset data) s = .next (
        let v := if offset = 0 ∧ u.fw.downloadHolder ≠ port + 1 then
            match u.takeKey 1 port with
            | some (true, w) => w.modFw fun f => { f with downloadHolder := port + 1 }
            | some (false, w) => w
            | none => u
          else u
        (if v.fw.downloadHolder = port + 1 then v.modKey 1 fun k => { k with leaseEnd := v.leaseFromNow } else v).answer port 0 cid 0 0 0))) ∧
  (∀ (port cid slot : Nat) (holds : Bool) (s t u v : State), s.fetch port 0 = (true, t) → t.takeKey 1 port = some (holds, u) →
    v = u.addAdmin port cid holds → slot ≤ 2 → slot ≠ v.fw.active →
    (v.stagingRefused = false → exec (.firmwareCommitStage port cid 0 slot) s = .next (v.startStaging (port + 1) (some (port, cid)))) ∧
    (v.activationBusy = false →
      exec (.firmwareCommitActivate port cid slot) s = .next (v.requestActivation 1 (port + 1) (some (port, cid)) false)))

/-- Of a fetched command that gets the Format key: a Format NVM fixes the mapping and waits for its completion, a Sanitize starts
its passes; FORMAT_NVM_COMPLETE fixes the zone tables and then formats one surface after the other, remapping the lanes found
defective, SANITIZE_COMPLETE overwrites one surface or ends a failed run. -/
def Obligations.FormatAndSanitizeRun : Prop :=
  (∀ (port cid nsid mapping : Nat) (held : Bool) (s t u : State), s.fetch port 0 = (true, t) → t.sub.sanitize = none →
    t.takeKey 0 port = some (held, u) → t.sub.format = none → mapping ≤ 1 → (nsid = 0xFFFFFFFF ∨ t.nsActive nsid = true) →
    t.formatUnfit = false →
    exec (.formatNvm port cid nsid 0 mapping) s = .next (
      let v := (u.endSelfTest 4 0).forgetCopies.addAdmin port cid false
      State.fixMapping { v with sub := { v.sub with
        format := some { port := port, cid := cid, mapping := mapping }, formatHolds := held } } mapping)) ∧
  (∀ (heads : List HeadCal) (loops : List LoopCal) (defects : List (Nat × Nat)) (f : FormatRun) (s : State), s.sub.format = some f →
    s.nat O.spindleState = 5 → s.mappedDone = true → s.spindle.powerLost = false →
    (f.left = none → exec (.formatNvmComplete heads loops defects) s = .next (s.formatTables f heads loops)) ∧
    (∀ l, f.left = some l → exec (.formatNvmComplete heads loops defects) s = .next (s.formatSurface f l defects))) ∧
  (∀ (port cid dword10 pattern : Nat) (held : Bool) (s t u : State), s.fetch port 0 = (true, t) → t.sub.sanitize = none →
    t.takeKey 0 port = some (held, u) → t.sub.format = none → dword10 % 8 = 3 → dword10 < 1024 →
    exec (.sanitize port cid dword10 pattern) s = .next (
      let v := (u.endSelfTest 9 0).forgetCopies.discardSlots
      State.answer { v with sub := { v.sub with
        sanitize := some { dword10 := dword10, pattern := pattern % 2 ^ 32 }, sanitizeHolds := held, sanitizeStatus := 2
        sanitizePasses := 0, sanitizeDword10 := dword10 } } port 0 cid 0 0 0)) ∧
  (∀ (ok : Bool) (p : SanitizeRun) (s : State), s.sub.sanitize = some p → s.nat O.spindleState = 5 → s.mappedDone = true →
    s.spindle.powerLost = false → exec (.sanitizeComplete ok) s = .next (if ok then s.sanitizeSurface p else s.sanitizeEnds 3))

/-- Of a fetched command: Security Send takes an SPDM request of any code on the port's transport, and Security Receive returns the
list of protocols, what waits, or nothing; DICTIONARY_GET answers a value's bytes and size, DICTIONARY_PUT the status of its write.
-/
def Obligations.SecurityAndDictionaryRun : Prop :=
  (∀ (port cid slot offset length nonce : Nat) (s t : State), s.fetch port 0 = (true, t) →
    (∀ request, exec (.securitySend port cid 0xE8 request slot offset length nonce) s = .next (State.answer (
      if request = 0x84 then t.spdmVersion (2 + port)
      else if request = 0xE1 then t.spdmCapabilities (2 + port)
      else if request = 0xE3 then t.spdmAlgorithms (2 + port) true
      else if request = 0x81 then t.spdmDigests (2 + port)
      else if request = 0x82 then t.spdmCertificate (2 + port) slot offset length
      else if request = 0x83 then t.spdmChallenge (2 + port) slot nonce
      else if request = 0xE0 then t.spdmMeasurements (2 + port) slot offset nonce
      else t.spdmUnsupported (2 + port)) port 0 cid 0 0 0)) ∧
    exec (.securityReceive port cid 0) s = .next ((t.emit (.hostData port cid [0, 0xE8])).answer port 0 cid 0 0 0) ∧
    (t.sec.waiting.getD (2 + port) none = none →
      exec (.securityReceive port cid 0xE8) s = .next ((t.emit (.hostData port cid [])).answer port 0 cid 0 0 0)) ∧
    (∀ name content, t.sec.waiting.getD (2 + port) none = some (name, content) →
      exec (.securityReceive port cid 0xE8) s = .next (((t.modSec fun x => { x with waiting := x.waiting.set (2 + port) none }).emit
        (.spdm (2 + port) name content)).answer port 0 cid 0 0 0))) ∧
  (∀ (port cid object size : Nat) (b : List Nat) (s t : State), s.fetch port 0 = (true, t) → 1 ≤ size → size ≤ 1048576 →
    t.readValue object (some size) = .ok b →
    exec (.dictionaryGet port cid object size 0) s = .next (((t.noteRead object).sendData port cid b).answer port 0 cid 0 0 b.length)) ∧
  (∀ (port cid object : Nat) (data : List Nat) (s t u : State), s.fetch port 0 = (true, t) →
    (t.putObject (.ofPort port) object (objData object data)).takeAnswer = (0, u) →
    exec (.dictionaryPut port cid object data 0) s = .next (u.answer port 0 cid 0 0 0)) ∧
  (∀ (r : Requester) (object : Nat) (data : ObjData) (s : State), exec (.objectWrite r object data) s = .next (s.putObject r object data))

/-- Of a fetched and legal I/O command: reads and verifies enter shared and a read is noted for its stream, writes and Write Zeroes
enter exclusive, a Dataset Management gives its hints and completes. -/
def Obligations.IoCommandsRun : Prop :=
  ∀ (port qid cid nsid : Nat) (s t : State), s.fetch port qid = (true, t) →
    (∀ slba count fua limited, t.ioRefusal .read nsid slba count = none →
      exec (.read port qid cid nsid slba count fua limited) s = .next ((t.ioWake.enter {
        port := port, sqid := qid, cid := cid, kind := .read, nsid := nsid, slba := slba, count := count, fua := fua, limited := limited } false).noteStream
        nsid slba count)) ∧
    (∀ slba count data, t.ioRefusal .write nsid slba count = none →
      exec (.write port qid cid nsid slba count data) s = .next (t.ioWake.enter {
        port := port, sqid := qid, cid := cid, kind := .write, nsid := nsid, slba := slba, count := count, data := data,
        atomic := isAtomic slba count } true)) ∧
    (∀ slba count, t.ioRefusal .writeZeroes nsid slba count = none →
      exec (.writeZeroes port qid cid nsid slba count) s = .next (t.ioWake.enter {
        port := port, sqid := qid, cid := cid, kind := .writeZeroes, nsid := nsid, slba := slba, count := count, data := [],
        atomic := isAtomic slba count } true)) ∧
    (∀ slba count limited, t.ioRefusal .verify nsid slba count = none →
      exec (.verify port qid cid nsid slba count limited) s = .next (t.ioWake.enter {
        port := port, sqid := qid, cid := cid, kind := .verify, nsid := nsid, slba := slba, count := count, limited := limited } false)) ∧
    (∀ ranges, t.ioRefusal .dataset nsid 0 0 = none →
      exec (.datasetManagement port qid cid nsid ranges) s = .next (({ t with larder := { t.larder with
        hints := (ranges.map fun (r : Nat × Nat) => (nsid, r.1, r.2)) ++ t.larder.hints } } : State).answer port qid cid 0 0 0))

/-- A fetched and legal Flush answers success in its own step, whatever other commands are in flight, and leaves every context,
lock, operation and slot as it was. -/
def Obligations.FlushCompletesAtOnce : Prop :=
  ∀ (port qid cid nsid : Nat) (s u : State), s.fetch port qid = (true, u) → u.ioRefusal .flush nsid 0 0 = none →
    ∃ t, exec (.flush port qid cid nsid) s = .next t ∧ t.outbox = .completion port qid cid 0 0 (dnrOf 0 0) 0 :: s.outbox ∧
      t.cmds = s.cmds ∧ t.larder = s.larder ∧ t.write = s.write ∧ t.objs = s.objs

/-- A granted range lock starts its command, a command issues its next operation while its actuator has room or a read-ahead gives
way, a deadline passes, a freed buffer takes the oldest waiting write, a merge window closes its chunk, a slot is placed in the
nearest ring that takes it, and a changed watermark is appended. -/
def Obligations.SchedulingCommandsRun : Prop :=
  (∀ port qid cid (c : Ctx) (s : State), s.ctx? port qid cid = some c → c.kind.media = true → c.started = false →
    s.mayStart (.host port qid cid) = true → exec (.rangeLockGranted port qid cid) s = .next (s.startCtx c)) ∧
  (∀ port qid cid (c : Ctx) lba n (u s : State), s.ctx? port qid cid = some c → s.nextOp c = some (lba, n) → c.started = true →
    (s.nat (O.actuatorService + s.homeAct c.nsid lba) = 3 → c.kind.writes = false) → s.opsOn (s.homeAct c.nsid lba) < 192 →
    u = ({ s with cmds := { s.cmds with ops := s.cmds.ops ++ [{
      act := s.homeAct c.nsid lba, port := port, sqid := qid, cid := cid, nsid := c.nsid, lba := lba, count := n, isWrite := c.kind.writes,
      issued := s.tick, readAhead := false, overlapped := false }] } } : State).cancelReads (fun _ => false) →
    exec (.mediaOpIssue port qid cid) s = .next (if c.kind.writes = true then u.modCtx port qid cid (fun c => { c with toIssue := c.toIssue.tail })
      else u.endFencedWants)) ∧
  (∀ port qid cid (c : Ctx) lba n (o : MediaOp) (u s : State), s.ctx? port qid cid = some c → s.nextOp c = some (lba, n) → c.started = true →
    (s.nat (O.actuatorService + s.homeAct c.nsid lba) = 3 → c.kind.writes = false) → 192 ≤ s.opsOn (s.homeAct c.nsid lba) →
    (s.cmds.ops.find? fun o => decide (o.act = s.homeAct c.nsid lba) && o.readAhead) = some o →
    u = ({ s with cmds := { s.cmds with ops := (s.cmds.ops.filter fun x => decide (x ≠ o)) ++ [{
      act := s.homeAct c.nsid lba, port := port, sqid := qid, cid := cid, nsid := c.nsid, lba := lba, count := n, isWrite := c.kind.writes,
      issued := s.tick, readAhead := false, overlapped := false }] } } : State).cancelReads
        (fun d => decide (d.purpose = 10) && (decide (o.nsid = d.nsid) && decide (o.lba = d.lba))) →
    exec (.mediaOpIssue port qid cid) s = .next (if c.kind.writes = true then u.modCtx port qid cid (fun c => { c with toIssue := c.toIssue.tail })
      else u.endFencedWants)) ∧
  (∀ port qid cid (c : Ctx) (s : State), s.ctx? port qid cid = some c → c.kind ≠ .admin → c.deadlineRaised = false →
    c.fetchTick + 1000000 * s.nat O.hostCommandDeadline ≤ s.tick →
    exec (.hostCommandDeadline port qid cid) s = .next ((s.modCtx port qid cid fun c => { c with deadlineRaised := true }).deadlineMiss 8
      (47 + port) 0 (c.fetchTick + 1000000 * s.nat O.hostCommandDeadline) (2 ^ 64 - 1))) ∧
  (∀ (c : Ctx) (s : State), s.buffersUsed < 4096 → (s.cmds.ctxs.find? fun c => c.kind.writes && decide (c.waits ≠ [])) = some c →
    exec .mergeBufferFreed s = .next (if c.atomic then (s.modCtx c.port c.sqid c.cid fun c => { c with waits := [] }).takeSlotBuffer c
      else (s.modCtx c.port c.sqid c.cid fun c => { c with waits := [] }).transfer c c.waits)) ∧
  (∀ nsid chunk (b : MergeBuffer) (s : State), s.openBuffer nsid chunk = some b → b.lastData + s.nat O.mergeWindow ≤ s.tick →
    exec (.mergeWindowExpiry nsid chunk) s = .next (s.readyBuffer b.age)) ∧
  (∀ port qid cid ring (c : Ctx) (o : MediaOp) (s : State), s.ctx? port qid cid = some c → c.atomic = true → c.started = true → c.chunks ≠ [] →
    c.waits = [] → o ∈ s.cmds.ops → o.port = port → o.sqid = qid → o.cid = cid → o.readAhead = false →
    s.ringTakes (s.homeAct c.nsid c.slba) ring c.count = true →
    (∀ r, r < 24 → s.ringTakes (s.homeAct c.nsid c.slba) r c.count = true →
      s.ringDistance (s.homeAct c.nsid c.slba) ring ≤ s.ringDistance (s.homeAct c.nsid c.slba) r) →
    (∀ x ∈ s.cmds.slots, x.port = port → x.sqid = qid → x.cid = cid → x.live = false ∨ x.failed = true) →
    exec (.cellarSlotPlace port qid cid ring) s =
      .next (s.placeSlot c (s.homeAct c.nsid c.slba) ring (decide (0 < c.failedSectors)))) ∧
  (∀ act v (s : State), assoc? s.cmds.watermarkDirty act = some v →
    exec (.watermarkAppend act) s = .next (({ s with cmds := { s.cmds with
      watermarkDirty := dropKey s.cmds.watermarkDirty act } } : State).append 0x60 [act,
        ({ s with cmds := { s.cmds with watermarkDirty := dropKey s.cmds.watermarkDirty act } } : State).watermark act]))

/-- A finished read-ahead whose range an exclusive entry overlapped is discarded and counted, any other lands in the Side Pantry; a
chunk that a flipped slot covers takes its next step of restocking once its turn has come or it has begun. -/
def Obligations.FillsAndRestocksRun : Prop :=
  (∀ nsid number (o : MediaOp) (d : DeviceRead) (u s : State),
    (s.cmds.ops.find? fun o => o.readAhead && decide (o.nsid = nsid) && decide (o.lba = 16 * number)) = some o →
    s.readFor 10 nsid (16 * number) = some d → d.want = [] →
    u = ({ s with cmds := { s.cmds with ops := s.cmds.ops.filter fun o =>
      !(o.readAhead && decide (o.nsid = nsid) && decide (o.lba = 16 * number)) } } : State).endRead d →
    (o.overlapped = true → exec (.readAheadFill nsid number) s = .next (u.bump O.readAheadFillsDiscarded)) ∧
    (o.overlapped = false → u.nat O.readAheadEnable ≠ 0 → u.nat O.larderEnable ≠ 0 → d.sectors ≠ [] → u.larderLine nsid number = none →
      u.pantryLine nsid number = none → u.larder.pantry.length < 32768 →
      exec (.readAheadFill nsid number) s = .next { u with larder := { u.larder with pantry := u.larder.pantry ++ [{
        nsid := nsid, line := number, valid := d.sectors.foldl (fun m x => withBit m x.1) 0, data := d.sectors }] } })) ∧
  (∀ nsid chunk (p : Place) (s : State), s.locate nsid (64 * chunk) = some p → s.toRestock nsid chunk ≠ [] →
    ((s.lockOf (.restock nsid chunk)).isSome = true ∨
      ((s.spareFor p.act 2 = true ∨ s.lowWater p.act = true ∨ (s.toRestock nsid chunk).any (·.urgent) = true) ∧
        s.restockWaits p.act ((s.toRestock nsid chunk).any (·.urgent)) = false)) →
    exec (.restockChunk nsid chunk) s = .next (s.homeWork p nsid (64 * chunk) true))

/-- SECTOR_FRAMED frames the sector that passes under an admitted reader, counts its framing, its offset run and its mark, and gives
it to each command that wants it; DECODER_TURN_END and DEFERRED_DECODE decode the sector they hold and hand on its outcome;
DECODER_SELF_TEST, once a day, withdraws the decoders that fail. -/
def Obligations.DetectionRuns : Prop :=
  (∀ stream sector frac (s : State), s.streamRead stream = true → sector < s.trackSectors (stream / 2) →
    exec (.sectorFramed stream sector frac) s = .next (
      let h := stream / 2
      let wants := s.wantsAt stream (s.head h).lane sector
      let here : SectorInFlight :=
        { lba := 0, nsid := 0, lane := (s.head h).lane, track := stream % 2, sector := sector, port := 0, sqid := 0, cid := 0 }
      let x := (s.frameHere stream here (s.detect.unmarked.contains stream)).1
      let outcome := (s.frameHere stream here (s.detect.unmarked.contains stream)).2
      let u : State := { s with detect := { s.detect with unmarked := s.detect.unmarked.filter fun n => decide (n ≠ stream) } }
      let u := u.modStream stream fun st => { st with exitRun := st.exitRun + 1 }
      let u := if outcome.isNone = true ∧ wants ≠ [] then u.countFraming stream x else u
      let u := u.offsetRunOf stream (outcome.isNone && !x.countFramed && !x.earlyMark) x.offset
      let u := if outcome.isNone = true ∧ ¬ x.countFramed = true then u.trackOffset stream (clampInt (-32) 32 frac) else u
      let u := if outcome.isNone = true ∧ x.acquire = true then u.acquireMark h sector x.offset else u
      (wants.foldl (fun (v : State) w => v.readSector stream { x with
        lba := w.lba, nsid := w.nsid, port := w.port, sqid := w.sqid, cid := w.cid, cellar := w.cellar, spare := w.spare
        paced := w.paced } outcome) u).boundary h)) ∧
  (∀ decoder time (x : Turn) (s : State), (s.detect.turns.find? fun t => decide (t.decoder = decoder)) = some x →
    exec (.decoderTurnEnd decoder time) s = .next (
      let u : State := { s with detect := { s.detect with turns := s.detect.turns.filter fun u => decide (u.decoder ≠ decoder) } }
      let r := x.sector.decode u.tables (x.stream / 2) (u.cfg (x.stream / 2) O.iterLimit)
      (((u.modStream x.stream (creditTurn time r.iterations)).lateTurn x.stream x.sector).firstRead x.stream x.sector
        (if x.sector.gone then 7 else turnOutcome x.sector r) (some r)).feedDecoders)) ∧
  (∀ stream time (x : SectorInFlight) rest (s : State), (s.stream stream).backlog = x :: rest → s.freeDecoders ≠ [] →
    s.inlineWaits = false → exec (.deferredDecode stream time) s = .next (
      let y := s.withKnown stream x
      let r := y.decode s.tables (stream / 2) (s.cfg (stream / 2) O.iterLimit)
      ((s.modStream stream fun st => { creditTurn time r.iterations st with backlog := rest }).lateTurn stream y).firstRead stream y
        (turnOutcome y r) (some r))) ∧
  (∀ failed (s : State), (∀ t, s.detect.testedAt = some t → t + 86400000000 ≤ s.tick) →
    exec (.decoderSelfTest failed) s = .next (({ s with detect := { s.detect with testedAt := some s.tick } } : State).withdrawDecoders failed))

/-- Each step of a ladder that may take it: the extended decode of the kept codeword; the re-read, or the wait for the capture slots
it needs; an averaging pass, decoded at the counts two, four and eight; the offset reads on one side and then the other; the heater
step, raised for a revolution and then averaged over two passes. -/
def Obligations.LadderStepsRun : Prop :=
  ∀ (ladder time : Nat) (l : Ladder) (s : State), s.ladder? ladder = some l →
    (s.stepMay l 1 = true → s.freeDecoders ≠ [] → s.inlineWaits = false →
      exec (.ladderExtendedDecode ladder time) s = .next ((s.ladderTurn l l.sector time).2.ladderPass l 1
        (turnOutcome l.sector (s.ladderTurn l l.sector time).1) (some (s.ladderTurn l l.sector time).1) true)) ∧
    (s.stepMay l 2 = true → (s.slotsNeeded l).length ≤ s.capturesFree →
      (∀ m ∈ s.detect.ladders, m.waiting = true → m.id ≠ l.id → l.waiting = true ∧ l.id < m.id) →
      exec (.ladderCountFramedReread ladder time) s = .next (
        let m := ((s.grantSlots l).ladder? ladder).getD l
        let p := (s.grantSlots l).passTurns m time
        let u := if p.2.1 = 4 ∨ p.2.1 = 5 then p.2.2.2 else p.2.2.2.countFraming m.stream p.1
        u.ladderPass { m with
          sector := p.1, passes := if p.2.1 = 4 then 0 else 1, sum0 := p.1.y0, sum1 := p.1.y1, slips := u.nat (O.countSlips + m.stream / 2)
          confirmed := decide (u.nat (O.clockState + m.stream / 2) = 3) } 2 p.2.1 p.2.2.1 true)) ∧
    (s.stepMay l 2 = true → s.capturesFree < (s.slotsNeeded l).length → l.waiting = false →
      exec (.ladderCountFramedReread ladder time) s = .next ((s.bump O.captureWaits).putLadder { l with waiting := true })) ∧
    (s.stepMay l 3 = true → s.averagesNow l = true → exec (.ladderAveragingPass ladder time) s = .next (match s.addPass l with
      | none => s.putLadder { l with running := 3 }
      | some (m, x) =>
        if m.passes = 2 ∨ m.passes = 4 ∨ m.passes = 8 then
          let y := s.averaged m x
          (s.ladderTurn m y time).2.ladderPass { m with sector := { y with y0 := m.sector.y0, y1 := m.sector.y1 } } 3
            (turnOutcome y (s.ladderTurn m y time).1) (some (s.ladderTurn m y time).1) (decide (m.config.average ≤ m.passes))
        else s.putLadder { m with running := 3 })) ∧
    (s.stepMay l 4 = true → l.running ≠ 4 → s.phaseTaken l 4 2 = false →
      (∀ m ∈ s.detect.ladders, m.stream / 2 = l.stream / 2 → m.running ≠ 5) →
      exec (.ladderOffsetRead ladder time) s = .next ((s.setPoint (actOf (l.stream / 2)) (2 + l.stream / 2 % 6)
        (s.ladderOffset (l.stream / 2))).putLadder { l with running := 4, sub := 1, since := s.tick })) ∧
    (s.stepMay l 4 = true → l.running = 4 → l.sub = 1 → exec (.ladderOffsetRead ladder time) s = .next (
      let p := s.passTurns l time
      let u := if p.2.2.2.phaseTaken l 4 1 then p.2.2.2
        else p.2.2.2.setPoint (actOf (l.stream / 2)) (2 + l.stream / 2 % 6) (-(p.2.2.2.ladderOffset (l.stream / 2)))
      (u.countFraming l.stream p.1).ladderPass { l with sector := p.1, sub := 2, since := u.tick } 4 p.2.1 p.2.2.1 false)) ∧
    (s.stepMay l 4 = true → l.running = 4 → l.sub ≠ 1 → s.phaseTaken l 4 1 = false →
      assoc? s.rafter.setPoints (64 * actOf (l.stream / 2) + (2 + l.stream / 2 % 6)) = some (-(s.ladderOffset (l.stream / 2))) →
      exec (.ladderOffsetRead ladder time) s = .next (
        let p := s.passTurns l time
        (p.2.2.2.countFraming l.stream p.1).ladderPass { l with sector := p.1 } 4 p.2.1 p.2.2.1 true)) ∧
    (s.stepMay l 5 = true → l.running ≠ 5 → (∀ m ∈ s.detect.ladders, m.stream / 2 = l.stream / 2 → m.running ≠ 4) →
      exec (.ladderHeaterStep ladder time) s = .next (((s.modHead (l.stream / 2) fun x => { x with heaterCal := none }).writeHeater (l.stream / 2)
        (min (s.headZone (l.stream / 2)).heaterWrite ((s.headZone (l.stream / 2)).heaterRead + l.config.heaterStep))).putLadder
          { l with running := 5, sub := 0, since := s.tick, passes := 0, sum0 := [], sum1 := [] })) ∧
    (s.stepMay l 5 = true → l.running = 5 → l.since + s.revolution ≤ s.tick → exec (.ladderHeaterStep ladder time) s = .next (
      match s.addPass l with
      | none => s
      | some (m, x) =>
        let y := s.averaged m x
        let b := (bestMark (y.marks s.tables (l.stream / 2) 6 runInAt)).getD (0, 32)
        let z := { y with offset := b.1, distance := b.2, countFramed := false, framed := b.1 }
        if m.passes < 2 then s.putLadder m
        else if s.nat (O.clockState + l.stream / 2) ≠ 4 then
          (s.ladderTurn m y time).2.ladderPass { m with sector := y } 5 (turnOutcome y (s.ladderTurn m y time).1)
            (some (s.ladderTurn m y time).1) true
        else if 3 < b.2 then s.ladderPass { m with sector := z } 5 5 none true
        else (s.ladderTurn m z time).2.ladderPass { m with sector := z } 5 (turnOutcome z (s.ladderTurn m z time).1)
          (some (s.ladderTurn m z time).1) true))

/-- A ladder past its time limit with no step running, or one that waits too long for a lost count or a load, goes to step 6; freed
slots go to the request that waited longest; a sector recovered late takes its next step of being written home. -/
def Obligations.LadderLimitsRun : Prop :=
  (∀ ladder (l : Ladder) (s : State), s.ladder? ladder = some l → s.ladderLate l = true → s.stepRuns l = false →
    exec (.ladderTimeLimit ladder) s = .next (s.unrecoverable l)) ∧
  (∀ ladder (l : Ladder) (s : State), s.ladder? ladder = some l →
    (s.nat (O.clockState + l.stream / 2) = 5 ∨ (s.nat (O.clockState + l.stream / 2) = 1 ∧ (s.act (actOf (l.stream / 2))).load = 2)) →
    max l.entered (s.head (l.stream / 2)).lostAt + 1000 * l.config.clockWait ≤ s.tick →
    exec (.clockWaitLimit ladder) s = .next (s.unrecoverable l)) ∧
  (∀ (l : Ladder) (s : State), s.detect.ladders.find? Ladder.waiting = some l → (s.slotsNeeded l).length ≤ s.capturesFree →
    exec .captureSlotFreed s = .next (s.grantSlots l)) ∧
  (∀ nsid lba (r : Refresh) (p : Place) (s : State), r ∈ s.detect.refreshes → r.nsid = nsid → r.lba = lba →
    s.locate nsid (lba / 64 * 64) = some p →
    exec (.sectorRefresh nsid lba) s = .next (s.homeWork p nsid (lba / 64 * 64) (decide (s.toRestock nsid (lba / 64) ≠ []))))

/-- Where every condition of R184 holds a burst first takes its heater lead and then opens at its next sector, and it ends with its
last; a chunk out of revolutions fails as its kind says; a chunk's uncovered part is asked for, read and filled; an untrusted entry
is learnt or audited, and modified ledger pages are flushed. -/
def Obligations.WriteBurstsRun : Prop :=
  (∀ head nsid lba (w : ChunkWrite) (s : State), s.chunkOf head nsid lba s.burstMay = some w → (s.head head).lead = none →
    exec (.writeBurstOpen head nsid lba) s = .next (s.startLead head)) ∧
  (∀ head nsid lba (w : ChunkWrite) (s : State), s.chunkOf head nsid lba s.burstMay = some w → (s.head head).lead ≠ none →
    s.leadDone head = true → s.atNextSector w = true → exec (.writeBurstOpen head nsid lba) s = .next (s.openBurst w)) ∧
  (∀ head (w : ChunkWrite) (s : State), (s.write.chunks.find? fun w => decide (w.head = head) && w.open_ && s.burstOver w) = some w →
    exec (.writeBurstEnd head) s = .next (s.endBurst w)) ∧
  (∀ head nsid lba (w : ChunkWrite) (s : State), (s.chunkOf head nsid lba fun w => !w.open_ && !w.ended && !w.flagged && w.cut &&
      decide (s.nat O.writeRetryLimit ≤ w.retries)) = some w →
    (w.isHome = true → w.kind ≠ 1 → exec (.writeRetryLimitReached head nsid lba) s = .next (s.chunkFailed w)) ∧
    (w.isHome = false → w.kind ≠ 1 → exec (.writeRetryLimitReached head nsid lba) s = .next (s.deviceWriteFailed w)) ∧
    (w.kind = 1 → w.total < w.written → exec (.writeRetryLimitReached head nsid lba) s = .next (s.flipSlot w true)) ∧
    (∀ c, w.kind = 1 → w.written ≤ w.total → s.slotOf w = some c →
      exec (.writeRetryLimitReached head nsid lba) s = .next ((s.abandonSlot c.act c.seq).stageAgain c))) ∧
  (∀ head nsid lba (w : ChunkWrite) (s : State), (s.chunkOf head nsid lba fun w => decide (w.missing ≠ [])) = some w →
    (s.readFor 1 nsid lba = none → exec (.chunkFillRead head nsid lba) s =
      .next (s.startFill 1 (actOf head) nsid lba w.missing (s.entry head w.stripe).trusted)) ∧
    (∀ d, s.readFor 1 nsid lba = some d → d.want = [] → d.covers (w.missing.map (lba + ·)) = true →
      exec (.chunkFillRead head nsid lba) s = .next ((s.endRead d).putChunk { w with
        data := (s.fillChunk nsid lba w.missing w.data d).1, missing := []
        markers := w.markers ++ (s.fillChunk nsid lba w.missing w.data d).2 })) ∧
    (∀ d, s.readFor 1 nsid lba = some d → d.want = [] → d.covers (w.missing.map (lba + ·)) = false →
      exec (.chunkFillRead head nsid lba) s = .next (s.endRead d))) ∧
  (∀ nsid lba (s : State), exec (.ledgerLearnRead nsid lba) s = .next (s.learn nsid (lba / 64 * 64))) ∧
  (∀ nsid lba (s : State), s.nat O.ledgerAuditEnable = 1 → s.spareFor (s.homeAct nsid lba) 6 = true →
    exec (.ledgerAudit nsid lba) s = .next (s.learn nsid (lba / 64 * 64))) ∧
  (∀ s : State, s.write.dirty ≠ [] → (s.write.flushedAt + 1000000 * s.nat O.ledgerFlushPeriod ≤ s.tick ∨
      s.nat O.ledgerDirtyMax ≤ s.write.dirty.length ∨ s.nat O.sleepEntryState = 1) →
    exec .ledgerFlush s = .next s.flushLedger)

/-- On a head whose clock state is not Confirmed, WRITE_BURST_OPEN changes nothing: its write gate stays closed. -/
def Obligations.BurstsOpenOnConfirmedHeadsOnly : Prop :=
  ∀ (head nsid lba : Nat) (s : State), s.nat (O.clockState + head) ≠ 3 → exec (.writeBurstOpen head nsid lba) s = .next s

/-- A verify asks for its sectors and then judges what it read; an adjacent check reads its lane and then hands on what it found; a
remap takes its lane's locks and reads both tracks, writes them to the spare once read, and then commits its three copies of the
table one by one. -/
def Obligations.VerifyAndRemapRun : Prop :=
  (∀ head nsid lba (w : ChunkWrite) (s : State), s.chunkOf head nsid lba ChunkWrite.verifying = some w →
    (s.readFor 8 nsid lba = none → exec (.verifyReadback head nsid lba) s =
      .next (s.startRead 8 (actOf head) nsid lba (w.toVerify.map (readOf w)))) ∧
    (∀ d, s.readFor 8 nsid lba = some d → d.want = [] → exec (.verifyReadback head nsid lba) s = .next ((s.endRead d).verified w d))) ∧
  (∀ head lane (c : AdjacentCheck) (s : State), (s.write.adjacent.find? fun c => decide (c.head = head) && decide (c.lane = lane)) = some c →
    (s.readFor 3 head (2 * lane + c.track) = none → (s.act (actOf head)).load = 2 → exec (.adjacentCheckRead head lane) s =
      .next (({ s with write := { s.write with adjacent := s.write.adjacent.map fun x =>
        if x = c then { x with reading := true } else x } } : State).startRead 3 (actOf head) head (2 * lane + c.track)
          (({ s with write := { s.write with adjacent := s.write.adjacent.map fun x =>
            if x = c then { x with reading := true } else x } } : State).laneWants head lane [c.track]))) ∧
    (∀ d, s.readFor 3 head (2 * lane + c.track) = some d → d.want = [] →
      exec (.adjacentCheckRead head lane) s = .next ((s.endRead d).checkedAdjacent c d))) ∧
  (∀ surface zone offset (r : Remap) (t : ZoneTable) (e : ZoneEntry) (s : State), s.remap? surface zone offset = some r →
    s.zoneTable surface = some t → s.zoneOf surface zone = some e →
    (∀ u : State, r.stage = 0 → (s.act (actOf surface)).load = 2 → offset < e.cellarLanes →
      s.remapMay (.remap surface (e.firstLane + offset)) ((s.write.chunks.filter fun w => decide (w.head = surface) &&
        s.laneBusy surface w.lane).flatMap fun w => (s.chunkOwners w).map fun o => LockOwner.host o.1 o.2.1 o.2.2) = true →
      u = s.remapStage surface zone offset 1 →
      exec (.laneRemapCopy surface zone offset) s = .next (u.startRead 5 (actOf surface) surface (zone * 2 ^ 32 + offset)
        (s.laneWants surface (s.resolveSpare e surface zone offset).1 [0, 1]))) ∧
    (∀ u : State, r.stage = 0 → (s.act (actOf surface)).load = 2 → e.cellarLanes ≤ offset →
      (s.lockOf (.remap surface (e.firstLane + offset))).isSome = false →
      s.deviceLocks + (s.domainRanges (actOf surface) (rowSectors t.entries zone (offset - e.cellarLanes)).1
        (rowSectors t.entries zone (offset - e.cellarLanes)).2).length ≤ 64 →
      s.domainRanges (actOf surface) (rowSectors t.entries zone (offset - e.cellarLanes)).1
        (rowSectors t.entries zone (offset - e.cellarLanes)).2 ≠ [] →
      u = (s.domainRanges (actOf surface) (rowSectors t.entries zone (offset - e.cellarLanes)).1
        (rowSectors t.entries zone (offset - e.cellarLanes)).2).foldl (fun (v : State) x =>
          v.insertLock x.1 x.2.1 x.2.2 true (.remap surface (e.firstLane + offset))) s →
      exec (.laneRemapCopy surface zone offset) s = .next (
        if u.remapMay (.remap surface (e.firstLane + offset)) ((u.write.chunks.filter fun w => decide (w.head = surface) &&
          u.laneBusy surface w.lane).flatMap fun w => (u.chunkOwners w).map fun o => LockOwner.host o.1 o.2.1 o.2.2) = true then
          (u.remapStage surface zone offset 1).startRead 5 (actOf surface) surface (zone * 2 ^ 32 + offset)
            (u.laneWants surface (u.resolveSpare e surface zone offset).1 [0, 1])
        else u)) ∧
    (∀ d, r.stage = 1 → s.readFor 5 surface (zone * 2 ^ 32 + offset) = some d → d.want = [] →
      exec (.laneRemapCopy surface zone offset) s = .next ((s.endRead d).remapWrite r e d))) ∧
  (∀ surface zone offset good (r : Remap) (e : ZoneEntry) (s : State), s.remap? surface zone offset = some r → s.zoneOf surface zone = some e →
    3 ≤ r.stage → s.systemMay (if r.stage = 5 then partnerSurface surface else surface) = true →
    exec (.laneRemapCommit surface zone offset good) s = .next (
      let u := s.systemWrite (if r.stage = 5 then partnerSurface surface else surface) 2 zone (r.stage - 2)
        (((s.spareTable surface zone).map fun t => spareTableBytes (if r.stage = 3 then mapSpare t offset r.spare else t)).getD [])
      if good = false then u
      else if r.stage < 5 then (if r.stage = 3 then u.remapInForce r e else u).remapStage surface zone offset (r.stage + 1)
      else (State.releaseLock { u with layout := { u.layout with remaps := u.layout.remaps.filter fun x =>
        !(decide (x.surface = surface) && decide (x.zone = zone) && decide (x.offset = offset)) } } (.remap surface (e.firstLane + offset))).noteWarnings))

/-- A position sample of a sampled head is taken; a seek begins on a loaded actuator whose heads have the row, or becomes the next
target of the one under way; at a hand-over instant the next target is taken, or track following begins once every steering head is
on its lane; a stripe crossing counts a lane, and tells of an uncertain one where its order or interval is wrong; a lane-check read
begins and ends; a failed lane check ends in an uncertain lane. -/
def Obligations.PositioningCommandsRun : Prop :=
  (∀ head sub (s : State), s.sampled head = true → exec (.positionSample head sub) s = .next (s.takePosition head (s.subTime sub))) ∧
  (∀ act zone row only (s : State), s.hasAct act = true → (s.act act).load = 2 → s.passesOver act zone row = false →
    (∀ h ∈ headsOf act, s.nat (O.headService + h) = 3 ∨ ∃ e, s.zoneOf h zone = some e ∧ row < e.laneCount - e.spareLanes) →
    ((s.act act).seeking = false → s.narrowWork act = false → s.passWork act = false →
      exec (.seekRequest act zone row only) s = .next (s.beginSeek act zone row only)) ∧
    ((s.act act).seeking = true → exec (.seekRequest act zone row only) s =
      .next (s.modAct act fun x => { x with nextTarget := some (zone, row, only) }))) ∧
  (∀ act sub (s : State), s.hasAct act = true → (s.act act).load = 2 → (s.act act).seeking = true → s.subTime sub % 8000 = 0 →
    ((s.act act).nextTarget = none → (∀ h ∈ s.steering act, (s.head h).lane = (s.head h).target) →
      exec (.handOver act sub) s = .next (s.handOver act)) ∧
    (∀ zone row only, (s.act act).nextTarget = some (zone, row, only) →
      exec (.handOver act sub) s = .next (s.beginSeek act zone row only))) ∧
  (∀ head outerFirst inward (s : State), s.sampled head = true → (s.act (actOf head)).load = 1 → (s.head head).crossed = false →
    exec (.stripeCrossing head outerFirst inward) s = .next (s.modHead head fun x => { x with
      crossed := true, lane := 0, crossInterval := 0, crossedAt := (s.rsl (3 * head + 2)).received })) ∧
  (∀ head outerFirst inward (u s : State), s.sampled head = true → (s.act (actOf head)).load ≠ 4 →
    ((s.act (actOf head)).load = 1 → (s.head head).crossed = true) →
    u = (s.modHead head fun x => x.cross outerFirst (s.rsl (3 * head + 2)).received).capAtZone head (s.head head).lane →
    exec (.stripeCrossing head outerFirst inward) s = .next (
      if (outerFirst ≠ inward ∨ ((s.head head).crossedAt ≤ (s.rsl (3 * head + 2)).received ∧
          (s.rsl (3 * head + 2)).received - (s.head head).crossedAt < minCrossing)) ∧
        ((u.act (actOf head)).load = 1 ∨ ((u.act (actOf head)).load = 2 ∧ (u.act (actOf head)).seeking = true)) then u.laneUncertain (actOf head)
      else u)) ∧
  (∀ head x (s : State), s.readFor 7 head 0 = none → s.hasHead head = true → (s.act (actOf head)).load = 2 →
    (s.act (actOf head)).seeking = false → (s.head head).onRow = true → s.nat (O.rslState + 3 * head) = 3 → s.laneCheckDue head = true →
    s.nextServed head 0 = some x → exec (.laneCheckRead head) s = .next (s.startRead 7 (actOf head) head 0 [(head, x)])) ∧
  (∀ head d (s : State), s.readFor 7 head 0 = some d → d.want = [] → exec (.laneCheckRead head) s = .next (s.endRead d)) ∧
  (∀ act (s : State), s.hasAct act = true → (s.act act).load = 2 → (s.act act).seeking = false → (s.act act).verified = false →
    s.nat O.laneCheckSectors ≤ (s.act act).checks → exec (.laneUncertain act) s = .next (s.laneUncertain act))

/-- A granted load leaves the ramp and ends once every head has crossed a stripe; a load that times out is counted and tried once
more, and the second time its actuator is fenced; an unload drives the heads to the ramp and ends after its time; the end of a safe-
park leaves the actuator on the ramp, is run once more over media, and then fences. -/
def Obligations.LoadCommandsRun : Prop :=
  (∀ act zones spares (s : State), s.hasAct act = true → (s.nat (O.actuatorService + act) = 3 → s.returning act = true) → (s.act act).load = 0 →
    (s.act act).loadWanted = true → s.surgeGranted? 2 act = true →
    s.nat O.loadSpeedMin * s.nat O.spindleNominalRpm * 10 ≤ s.spindle.mrpm → (s.pcl (2 * act)).broughtUp = true →
    (s.pcl (2 * act + 1)).broughtUp = true → s.parkHeld act = false →
    exec (.actuatorLoad act zones spares) s = .next (s.beginLoad act)) ∧
  (∀ act zones spares (s : State), s.hasAct act = true → (s.nat (O.actuatorService + act) = 3 → s.returning act = true) → (s.act act).load = 1 →
    (∀ h ∈ headsOf act, (s.nat (O.headService + h) = 3 ∧ s.returning act = false) ∨ (s.head h).crossed = true) →
    exec (.actuatorLoad act zones spares) s = .next (s.endLoad act zones spares)) ∧
  (∀ act (u s : State), s.hasAct act = true → (s.act act).load = 1 →
    (∃ h ∈ headsOf act, (s.head h).crossed = false ∧ (s.nat (O.headService + h) = 3 → s.returning act = true)) →
    (s.act act).loadStart + 1000 * s.nat O.loadTimeout ≤ s.tick → u = s.modSmart (fun x => { x with failedLoads := x.failedLoads + 1 }) →
    exec (.loadTimeout act) s = .next (if (s.act act).attempts = 0 then (u.modAct act fun x => { x with attempts := 1 }).startUnload act true
      else (u.fenceAct act 1).endFencedIo)) ∧
  (∀ act (s : State), s.hasAct act = true → (s.act act).load = 3 → (s.act act).unloadAt = none → (∀ h ∈ s.steering act, (s.head h).lane = 0) →
    exec (.actuatorUnload act) s =
      .next ((s.setPoint act 1 (speedCap (s.nat O.unloadVelocity))).modAct act fun x => { x with unloadAt := some s.tick })) ∧
  (∀ act t (u s : State), s.hasAct act = true → (s.act act).load = 3 → (s.act act).unloadAt = some t → t + 1000 * s.nat O.safeParkTime ≤ s.tick →
    u = ((s.headsParked act).stopLoops act).modAct act (fun x => { x with load := 0, parkCause := 0, seeking := false, unloadAt := none }) →
    exec (.actuatorUnload act) s = .next (if (u.act act).loadWanted = true then
      if u.surgeGranted? 2 act = true ∨ u.nat O.spindleState ≠ 5 then u else u.requestLoad act else u.returnSurge 2 act)) ∧
  (∀ act (s : State), s.hasAct act = true → (s.act act).load = 4 → (s.act act).parkEnd ≤ s.tick → (headsOf act).any s.overMedia = true →
    (s.act act).parkReruns = 0 → exec (.safeParkTimeEnd act) s = .next ((s.modAct act fun x => { x with
      parkReruns := 1, parkEnd := s.tick + 1000 * s.nat O.safeParkTime }).vcmFrame act)) ∧
  (∀ act (u s : State), s.hasAct act = true → (s.act act).load = 4 → (s.act act).parkEnd ≤ s.tick →
    u = ((s.headsParked act).modAct act fun x => { x with load := 0 }).vcmFrame act →
    ((headsOf act).any s.overMedia = true → (s.act act).parkReruns ≠ 0) →
    exec (.safeParkTimeEnd act) s = .next (
      if (headsOf act).any s.overMedia = true then
        (((u.fenceAct act 2).bump (O.parkFailures + act)).raiseFault (240 + 8 * act + 1) 255).endFencedIo
      else if (u.act act).loadWanted = true ∧ u.nat O.spindleState = 5 then u.requestLoad act else u.returnSurge 2 act))

/-- A transaction of a fitted sensor asks for the next and stores and compares its axes if it passes its checks, or is counted as
lost; a failed sensor is tried again once a second, and taken back or counted; the inhibit and the reload end after their holds. -/
def Obligations.SensorCommandsRun : Prop :=
  (∀ sensor miso (s : State), (s.nat O.sensorFitted).testBit sensor = true → sensor < 2 → s.nat (O.sensorState + sensor) ≠ 2 →
    exec (.sensorTransaction sensor miso) s = .next (if s.sensorPass sensor miso = true then (s.sensorAsk sensor).sensorTaken sensor miso true
      else (s.sensorAsk sensor).sensorLost sensor)) ∧
  (∀ sensor miso (u s : State), (s.nat O.sensorFitted).testBit sensor = true → sensor < 2 → s.nat (O.sensorState + sensor) = 2 →
    s.pos.retryAt.getD sensor 0 + 1000000 ≤ s.tick →
    u = { s.sensorAsk sensor with pos := { (s.sensorAsk sensor).pos with
      retryAt := (s.sensorAsk sensor).pos.retryAt.set sensor (s.sensorAsk sensor).tick } } →
    exec (.sensorRetry sensor miso) s = .next (if s.sensorPass sensor miso = true then (u.endCondition (230 + sensor)).sensorTaken sensor miso false
      else u.bump (O.sensorCheckFailures0 + sensor))) ∧
  (∀ s : State, s.pos.inhibit = true → s.pos.lastShock + s.nat O.shockHold ≤ s.tick → exec .shockHoldExpiry s =
    .next (({ s with pos := { s.pos with inhibit := false } } : State).each
      (List.range ({ s with pos := { s.pos with inhibit := false } } : State).headCount) fun u h => u.setStatusBit h 8 false)) ∧
  (∀ s : State, s.pos.lastShock + 1000 * s.nat O.shockReloadDelay ≤ s.tick → exec .shockReloadDelay s =
    .next (s.each (List.range s.actCount) fun u a => if (u.act a).parkCause = 3 ∧ (u.act a).load = 0 ∧ (u.act a).loadWanted ∧
      u.nat O.spindleState = 5 then u.requestLoad a else u))

/-- A lender is assigned to an unhealthy head and each of its borrowers, and again where the lender has become unfit; a head is held
at its recent mean output; a read-only hold ends after its revolutions; an index field sets a Provisional or lost count and confirms
the head, and corrects a Confirmed one that has slipped; a head that stays Provisional too long is unhealthy. -/
def Obligations.HeadHealthRuns : Prop :=
  (∀ head (s : State), s.hasHead head = true → s.nat (O.headService + head) ≠ 3 →
    (s.nat (O.clockState + head) = 2 ∨ s.nat (O.clockState + head) = 3) → (s.head head).unhealthy ≠ 0 →
    exec (.lenderAssign head) s = .next ((s.assignLender head).each (s.borrowers head) State.assignLender)) ∧
  (∀ head (s : State), s.hasHead head = true → s.nat (O.headService + head) ≠ 3 → s.nat (O.clockState + head) = 4 →
    (s.nat (O.clockState + s.nat (O.lender + head)) ≠ 3 ∨ s.nat (O.rslState + 3 * s.nat (O.lender + head) + 2) = 2 ∨
      s.nat (O.headService + s.nat (O.lender + head)) = 3) → exec (.lenderAssign head) s = .next (s.assignLender head)) ∧
  (∀ head (s : State), s.hasHead head = true → (s.head head).unhealthy ≠ 0 → (s.head head).held = false →
    (s.act (actOf head)).load = 2 → s.nat (O.positionState + head) ≠ 8 →
    exec (.headHold head) s = .next (((((s.modHead head fun x => { x with held := true }).holdRegisters head
      (some (if (s.head head).maoHistory = [] then 0 else roundDiv (s.head head).maoHistory.sum (s.head head).maoHistory.length))).setNat
        (O.positionState + head) 7).setStatusBit head 6 false))) ∧
  (∀ head v (s : State), s.hasHead head = true → (s.head head).readOnly = true → (s.head head).unhealthy = 0 →
    s.nat (O.clockState + head) = 3 → (s.head head).validSince = some v → v + s.nat O.readOnlyHold * s.revolution ≤ s.tick →
    exec (.readOnlyEnd head) s = .next (
      let u := s.modHead head fun x => { x with held := false, readOnly := false, awaitGood := true, settleRun := 0 }
      let u := if (s.head head).passHeld then u else u.holdRegisters head none
      (if u.nat (O.positionState + head) = 7 ∧ ¬ (s.head head).passHeld = true then u.setNat (O.positionState + head) 4 else u).refreshHead head)) ∧
  (∀ head at_ (u s : State), (s.head head).indexAt = some at_ → s.sampled head = true → (s.act (actOf head)).load = 2 → u = s.revolutionOf head →
    (s.nat (O.clockState + head) = 2 → (u.head head).unhealthy = 0 →
      exec (.indexFieldDetected head) s = .next ((u.moveCount head (-at_)).confirm head)) ∧
    (s.nat (O.clockState + head) = 3 → at_.natAbs ≤ 64 → exec (.indexFieldDetected head) s = .next (u.takeDrift head)) ∧
    (s.nat (O.clockState + head) = 3 → 64 < at_.natAbs → exec (.indexFieldDetected head) s = .next (
      let v := (u.moveCount head (-at_)).bump (O.countSlips + head)
      (if 384 < at_.natAbs then v.raiseFault 200 head else v).takeDrift head)) ∧
    ((s.head head).revClean = true → ((s.nat (O.clockState + head) = 4 ∧ at_.natAbs ≤ 64) ∨ s.nat (O.clockState + head) = 5) →
      exec (.indexFieldDetected head) s = .next (((u.moveCount head (-at_)).setNat (O.lender + head) 255).confirm head))) ∧
  (∀ head (s : State), s.nat (O.clockState + head) = 2 → (s.head head).provisionalAt + s.revolution * 5 / 4 ≤ s.tick →
    exec (.acquisitionTimeout head) s = .next (s.unhealthyC head 4))

/-- A runout update changes its loop's table by the learnt means; an identification's end applies its result, refuses one outside
the limits with source 229, or finds the loop claimed; a heater calibration begins and goes on a revolution at a time; a calibration
check ends its revolutions, the change undone where the error has risen; a write of a loop slot starts an identification. -/
def Obligations.CalibrationCommandsRun : Prop :=
  (∀ head word (s : State), s.hasHead head = true → s.calMay (actOf head) = true → s.nat O.rroEnable = 1 →
    s.nat O.rroLearnRevs ≤ (s.head head).rroRevs → s.nat (O.headService + head) ≠ 3 → s.firmwareMay (9 * actOf head + head % 6) = true →
    s.nat (O.maoStroke + head) ≠ 0 → exec (.rroLearnUpdate head word) s = .next (
      let means := rroMeans (s.head head)
      let table := (((assoc? (s.head head).rro (s.head head).zone).getD (List.replicate 64 0)).zip means).map fun p =>
        satTo 32 (p.1 + roundDiv (-(p.2 * s.nat O.rroGain * (s.headZone head).trackPitch)) (256 * 100 * s.nat (O.maoStroke + head)))
      let u := s.setNat (O.rroResidual + head) (min 65535 (isqrt (((means.map fun v =>
        (roundDiv (v * 1000) (2 ^ 30)).natAbs).map fun v => v * v).sum / 64)))
      let u := u.modHead head fun x => { x with
        rro := putKey x.rro x.zone table, rroBase := word, rroSum := [], rroCount := [], rroRevs := 0 }
      (u.firmwareChange (9 * actOf head + head % 6) (table.zipIdx.map fun p => ((word + p.2) % 256, p.1))).startCheck
        (9 * actOf head + head % 6))) ∧
  (∀ slot gain shift frequency words (r : IdRun) (u s : State), (s.pos.identify.find? fun r => decide (r.slot = slot) && decide (16 ≤ r.revs)) = some r →
    s.calMay (slot / 9) = true →
    u = { s with pos := { s.pos with
      identify := s.pos.identify.filter fun x => !(decide (x.slot = slot) && decide (x.requested = r.requested)),
      identifiedAt := putKey s.pos.identifiedAt slot s.tick } } →
    ((gain.natAbs > 10 * (s.nat O.gainChangeLimit : Int) ∨ s.nat O.modeShiftLimit < shift) →
      exec (.loopIdentificationEnd slot gain shift frequency words) s = .next ((u.raiseFault 229 slot).idResult r.requested gain frequency 0 3)) ∧
    (gain.natAbs ≤ 10 * (s.nat O.gainChangeLimit : Int) → shift ≤ s.nat O.modeShiftLimit → s.nat (O.loopClaim + slot) ≠ 0 →
      exec (.loopIdentificationEnd slot gain shift frequency words) s = .next (u.idResult r.requested gain frequency 0 2)) ∧
    (gain.natAbs ≤ 10 * (s.nat O.gainChangeLimit : Int) → shift ≤ s.nat O.modeShiftLimit → s.nat (O.loopClaim + slot) = 0 →
      s.firmwareMay slot = true → exec (.loopIdentificationEnd slot gain shift frequency words) s =
        .next (((u.firmwareChange slot (words.map fun (w : Nat × Int) => (w.1 % 256, satTo 32 w.2))).startCheck slot).idResult
          r.requested gain frequency 1 0))) ∧
  (∀ head (s : State), (s.head head).heaterCal = none → s.heaterDue head = true → s.calBusy (actOf head) = false →
    exec (.heaterCalibration head) s = .next (s.heaterRevolution head { began := s.tick })) ∧
  (∀ head (r : HeaterRun) (s : State), (s.head head).heaterCal = some r → s.calMay (actOf head) = true → r.began + s.revolution ≤ s.tick →
    exec (.heaterCalibration head) s = .next (s.heaterNext head r)) ∧
  (∀ head slot (s : State), (s.head head).checkSlot = some slot → s.nat O.calCheckRevs ≤ (s.head head).checkRevs →
    exec (.calibrationCheckEnd head) s = .next (
      let heads := (loopHeads slot).filter fun h => decide ((s.head h).checkSlot = some slot)
      let u := s.each heads fun v h => v.modHead h fun x => { x with checkSlot := none, checkRevs := 0 }
      if risen (heads.map fun h => (s.head h).formerSquares).sum (heads.map fun h => (s.head h).formerSamples).sum
          (heads.map fun h => (s.head h).squares).sum (heads.map fun h => (s.head h).samples).sum = true ∧
        u.firmwareMay slot = true ∧ u.nat (O.loopBankState + slot) = 1 then u.revertCal head slot else u)) ∧
  (∀ r slot (u s : State), s.checkPut r O.loopIdRequest (.num 1 (slot : Nat)) = none → s.nat O.loopIdRunState ≠ 1 →
    u = (s.startRun O.loopIdRunState).setNat O.loopIdRunSlot slot →
    exec (.loopIdRequest r slot) s = .next (State.emit (
      if u.loopRuns slot = false then u.endRun O.loopIdRunState 1
      else if u.nat (O.loopClaim + slot) ≠ 0 then u.endRun O.loopIdRunState 2
      else { u with pos := { u.pos with identify := u.pos.identify ++ [{ slot := slot, requested := true }] } }) (.dict r.code 0)))

/-- A block of Good sectors reverts the last swap where its error has risen by more than a tenth, and else gives new taps in the
inactive bank; a bank swap takes effect on both streams at its sector; the sets are saved after an hour; a stream without Good
sectors asks for a calibration read; a restore and a clear of the outcome counters have their effect. -/
def Obligations.EqualiserCommandsRun : Prop :=
  (∀ stream (st : Stream) (f : Nat) (u s : State), s.adapts stream = true → st = s.stream stream →
    s.cfg (stream / 2) O.eqBlockSectors ≤ st.blockSectors → st.swap = 0 → s.takeFree = (f, u) →
    (st.checking = true → 11 * st.lastError < 10 * (st.squares / max 1 st.bits) →
      exec (.eqAdaptBlock stream) s = .next ((u.bump (O.eqReverts + stream)).modStream stream fun x => { x.newBlock with
        checking := false, swap := 3, zoneSwaps := bumpZone (s.head (stream / 2)).zone 0 1 f x.zoneSwaps })) ∧
    ((st.checking = true → 10 * (st.squares / max 1 st.bits) ≤ 11 * st.lastError) →
      exec (.eqAdaptBlock stream) s = .next (u.modStream stream fun x => { x.newBlock with
        checking := false, lastError := st.squares / max 1 st.bits, swap := 1
        taps := x.taps.set (1 - x.bank) (newTaps (u.cfg (stream / 2) O.eqStepShift) (u.cfg (stream / 2) O.eqTapStepLimit) f
          (u.bankTaps stream st.bank) (st.gradient.map fun (g : Int) => g / ((max 1 st.bits : Nat) : Int))) }))) ∧
  (∀ head sector (s : State), s.sectorNow head = some sector →
    (∃ n ∈ [2 * head, 2 * head + 1], (s.stream n).swap ≠ 0 ∧ (s.nat O.updateState ≠ 3 ∨ (s.stream n).swap = 4)) →
    exec (.detectorBankSwap head sector) s = .next (s.each [2 * head, 2 * head + 1] fun u n =>
      let v := if (u.stream n).swap = 1 then u.bump (O.eqSwaps + n) else u
      v.takeFree.2.modStream n (swapBank (s.head head).zone v.takeFree.1 (v.takeFree.2.setNow n)))) ∧
  (∀ s : State, s.detect.savedAt + 3600000000 ≤ s.tick → exec .detectorSetsSave s = .next s.saveSets) ∧
  (∀ stream (s : State), s.adapts stream = true → (s.stream stream).lastGood + 1000000 * s.nat O.eqIdleLimit ≤ s.tick →
    s.detect.calReads.contains stream = false → exec (.eqIdleCalibrationRead stream) s = .next { s with detect := { s.detect with
      calReads := s.detect.calReads ++ [stream] } }) ∧
  (∀ r (s : State), s.checkPut r O.eqRestore (.num 1 1) = none → exec (.eqRestore r) s = .next (s.restoreSets.emit (.dict r.code 0))) ∧
  (∀ r (s : State), s.checkPut r O.outcomeCounterClear (.num 1 1) = none → exec (.outcomeCounterClear r) s =
    .next (({ s with detect := { s.detect with streams := s.detect.streams.map fun (st : Stream) => { st with outcomes := [] } } } : State).emit
      (.dict r.code 0)))

/-- A pace interval ends with its measurements and judges each head; narrow service begins and ends at a stripe boundary; a stream
leaves deferral, its capture slot passing to the ladders that hold its sectors; admission is recomputed and takes effect at a row;
the two writes that govern pace have their effect. -/
def Obligations.PaceCommandsRun : Prop :=
  (∀ u s : State, s.detect.paceStart + 1000 * s.nat O.paceInterval ≤ s.tick →
    u = (s.setNat O.poolBusy (if s.nat O.decodersInService * s.nat O.paceInterval * 100000 = 0 then 0
      else min 1000 ((s.detect.streams.map Stream.used).sum * 1000 / (s.nat O.decodersInService * s.nat O.paceInterval * 100000)))).each
        (List.range 48) (fun w n => w.setNat (O.streamMeanIterations + n)
          (if (w.stream n).turns = 0 then 0 else (w.stream n).iterations * 256 / (w.stream n).turns)) →
    exec .paceIntervalEnd s = .next (({ u with detect := { u.detect with
      paceStart := u.tick, interval := u.detect.interval + 1, streams := u.detect.streams.map paceStream } } : State).each
        (List.range u.headCount) State.pacedInterval)) ∧
  (∀ head (s : State), s.narrow head = true →
    exec (.narrowServiceStart head) s = .next (s.modHead head fun x => { x with narrowPending := false })) ∧
  (∀ head (s : State), s.narrow head = true → (s.head head).leavePending = true →
    exec (.narrowServiceEnd head) s = .next (((((s.setNat O.narrowHeadMask (withoutBit (s.nat O.narrowHeadMask) head)).setNat (O.paceRun + head)
      0).modHead head fun x => { x with narrowPending := false, leavePending := false }).bump (O.narrowExits + head)).raisePace head 2)) ∧
  (∀ stream (u s : State), (s.stream stream).capturing = true → (s.stream stream).backlog = [] →
    s.cfg (stream / 2) O.deferExitSectors ≤ (s.stream stream).exitRun → u = s.modStream stream (fun st => { st with capturing := false }) →
    (s.detect.ladders.any (fun l => decide (l.stream = stream) && l.capture) = false →
      exec (.deferralExit stream) s = .next { u with detect := { u.detect with
        captures := u.detect.captures.filter fun c => decide (c ≠ (1, stream)) } }) ∧
    (s.detect.ladders.any (fun l => decide (l.stream = stream) && l.capture) = true →
      exec (.deferralExit stream) s = .next { u with detect := { u.detect with
        ladders := u.detect.ladders.map fun l => if (decide (l.stream = stream) && l.capture) = true ∧ ¬ l.slots.contains stream = true
          then { l with slots := l.slots ++ [stream] } else l
        captures := if (u.detect.captures.filter fun c => decide (c ≠ (1, stream))).contains (2, stream) = true
          then u.detect.captures.filter fun c => decide (c ≠ (1, stream))
          else (u.detect.captures.filter fun c => decide (c ≠ (1, stream))) ++ [(2, stream)] } })) ∧
  (∀ acts (s : State), exec (.streamAdmissionRecompute acts) s =
    .next (({ s with power := { s.power with narrowPass := acts.filter fun a => s.hasAct a } } : State).admitStreams
      (if s.power.stepKind = 2 ∧ s.power.stepWait = 5 then s.power.stepTarget else s.power.ceiling))) ∧
  (∀ act (u s : State), s.hasAct act = true → u = ((s.nextPass act).each (headsOf act) fun u h =>
      (if (u.head h).admitted = (u.head h).admitNext then u
        else u.modHead h fun x => { x with admitted := x.admitNext }).restHeater h).retrainDegraded act →
    exec (.admissionTakeEffect act) s = .next (if u.power.stepKind = 2 ∧ u.power.stepWait = 5 ∧ ¬ u.admissionWaits then u.lowerCeiling else u)) ∧
  (∀ r value (s : State), s.checkPut r O.narrowEnable (.num 1 (value : Nat)) = none →
    exec (.narrowEnableWrite r value) s = .next (State.emit (
      let u := s.setNat O.narrowEnable value
      if value = 0 then u.each ((List.range u.headCount).filter u.narrow) fun v h => v.modHead h fun x => { x with leavePending := true }
      else u) (.dict r.code 0))) ∧
  (∀ r value (s : State), s.checkPut r O.paceInterval (.num 1 (value : Nat)) = none →
    exec (.paceIntervalWrite r value) s = .next ((s.setNat O.paceInterval value).restartPace.emit (.dict r.code 0)))

/-- On a PCL whose reference runs: a frame that is not valid is counted; on a locked link a valid status frame latches what it
carries and proves the bursts whose heads report no flag, an acknowledgement and read data end their access, a NAK tries it again;
an access without a response in 10 us is tried again; a lost link and a warning that has cleared have their effects. -/
def Obligations.ControlLinkCommandsRun : Prop :=
  (∀ k f (s : State), k < s.pclCount → s.nat (O.pclState + k) ≠ 1 → s.nat (O.pclState + k) ≠ 5 → frameValid f = false →
    exec (.pclStatusFrame k f) s = .next (((s.bump (O.pclCrcErrors + k)).modPcl k fun c => { c with goodRun := 0 }).frameSlot k) ∧
    exec (.pclWriteAck k f) s = exec (.pclStatusFrame k f) s ∧ exec (.pclReadData k f) s = exec (.pclStatusFrame k f) s ∧
    exec (.pclNak k f) s = exec (.pclStatusFrame k f) s) ∧
  (∀ k f (u v s : State), k < s.pclCount → s.nat (O.pclState + k) ≠ 1 → s.nat (O.pclState + k) ≠ 5 → frameValid f = true →
    (s.pcl k).refStart + 200 ≤ s.tick → u = s.modPcl k (fun c => { c with lastValid := s.tick, goodRun := min 8 (c.goodRun + 1) }) →
    (u.pcl k).locked = true → v = u.takeSummary k (frameSummary f) →
    (frameType f = 0 → exec (.pclStatusFrame k f) s = .next (State.frameSlot (
      let w := if frameAddress f = (if frameHead f = 3 then 0x01 else 0x03) then v.takeStatus k (frameHead f) (frameData f) else v
      w.each [0, 1, 2] fun w i =>
        if (frameSummary f).testBit i = true ∧ frameHead f ≠ i then w else w.proveBursts (3 * k + i)) k)) ∧
    (∀ a, frameType f = 1 → v.access? k (frameTag f) = some a → a.kind ≠ 2 →
      exec (.pclWriteAck k f) s = .next ((v.acknowledged k a).frameSlot k)) ∧
    (∀ a, frameType f = 2 → v.access? k (frameTag f) = some a → a.kind = 2 →
      exec (.pclReadData k f) s = .next ((v.readReturned k a (frameData f)).frameSlot k)) ∧
    (frameType f = 3 → exec (.pclNak k f) s = .next ((v.retryAccess k (frameTag f) 2).frameSlot k))) ∧
  (∀ k tag (a : PclAccess) (s : State), s.access? k tag = some a → a.sent + 10 ≤ s.tick →
    exec (.registerAccessTimeout k tag) s = .next ((s.bump (O.pclTimeouts + k)).retryAccess k tag 1)) ∧
  (∀ k (s : State), k < s.pclCount → s.nat (O.pclState + k) ≠ 1 → (s.pcl k).lastValid + 10 ≤ s.tick →
    ((s.pcl k).locked = true → exec (.pclUpstreamLost k) s = .next (s.losePcl k 1 none)) ∧
    ((s.pcl k).locked = false → s.nat (O.pclState + k) = 2 → (s.pcl k).attempts + 1 < s.nat O.retrainAttempts →
      exec (.pclUpstreamLost k) s = .next (s.modPcl k fun c => { c with attempts := c.attempts + 1, goodRun := 0, lastValid := s.tick })) ∧
    ((s.pcl k).locked = false → s.nat (O.pclState + k) = 2 → s.nat O.retrainAttempts ≤ (s.pcl k).attempts + 1 →
      exec (.pclUpstreamLost k) s = .next ((((s.setNat (O.pclState + k) 5).modPcl k fun c => { c with
        attempts := 0, lastValid := (s.setNat (O.pclState + k) 5).tick }).raiseFault (160 + k) 4).fenceChip k))) ∧
  (∀ k t (s : State), (s.pcl k).clearSince = some t → (s.pcl k).warning = 0 → t + 100000 ≤ s.tick →
    exec (.chipWarningClear k) s = .next ((s.modPcl k fun c => { c with clearSince := none }).endCondition (168 + k)))

/-- A data block is descrambled and taken as data, as an idle or training block, or as a header error; a marker takes the interval's
CRC results and the lanes' skew, cuts the stream where alignment slipped and degrades a link with too many bad intervals; a training
ends with its best setting or as a failed attempt, also at its deadline; a failed link is tried again; the writes of a register
access and of the counters' clear have their effect. -/
def Obligations.DataLinkCommandsRun : Prop :=
  (∀ link lane header body overflow (s : State), s.rslCarries link = true → lane < 2 →
    exec (.rslDataBlock link lane header body overflow) s = .next (
      let plain := (s.rsl link).plain lane body
      if header = 1 then s.dataBlock link lane plain overflow
      else if header = 2 ∧ (plain / 2 ^ 120 = 0x1E ∨ plain / 2 ^ 120 = 0x33) then
        s.modRsl link fun r => { r.slot lane plain with headerRun := r.headerRun.set lane 0 }
      else s.headerError link lane plain)) ∧
  (∀ link body0 body1 skew (r : Rsl) bad (s : State), s.rslCarries link = true → body0 / 2 ^ 120 % 256 = 0x2D → body1 / 2 ^ 120 % 256 = 0x2D →
    r = s.rsl link → bad = (if r.crc.getD 0 0 = markerCrc body0 then 0 else 1) + (if r.crc.getD 1 0 = markerCrc body1 then 0 else 1) →
    exec (.rslAlignmentMarker link body0 body1 skew) s = .next (
      let agrees := r.markerAgrees link 0 body0 && r.markerAgrees link 1 body1
      let u := (s.bumpBy (O.rslIntervalCrcErrors + link) bad).setObj (O.rslLaneSkew + link) (clampInt (-260) 260 skew)
      let u := u.modRsl link fun x => x.interval (u.nat O.degradeWindow) bad skew
      let u := if (agrees = false ∨ 130 < (skew - r.skewAt).natAbs ∨ 260 < skew.natAbs) ∧ link % 3 ≠ 2
        then u.cutStream (2 * (link / 3) + link % 3) else u
      let u := if agrees then u else u.resync link body0 body1
      if u.nat O.degradeCrcLimit ≤ (u.rsl link).badIntervals.length ∧ u.nat (O.rslState + link) = 3 then
        (u.setNat (O.rslState + link) 4).raiseFault (64 + link) 1
      else u)) ∧
  (∀ link lock sweep headers skew intervals (s : State), s.nat (O.rslState + link) = 2 →
    (∀ p, bestPreset sweep (link % 3) = some p → 1000000 ≤ min (lock.getD 0 0) (lock.getD 1 0) → 64 ≤ min (headers.getD 0 0) (headers.getD 1 0) →
      skew.natAbs ≤ 260 → 16 ≤ intervals → exec (.linkTrainingEnd 0 link lock sweep headers skew intervals) s = .next (s.rslPassed link p skew)) ∧
    ((bestPreset sweep (link % 3) = none ∨ min (lock.getD 0 0) (lock.getD 1 0) < 1000000 ∨ min (headers.getD 0 0) (headers.getD 1 0) < 64 ∨
      260 < skew.natAbs ∨ intervals < 16) → exec (.linkTrainingEnd 0 link lock sweep headers skew intervals) s = .next (s.rslFailed link))) ∧
  (∀ link lock sweep headers skew intervals (c : List Nat) (s : State), s.nat (O.wrlState + link) = 2 → c = (s.wrl link).checks →
    (if (s.wrl link).testing = true then 2 else 10) ≤ c.length →
    exec (.linkTrainingEnd 1 link lock sweep headers skew intervals) s =
      .next (if c.getD (c.length - 1) 0 = c.getD (c.length - 2) 0 then s.wrlPassed link else s.wrlFailed link)) ∧
  (∀ link (s : State), s.nat (O.rslState + link) = 2 → (s.rsl link).trainingEnd ≤ s.tick → exec (.linkTrainingDeadline 0 link) s =
    .next ((s.deadlineMiss 6 44 link (s.rsl link).trainingEnd (2 ^ 64 - 1)).rslFailed link)) ∧
  (∀ link (s : State), s.nat (O.wrlState + link) = 2 → (s.wrl link).trainingEnd ≤ s.tick → exec (.linkTrainingDeadline 1 link) s =
    .next ((s.deadlineMiss 6 45 link (s.wrl link).trainingEnd (2 ^ 64 - 1)).wrlFailed link)) ∧
  (∀ link (s : State), s.nat (O.rslState + link) = 5 → s.nat O.sleepStateCurrent = 1 → s.rslsTrain (link / 3) = false →
    (s.rsl link).failedAt + 1000000 * s.nat O.failedRetryPeriod ≤ s.tick → exec (.failedLinkRetry 0 link) s =
    .next ((s.modRsl link fun r => { r with attempts := s.nat O.retrainAttempts - 1 }).retrainHead (link / 3) (some link))) ∧
  (∀ link (s : State), s.nat (O.wrlState + link) = 5 → s.nat O.sleepStateCurrent = 1 →
    (s.wrl link).failedAt + 1000000 * s.nat O.failedRetryPeriod ≤ s.tick → exec (.failedLinkRetry 1 link) s =
    .next ((s.modWrl link fun w => { w with attempts := s.nat O.retrainAttempts - 1 }).askWrl link)) ∧
  (∀ pcl (s : State), s.nat (O.pclState + pcl) = 5 → s.nat O.sleepStateCurrent = 1 →
    (s.pcl pcl).lastValid + 1000000 * s.nat O.failedRetryPeriod ≤ s.tick → exec (.failedLinkRetry 2 pcl) s =
    .next ((s.bringUp pcl).modPcl pcl fun c => { c with attempts := s.nat O.retrainAttempts - 1 })) ∧
  (∀ r (s : State), s.checkPut r O.preampAccessStart (.num 1 1) = none → s.nat O.preampRunState ≠ 1 →
    exec (.preampAccessRead r) s = .next ((s.preampRun false).emit (.dict r.code 0))) ∧
  (∀ r (s : State), s.checkPut r O.preampAccessStart (.num 1 2) = none → s.nat O.preampRunState ≠ 1 →
    exec (.preampAccessWrite r) s = .next ((s.preampRun true).emit (.dict r.code 0))) ∧
  (∀ r (s : State), s.checkPut r O.counterClear (.num 1 1) = none → exec (.linkCounterClear r) s = .next (State.emit (
    [(O.rslHeaderErrors, 72), (O.rslIntervalCrcErrors, 72), (O.rslErasedBlocks, 72), (O.rslRetrains, 72), (O.wrlArmMisses, 24),
      (O.wrlRetrains, 24), (O.pclCrcErrors, 8), (O.pclTimeouts, 8)].foldl
        (fun u p => u.each (List.range p.2) fun v i => v.setNat (p.1 + i) 0) s) (.dict r.code 0)))

/-- After an accepted LINK_COUNTER_CLEAR every counter of the reader, writer and control links reads 0, and every object that is not
such a counter reads as before. -/
def Obligations.LinkCounterClearZeroesCounters : Prop :=
  ∀ (r : Requester) (s : State), s.checkPut r O.counterClear (.num 1 1) = none → ∃ t, exec (.linkCounterClear r) s = .next t ∧
    (∀ i, i < 72 → t.nat (O.rslHeaderErrors + i) = 0 ∧ t.nat (O.rslIntervalCrcErrors + i) = 0 ∧ t.nat (O.rslErasedBlocks + i) = 0 ∧
      t.nat (O.rslRetrains + i) = 0) ∧
    (∀ i, i < 24 → t.nat (O.wrlArmMisses + i) = 0 ∧ t.nat (O.wrlRetrains + i) = 0) ∧
    (∀ i, i < 8 → t.nat (O.pclCrcErrors + i) = 0 ∧ t.nat (O.pclTimeouts + i) = 0) ∧
    (∀ k, (∀ b ∈ [O.rslHeaderErrors, O.rslIntervalCrcErrors, O.rslErasedBlocks, O.rslRetrains], ¬ (b ≤ k ∧ k < b + 72)) →
      (∀ b ∈ [O.wrlArmMisses, O.wrlRetrains], ¬ (b ≤ k ∧ k < b + 24)) → (∀ b ∈ [O.pclCrcErrors, O.pclTimeouts], ¬ (b ≤ k ∧ k < b + 8)) →
      t.obj k = s.obj k)

/-- A boundary latches a sample; its deadline marks the late ones; at the application instant the outputs that are ready take effect
and an actuator's CMD frame goes out; a MEAS frame that passes its checks is taken and one that does not is counted, a park failure
following where the coil is driven; the commutation angle is taken from the heads, late, or not at all; banks are checked; swaps of
coefficients and of microcode take effect; a health window ends with its reversion or without. -/
def Obligations.LoopSamplesRun : Prop :=
  (∀ slot sub (s : State), s.hasSlot slot = true → s.loopRuns slot = true → s.subTime sub % loopPeriod slot = 0 →
    (∀ x ∈ (s.loop slot).sample.toList ++ (s.loop slot).waiting, x.boundary ≠ s.subTime sub) →
    exec (.loopSampleBoundary slot sub) s = .next (s.latchSample slot (s.subTime sub))) ∧
  (∀ slot sub (due : LoopSample → Bool) (s : State), s.hasSlot slot = true → s.loopRuns slot = true →
    due = (fun x => decide (x.boundary + loopDeadline slot = s.subTime sub) && !x.late) →
    ((s.loop slot).sample.toList ++ (s.loop slot).waiting).any due = true →
    exec (.loopSampleDeadline slot sub) s = .next ((s.modLoop slot fun l => { l with
      sample := l.sample.map fun y => if due y = true then { y with late := true } else y
      waiting := l.waiting.map fun y => if due y = true then { y with late := true } else y }).markLate slot)) ∧
  (∀ slot sub (s : State), s.hasSlot slot = true → exec (.outputApplication slot sub) s = .next (
    let u := if ((s.loop slot).ready.any fun b => decide (b + loopApply slot = s.subTime sub)) = true then
        (s.loop slot).outputs.foldl (fun u o => u.applyOutput slot o) (s.modLoop slot fun l => { l with ready := none })
      else s
    if slot < 36 ∧ slot % 9 = 6 ∧ s.subTime sub % 500 = 300 then u.vcmFrame (slot / 9) else u)) ∧
  (∀ act (frame : Option Nat) (good : Bool) (u s : State), s.hasAct act = true → good = frame.any (s.measGood act) →
    u = (if good = true then s.modAct act fun x => { x with vcmFails := 0, vcmMeas :=
        if ((frame.getD 0 / 2 ^ 24 % 65536 : Nat) : Int) < 32768 then ((frame.getD 0 / 2 ^ 24 % 65536 : Nat) : Int)
        else ((frame.getD 0 / 2 ^ 24 % 65536 : Nat) : Int) - 65536 }
      else (s.bump (O.vcmFrameErrors + act)).modAct act fun x => { x with vcmFails := x.vcmFails + 1 }) →
    exec (.vcmMeasFrame act frame) s = .next (
      let drive := u.loopRuns (9 * act + 6) || decide ((u.act act).load = 4)
      if drive = true ∧ (3 ≤ (u.act act).vcmFails ∨ (good = true ∧ (frame.getD 0).testBit 16 = true)) ∧ u.nat (O.actuatorService + act) ≠ 3 then
        (((u.fenceAct act 2).bump (O.parkFailures + act)).raiseFault (240 + 8 * act + 1) 255).endFencedIo
      else if good = true ∧ (u.act act).load = 1 ∧ ¬ drive = true then u.startLoops act
      else u)) ∧
  (∀ sub due (s : State), due = s.spindle.angleDue.getD (s.subTime sub / 500 * 500) → due ≤ s.subTime sub →
    (medianAngle (s.angleHeads.map fun h => s.headTheta h (s.subTime sub - due)) = none → exec (.commutationAngleUpdate sub) s = .next (
      let u := s.advanceAngle.modSpindle fun x => { x with headAngle := false, angleDue := none }
      if u.nat O.spindleState = 7 then u.flywheel else u)) ∧
    (∀ t, medianAngle (s.angleHeads.map fun h => s.headTheta h (s.subTime sub - due)) = some t → s.subTime sub ≤ due + 404 →
      exec (.commutationAngleUpdate sub) s = .next ((s.modSpindle fun x => { x with
        angleDue := some (max (due + 500) (s.subTime sub / 500 * 500)) }).modSpindle fun x => { x with
          theta := t / 4, headAngle := true, angleMisses := 0 })) ∧
    (∀ t, medianAngle (s.angleHeads.map fun h => s.headTheta h (s.subTime sub - due)) = some t → due + 404 < s.subTime sub →
      exec (.commutationAngleUpdate sub) s = .next (
        let u := ((s.modSpindle fun x => { x with angleDue := some (max (due + 500) (s.subTime sub / 500 * 500)) }).advanceAngle.modSpindle
          fun x => { x with angleMisses := x.angleMisses + 1 }).deadlineMiss 3 41 0 ((due + 404) / 120) (s.subTime sub / 120)
        if u.nat O.spindleState = 7 ∧ 24 ≤ u.spindle.angleMisses then u.flywheel else u))) ∧
  (∀ sub found (s : State), s.rafter.checkedAt + 1024 * 16000 ≤ s.subTime sub →
    exec (.bankIntegrityCheck sub found) s = .next (s.checkBanks (s.subTime sub) found)) ∧
  (∀ slot sub b m g due (s : State), (s.loop slot).pending = some (b, m, g, due) → due = s.subTime sub →
    exec (.coefSwapTakeEffect slot sub) s = .next (s.takeSwaps (s.subTime sub))) ∧
  (∀ sub t (s : State), s.rafter.swapAt = some t → t < s.subTime sub → s.subTime sub % 16000 = 0 →
    exec (.microcodeSwap sub) s = .next (s.changeMicrocode (s.subTime sub) ((s.fwSlot (3 - s.fw.active)).image 4))) ∧
  (∀ sub (s : State), s.rafter.health ≠ 0 →
    (s.rafter.microSwap = false → s.rafter.health ≤ s.subTime sub → exec (.microcodeHealthWindowEnd sub) s = .next s.endHealth) ∧
    (s.rafter.microSwap = true → s.subTime sub % 16000 = 0 → exec (.microcodeHealthWindowEnd sub) s = .next (
      if s.revertMicrocode.fw.phase = 4 ∧ s.revertMicrocode.fw.steps.head? = some 4 then s.revertMicrocode.failStep false
      else s.revertMicrocode)))

/-- Where the next word of a running loop's sample is admitted and is the instruction, and the lane has reached the loop: NOP, IN,
OUT, MOV, ADD, SUB, MUL, MAC, SEL and ENDS each have the effect of their definition, on the state whose sample has moved to the word
after it. -/
def Obligations.MicrocodeArithmeticRuns : Prop :=
  ∀ (slot : Nat) (x : LoopSample) (w : Nat) (s u : State), s.hasSlot slot = true → s.loopRuns slot = true → (s.loop slot).sample = some x →
    s.laneFree slot x = true → w = s.fetched x → wordAdmitted slot w = true →
    u = s.modLoop slot (fun l => { l with sample := some { x with pc := x.pc + 1 } }) →
    (wordIs w 0 [] = true → exec (.mcNop slot) s = .next u) ∧
    (∀ sub, wordIs w 14 [] = true → exec (.mcEnds slot sub) s = .next (u.endSample slot sub x)) ∧
    (∀ dst imm shift round sat, wordIs w 1 (nodeFields (some dst) none none ++ resultFields shift round sat ++ [(0, 12, imm)]) = true →
      exec (.mcIn slot dst imm shift round sat) s = .next (u.writeNode slot dst (toAcc (memWord x.latched imm)) shift round sat)) ∧
    (∀ a imm, wordIs w 2 (nodeFields none (some a) none ++ [(0, 12, imm)]) = true →
      exec (.mcOut slot a imm) s = .next (u.modLoop slot fun l => { l with outputs := putKey l.outputs imm (u.node slot a) })) ∧
    (∀ dst a shift round sat, wordIs w 3 (nodeFields (some dst) (some a) none ++ resultFields shift round sat) = true →
      exec (.mcMov slot dst a shift round sat) s = .next (u.writeNode slot dst (toAcc (u.node slot a)) shift round sat)) ∧
    (∀ dst a b shift round sat, wordIs w 4 (nodeFields (some dst) (some a) (some b) ++ resultFields shift round sat) = true →
      exec (.mcAdd slot dst a b shift round sat) s =
        .next (u.writeNode slot dst (accAdd (toAcc (u.node slot a)) (toAcc (u.node slot b))) shift round sat)) ∧
    (∀ dst a b shift round sat, wordIs w 5 (nodeFields (some dst) (some a) (some b) ++ resultFields shift round sat) = true →
      exec (.mcSub slot dst a b shift round sat) s =
        .next (u.writeNode slot dst (accAdd (toAcc (u.node slot a)) (-(toAcc (u.node slot b)))) shift round sat)) ∧
    (∀ dst a c shift round sat, wordIs w 6 (nodeFields (some dst) (some a) none ++ memoryFields c none none ++
        resultFields shift round sat) = true → exec (.mcMul slot dst a c shift round sat) s =
      .next (u.writeNode slot dst (accAdd 0 (nodeProduct (u.node slot a) (u.coef slot x c))) shift round sat)) ∧
    (∀ dst a b c shift round sat, wordIs w 7 (nodeFields (some dst) (some a) (some b) ++ memoryFields c none none ++
        resultFields shift round sat) = true → exec (.mcMac slot dst a b c shift round sat) s = .next (u.writeNode slot dst
      (accAdd (toAcc (u.node slot b)) (nodeProduct (u.node slot a) (u.coef slot x c))) shift round sat)) ∧
    (∀ dst a b imm shift round sat, wordIs w 12 (nodeFields (some dst) (some a) (some b) ++ resultFields shift round sat ++
        [(0, 12, imm)]) = true → exec (.mcSel slot dst a b imm shift round sat) s = .next (u.writeNode slot dst
      (toAcc (if 0 ≤ u.node slot (imm % 64) then u.node slot a else u.node slot b)) shift round sat))

/-- Where the next word of a running loop's sample is the instruction, and the lane has reached the loop: an admitted BIQ, SSB, LIM,
INT or LUT has the effect of its definition, on the state whose sample has moved to the word after it; an instruction whose word is
not admitted stops by name. -/
def Obligations.MicrocodeFiltersRun : Prop :=
  ∀ (slot : Nat) (x : LoopSample) (w : Nat) (s u : State), s.hasSlot slot = true → s.loopRuns slot = true → (s.loop slot).sample = some x →
    s.laneFree slot x = true → w = s.fetched x → u = s.modLoop slot (fun l => { l with sample := some { x with pc := x.pc + 1 } }) →
    (∀ dst a c base n shift round sat, wordAdmitted slot w = true → wordIs w 8 (nodeFields (some dst) (some a) none ++
        memoryFields c (some base) (some n) ++ resultFields shift round sat) = true →
      exec (.mcBiq slot dst a c base n shift round sat) s = .next (
        let p := (List.range n).foldl (fun (p : Int × State) k => p.2.biquad slot x (c + 5 * k) (base + 2 * k) p.1) (toAcc (u.node slot a), u)
        p.2.writeNode slot dst p.1 shift round sat)) ∧
    (∀ dst a c base imm n m p shift round sat, wordAdmitted slot w = true → wordIs w 9 (nodeFields (some dst) (some a) none ++
        memoryFields c (some base) none ++ resultFields shift round sat ++ [(0, 12, imm)]) = true →
      n = imm / 512 % 8 + 1 → m = imm / 64 % 8 + 1 → p = imm / 8 % 8 + 1 →
      exec (.mcSsb slot dst a c base imm shift round sat) s = .next (
        let row (first width i : Nat) : List Int := (List.range width).map fun j => u.coef slot x (first + i * width + j)
        let xs := (List.range n).map fun i => u.stateWord slot (base + i)
        let us := (List.range m).map fun i => u.node slot (a + i)
        let ys := (List.range p).map fun i => rowSum (row (c + n * n + n * m) n i) (row (c + n * n + n * m + p * n) m i) xs us
        let next := (List.range n).map fun i => rowSum (row c n i) (row (c + n * n) m i) xs us
        ys.zipIdx.foldl (fun (t : State) v => t.writeNode slot (dst + v.2) v.1 shift round sat)
          (next.zipIdx.foldl (fun (t : State) v => t.setStateWord slot (base + v.2) v.1) u))) ∧
    (∀ dst a c shift round sat, wordAdmitted slot w = true → wordIs w 10 (nodeFields (some dst) (some a) none ++
        memoryFields c none none ++ resultFields shift round sat) = true →
      exec (.mcLim slot dst a c shift round sat) s = .next (
        let p := u.clampFree (toAcc (u.coef slot x c)) (toAcc (u.coef slot x (c + 1))) (toAcc (u.node slot a))
        p.2.writeNode slot dst p.1 shift round sat)) ∧
    (∀ dst a c base shift round sat, wordAdmitted slot w = true → wordIs w 11 (nodeFields (some dst) (some a) none ++
        memoryFields c (some base) none ++ resultFields shift round sat) = true →
      exec (.mcInt slot dst a c base shift round sat) s = .next (
        let p := u.clampFree (toAcc (u.coef slot x (c + 1))) (toAcc (u.coef slot x (c + 2)))
          (accAdd (u.stateWord slot base) (nodeProduct (u.node slot a) (u.coef slot x c)))
        (p.2.setStateWord slot base p.1).writeNode slot dst p.1 shift round sat)) ∧
    (∀ dst a c n shift round sat, wordAdmitted slot w = true → wordIs w 13 (nodeFields (some dst) (some a) none ++
        memoryFields c none (some n) ++ resultFields shift round sat) = true →
      exec (.mcLut slot dst a c n shift round sat) s = .next (
        match lutValue (u.node slot a) ((List.range (n + 1)).map fun i => (u.coef slot x (c + i), u.coef slot x (c + n + 1 + i))) with
        | some v => u.writeNode slot dst v shift round sat
        | none => u.takeFree.2.writeNode slot dst ((u.takeFree.1 % 2 ^ 48 : Nat) - (2 ^ 47 : Int)) shift round sat)) ∧
    (∀ dst a shift round sat, wordAdmitted slot w = false → wordIs w 3 (nodeFields (some dst) (some a) none ++
        resultFields shift round sat) = true → exec (.mcMov slot dst a shift round sat) s = .fault .reservedMicrocode) ∧
    (∀ dst imm shift round sat, wordAdmitted slot w = false → wordIs w 1 (nodeFields (some dst) none none ++ resultFields shift round sat ++
        [(0, 12, imm)]) = true → exec (.mcIn slot dst imm shift round sat) s = .fault .reservedMicrocode)

/-- An accepted write claims or releases a loop, opens and fills its inactive bank, seals it, requests a swap of one or a group,
clears the statistics, or arms, fires or stops the trace. -/
def Obligations.CoefficientCommandsRun : Prop :=
  ∀ (r : Requester) (s : State),
    (s.checkPut r O.coefClaim (.num 1 1) = none → s.hasSlot s.coefSlot = true → s.claimedElsewhere r = false → exec (.coefClaim r) s =
      .next (((s.setNat (O.loopClaim + s.coefSlot) r.code).setNat O.coefClaim 1).emit (.dict r.code 0))) ∧
    (s.checkPut r O.coefClaim (.num 1 0) = none → s.hasSlot s.coefSlot = true → s.claimedElsewhere r = false → exec (.coefRelease r) s =
      .next (((s.setNat (O.loopClaim + s.coefSlot) 0).setNat O.coefClaim 0).emit (.dict r.code 0))) ∧
    (s.checkPut r O.coefCopyActive (.num 1 1) = none → s.bankOpenTo r = true → exec (.coefCopyActive r) s =
      .next ((s.openBank s.coefSlot ((s.loop s.coefSlot).bank (s.activeBank s.coefSlot))).emit (.dict r.code 0))) ∧
    (∀ value, s.checkPut r O.coefValue (.num 4 value) = none → s.bankOpenTo r = true → exec (.coefValueWrite r value) s =
      .next ((s.openBank s.coefSlot (putKey (s.inactive s.coefSlot) (s.nat O.coefIndex) value)).emit (.dict r.code 0))) ∧
    (s.checkPut r O.coefSeal (.num 1 1) = none → s.bankOpenTo r = true → exec (.coefSeal r) s =
      .next ((s.sealBank s.coefSlot).emit (.dict r.code 0))) ∧
    (∀ image, s.checkPut r O.inactiveImage (.bytes image) = none → image.headD 0 = s.coefSlot → image.getD 3 0 = 0 → s.bankOpenTo r = true →
      exec (.inactiveImageWrite r image) s = .next ((s.openBank s.coefSlot ((List.range 256).map fun i =>
        (i, signedLe ((image.drop (8 + 4 * i)).take 4)))).emit (.dict r.code 0))) ∧
    (∀ sub mask, s.checkPut r O.swapRequest (.num 8 (mask : Nat)) = none → s.nat O.swapRunState ≠ 1 → s.hasSlot s.coefSlot = true →
      s.nat (O.loopClaim + s.coefSlot) = r.code → s.nat (O.loopBankState + s.coefSlot) = 1 → s.nat (O.loopSwapGroup + s.coefSlot) = 0 →
      s.nat O.updateState ≠ 3 → s.sealHolds s.coefSlot = true → exec (.swapRequest r sub mask) s =
        .next ((((s.startRun O.swapRunState).setNat O.swapRunTarget s.coefSlot).acceptSwap (s.subTime sub) mask r.code 0 [s.coefSlot]).emit
          (.dict r.code 0))) ∧
    (∀ sub group, s.checkPut r O.groupSwapRequest (.num 1 (group : Nat)) = none → s.nat O.swapRunState ≠ 1 → s.groupMembers group ≠ [] →
      s.nat O.updateState ≠ 3 → (∀ n ∈ s.groupMembers group, s.nat (O.loopClaim + n) = r.code ∧ s.nat (O.loopBankState + n) = 1 ∧
        s.sealHolds n = true) → exec (.groupSwapRequest r sub group) s =
        .next ((((s.startRun O.swapRunState).setNat O.swapRunTarget (0x40 + group)).acceptSwap (s.subTime sub) 0 r.code group
          (s.groupMembers group)).emit (.dict r.code 0))) ∧
    (s.checkPut r O.statsClear (.num 1 1) = none → exec (.rafterStatsClear r) s = .next ((s.each (List.range 37) fun u n =>
      ((u.setNat (O.loopLateSamples + n) 0).setObj (O.loopMinSlack + n) 32767).setNat (O.loopSaturations + n) 0).emit (.dict r.code 0))) ∧
    (s.checkPut r O.traceCommand (.num 1 1) = none → exec (.traceArm r) s = .next ((({ s with rafter := { s.rafter with
      channels := List.replicate 8 {}, traceRead := 0 } } : State).setNat O.traceState 1).emit (.dict r.code 0))) ∧
    (s.checkPut r O.traceCommand (.num 1 2) = none → exec (.traceTrigger r) s = .next (s.fireTrace.emit (.dict r.code 0))) ∧
    (s.checkPut r O.traceCommand (.num 1 3) = none → exec (.traceStop r) s = .next ((s.setNat O.traceState 3).emit (.dict r.code 0)))

/-- Where the selected loop's claim is another requester's, the writes that open, fill or seal its inactive bank change nothing: the
value's, the copy's and the seal's write is refused. -/
def Obligations.BanksOpenToClaimantOnly : Prop :=
  ∀ (r : Requester) (s : State), s.nat (O.loopClaim + s.coefSlot) ≠ r.code →
    (∀ value t, exec (.coefValueWrite r value) s = .next t → { t with outbox := s.outbox } = s) ∧
    (∀ t, exec (.coefCopyActive r) s = .next t → { t with outbox := s.outbox } = s) ∧
    (∀ t, exec (.coefSeal r) s = .next t → { t with outbox := s.outbox } = s)

/-- A spin-up is asked for, its token granted or timed out, its slot delay ended; a surge that fits is granted and one whose hold is
over returned; the chopper test is judged by its current; the rotor's angle is followed, resolved or given up and its polarity told;
a locked rotor, a start over its time and a failed attempt are treated; Failed is left. -/
def Obligations.SpinUpCommandsRun : Prop :=
  (∀ s : State, s.spindle.powerLost = false → exec .spinUpRequest s = .next s.requestSpinUp) ∧
  (∀ r (s : State), s.checkPut r O.spinUpTokenGrant (.num 1 1) = none → s.nat O.spinUpTokenState = 1 →
    exec (.spinUpTokenGrant r) s = .next (((s.setNat O.spinUpTokenState 2).spinUpSurge).emit (.dict r.code 0))) ∧
  (∀ s : State, s.nat O.spinUpTokenState = 1 → s.spindle.tokenAt + 1000000 * s.nat O.spinUpTokenWait ≤ s.tick → exec .spinUpTokenTimeout s =
    .next ((s.setNat O.spinUpTokenState 4).modSpindle fun x => { x with
      slotDelayEnd := some (s.tick + 1000 * s.nat O.spinUpSlotUnit * s.mb.nodeId) })) ∧
  (∀ t (s : State), s.spindle.slotDelayEnd = some t → t ≤ s.tick → s.nat O.spindleState = 1 → exec .spinUpSlotDelayEnd s =
    .next (((s.modSpindle fun x => { x with slotDelayEnd := none }).note 0x12 0 [s.mb.nodeId]).spinUpSurge)) ∧
  (∀ (g : Surge) rest (s : State), s.power.queue = g :: rest → s.surgeSum + g.units ≤ s.nat O.surgeBudget → exec .surgeGrant s =
    .next (({ s with power := { s.power with queue := rest, granted := g :: s.power.granted } } : State).afterGrant g)) ∧
  (∀ priority item (s : State), s.surgeGranted? priority item = true → s.holdOver priority item = true →
    exec (.surgeReturn priority item) s = .next (State.grantFront (
      let u := s.returnSurge priority item
      if priority = 3 then { u with power := { u.power with surgeReturnAt := none } } else u.modHead item fun x => { x with heaterAck := none }))) ∧
  (∀ chs (s u : State), s.nat O.spindleState = 1 → s.spindle.chopper = true → s.surgeGranted? 1 0 = true → s.spindle.chopperAt + 50 ≤ s.tick →
    u = s.modSpindle (fun x => { x with chopper := false }) → exec (.chopperTestEnd chs) s = .next (State.listen (
      if u.nat O.chopperMinCurrent ≤ u.chopperMa chs then (u.setNat O.chopperState 0).endCondition 277
      else (u.setNat O.chopperState 1).raiseFault 277 0))) ∧
  (∀ ratio angle t a (s : State), s.nat O.spindleState = 3 → s.spindle.phase = 0 → s.tick ≤ s.spindle.phaseStart + 30000 →
    s.spindle.resolving = some (t, a) →
    ((angle % 65536 + 65536 + 910 - a) % 65536 ≤ 1820 → s.nat O.saliencyMinRatio ≤ ratio → t + 10000 ≤ s.tick →
      exec (.rotorAngleResolved ratio angle) s = .next (s.modSpindle fun x => { x with
        phase := 1, phaseStart := s.tick, startAngle := angle % 65536, resolving := none })) ∧
    (1820 < (angle % 65536 + 65536 + 910 - a) % 65536 → exec (.rotorAngleResolved ratio angle) s =
      .next (s.modSpindle fun x => { x with resolving := some (s.tick, angle % 65536) }))) ∧
  (∀ s : State, s.nat O.spindleState = 3 → s.spindle.phase = 0 → s.spindle.phaseStart + 30000 < s.tick →
    exec .resolveTimeout s = .next (s.failAttempt false)) ∧
  (∀ plus minus (s : State) (p : Nat × State), s.nat O.spindleState = 3 → s.spindle.phase = 1 → s.spindle.phaseStart + 1000 ≤ s.tick →
    p = (if plus = minus then s.takeFree else (if plus < minus then 1 else 0, s)) → exec (.polarityPulsesEnd plus minus) s =
    .next (p.2.modSpindle fun x => { x with
      phase := 2, phaseStart := p.2.tick, lastEvent := p.2.tick, startAngle := (x.startAngle + 32768 * (p.1 % 2)) % 65536
      step := stepOf ((x.startAngle + 32768 * (p.1 % 2)) % 65536), accepted := false, events := [], commutedAt := p.2.subTime 0 })) ∧
  (∀ s : State, s.nat O.spindleState = 3 ∨ s.nat O.spindleState = 7 → s.nat O.lockedRotorTimeout * 60000000000 ≤
    (s.tick - s.spindle.lastEvent) * max s.spindle.mrpm (20 * s.nat O.spindleNominalRpm) * s.nat O.polePairs →
    exec .lockedRotorTimeout s = .next (s.failAttempt true)) ∧
  (∀ s : State, s.nat O.spindleState = 12 → s.spindle.retryAt ≤ s.tick → s.spindle.powerLost = false →
    exec .lockedRotorRetry s = .next s.spinUpSurge) ∧
  (∀ s : State, s.spindle.starting = true → s.spindle.spinUpStart + 1000000 * s.nat O.spinUpTimeLimit ≤ s.tick → s.spindle.powerLost = false →
    exec .spinUpTimeLimit s = .next (s.failAttempt false)) ∧
  (∀ r (s : State), s.checkPut r O.spindleRetry (.num 1 1) = none → exec (.spindleRetry r) s = .next (s.leaveFailed.emit (.dict r.code 0)))

/-- When Listening ends after its 20 ms, crossings seen on all three phases that give a speed at or above HandoverSpeed leave the
engine Accelerating; without them, or below that speed, it is in InjectionStart. The step stays the last crossing's, from whose
instant the next is predicted. -/
def Obligations.ListeningEndsInItsState : Prop :=
  ∀ s : State, s.nat O.spindleState = 2 → s.spindle.spinUpStart + 20000 ≤ s.tick →
    ∃ t, exec .listeningEnd s = .next t ∧ t.spindle.step = s.spindle.step ∧ t.spindle.crossNext = s.spindle.crossAt ∧
      t.nat O.spindleState = (if s.spindle.seen.contains 0 = true ∧ s.spindle.seen.contains 1 = true ∧ s.spindle.seen.contains 2 = true ∧
        s.nat O.handoverSpeed * s.nat O.spindleNominalRpm * 10 ≤ s.measuredSpeed then 4 else 3)

/-- Two samples that straddle a crossing give its instant, which six-step accepts inside its window and away from slopes and ignores
otherwise, injection and the clock angle count towards a hand-over, and a rotor that runs free gives its speed by; a commutation
instant moves the step on, in six-step at its instant and with a miss counted where none was accepted; at a major frame the speed is
taken and each state of the drive judges it; the flywheel and a coast end, an overcurrent trips, and a zone table's other speed is
taken. -/
def Obligations.SpindleRunningCommandsRun : Prop :=
  (∀ phase v0 v1 sub tracked t step (s : State), s.crossingAt v0 v1 (s.subTime sub) = some t → step = crossingStep (phase % 3) (decide (v0 < 0)) →
    (s.sixStep = true → exec (.backEmfCrossing phase v0 v1 sub tracked) s = .next (
      if step ≠ s.spindle.step ∨ s.spindle.accepted = true ∨ s.blanked t = true ∨ ¬ s.nearCrossing t (2 * s.nat O.zcWindow) = true then s
      else ((s.acceptCrossing t).modSpindle fun x => { x with lastEvent := s.tick }).learnOffset step)) ∧
    (s.sixStep = false → s.nat O.spindleState = 3 → s.spindle.phase = 2 → exec (.backEmfCrossing phase v0 v1 sub tracked) s = .next (
      s.agreeCrossing t (decide (60 * (crossingDistance tracked).natAbs ≤ s.nat O.zcWindow * 65536)) (s.atLeast (s.nat O.handoverSpeed))
        (s.nat O.handoverCrossings))) ∧
    (s.sixStep = false → s.nat O.spindleState = 7 → exec (.backEmfCrossing phase v0 v1 sub tracked) s = .next (
      if s.nat O.floatWindow * 65536 < 120 * (crossingDistance s.clockElectrical).natAbs then s
      else (s.agreeCrossing t (decide (60 * (crossingDistance s.clockElectrical).natAbs ≤ s.nat O.zcWindow * 65536)) true
        (s.nat O.reacquireCrossings)).learnOffset step)) ∧
    (s.sixStep = false → s.nat O.spindleState = 8 → exec (.backEmfCrossing phase v0 v1 sub tracked) s = .next (
      if ¬ s.nearCrossing t (s.nat O.floatWindow) = true then s
      else s.agreeCrossing t (s.nearCrossing t (2 * s.nat O.zcWindow)) true (s.nat O.reacquireCrossings))) ∧
    (s.sixStep = false → (s.nat O.spindleState = 2 ∨ s.nat O.spindleState = 9 ∨ s.nat O.spindleState = 11) →
      exec (.backEmfCrossing phase v0 v1 sub tracked) s = .next (
        ((if s.nat O.spindleState = 2 then s.setNat O.angleSource 1 else s).noteEvent t).modSpindle fun x => { x with
          step := step, crossAt := t, seen := if x.seen.contains (phase % 3) = true then x.seen else (phase % 3) :: x.seen }))) ∧
  (∀ sub tracked (s : State), s.spindle.gates = true →
    (s.nat O.spindleState = 3 → s.spindle.phase = 2 → stepOf (tracked % 65536) ≠ s.spindle.step →
      exec (.commutationInstant sub tracked) s = .next (
        let u := s.commute (s.subTime sub) (stepOf (tracked % 65536))
        if s.spindle.takeOver = true then
          (u.modSpindle fun x => { x with
            takeOver := false, misses := 0, errorRun := 0, stepTime := u.stepAt u.measuredSpeed
            crossNext := x.crossAt + u.stepAt u.measuredSpeed }).spindleEnter 4
        else u)) ∧
    (s.nat O.spindleState ≠ 3 → s.onClock = true → stepOf s.clockElectrical ≠ s.spindle.step →
      exec (.commutationInstant sub tracked) s = .next (
        let u := s.commute (s.subTime sub) (stepOf s.clockElectrical)
        if s.nat O.spindleState = 7 ∧ u.spindle.takeOver = true then u.resume else u)) ∧
    (s.nat O.spindleState = 8 → s.onClock = false → s.spindle.commutedAt + s.spindle.stepTime ≤ s.subTime sub →
      exec (.commutationInstant sub tracked) s = .next (
        let u := (s.commute (s.subTime sub) ((s.spindle.step + 1) % 6)).modSpindle fun x => { x with flySteps := x.flySteps + 1 }
        if u.spindle.takeOver = true then u.resume else u)) ∧
    (s.nat O.spindleState ≠ 3 → s.nat O.spindleState ≠ 8 → s.onClock = false → s.sixStep = true → s.commuteAt ≤ s.subTime sub →
      exec (.commutationInstant sub tracked) s = .next (
        let u := (s.commute (s.subTime sub) ((s.spindle.step + 1) % 6)).modSpindle fun x => { x with
          misses := if (!s.spindle.accepted) = true then x.misses + 1 else 0 }
        if u.nat O.zcMissLimit ≤ u.spindle.misses then u.loseRotor else u))) ∧
  (∀ s : State, s.nat O.spindleState = 8 → 6 * s.nat O.flywheelCycles ≤ s.spindle.flySteps → exec .flywheelCyclesEnd s = .next (
    if ¬ s.allParked = true then s.safeParkAll 5 else if s.spindle.powerLost = true then s.startBrake 1 else s.coast)) ∧
  (∀ weak (s : State), s.nat O.spindleState = 9 → s.spindle.coastForStop = false → s.spindle.powerLost = false → s.surgeQueued? 1 0 = false →
    (weak = true ∨ s.atLeast (s.nat O.injectionSpeedLimit) = false ∨ s.spindle.coastStart + 1000000 * s.nat O.maxCoastTime ≤ s.tick) →
    exec (.coastEnd weak) s = .next (
      if (s.bump O.coastRestarts).surgeGranted? 1 0 = true then (s.bump O.coastRestarts).listen else (s.bump O.coastRestarts).spinUpSurge)) ∧
  (∀ shunt (s : State), s.overcurrentAt < shunt → s.spindle.gates = true → exec (.overcurrentTrip shunt) s = .next (
    if (s.raiseFault 272 0).spindle.starting = true then (s.raiseFault 272 0).failAttempt false
    else if s.nat O.spindleState = 11 then (s.raiseFault 272 0).brakeIn 2
    else if (s.raiseFault 272 0).spindle.powerLost = true then (s.raiseFault 272 0).loseToCoast
    else (s.raiseFault 272 0).loseToCoast.countFailure false)) ∧
  (∀ (z : ZoneTable) rest (s : State), s.layout.tables = z :: rest → z.nominalRpm ≠ s.nat O.spindleNominalRpm → s.nat O.spindleState = 5 →
    exec .zoneTableRpmChange s = .next (
      if ¬ s.allParked = true then
        s.each (List.range s.actCount) fun w a => if (w.act a).load = 1 ∨ (w.act a).load = 2 then w.startUnload a true else w
      else (((s.setNat O.spindleNominalRpm z.nominalRpm).note 0x11 0 [s.nat O.spindleNominalRpm, z.nominalRpm]).modSpindle fun x =>
        { x with errorRun := 0 }).spindleEnter (if s.nat O.spindleNominalRpm < z.nominalRpm then 4 else 6))) ∧
  (∀ sub speed (s v u : State), s.subTime sub % 16000 = 0 → speed = (match s.spindle.frameTheta, s.spindle.headAngle with
      | some t, true => clockSpeed t s.spindle.theta
      | _, _ => s.measuredSpeed) →
    v = (s.setSpeed speed).modSpindle (fun x => { x with frameTheta := if x.headAngle = true then some x.theta else none }) →
    u = (if v.atLeast (v.nat O.flySpeedMin) = true then v else v.safeParkAll 5).frameSetPoint →
    exec (.speedErrorCheck sub) s = .next (
      let error := ((speed : Int) - u.speedTarget).natAbs
      if u.nat O.spindleState = 3 then
        if u.spindle.phase = 2 ∧ u.atLeast (u.nat O.injectionSpeedLimit) = true ∧ ¬ u.spindle.takeOver = true then u.failAttempt false else u
      else if u.nat O.spindleState = 5 then
        if error * 1000000 ≤ 1000 * u.speedTarget then u
        else (u.modSpindle fun x => { x with errorRun := 0 }).spindleEnter (if speed < u.speedTarget then 4 else 6)
      else if (u.nat O.spindleState = 4 ∨ u.nat O.spindleState = 6) ∧ ¬ u.spindle.slow = true then
        if error * 1000000 ≤ 500 * u.speedTarget then
          if 64 ≤ u.spindle.errorRun + 1 then u.reachSpeed else u.modSpindle fun x => { x with errorRun := x.errorRun + 1 }
        else
          let w := u.modSpindle fun x => { x with errorRun := 0 }
          if error * 1000000 ≤ 1000 * u.speedTarget then w
          else if u.nat O.spindleState = 4 ∧ u.speedTarget < speed then w.spindleEnter 6
          else if u.nat O.spindleState = 6 ∧ speed < u.speedTarget then w.spindleEnter 4
          else w
      else u))

/-- A PWM period takes a spin-up that waits, starts or withholds a zero-vector pulse by OV1, holds the low sides on, or switches the
gates by the state of the drive; a bus above OV2 turns the gates off; a chopper fault is declared; braking ends below its speed and
without a crossing; the sine table is written or restored. -/
def Obligations.BrakingCommandsRun : Prop :=
  (∀ sub tracked modulation shunt1 shunt2 (below : Bool) first second (s : State), first = s.shuntMa shunt1 → second = s.shuntMa shunt2 →
    below = decide (s.spindle.busSample * 100 < s.nat O.busNominal * (100 + s.nat O.ov1Percent)) →
    exec (.pwmPeriod sub tracked modulation shunt1 shunt2) s = .next (
      if s.spindle.restart = true then s.listen
      else if s.nat O.spindleState = 11 ∧ s.nat O.brakePhase = 3 then (if below = true then (s.brakeIn 2).zeroVector true first else s)
      else if s.nat O.spindleState = 11 ∧ s.nat O.brakePhase = 2 then s.zeroVector below first
      else if s.nat O.spindleState = 11 ∧ s.nat O.brakePhase = 4 then s.emit lowSidesOn
      else if ¬ s.spindle.gates = true then s
      else if s.nat O.spindleState = 3 then s.injectPeriod tracked (min modulation 65536) first second
      else if s.onClock = true then s.drivePeriod (s.sineLegs s.clockElectrical (min modulation 65536)) first second
      else if s.nat O.spindleState = 8 then
        s.drivePeriod (s.sineLegs (s.stepAngle (s.subTime sub)) (min modulation 65536)) first second
      else if s.sixStep = true then s.drivePeriod (s.sixLegs (s.subTime sub) (min modulation 65536)) first second
      else s)) ∧
  (∀ bus (s u : State), s.nat O.busNominal * (100 + s.nat O.ov2Percent) < inputMv bus * 100 →
    u = (s.modSpindle fun x => { x with
      busSample := inputMv bus, gates := false, chopper := false, zeroPulse := false, lowSides := false }).raiseFault 278 0 →
    exec (.busOvervoltageOv2 bus) s = .next (
      if s.nat O.spindleState = 11 then (u.brakeIn 3).brakeEvent 4
      else if s.nat O.spindleState = 0 ∨ s.nat O.spindleState = 1 ∨ s.nat O.spindleState = 12 ∨ s.nat O.spindleState = 13 then u
      else u.noteLoss.loseToCoast)) ∧
  (∀ s : State, s.nat O.spindleState = 11 → s.spindle.chopper = true →
    ((s.nat O.busNominal * (100 + s.nat O.ov1Percent) < s.spindle.busSample * 100 ∧ s.spindle.chopperCurrent < s.nat O.chopperMinCurrent) ∨
      s.nat O.chopperRiseSamples ≤ s.spindle.busRise) →
    exec .chopperFaultDeclare s = .next s.chopperFault) ∧
  (∀ s : State, s.nat O.spindleState = 11 → s.nat O.brakePhase ≠ 4 → s.atLeast (s.nat O.brakeEndSpeed) = false →
    exec .brakeEndSpeed s = .next (s.brakeIn 4)) ∧
  (∀ s : State, s.spindle.lastEvent + 1000000 ≤ s.tick →
    (s.nat O.spindleState = 11 ∧ s.nat O.brakePhase = 4) ∨ (s.nat O.spindleState = 9 ∧ s.spindle.coastForStop = true) →
    exec .brakeNoCrossingTimeout s = .next s.stopped) ∧
  (∀ r (s : State), s.checkPut r O.sineTableRestore (.num 1 1) = none →
    exec (.sineTableRestore r) s = .next ((s.modSpindle fun x => { x with sine := [] }).emit (.dict r.code 0))) ∧
  (∀ r table (s : State), s.checkPut r O.sineTable (.bytes table) = none → s.sineUsed = false →
    (∀ i, i < 1024 → ofLe ((table.drop (2 * i)).take 2) ≤ 4095) →
    exec (.sineTableWrite r table) s = .next ((s.modSpindle fun x => { x with sine := table }).emit (.dict r.code 0)))

/-- A level request that no later one supersedes, and a step, begin as the target asks; an accepting AVSBus answer in its time
starts the settling time, asks for the next voltage or ends a restoration, and any other counts as a timeout; a settled change takes
the level in or ends; a retry reads the rail back; the interface restarts; the thermal check steps its limit and the critical limit
parks; a measurement is judged by its level's plan; the margin records are closed and judged. -/
def Obligations.LevelCommandsRun : Prop :=
  (∀ r level (s : State), s.checkPut r O.performanceLevelRequest (.num 1 (level : Nat)) = none → exec (.levelRequestWrite r level) s =
    .next (State.emit (if s.superseded r O.performanceLevelRequest = true then s
      else ((s.noteMode r O.performanceLevelRequest).setNat O.performanceLevelRequest level).startLevelStep) (.dict r.code 0))) ∧
  (∀ s : State, s.power.stepKind = 0 → s.levelHeld = false →
    (s.nat O.performanceLevelCurrent < s.levelTarget → s.nat O.avsState ≠ 3 → exec .levelStep s = .next (({ s with power := { s.power with
      stepKind := 1, stepTarget := s.nat O.performanceLevelCurrent + 1, stepWait := 1 } } : State).requestSurge 3 0 (s.nat O.levelSurge))) ∧
    (s.levelTarget < s.nat O.performanceLevelCurrent → exec .levelStep s = .next (
      let u := ({ s with power := { s.power with stepKind := 2, stepTarget := s.nat O.performanceLevelCurrent - 1, stepWait := 5 } } :
        State).admitStreams (s.nat O.performanceLevelCurrent - 1)
      if u.admissionWaits = true then u else u.lowerCeiling))) ∧
  (∀ accepted mv (s : State), s.nat O.avsState = 1 →
    (accepted = false ∨ s.power.avsSent + s.nat O.avsAckTimeout < s.tick → exec (.avsResponse accepted mv) s = .next s.avsTimeout) ∧
    (accepted = true → s.tick ≤ s.power.avsSent + s.nat O.avsAckTimeout → exec (.avsResponse accepted mv) s = .next (
      let u := ((s.setNat O.avsState 0).setNat O.coreVoltage (if s.power.readBack = true then mv else s.power.avsRequest)).modPower
        fun x => { x with avsFails := 0, readBack := false }
      if s.power.readBack = true then u.resumeStep
      else if u.power.restoring = true ∧ u.nat O.coreVoltage = u.railTarget then
        ((u.modPower fun x => { x with ceiling := u.nat O.performanceLevelCurrent }).admitStreams (u.nat O.performanceLevelCurrent)).endStep
      else u.modPower fun x => { x with stepWait := 3, settleEnd := u.tick + u.nat O.avsSettleTime }))) ∧
  (∀ s : State, s.power.stepWait = 3 → s.nat O.avsState = 0 → s.power.settleEnd ≤ s.tick → exec .avsSettleEnd s = .next (
    if s.nat O.coreVoltage ≠ s.railTarget then s.sendVoltage s.railTarget
    else if s.power.stepKind = 1 ∧ s.levelHeld = true then s
    else if s.power.stepKind = 1 then
      ((((s.takeLevel s.power.stepTarget).admitStreams s.power.stepTarget).measureEntered s.power.stepTarget).modPower fun x =>
        { x with surgeReturnAt := some (s.tick + 1000) }).endStep
    else if s.power.stepKind = 3 then (s.modPower fun x => { x with measureDue := true }).endStep
    else (s.measureEntered s.power.stepTarget).endStep)) ∧
  (∀ s : State, s.nat O.avsState = 1 → s.power.avsSent + s.nat O.avsAckTimeout ≤ s.tick → exec .avsAckTimeout s = .next s.avsTimeout) ∧
  (∀ s : State, s.nat O.avsState = 2 → s.power.retryAt ≤ s.tick → exec .avsRetryDelayEnd s =
    .next (((s.setNat O.avsState 1).emit .avsRead).modPower fun x => { x with readBack := true, avsSent := s.tick })) ∧
  (∀ r (s : State), s.checkPut r O.avsRestart (.num 1 1) = none → s.nat O.avsState = 3 → exec (.avsRestart r) s =
    .next (((((s.setNat O.avsState 0).modPower fun x => { x with avsFails := 0 }).endCondition 368).followPlan).emit (.dict r.code 0))) ∧
  (∀ temperature (u s : State), s.power.thermalAt + 10000000 ≤ s.tick →
    u = (s.modPower fun x => { x with thermalAt := s.tick }).takeTemperature temperature →
    exec (.thermalLevelAdjust temperature) s = .next (State.thermalEnd (
      if 10 * s.obj O.thermalLimit ≤ temperature ∧ 1 < s.nat O.thermalLevelLimit then
        (if s.nat O.thermalLevelLimit = 5 then (u.setNat O.thermalLevelLimit (s.nat O.thermalLevelLimit - 1)).raiseFault 10 0
          else u.setNat O.thermalLevelLimit (s.nat O.thermalLevelLimit - 1)).startLevelStep
      else if temperature ≤ 10 * s.obj O.thermalLimit - 50 ∧ s.nat O.thermalLevelLimit < 5 then
        (u.setNat O.thermalLevelLimit (s.nat O.thermalLevelLimit + 1)).startLevelStep
      else u))) ∧
  (∀ temperature (u s : State), u = (s.setObj O.caseTemperature temperature).noteWarnings →
    exec (.caseTemperatureCritical temperature) s = .next (State.thermalEnd (
      if u.power.overTemperature = true ∧ temperature ≤ 1000 then (u.modPower fun x => { x with overTemperature := false }).requestLoads
      else if ¬ u.power.overTemperature = true ∧ 1100 ≤ temperature then
        ((u.modPower fun x => { x with overTemperature := true }).safeParkAll 6).raiseFault 10 0
      else u))) ∧
  (∀ level counts (c : List Nat) (u s : State), counts.length = 64 → level ≤ 5 → s.nat O.sleepStateCurrent ≠ 4 →
    ((s.nat O.startupPhase ≠ 3 ∧ level = s.nat O.performanceLevelCurrent ∧
        (s.power.measureDue = true ∨ s.nat (O.lastMeasured + level) + 3600000000 * s.nat O.ageingPeriod ≤ s.tick)) ∨
      (s.nat O.startupPhase = 3 ∧ level ≤ s.nat O.levelCap ∧
        (level = s.power.stepped ∨ (s.power.measureDue = true ∧ level + 1 = s.power.stepped)))) →
    c = counts.zipIdx.map (fun p => Config.corrected p.2 p.1 (s.obj O.caseTemperature)) →
    u = ((s.bump O.ageingMeasurements).setNat (O.lastMeasured + level) s.tick).modPower (fun x => { x with
      measureDue := false, stepped := if s.nat O.startupPhase = 3 then level + 1 else x.stepped }) →
    exec (.replicaMeasurement level counts) s = .next (
      match assoc? u.power.plans level with
      | none => (u.append 0x40 (level :: c.map fun n => n * 97 / 100)).modPower fun x => { x with
          plans := putKey x.plans level (c.map fun n => n * 97 / 100) }
      | some plan => match belowPlan c plan with
        | none => u
        | some m => u.ageLevel level m)) ∧
  (∀ u s : State, s.power.marginAt + 86400000000 ≤ s.tick → u = ({ (s.modPower fun x => { x with marginAt := s.tick }) with
      heads := s.heads.map fun (x : Head) => { x with
        margins := x.marginNow.foldl (fun l m => putKey l m.1 ((m.2 :: (assoc? l m.1).getD []).take 32)) x.margins, marginNow := [] } } : State) →
    exec .readMarginRecord s = .next (
      match (List.range u.headCount).filter fun h =>
        (u.head h).margins.any fun z => decide (u.nat O.marginWarnLimit < ladderRate (z.2.take 7)) with
      | [] => u.endCondition 207
      | h :: rest => (h :: rest).foldl (fun (v : State) h => v.raiseFault 207 h) u))

/-- A sleep-state request that no later one supersedes is taken; a block that must not sleep refuses, one that is quiet hands the
vote on, the media block writing its state first and a braking spindle's time being set aside, and the last vote commits, gives way
to an activation that fires, or is arbitrated against a wake; a reached state starts its timer or replays a held wake; an entry past
its limit is refused; a wake aborts, is held or starts the exit; the timer wakes; idle time lets the device sleep again. -/
def Obligations.SleepCommandsRun : Prop :=
  (∀ r value (s : State), s.checkPut r O.sleepStateRequest (.num 1 (value : Nat)) = none → exec (.sleepStateRequestWrite r value) s =
    .next (State.emit (if s.superseded r O.sleepStateRequest = true then s
      else ((s.noteMode r O.sleepStateRequest).setNat O.sleepStateRequest value).requestChanged 2) (.dict r.code 0))) ∧
  (∀ block wake code (s : State), s.nat O.sleepEntryState = 1 → s.power.block = block → s.blockRefusal block = some code →
    exec (.sleepBlockVote block wake) s = .next (s.abortEntry code block)) ∧
  (∀ block wake (s : State), s.nat O.sleepEntryState = 1 → s.power.block = block → s.blockRefusal block = none → s.quiesced block = true →
    (block < 8 → exec (.sleepBlockVote block wake) s = .next (
      let u := if block = 4 then s.mediaVote else s
      let u := if block = 7 then u.modPower fun x => { x with
          prepareStart := x.prepareStart + (u.tick - x.spindleStart) * (if u.nat O.sleepEntryTarget = 4 then 1 else 0) } else u
      u.quiesce (block + 1))) ∧
    (8 ≤ block → s.firesNow = true → exec (.sleepBlockVote block wake) s = .next (s.abortEntry 2 2)) ∧
    (8 ≤ block → s.firesNow = false → wake = none → exec (.sleepBlockVote block wake) s = .next s.commitSleep) ∧
    (∀ bit, 8 ≤ block → s.firesNow = false → wake = some bit → exec (.sleepBlockVote block wake) s = .next (
      if s.takeFree.1 % 2 = 0 then (s.takeFree.2.wake bit).setNat O.arbiterOutcome 1
      else (s.takeFree.2.commitSleep.setNat O.arbiterOutcome 2).wake bit))) ∧
  (∀ s u : State, s.nat O.sleepEntryState = 2 →
    (if s.nat O.sleepStateCurrent = 4 then s.platform.vregEnable = false else s.power.ceiling = 0) →
    u = (s.setNat O.sleepEntryState 3).modPower (fun x => { x with
      wakeAt := if s.nat O.wakeTimer = 0 then none else some (s.tick + 1000000 * s.nat O.wakeTimer) }) →
    exec .sleepStateReached s = .next (if u.power.heldWake = 0 then u else (u.setNat O.sleepEntryState 6).startExit)) ∧
  (∀ s : State, s.nat O.sleepEntryState = 1 → ¬ (s.power.block = 7 ∧ s.nat O.sleepEntryTarget = 4) →
    s.power.prepareStart + 1000 * s.nat O.prepareLimit ≤ s.tick →
    exec .sleepPrepareTimeout s = .next ((s.deadlineMiss 9 49 s.power.block (s.power.prepareStart + 1000 * s.nat O.prepareLimit)
      s.tick).abortEntry 15 s.power.block)) ∧
  (∀ source (u s : State), source ≤ 5 → (source < 3 → s.nat O.sleepStateCurrent ≠ 4) → (source = 5 → s.nat O.sleepStateCurrent ≠ 1) →
    u = s.setNat O.wakeSources (withBit (s.nat O.wakeSources) source) →
    (s.nat O.sleepEntryState = 1 → exec (.wakeEvent source) s = .next (u.abortEntry 0 0)) ∧
    (s.nat O.sleepEntryState = 2 → exec (.wakeEvent source) s =
      .next ({ u with power := { u.power with heldWake := withBit u.power.heldWake source } } : State)) ∧
    (s.nat O.sleepEntryState ≠ 1 → s.nat O.sleepEntryState ≠ 2 → 2 ≤ s.nat O.sleepStateCurrent →
      exec (.wakeEvent source) s = .next u.startExit)) ∧
  (∀ t (s : State), s.power.wakeAt = some t → t ≤ s.tick → 2 ≤ s.nat O.sleepStateCurrent → exec .wakeTimerExpiry s =
    .next ((s.modPower fun x => { x with wakeAt := none }).wake 5)) ∧
  (∀ s : State, s.power.blocked = true → s.power.idleSince + 1000000 * s.nat O.sleepIdleTime ≤ s.tick → exec .sleepIdleTimeExpiry s =
    .next ((s.modPower fun x => { x with blocked := false }).considerSleep)) ∧
  (∀ s : State, s.nat O.sleepEntryState = 1 → s.power.block = 7 → s.nat O.sleepEntryTarget = 4 → s.nat O.spindleState ≠ 0 →
    s.power.spindleStart + 1000000 * s.nat O.spindleStopLimit ≤ s.tick → exec .spindleStopLimit s = .next (s.abortEntry 7 7))

/-- A raising is collected; ended faults are cleared; the FAULT pin is released, at once or at its pulse's end, and its pulse ends;
a queued EMCY is sent or, disabled, dropped; an unlock token is answered as its checks judge it; an injection run starts, goes on
and is cancelled; the errors of links and memory are raised. -/
def Obligations.FaultCommandsRun : Prop :=
  (∀ src cause (s : State), exec (.faultRaising src cause) s = .next (s.raiseFault src cause)) ∧
  (∀ r value (s : State), s.checkPut r O.faultClear (.num 2 (value : Nat)) = none → exec (.faultClear r value) s =
    .next ((s.clearFaults fun n => decide (value = 65535) || decide (n = value)).emit (.dict r.code 0))) ∧
  (∀ r (s : State), s.checkPut r O.faultPinRelease (.num 1 1) = none → exec (.faultPinRelease r) s =
    .next ((s.modFaults fun x =>
      { x with released := some s.tick, releasePending := decide (x.pin = 1), pin := if x.pin = 1 then 1 else 0 }).emit (.dict r.code 0))) ∧
  (∀ s : State, s.faults.pin = 1 → s.faults.pulseEnd ≤ s.tick → exec .faultPulseEnd s =
    .next (s.modFaults fun x => { x with pin := if x.releasePending = true then 0 else 2, releasePending := false })) ∧
  (∀ code register bytes rest (u s : State), s.mb.emcyQueue = (code, register, bytes) :: rest →
    (∀ t, s.mb.emcyLast = some t → t + 100 * s.nat O.emcyInhibit ≤ s.tick) → s.nmtServes = true → s.busSends s.activeBus = true →
    u = s.modMb (fun m => { m with emcyQueue := rest }) → exec .emcySend s = .next (
      if (u.view O.emcyCobId).toNat.testBit 31 = true then u
      else (u.modMb fun m => { m with emcyLast := some u.tick }).emit (.emcy u.activeBus code register (padTo 8 bytes)))) ∧
  (∀ r token appended (s : State), s.checkPut r O.trapdoorToken (.bytes token) = none →
    exec (.trapdoorToken r token appended) s = .next ((s.trapdoorToken r.code token appended).2.emit (.dict r.code (
      match (s.trapdoorToken r.code token appended).1 with
      | none => 0
      | some why => (if why ≤ 2 then DictRefusal.state else .range).code r)))) ∧
  (∀ r (u s : State), s.checkPut r O.injectCommand (.num 1 1) = none → s.nat O.injectRunState ≠ 1 →
    u = ((s.startRun O.injectRunState).setNat O.injectRunMade 0).setNat O.injectRunFirstTick 0 → exec (.injectStart r) s =
      .next (((u.setNat O.injectRunLastTick 0).modFaults fun x => { x with injectLeft := u.nat O.injectCount }).injectOne.emit (.dict r.code 0))) ∧
  (∀ r (s : State), s.checkPut r O.injectCommand (.num 1 2) = none → exec (.injectCancel r) s =
    .next (((s.modFaults fun x => { x with injectLeft := 0 }).endRun O.injectRunState 2).emit (.dict r.code 0))) ∧
  (∀ s : State, s.nat O.injectRunState = 1 → 0 < s.faults.injectLeft → s.faults.injectNext ≤ s.tick →
    exec .injectionInterval s = .next s.injectOne) ∧
  (∀ (lane corrected : Bool) port (s : State), exec (.motionLinkError lane) s = .next (s.raiseFault 12 (if lane then 2 else 1)) ∧
    exec (.controlMemoryEccError corrected) s = .next (s.raiseFault (if corrected then 8 else 9) 0) ∧
    exec (.linkUncorrectableError port) s = .next (s.raiseFault (304 + port) 0))

/-- The Shelf is cleared by key or by an owner's token, a refused token being counted; wall time is set; an admitted snapshot list
replaces the selected one; a queued Trunk append is programmed, or its unit retired and the append given up at the second failure; a
mirror is written; parameters are saved to the older copy or both copies erased; a key is acquired, released and expires. -/
def Obligations.RecordCommandsRun : Prop :=
  (∀ r bound (s : State), s.checkPut r O.shelfClear (.num 8 (bound : Nat)) = none →
    exec (.shelfClear r bound) s = .next ((s.clearShelf bound r.code).emit (.dict r.code 0))) ∧
  (∀ token (u s : State), s.checkPut .mb O.shelfClearToken (.bytes token) = none →
    u = { s.takeFree.2 with shelf := { s.takeFree.2.shelf with challenge := s.takeFree.1 } } →
    exec (.shelfClearToken .mb token) s = .next (
      match s.ownerTokenRefusal token (tokenHead token [0x53, 0x43, 0x54, 0x31]) s.shelf.challenge with
      | none => (u.clearShelf (field token 88 8) 4).emit (.dict 3 0)
      | some k => (u.bump O.shelfTokenRefusals).emit (.dict 3 ((if k = 1 then DictRefusal.state else .range).sdo)))) ∧
  (∀ r value (s : State), s.checkPut r O.wallTimeSet (.num 8 (value : Nat)) = none →
    exec (.wallTimeSet r value) s = .next ((s.setWall value r.code).emit (.dict r.code 0))) ∧
  (∀ r image (entries : List Nat) (s : State), s.checkPut r O.snapshotListImage (.bytes image) = none →
    ofLe (image.take 2) = s.nat O.snapshotSelectCode →
    1 ≤ ofLe ((image.drop 2).take 2) → ofLe ((image.drop 2).take 2) ≤ 1000 → 1 ≤ ofLe ((image.drop 4).take 2) →
    ofLe ((image.drop 4).take 2) ≤ 1024 → entries = (List.range 48).map (fun i => ofLe ((image.drop (12 + 4 * i)).take 4)) →
    (∀ e ∈ entries.takeWhile (· ≠ 0), e % 256 / 2 = 0 ∧ s.listable (e / 65536 * 256 + e / 256 % 256) = true) →
    exec (.snapshotListWrite r image) s = .next ((s.setCodeConfig { s.codeConfig (s.nat O.snapshotSelectCode) with
      rate := ofLe ((image.drop 2).take 2), burst := ofLe ((image.drop 4).take 2)
      version := ((s.codeConfig (s.nat O.snapshotSelectCode)).version + 1) % 65536, entries := entries
      level := ofLe ((image.drop 4).take 2) * 1000000, filled := s.tick }).emit (.dict r.code 0))) ∧
  (∀ cause a rest (s : State), s.trunk.queue = a :: rest → ¬ (s.spindle.powerLost = true ∧ s.obj O.holdUpMargin ≤ 0) →
    (cause ≠ 2 → cause ≠ 3 → exec (.trunkAppendComplete cause) s = .next ((s.modTrunk fun x => { x with queue := rest }).program a)) ∧
    (∀ area unit, cause = 2 ∨ cause = 3 → area = (if a.kind = 1 then 0 else 1) →
      unit = (if area = 0 then s.trunk.bootUnit else s.trunk.logUnit) → exec (.trunkAppendComplete cause) s = .next (
        let t := (s.trunk.setUnit unit { s.trunk.unit unit with retired := true }).openNext area (s.nat O.trunkEraseLimit)
        let u := (s.modTrunk fun _ => { t with failures := s.trunk.failures + 1 }).raiseFault 13 cause
        if s.trunk.failures + 1 < 2 then u
        else ((u.modTrunk fun x => { x with queue := x.queue.tail, failures := 0 }).bump O.trunkAppendFailures).raiseFault 371 0))) ∧
  (∀ act (units : List Nat) (v s : State), s.hasAct act = true → s.mapped act = true → (s.act act).load = 2 →
    s.nat (O.headService + 6 * act) ≠ 3 → s.spindle.powerLost = false → units = (assoc? s.trunk.dirty act).getD [] →
    v = units.foldl (fun (w : State) u => w.emit (.system (6 * act) 6 u 0 (15 * 2 ^ 44 + 0x10000 + 16 * u) (4096 + 32) [])) s →
    exec (.trunkMirrorWrite act) s = .next (
      let w := v.modTrunk fun x => { x with
        dirty := putKey x.dirty act []
        mirrors := putKey x.mirrors act (units.foldl (fun m u => putKey m u (v.trunk.unit u)) ((assoc? v.trunk.mirrors act).getD [])) }
      w.setNat O.trunkMirrorState (withBit (w.nat O.trunkMirrorState) act))) ∧
  (∀ r value a b (s : State), s.checkPut r O.storeParameters (.num 4 (value : Nat)) = none →
    a = (s.mb.storedA.map StoredCopy.seq).getD 0 → b = (s.mb.storedB.map StoredCopy.seq).getD 0 →
    exec (.storeParameters r value) s = .next ((s.modMb fun m =>
      let c : StoredCopy := { seq := max a b + 1, values := s.objs.filter fun p => inStoredSet p.1, sine := s.spindle.sine, lists := s.shelf.codes }
      if b < a then { m with storedB := some c } else { m with storedA := some c }).emit (.dict r.code 0))) ∧
  (∀ r value (s : State), s.checkPut r O.restoreDefaults (.num 4 (value : Nat)) = none →
    exec (.restoreDefaults r value) s = .next ((s.modMb fun m => { m with storedA := none, storedB := none }).emit (.dict r.code 0))) ∧
  (∀ r key (u s : State), u = s.expireKey key → u.checkPut r (O.keyControl + key) (.num 1 1) = none →
    (u.key key).holder = 0 ∨ (u.key key).holder = r.code → u.keyGoesTo r key = false →
    exec (.keyAcquire r key) s = .next ((u.modKey key fun k => { k with explicit := r.code, leaseEnd := u.leaseFromNow }).emit
      (.dict r.code 0))) ∧
  (∀ r key (u s : State), u = s.expireKey key → u.checkPut r (O.keyControl + key) (.num 1 0) = none →
    (u.key key).holder = r.code → r.code ≠ 0 → (u.key key).implicit = 0 →
    exec (.keyRelease r key) s = .next ((u.modKey key fun _ => {}).emit (.dict r.code 0))) ∧
  (∀ key (s : State), exec (.keyLeaseExpiry key) s = .next (
    if ¬ s.leaseRuns key = true ∨ s.tick < (s.key key).leaseEnd then s
    else ((((((s.modKey key fun _ => {}).append 0x30 [key, (s.key key).holder]).note 0x13 2 [key, (s.key key).holder]).raiseFault 341 key).bump
      (O.keyExpiries + key)).endKey key (s.key key).holder)))

/-- An NMT command addressed to the device or to all nodes, on the active bus outside Initialisation, wakes the device and then
takes it into its state, a reset releasing what it must; a reset to all nodes is also taken by an unconfigured device with a pending
node-ID; an LSS command of a served port selects the device, sets and stores the node-ID, answers the identity or the node-ID,
scans, and refuses another bit timing. -/
def Obligations.NmtAndLssCommandsRun : Prop :=
  (∀ bus node (s : State), bus = s.activeBus → (node = 0 ∨ (node = s.mb.nodeId ∧ node ≠ 255)) → s.busReceives bus = true → s.mb.nmt ≠ 0 →
    exec (.nmtStartRemoteNode bus node) s = .next ((s.wake 4).modMb fun m => { m with nmt := 5 }) ∧
    exec (.nmtStopRemoteNode bus node) s = .next ((s.wake 4).modMb fun m => { m with nmt := 4, usdo := none }) ∧
    exec (.nmtEnterPreOperational bus node) s = .next ((s.wake 4).modMb fun m => { m with nmt := 127 }) ∧
    exec (.nmtResetNode bus node) s = .next ((s.wake 4).releaseKeys (fun k => decide (k.holder = 3)) 2).resetCommunication ∧
    exec (.nmtResetCommunication bus node) s = .next (s.wake 4).resetCommunication) ∧
  (∀ bus pending (s : State), bus = s.activeBus → s.busReceives bus = true → s.mb.nmt = 0 → s.mb.nodeId = 255 → s.mb.pendingNode = some pending →
    exec (.nmtResetNode bus 0) s = .next ((s.wake 4).releaseKeys (fun k => decide (k.holder = 3)) 2).resetCommunication ∧
    exec (.nmtResetCommunication bus 0) s = .next (s.wake 4).resetCommunication) ∧
  (∀ bus mode (s : State), s.lssServed bus = true →
    exec (.lssSwitchStateGlobal bus mode) s = .next (s.modMb fun m => { m with lssConfig := decide (mode = 1) })) ∧
  (∀ bus vendor product revision serial (s : State), s.lssServed bus = true →
    exec (.lssSwitchStateSelective bus vendor product revision serial) s = .next (
      if [vendor, product, revision, serial] = [(s.view (O.identity + 0)).toNat, (s.view (O.identity + 1)).toNat,
          (s.view (O.identity + 2)).toNat, (s.view (O.identity + 3)).toNat] then
        (s.modMb fun m => { m with lssConfig := true }).emit (.lss bus 0x44 0)
      else s)) ∧
  (∀ bus node (s : State), s.lssServed bus = true → s.mb.lssConfig = true → exec (.lssConfigureNodeId bus node) s = .next (
    if (1 ≤ node ∧ node ≤ 127) ∨ node = 255 then (s.modMb fun m => { m with pendingNode := some node }).emit (.lss bus 0x11 0)
    else s.emit (.lss bus 0x11 1))) ∧
  (∀ bus (s : State), s.lssServed bus = true → s.mb.lssConfig = true →
    exec (.lssStoreConfiguration bus) s = .next ((s.modMb fun m => { m with
      storedNode := if s.mb.pendingNode.getD s.mb.nodeId = 255 then none else some (s.mb.pendingNode.getD s.mb.nodeId) }).emit (.lss bus 0x17 0)) ∧
    (∀ entry, exec (.lssInquireIdentity bus entry) s = .next (s.emit (.lss bus (0x5A + entry) (s.view (O.identity + entry)).toNat))) ∧
    exec (.lssInquireNodeId bus) s = .next (s.emit (.lss bus 0x5E s.mb.nodeId)) ∧
    exec (.lssConfigureBitTiming bus) s = .next (s.emit (.lss bus 0x13 1))) ∧
  (∀ bus number bit sub following (s : State), s.lssServed bus = true → s.mb.lssConfig = false → s.mb.nodeId = 255 → s.mb.pendingNode = none →
    exec (.lssFastscan bus number bit sub following) s = .next (
      if bit = 128 then (s.modMb fun m => { m with fastscanSub := 0 }).emit (.lss bus 0x4F 0)
      else if sub ≠ s.mb.fastscanSub ∨ 31 < bit ∨ (s.view (O.identity + s.mb.fastscanSub)).toNat / 2 ^ bit ≠ number / 2 ^ bit then s
      else if bit ≠ 0 then s.emit (.lss bus 0x4F 0)
      else (s.emit (.lss bus 0x4F 0)).modMb fun m => { m with fastscanSub := following % 4, lssConfig := decide (following < sub) }))

/-- A USDO frame begins, continues or ends the one transfer, or is aborted, and a transfer without frames times out; PDOs, SYNC,
TIME and heartbeats are received and sent, and consumed heartbeats watched; a frame that is not the device's is counted; a lost or
stale frame, bus-off, its recovery, the error counters, a duplicate node-ID and the writes that select and restart a port have their
effects. -/
def Obligations.ManagementBusRuns : Prop :=
  (∀ bus client write object data last (s : State), s.busActs bus = true → s.nmtServes = true → s.mb.nodeId ≠ 255 → s.mb.usdo = none →
    exec (.usdoRequest bus client true write object data last) s = .next (
      if write = true then
        if last = true then s.usdoWrite object data
        else s.modMb fun m => { m with
          usdo := some { client := client, key := object, isWrite := true, gathered := data, lastFrame := s.tick } }
      else match s.readValue object none with
        | .error x => s.sendMb (.sdoAbort x.sdo)
        | .ok b =>
          if last = true then (s.noteRead object).sendMb (.sdoData (b.map fun (x : Nat) => (x : Int)))
          else (s.noteRead object).modMb fun m => { m with
            usdo := some { client := client, key := object, isWrite := false, gathered := b, lastFrame := s.tick } })) ∧
  (∀ bus client write object data last (u : Usdo) (s : State), s.busActs bus = true → s.nmtServes = true → s.mb.nodeId ≠ 255 →
    s.mb.usdo = some u →
    exec (.usdoRequest bus client true write object data last) s = .next (s.sendMb (.sdoAbort 0x08000020)) ∧
    (u.client = client → exec (.usdoRequest bus client false write object data last) s = .next (
      if last = true then
        if u.isWrite = true then (s.modMb fun m => { m with usdo := none }).usdoWrite u.key (u.gathered ++ data)
        else (s.modMb fun m => { m with usdo := none }).sendMb (.sdoData (u.gathered.map fun (x : Nat) => (x : Int)))
      else s.modMb fun m => { m with usdo := some { u with
        gathered := if u.isWrite = true then u.gathered ++ data else u.gathered, lastFrame := s.tick } }))) ∧
  (∀ (u : Usdo) (s : State), s.mb.usdo = some u → u.lastFrame + 1000 * s.nat O.usdoTimeout ≤ s.tick →
    exec .usdoTimeout s = .next ((s.modMb fun m => { m with usdo := none }).sendMb (.sdoAbort 0x05040000))) ∧
  (∀ bus number data (s : State), s.busActs bus = true → s.mb.nmt = 5 → 1 ≤ number → number ≤ 2 →
    (s.view (O.rpdo1CobId + 256 * (number - 1))).toNat.testBit 31 = false → exec (.rpdoReceived bus number data) s = .next (
      if s.nat (O.rpdo1CobId + 256 * (number - 1) + 1) ≤ 240 then s.modMb fun m => { m with rpdoHeld := putKey m.rpdoHeld number data }
      else s.applyRpdo number data)) ∧
  (∀ number (past : Nat → Bool) (s : State), s.tpdoEnabled number = true → 240 < s.nat (O.tpdo1CobId + 256 * (number - 1) + 1) →
    (∀ d, past d = (assoc? s.mb.tpdoLast number).all (fun t => decide (t + d ≤ s.tick))) →
    exec (.tpdoTransmit number) s = .next (
      if past (100 * s.nat (O.tpdo1CobId + 256 * (number - 1) + 2)) = true ∧ (s.tpdoChanged number = true ∨
          (s.nat (O.tpdo1CobId + 256 * (number - 1) + 4) ≠ 0 ∧ past (1000 * s.nat (O.tpdo1CobId + 256 * (number - 1) + 4)) = true)) then
        s.sendTpdo number
      else s)) ∧
  (∀ s : State, s.nat O.producerHeartbeat ≠ 0 → s.mb.nmt ≠ 0 → s.mb.heartbeatNext ≤ s.tick → exec .heartbeatProduce s =
    .next ((s.sendMb (.heartbeat s.activeBus s.mb.nmt)).modMb fun m => { m with
      heartbeatNext := s.tick + 1000 * s.nat O.producerHeartbeat })) ∧
  (∀ bus entry c t (s : State), s.consumer entry = some c → assoc? (s.bus bus).seen entry = some t →
    s.heard bus entry = false → (s.bus bus).lost.contains entry = false → s.nat O.sleepStateCurrent ≠ 4 →
    exec (.consumerHeartbeatLost bus entry) s = .next (State.checkConsumers (
      let u := s.modBus bus fun p => { p with lost := entry :: p.lost }
      if bus = u.activeBus then (u.raiseFault 340 (entry + 1)).queueEmcy 0x8130 [bus] else u))) ∧
  (∀ bus node mine (s : State), s.busReceives bus = true →
    mine = (List.range 4).filter (fun i => (s.consumer i).map Prod.fst = some node) → mine ≠ [] →
    exec (.consumerHeartbeatReceived bus node) s = .next (State.checkConsumers (
      let u := s.modBus bus fun p => { p with
        seen := mine.foldl (fun l i => putKey l i s.tick) p.seen, lost := p.lost.filter fun i => !mine.contains i }
      if bus = u.activeBus ∧ (u.bus bus).lost = [] then u.endCondition 340 else u))) ∧
  (∀ bus value (s : State), s.busActs bus = true → s.nmtServes = true → s.mb.nodeId ≠ 255 → exec (.timeMessage bus value) s = .next (
    if (s.nat O.timeCobId).testBit 31 = true then s.setWall value 3 else s.bump (O.foreignFrames + bus))) ∧
  (∀ bus (s : State), s.busActs bus = true → s.mb.nmt = 5 → exec (.syncMessage bus) s =
    .next ([1, 2, 3, 4].foldl State.syncTpdo ([1, 2].foldl (fun (u : State) n => match assoc? s.mb.rpdoHeld n with
      | some b => u.applyRpdo n b
      | none => u) (s.modMb fun m => { m with rpdoHeld := [] })))) ∧
  (∀ bus (s : State), s.busReceives bus = true →
    exec (.foreignFrame bus) s = .next (s.bump (O.foreignFrames + bus)) ∧
    exec (.arbitrationLost bus) s = .next (s.bump (O.arbitrationLosses + bus))) ∧
  (∀ bus queued (s : State), s.nat (O.busState + bus) ≠ 0 → queued + 100000 ≤ s.tick →
    exec (.staleFrameDrop bus queued) s = .next (s.bump (O.staleFramesDropped + bus))) ∧
  (∀ bus (recent : List Nat) (u s : State), s.busReceives bus = true →
    recent = s.tick :: (s.bus bus).offTicks.filter (fun t => decide (s.tick < t + 60000000)) →
    u = (s.bump (O.busOffEvents + bus)).modBus bus (fun p => { p with
      offTicks := recent, recoverAt := s.tick + 1000 * s.mb.recoveryDelay }) →
    exec (.busOff bus) s = .next (State.leaveBus (
      if u.mb.offLimit < recent.length then (u.setNat (O.busState + bus) 5).raiseFault (336 + bus) 1
      else u.setNat (O.busState + bus) 3) bus)) ∧
  (∀ bus (s : State), s.nat (O.busState + bus) = 3 → (s.bus bus).recoverAt ≤ s.tick →
    exec (.busOffRecoveryStart bus) s = .next (s.setNat (O.busState + bus) 4)) ∧
  (∀ bus (s : State), s.nat (O.busState + bus) = 4 → exec (.busOffRecovered bus) s =
    .next (((((s.setNat (O.busState + bus) (if (s.bus bus).listenOnly = true then 6 else 1)).setNat (O.txErrorCounter + bus) 0).setNat
      (O.rxErrorCounter + bus) 0).queueEmcy 0x8140 [bus]).noteErrorRegister)) ∧
  (∀ bus (s : State), s.busSends bus = true → exec (.duplicateNodeId bus) s =
    .next ((((((s.raiseFault (338 + bus) 0).bump (O.duplicateNodeEvents + bus)).setNat (O.busState + bus) 6).modBus bus fun p => { p with
      listenOnly := true }).leaveBus bus).queueEmcy 0x8150 [bus])) ∧
  (∀ bus transmit receive (u s : State), s.busReceives bus = true →
    u = (s.setNat (O.txErrorCounter + bus) (min transmit 255)).setNat (O.rxErrorCounter + bus) (min receive 255) →
    exec (.errorPassiveChange bus transmit receive) s = .next (
      if (128 ≤ transmit ∨ 128 ≤ receive) ∧ u.nat (O.busState + bus) = 1 then (u.setNat (O.busState + bus) 2).queueEmcy 0x8120 [bus]
      else if transmit < 128 ∧ receive < 128 ∧ u.nat (O.busState + bus) = 2 then (u.setNat (O.busState + bus) 1).noteErrorRegister
      else u)) ∧
  (∀ r value (s : State), s.checkPut r O.busSelect (.num 1 (value : Nat)) = none →
    (value = s.activeBus ∨ s.nat (O.busState + value) = 1 ∨ s.nat (O.busState + value) = 2) →
    exec (.busSelect r value) s = .next ((if value = s.activeBus then s else s.changeBus 3).emit (.dict r.code 0))) ∧
  (∀ r bus (s : State), s.checkPut r (O.mbPortRestart + bus) (.num 1 1) = none → exec (.mbPortRestart r bus) s = .next (State.emit (
    if ¬ (s.nat (O.busState + bus) = 5 ∨ s.nat (O.busState + bus) = 6) ∨ (bus = 1 ∧ s.mb.redundancy = 0) then s
    else (((((((s.setNat (O.busState + bus) 1).setNat (O.txErrorCounter + bus) 0).setNat (O.rxErrorCounter + bus)
      0).modBus bus fun p => { p with listenOnly := false, offTicks := [] }).endCondition (336 + bus)).endCondition (338 + bus)).noteErrorRegister))
        (.dict r.code 0)))

/-- The Larder is enabled after an invalidate, disabled, invalidated and its run ended; an LBA is mapped and its run ends with its
place or its reason; a piece of a Crate is stored, its staging requested, and ended as refused or staged, in the recovery image with
the reboot that follows. -/
def Obligations.CacheMapAndCrateCommandsRun : Prop :=
  (∀ r (s : State), s.checkPut r O.larderEnable (.num 1 1) = none →
    (s.nat O.larderEnable = 1 ∨ (s.nat O.invalidateSinceDisable = 1 ∧ s.nat O.invalidateRunState ≠ 1)) →
    exec (.larderEnable r) s = .next ((s.acceptMode r O.larderEnable 1).emit (.dict r.code 0))) ∧
  (∀ r (s : State), s.checkPut r O.larderEnable (.num 1 0) = none → exec (.larderDisable r) s =
    .next ((s.acceptMode r O.larderEnable 0).emit (.dict r.code 0))) ∧
  (∀ r (s : State), s.checkPut r O.larderInvalidate (.num 1 1) = none → s.nat O.larderEnable ≠ 1 → s.nat O.invalidateRunState ≠ 1 →
    exec (.larderInvalidate r) s = .next ((s.startRun O.invalidateRunState).emit (.dict r.code 0))) ∧
  (∀ u s : State, s.nat O.invalidateRunState = 1 → u = (s.setNat O.invalidateRunLarderLines
      (s.larder.lines.filter fun l => decide (l.state ≠ .invalid)).length).setNat O.invalidateRunPantryLines
        (s.setNat O.invalidateRunLarderLines (s.larder.lines.filter fun l => decide (l.state ≠ .invalid)).length).larder.pantry.length →
    exec .larderInvalidateComplete s =
      .next (((u.cacheClear.setNat O.invalidateRunTick u.tick).setNat O.invalidateSinceDisable 1).endRun O.invalidateRunState 0)) ∧
  (∀ r lba (u s : State), s.checkPut r O.mapLbaRequest (.num 8 (lba : Nat)) = none → s.nat O.mapState ≠ 1 →
    u = (s.startRun O.mapState).setNat O.mapLba lba → exec (.mapLbaRequest r lba) s =
      .next (({ u.setNat O.mapNsid (u.nat O.mapNamespace) with layout := { (u.setNat O.mapNsid (u.nat O.mapNamespace)).layout with
        mapping := some (lba, (u.setNat O.mapNsid (u.nat O.mapNamespace)).nat O.mapNamespace) } } : State).emit (.dict r.code 0))) ∧
  (∀ lba nsid (u s : State), s.layout.mapping = some (lba, nsid) → u = { s with layout := { s.layout with mapping := none } } →
    exec .mapRunEnd s = .next (
      if ¬ u.nsActive nsid = true then u.endRun O.mapState 2
      else if u.nsCapacity nsid ≤ lba then u.endRun O.mapState 1
      else match u.locate nsid lba with
        | none => u.endRun O.mapState 3
        | some p => ((((((((u.setNat O.mapActuator p.act).setNat O.mapSurface p.surface).setNat O.mapZone p.zone).setNat O.mapLane p.lane).setNat
            O.mapTrack p.track).setNat O.mapSector p.sector).setNat O.mapStartBit p.startBit).setNat O.mapRemapped
              (if p.remapped = true then 1 else 0)).endRun O.mapState 0)) ∧
  (∀ r data (t s : State), s.checkPut r O.crateBlock (.bytes data) = none → s.storePiece (s.nat O.crateOffset) data = some t →
    exec (.crateBlockWrite r data) s = .next (t.emit (.dict r.code 0))) ∧
  (∀ r (u s : State), s.checkPut r O.stageRequest (.num 1 1) = none → s.nat O.stagingRunState ≠ 1 →
    u = (s.startRun O.stagingRunState).setNat O.stagingRunSlot (s.startRun O.stagingRunState).stagingSlot →
    exec (.stageRequest r) s = .next (State.emit (
      if u.stagingRefused = true then (u.logRefusal r.code 0x09 0 u.activationSteps).endRun O.stagingRunState 0x09
      else u.startStaging r.code none) (.dict r.code 0))) ∧
  (∀ appended holder crate commit (s : State), s.fw.staging = some (holder, crate, commit) → exec (.stagingEnd appended) s = .next (
    match s.stagingRefusal crate with
    | some (reason, k) => (s.logRefusal holder reason k (s.crateSlot crate).sequence).closeStaging commit reason
    | none =>
      let u := (s.modFwSlot s.stagingSlot fun _ => s.crateSlot crate).history 1 0 s.stagingSlot 0 holder 0
      if s.fw.recovery = true ∧ ¬ appended = true then (s.raiseFault 371 0).modFw fun f => { f with staging := none }
      else if s.fw.recovery = true then
        let v := (u.history 4 0 s.stagingSlot 0 holder 0).closeStaging commit 0
        let v := v.trunk.queue.foldl State.program v
        v.powerUp v.platform.variant v.platform.straps 1
      else (u.setNat O.updateState 1).closeStaging commit 0))

/-- An activation is requested at once, armed or cancelled; its steps, drains and pulses end or time out, a pulse two before the
scheduled one firing or refusing it and the scheduled one starting its first step; the security version is committed; an owner token
sets or clears the lock, or is refused, each drawing a new challenge. -/
def Obligations.ActivationCommandsRun : Prop :=
  (∀ r (s : State), s.checkPut r O.activateRequest (.num 1 1) = none → s.nat O.activationRunState ≠ 1 →
    exec (.activateImmediate r) s = .next ((s.activateVia r 1).emit (.dict r.code 0))) ∧
  (∀ r (s : State), s.checkPut r O.activateRequest (.num 1 2) = none → s.nat O.activationRunState ≠ 1 → s.wall.set = true →
    s.nat O.tbiPulseLabel + s.nat O.scheduleLead + 1 ≤ s.nat O.scheduledPulse →
    exec (.activateArm r) s = .next ((s.activateVia r 2).emit (.dict r.code 0))) ∧
  (∀ r (s : State), s.checkPut r O.activateRequest (.num 1 3) = none → s.fw.phase = 1 →
    exec (.activateCancel r) s = .next ((s.cancelArming 1).emit (.dict r.code 0))) ∧
  (∀ c rest (u s : State), s.fw.steps = c :: rest → s.fw.phase = 4 → s.spindle.powerLost = false →
    (c = 4 → s.rafter.swapAt = none ∧ s.rafter.health = 0 ∧ s.rafter.microSwap = false) →
    (c = 6 → (s.detect.streams.any fun st => decide (st.swap = 4)) = false) →
    u = (s.history 3 c s.inactiveSlot 0 s.fw.holder s.fw.pulse).modFw (fun f => { f with steps := rest, doneSteps := c :: f.doneSteps }) →
    exec .activationStepEnd s = .next (
      let v := if u.fw.run = true then u.setNat O.activationRunSteps u.fw.doneSteps.length else u
      if rest = [] then v.setActive else v.startStep)) ∧
  (∀ failed c rest (s : State), s.fw.steps = c :: rest → s.fw.phase = 4 → s.fw.stepStart + s.stepLimit c < s.tick →
    exec (.activationStepTimeout failed) s = .next (s.failStep failed)) ∧
  (∀ s : State, s.fw.phase = 2 → s.ioRemains = false → exec .activationDrainEnd s = .next s.drained) ∧
  (∀ s : State, s.fw.phase = 2 → s.ioRemains = true → s.fw.firedAt + 1000 * s.nat O.activationDrainLimit ≤ s.tick →
    exec .activationDrainTimeout s = .next (s.refuseActivation 6 0)) ∧
  (∀ width p (u s : State), 1000 ≤ width → s.wall.set = true → pulseLabel s.wallTime = some p → u = s.setNat O.tbiPulseLabel p →
    (u.fw.phase = 1 → p + 2 = u.fw.pulse → exec (.tbiEdge width) s = .next (match u.guardRefusal with
      | some (reason, c) => u.refuseActivation reason c
      | none => u.fire)) ∧
    (u.fw.phase ≠ 1 ∨ p + 2 ≠ u.fw.pulse → exec (.tbiEdge width) s = .next (
      if u.fw.kind = 2 ∧ p = u.fw.pulse then
        if u.fw.phase = 3 then u.startStep
        else if u.fw.phase = 2 then u.modFw fun f => { f with pulseSeen := true }
        else u
      else u))) ∧
  (∀ s : State, s.wall.set = true → s.fw.kind = 2 → s.fw.pulseSeen = false → s.fw.phase ≠ 0 → s.fw.phase ≠ 4 →
    1000 * (if s.fw.phase = 1 then s.fw.pulse - 2 else s.fw.pulse) + 1500 < s.wallTime →
    exec .scheduledPulseMissed s = .next (s.refuseActivation 10 0)) ∧
  (∀ r (s : State), s.checkPut r O.svnCommit (.num 1 1) = none → s.fw.fusedVersion ≠ s.activeSet.securityVersion → s.nat O.updateState < 2 →
    exec (.svnCommit r true) s = .next (((s.history 11 0 s.fw.active 0 r.code 0).modFw fun f => { f with
      fusedVersion := s.activeSet.securityVersion }).emit (.dict r.code 0))) ∧
  (∀ r token operation appended (u v s : State), s.checkPut r O.ownerLockToken (.bytes token) = none → operation = field token 88 1 →
    u = s.takeFree.2.modFw (fun f => { f with ownerChallenge := s.takeFree.1 }) →
    v = (match s.ownerTokenRefusal token (tokenHead token [0x4F, 0x4C, 0x4B, 0x31] && decide (1 ≤ operation) && decide (operation ≤ 2) &&
          decide (field token 89 7 = 0)) s.fw.ownerChallenge with
      | some k => (u.bump O.ownerLockRefusals).emit (.dict r.code ((if k = 1 then DictRefusal.state else .range).code r))
      | none =>
        if ¬ appended = true then ((u.raiseFault 371 0).bump O.ownerLockRefusals).emit (.dict r.code (DictRefusal.state.code r))
        else ((u.history (8 + operation) 0 u.fw.active 0 r.code 0).setNat O.ownerLockState (2 - operation)).emit (.dict r.code 0)) →
    exec (.ownerLockSet r token appended) s = .next v ∧ exec (.ownerLockClear r token appended) s = .next v)

/-- A served SPDM request with the negotiation it needs is answered with its response, outside what it serves with InvalidRequest,
and an unsupported one with UnsupportedRequest; an MCTP control command sets or returns its value, or its completion code; a JTAG
instruction outside S4 selects its register and drives the pins as it says; an unlock token shifted in the boot halt is checked and
its status shown. -/
def Obligations.SecurityAndDebugCommandsRun : Prop :=
  (∀ t (s : State), s.spdmServes t = true → s.nat O.updateState ≠ 3 → s.sec.waiting.getD t none = none → exec (.spdmGetVersion t) s =
    .next (((s.modSec fun x => { x with resync := x.resync.set t false }).setNegotiated t 1).respond t 0x04 [0, 0, 0, 1, 0x00, 0x12])) ∧
  (∀ t (s : State), s.spdmServes t = true → s.nat O.updateState ≠ 3 → s.sec.waiting.getD t none = none → s.sec.resync.getD t false = false →
    (1 ≤ s.sec.negotiated.getD t 0 → exec (.spdmGetCapabilities t) s = .next ((s.takeFree.2.setNegotiated t 2).respond t 0x61
      ([0, 0] ++ fieldBytes [(1, 0), (1, s.takeFree.1), (2, 0), (4, 0x16), (4, 4096), (4, 4096)]))) ∧
    (2 ≤ s.sec.negotiated.getD t 0 →
      exec (.spdmNegotiateAlgorithms t true) s = .next (((s.setNegotiated t 3).bump (O.spdmSessions + t)).respond t 0x63
        ([0, 0] ++ fieldBytes [(2, 36), (1, 1), (1, 0), (4, 4), (4, 0x80), (4, 2), (12, 0), (4, 0)])) ∧
      exec (.spdmNegotiateAlgorithms t false) s = .next (s.respond t 0x7F [1])) ∧
    (3 ≤ s.sec.negotiated.getD t 0 →
      exec (.spdmGetDigests t) s = .next (s.respond t 0x01 ([0, 1] ++ chainDigest)) ∧
      (∀ certSlot offset length, exec (.spdmGetCertificate t certSlot offset length) s = .next (
        let part := ((Config.provisioned 1).drop offset).take (min length 4088)
        if certSlot ≠ 0 ∨ (Config.provisioned 1).length ≤ offset then s.respond t 0x7F [1]
        else s.respond t 0x02 ([0, 0] ++ fieldBytes [(2, part.length), (2, (Config.provisioned 1).length - offset - part.length)] ++ part))) ∧
      (∀ certSlot nonce, exec (.spdmChallenge t certSlot nonce) s = .next (
        let body := [0, 1] ++ chainDigest ++ leBytes 32 s.takeFree.1 ++ [0, 0]
        if certSlot ≠ 0 then s.respond t 0x7F [1]
        else s.takeFree.2.respond t 0x03 (body ++ padTo 96 (Config.sign 1 (leBytes 32 nonce ++ body))))) ∧
      (∀ certSlot measurement nonce (blocks : List Nat), blocks = (if measurement = 0 then []
          else if measurement = 0xFF then ((List.range 14).drop 1).filter (· ≠ 12) else [measurement]) →
        exec (.spdmGetMeasurements t certSlot measurement nonce) s = .next (
          let record := blocks.flatMap s.takeFree.2.measurementBlock
          let body := [if measurement = 0 then 13 else 0, 0, blocks.length] ++ leBytes 3 record.length ++ record ++ leBytes 32 s.takeFree.1 ++ [0, 0]
          if certSlot ≠ 0 ∨ (13 < measurement ∧ measurement ≠ 0xFF) then s.respond t 0x7F [1]
          else s.takeFree.2.respond t 0x60 (body ++ padTo 96 (Config.sign 1 (leBytes 32 nonce ++ body)))))) ∧
    exec (.spdmUnsupportedRequest t) s = .next (s.respond t 0x7F [7])) ∧
  (∀ port (s : State), s.mctpServes port = true →
    (∀ operation eid, exec (.setEndpointId port operation eid) s = .next (
      if 1 < operation ∨ eid = 0 ∨ 255 ≤ eid then s.emit (.mctp port 1 [2])
      else (s.modPort port fun p => { p with mctpEid := eid }).emit (.mctp port 1 [0, 0, eid]))) ∧
    exec (.getEndpointId port) s = .next (s.emit (.mctp port 2 [0, (s.port port).mctpEid])) ∧
    (∀ messageType, exec (.getMctpVersionSupport port messageType) s = .next (
      if messageType = 0xFF ∨ messageType = 0 ∨ messageType = 5 then s.emit (.mctp port 4 [0, 1, Config.identity 15])
      else s.emit (.mctp port 4 [0x80]))) ∧
    exec (.getMessageTypeSupport port) s = .next (s.emit (.mctp port 5 [0, 1, 5]))) ∧
  (∀ s : State, s.nat O.sleepStateCurrent ≠ 4 →
    exec .jtagBypass s = .next { s with dbg := { s.dbg with instruction := 1, drive := 0 } } ∧
    exec .jtagIdcode s = .next (({ s with dbg := { s.dbg with instruction := 2, drive := 0 } } : State).emit (.dbg s.idCode)) ∧
    (∀ capture preload (u : State), u = { s with dbg := { s.dbg with instruction := 3, drive := 0 } } →
      exec (.jtagSamplePreload capture preload) s = .next (({ u with dbg := { u.dbg with
        captured := u.scanned capture, boundary := preload % 2 ^ scanCells.length } } : State).emit (.dbg (u.scanned capture)))) ∧
    exec .jtagExtest s = .next { s with dbg := { s.dbg with instruction := 4, drive := 1 } } ∧
    exec .jtagClamp s = .next { s with dbg := { s.dbg with instruction := 5, drive := 1 } } ∧
    exec .jtagHighz s = .next { s with dbg := { s.dbg with instruction := 6, drive := 2 } }) ∧
  (∀ token appended status (s : State), s.fw.halted = true → s.nat O.startupPhase = 1 →
    status = (match (s.trapdoorToken 4 token appended).1 with
      | none => 1
      | some r => 0x80 + r) →
    exec (.dbgTokenShift token appended) s = .next (({ (s.trapdoorToken 4 token appended).2 with
      dbg := { (s.trapdoorToken 4 token appended).2.dbg with tokenStatus := status } } : State).emit (.dbg status)))

/-- A head is fenced and its operations end; a return run of a head starts with its zone's registers and its links, one of an
actuator with both preamplifiers; a return run ends failed where a link has failed, loads its actuator once the links are up, and on
a loaded actuator ends with what its calibration and tables found. -/
def Obligations.FenceAndReturnCommandsRun : Prop :=
  (∀ r head (s : State), s.checkPut r O.fenceHead (.num 1 (head : Nat)) = none →
    exec (.fenceHead r head) s = .next ((s.fenceHead head 6).endFencedIo.emit (.dict r.code 0))) ∧
  (∀ r head (u s : State), s.checkPut r O.returnHead (.num 1 (head : Nat)) = none → s.returnRefused = false →
    u = (match (s.startReturn head).layout.tables.find? fun t => decide (t.surface = head) with
      | some t => (match t.entries[((s.startReturn head).head head).zone]? with
        | some e => (s.startReturn head).zoneWrites head t.nominalRpm e
        | none => s.startReturn head)
      | none => s.startReturn head) →
    exec (.returnHead r head) s = .next (((((u.each (rslsOf head) fun v n => (v.setNat (O.rslState + n) 1).modRsl n fun r => { r with
      attempts := 0 }).modWrl head fun w => { w with due := true, attempts := 0 }).trainHead head none).emit (.dict r.code 0)))) ∧
  (∀ r act (s : State), s.checkPut r O.returnActuator (.num 1 (act : Nat)) = none → s.returnRefused = false →
    exec (.returnActuator r act) s = .next (((s.startReturn (64 + act)).each [2 * act, 2 * act + 1] State.bringUp).emit (.dict r.code 0))) ∧
  (∀ heads loops zones spares unit act (links : Nat → Bool) (s : State), s.nat O.returnRunState = 1 → unit = s.nat O.returnRunUnit →
    act = (if unit < 64 then actOf unit else unit - 64) →
    (∀ v, links v = (returnHeads unit).any fun h =>
      ([3 * h, 3 * h + 1, 3 * h + 2].any fun n => decide (s.nat (O.rslState + n) = v)) || decide (s.nat (O.wrlState + h) = v)) →
    (links 5 = true → exec (.returnRunEnd heads loops zones spares) s = .next (s.returnFails 1)) ∧
    (links 5 = false → links 1 = false → links 2 = false → (s.act act).load ≠ 2 →
      exec (.returnRunEnd heads loops zones spares) s = .next (s.returnLoad unit act)) ∧
    (links 5 = false → links 1 = false → links 2 = false → (s.act act).load = 2 →
      exec (.returnRunEnd heads loops zones spares) s = .next (s.finishReturn unit heads loops zones spares)))

/-- Where an LSS, SPDM, MCTP or JTAG command answers a next state, the heads, the actuators, the links, the layout, the caches, the
write path and the commands in flight are as before. -/
def Obligations.ServiceCommandsLeaveStorageAlone : Prop :=
  ∀ (c : Instr) (s t : State), (∃ b m, c = .lssSwitchStateGlobal b m) ∨ (∃ b v p r n, c = .lssSwitchStateSelective b v p r n) ∨
      (∃ b n, c = .lssConfigureNodeId b n) ∨ (∃ b, c = .lssStoreConfiguration b) ∨ (∃ b e, c = .lssInquireIdentity b e) ∨
      (∃ b, c = .lssInquireNodeId b) ∨ (∃ b n i u f, c = .lssFastscan b n i u f) ∨ (∃ b, c = .lssConfigureBitTiming b) ∨
      (∃ p, c = .spdmGetVersion p) ∨ (∃ p, c = .spdmGetCapabilities p) ∨ (∃ p o, c = .spdmNegotiateAlgorithms p o) ∨
      (∃ p, c = .spdmGetDigests p) ∨ (∃ p i o l, c = .spdmGetCertificate p i o l) ∨ (∃ p i n, c = .spdmChallenge p i n) ∨
      (∃ p i m n, c = .spdmGetMeasurements p i m n) ∨ (∃ p, c = .spdmUnsupportedRequest p) ∨ (∃ p o e, c = .setEndpointId p o e) ∨
      (∃ p, c = .getEndpointId p) ∨ (∃ p m, c = .getMctpVersionSupport p m) ∨ (∃ p, c = .getMessageTypeSupport p) ∨ c = .jtagBypass ∨
      c = .jtagIdcode ∨ (∃ a b, c = .jtagSamplePreload a b) ∨ c = .jtagExtest ∨ c = .jtagClamp ∨ c = .jtagHighz →
    exec c s = .next t → t.tick = s.tick ∧ t.pending = s.pending ∧ t.heads = s.heads ∧ t.acts = s.acts ∧ t.links = s.links ∧
      t.layout = s.layout ∧ t.larder = s.larder ∧ t.write = s.write ∧ t.cmds = s.cmds ∧ t.detect = s.detect ∧ t.rafter = s.rafter ∧
      t.spindle = s.spindle ∧ t.power = s.power ∧ t.keys = s.keys ∧ t.trunk = s.trunk
end

