-- ==== Sys2Proof/Laws/Inv.lean ====
section
/-! SUPPORT. The invariant is kept by the primitive updates of the state: one lemma for each way a part of it is written, and what the
lemmas of the operations need. -/

namespace Sys2Proof.Machine

/-- A map kept by inserting a key that it does not list, with a value other than the default. -/
theorem storeInsert_wf (d : Nat → Int) (l : List (Nat × Int)) (k : Nat) (v : Int) (hv : v ≠ d k) (h : storeWf d l = true)
    (hk : ∀ p ∈ l, p.1 ≠ k) : storeWf d (storeInsert l k v) = true := by
  induction l with
  | nil => simp [storeInsert, storeWf, hv]
  | cons p r ih =>
    obtain ⟨k', v'⟩ := p
    simp only [storeWf, Bool.and_eq_true, decide_eq_true_eq, List.all_eq_true] at h
    simp only [storeInsert]
    have hne : k' ≠ k := hk (k', v') (by simp)
    split
    · simp only [storeWf, Bool.and_eq_true, decide_eq_true_eq, List.all_eq_true, List.mem_cons]
      refine ⟨⟨hv, ?_⟩, ⟨h.1.1, h.1.2⟩, h.2⟩
      rintro q (rfl | hq)
      · assumption
      · exact lt_trans ‹_› (h.1.2 q hq)
    · simp only [storeWf, Bool.and_eq_true, decide_eq_true_eq, List.all_eq_true]
      refine ⟨⟨h.1.1, ?_⟩, ih h.2 fun q hq => hk q (by simp [hq])⟩
      intro q hq
      have hmem : q = (k, v) ∨ q ∈ r := by
        clear ih h hk
        induction r with
        | nil => simpa [storeInsert] using hq
        | cons a r ih =>
          obtain ⟨a1, a2⟩ := a
          simp only [storeInsert] at hq
          split at hq
          · simpa using hq
          · rcases List.mem_cons.1 hq with rfl | hq
            · simp
            · rcases ih hq with rfl | h <;> simp [*]
      rcases hmem with rfl | hq
      · simp; omega
      · exact h.1.2 q hq

/-- A part of a canonical store is canonical. -/
theorem storeWf_filter (d : Nat → Int) (l : List (Nat × Int)) (p : Nat × Int → Bool) (h : storeWf d l = true) :
    storeWf d (l.filter p) = true := by
  induction l with
  | nil => rfl
  | cons q r ih =>
    obtain ⟨k, v⟩ := q
    simp only [storeWf, Bool.and_eq_true, decide_eq_true_eq, List.all_eq_true] at h
    simp only [List.filter]
    split
    · simp only [storeWf, Bool.and_eq_true, decide_eq_true_eq, List.all_eq_true]
      exact ⟨⟨h.1.1, fun q hq => h.1.2 q (List.mem_filter.1 hq).1⟩, ih h.2⟩
    · exact ih h.2

/-- Writing a key keeps the store canonical. -/
theorem storePut_wf (d : Nat → Int) (l : List (Nat × Int)) (k : Nat) (v : Int) (h : storeWf d l = true) :
    storeWf d (storePut d l k v) = true := by
  unfold storePut
  have hf := storeWf_filter d l (fun p => p.1 ≠ k) h
  dsimp only
  split
  · exact hf
  · refine storeInsert_wf d _ k v ‹_› hf ?_
    intro p hp
    simpa using (List.mem_filter.1 hp).2

/-- A key that a list without an entry of it is inserted into reads as the value inserted. -/
theorem storeGet_insert_same (d : Nat → Int) (l : List (Nat × Int)) (k : Nat) (v : Int) (hk : ∀ p ∈ l, p.1 ≠ k) :
    storeGet d (storeInsert l k v) k = v := by
  induction l with
  | nil => simp [storeInsert, storeGet]
  | cons p r ih =>
    obtain ⟨k', v'⟩ := p
    have hne : k' ≠ k := hk (k', v') (by simp)
    simp only [storeInsert]
    split
    · simp [storeGet]
    · simp only [storeGet, if_neg (Ne.symm hne)]
      exact ih fun q hq => hk q (by simp [hq])

/-- Inserting one key leaves what every other key reads as. -/
theorem storeGet_insert_other (d : Nat → Int) (l : List (Nat × Int)) (k j : Nat) (v : Int) (hj : j ≠ k) :
    storeGet d (storeInsert l k v) j = storeGet d l j := by
  induction l with
  | nil => simp [storeInsert, storeGet, hj]
  | cons p r ih =>
    obtain ⟨k', v'⟩ := p
    simp only [storeInsert]
    split
    · simp [storeGet, hj]
    · simp only [storeGet, ih]

/-- A key taken out reads as its default. -/
theorem storeGet_filter_same (d : Nat → Int) (l : List (Nat × Int)) (k : Nat) :
    storeGet d (l.filter fun p => p.1 ≠ k) k = d k := by
  induction l with
  | nil => rfl
  | cons p r ih =>
    obtain ⟨k', v'⟩ := p
    by_cases h : k' = k
    · simpa [List.filter, h] using ih
    · simpa [List.filter, h, storeGet, Ne.symm h] using ih

/-- Taking one key out leaves what every other key reads as. -/
theorem storeGet_filter_other (d : Nat → Int) (l : List (Nat × Int)) (k j : Nat) (hj : j ≠ k) :
    storeGet d (l.filter fun p => p.1 ≠ k) j = storeGet d l j := by
  induction l with
  | nil => rfl
  | cons p r ih =>
    obtain ⟨k', v'⟩ := p
    by_cases h : k' = k
    · simpa [List.filter, h, storeGet, hj] using ih
    · by_cases h' : j = k'
      · simp [List.filter, h, storeGet, h']
      · simpa [List.filter, h, storeGet, h'] using ih

/-- A value written to an object is what it reads as. -/
@[simp] theorem State.obj_setObj_same (s : State) (k : Nat) (v : Int) : (s.setObj k v).obj k = v := by
  unfold State.setObj State.obj storePut
  dsimp only
  split
  · rename_i h
    rw [storeGet_filter_same, h]
  · exact storeGet_insert_same _ _ _ _ fun p hp => by simpa using (List.mem_filter.1 hp).2

/-- A value written to one object leaves every other object. -/
theorem State.obj_setObj_other (s : State) (k j : Nat) (v : Int) (hj : j ≠ k) : (s.setObj k v).obj j = s.obj j := by
  unfold State.setObj State.obj storePut
  dsimp only
  split
  · exact storeGet_filter_other _ _ _ _ hj
  · rw [storeGet_insert_other _ _ _ _ _ hj, storeGet_filter_other _ _ _ _ hj]

/-- A number written to an object is what it reads as. -/
@[simp] theorem State.nat_setNat_same (s : State) (k v : Nat) : (s.setNat k v).nat k = v := by
  simp [State.nat, State.setNat]

/-- A number written to one object leaves every other object. -/
theorem State.nat_setNat_other (s : State) (k j v : Nat) (hj : j ≠ k) : (s.setNat k v).nat j = s.nat j := by
  simp [State.nat, State.setNat, State.obj_setObj_other _ _ _ _ hj]

/-! ### The invariant -/

/-- The invariant of what an outcome leaves. -/
def OutInv (o : Host.Outcome State Fault Refusal) : Prop := ∀ t, o = .next t → t.Inv

/-- The invariant of the state beside a value. -/
def PairInv {α : Type} (p : α × State) : Prop := p.2.Inv

/-- The invariant of a state that may be there. -/
def OptInv (o : Option State) : Prop := ∀ t, o = some t → t.Inv

/-- The invariant of a state beside a value that may be there. -/
def OptPairInv {α : Type} (o : Option (α × State)) : Prop := ∀ v t, o = some (v, t) → t.Inv

/-- The invariant of a state that an operation answers unless it refuses. -/
def ExInv {ε : Type} (o : Except ε State) : Prop := ∀ t, o = .ok t → t.Inv

theorem OutInv.next {t : State} (h : t.Inv) : OutInv (.next t) := fun _ e => by cases e; exact h
theorem OutInv.fault {f : Fault} : OutInv (.fault f) := fun _ e => by cases e
theorem OutInv.refused {f : Refusal} : OutInv (.refused f) := fun _ e => by cases e
theorem OptInv.some {t : State} (h : t.Inv) : OptInv (some t) := fun _ e => by cases e; exact h
theorem OptInv.none : OptInv none := fun _ e => by cases e
theorem OptPairInv.some {α : Type} {v : α} {t : State} (h : t.Inv) : OptPairInv (some (v, t)) := fun _ _ e => by cases e; exact h
theorem OptPairInv.none {α : Type} : OptPairInv (none : Option (α × State)) := fun _ _ e => by cases e
theorem ExInv.ok {ε : Type} {t : State} (h : t.Inv) : ExInv (.ok t : Except ε State) := fun _ e => by cases e; exact h
theorem ExInv.error {ε : Type} {x : ε} : ExInv (.error x : Except ε State) := fun _ e => by cases e

theorem OutInv.use {o : Host.Outcome State Fault Refusal} {t : State} (e : o = .next t) (h : OutInv o) : t.Inv := h _ e
theorem OptInv.use {o : Option State} {t : State} (e : o = Option.some t) (h : OptInv o) : t.Inv := h _ e
theorem OptPairInv.use {α : Type} {o : Option (α × State)} {v : α} {t : State} (e : o = Option.some (v, t)) (h : OptPairInv o) :
    t.Inv := h _ _ e
theorem ExInv.use {ε : Type} {o : Except ε State} {t : State} (e : o = .ok t) (h : ExInv o) : t.Inv := h _ e
theorem PairInv.mk {α : Type} {v : α} {t : State} (h : t.Inv) : PairInv (v, t) := h
theorem PairInv.use {α : Type} {p : α × State} {v : α} {t : State} (e : p = (v, t)) (h : PairInv p) : t.Inv := by subst e; exact h

/-- A choice between two facts. -/
theorem ite_intro {c p q : Prop} [Decidable c] (hp : p) (hq : q) : if c then p else q := by split <;> assumption

/-- A choice between two states keeps what both keep. -/
theorem ite_inv {c : Prop} [Decidable c] {a b : State} (ha : a.Inv) (hb : b.Inv) : (if c then a else b).Inv := by split <;> assumption

/-- What follows from both sides of a choice follows from the choice. -/
theorem ite_imp {c p q r : Prop} [Decidable c] (hp : p → r) (hq : q → r) : (if c then p else q) → r := by split <;> assumption

/-- A fold keeps the invariant where each step does. -/
theorem foldl_inv {α : Type} {f : State → α → State} {l : List α} {s : State} (h : s.Inv) (hf : ∀ t x, t.Inv → (f t x).Inv) :
    (l.foldl f s).Inv := by
  induction l generalizing s with
  | nil => exact h
  | cons a l ih => exact ih (hf _ _ h)

/-- The invariant of a state built from its parts. -/
theorem State.Inv.ofParts {tick : Nat} {freeIx : Nat} {pending : List Instr} {outbox : List Output} {objs : List (Nat × Int)} {blobs : List (Nat ×
    List Nat)} {platform : Platform} {keys : List KeySlot} {faults : Faults} {shelf : Shelf} {trunk : Trunk} {wall : Wall}
    {mb : MgmtBus} {ports : List Port} {sub : Subsystem} {cmds : Commands} {larder : Larder} {layout : Layout} {links :
    Links} {heads : List Head} {acts : List Act} {pos : Positioning} {detect : Detect} {write : WritePath} {rafter : Rafter}
    {spindle : Spindle} {power : Power} {fw : Firmware} {sec : Security} {dbg : Dbg}
    (h : Kept objs keys.length ports.length mb.ports.length heads.length acts.length detect.streams.length links.pcls.length
      links.rsls.length links.wrls.length rafter.loops.length rafter.channels.length fw.slots.length) :
    State.Inv (State.mk tick freeIx pending outbox objs blobs platform keys faults shelf trunk wall mb ports sub cmds larder layout
      links heads acts pos detect write rafter spindle power fw sec dbg) := h

/-- The invariant of a state is that of its parts. -/
theorem State.Inv.mk_iff {tick : Nat} {freeIx : Nat} {pending : List Instr} {outbox : List Output} {objs : List (Nat × Int)} {blobs : List (Nat ×
    List Nat)} {platform : Platform} {keys : List KeySlot} {faults : Faults} {shelf : Shelf} {trunk : Trunk} {wall : Wall}
    {mb : MgmtBus} {ports : List Port} {sub : Subsystem} {cmds : Commands} {larder : Larder} {layout : Layout} {links :
    Links} {heads : List Head} {acts : List Act} {pos : Positioning} {detect : Detect} {write : WritePath} {rafter : Rafter}
    {spindle : Spindle} {power : Power} {fw : Firmware} {sec : Security} {dbg : Dbg}
    :
    State.Inv (State.mk tick freeIx pending outbox objs blobs platform keys faults shelf trunk wall mb ports sub cmds larder layout
      links heads acts pos detect write rafter spindle power fw sec dbg) ↔
    Kept objs keys.length ports.length mb.ports.length heads.length acts.length detect.streams.length links.pcls.length
      links.rsls.length links.wrls.length rafter.loops.length rafter.channels.length fw.slots.length := Iff.rfl

/-- The parts of a state that keeps the invariant. -/
theorem State.Inv.parts {s : State} (h : s.Inv) :
    Kept s.objs s.keys.length s.ports.length s.mb.ports.length s.heads.length s.acts.length s.detect.streams.length s.links.pcls.length
      s.links.rsls.length s.links.wrls.length s.rafter.loops.length s.rafter.channels.length s.fw.slots.length := h

theorem PairInv.snd {α : Type} {p : α × State} (h : PairInv p) : p.2.Inv := h

theorem State.setObj_inv {s : State} {k : Nat} {v : Int} (h : s.Inv) : (s.setObj k v).Inv :=
  { (show Kept s.objs _ _ _ _ _ _ _ _ _ _ _ _ from h) with store := storePut_wf _ _ _ _ h.store }

theorem State.each_inv {s : State} {l : List Nat} {f : State → Nat → State} (h : s.Inv) (hf : ∀ t x, t.Inv → (f t x).Inv) :
    (s.each l f).Inv := foldl_inv h hf

theorem State.writeVia_inv {s : State} {r : Requester} {k : Nat} {d : ObjData} {op : State → Except DictRefusal State} (h : s.Inv)
    (hop : ∀ t, t.Inv → ExInv (op t)) : (s.writeVia r k d op).Inv := by
  unfold State.writeVia
  split
  · exact h
  · split
    · rename_i t e
      exact (hop s h t e : t.Inv)
    · exact h

end Sys2Proof.Machine
end

