-- ==== Sys2Proof/Laws/InvOps.lean ====
section
/-! SUPPORT. The invariant is kept by the operations of Machine/Ops.lean. -/

set_option linter.all false

namespace Sys2Proof.Machine

theorem State.setNat_inv {s : State} {a1 : ℕ} {a2 : ℕ} (h0 : s.Inv) : (State.setNat s a1 a2).Inv := by
  unfold State.setNat
  repeat' first
    | with_reducible assumption
    | with_reducible apply State.setObj_inv
    | with_reducible apply foldl_inv
    | (with_reducible intro _)
    | (with_reducible apply State.Inv.ofParts; with_reducible refine State.Inv.parts ?_; with_reducible assumption)
    | (extract_lets +onlyGivenNames x; clear_value (hx : x = _); refine (fun hw : x.Inv => ?_) ((congrArg State.Inv hx).mpr ?_); clear hx)
    | (fail_if_no_progress extract_lets +onlyGivenNames x)
    | (with_reducible refine PairInv.use (by assumption) ?_)
    | (with_reducible refine OptPairInv.use (by assumption) ?_)
    | (with_reducible refine OptInv.use (by assumption) ?_)
    | (with_reducible refine ExInv.use (by assumption) ?_)
    | (with_reducible refine OutInv.use (by assumption) ?_)
    | split
    | (with_reducible apply State.Inv.ofParts; (first | rw [List.length_map] | rw [List.length_modify] | rw [List.length_set] | rw [List.length_mapIdx]); with_reducible refine State.Inv.parts ?_; with_reducible assumption)
    | (clear_value x; split)
    | (clear_value *; split)
    | (with_reducible apply PairInv.mk)
    | (with_reducible refine Eq.symm ?_; rfl)
    | (simp only [State.Inv.mk_iff]; refine State.Inv.parts ?_)
    | (simp only [List.length_map, List.length_modify, List.length_set])

theorem State.setBlob_inv {s : State} {a1 : ℕ} {a2 : List ℕ} (h0 : s.Inv) : (State.setBlob s a1 a2).Inv := by
  unfold State.setBlob
  repeat' first
    | with_reducible assumption
    | with_reducible apply foldl_inv
    | (with_reducible intro _)
    | (with_reducible apply State.Inv.ofParts; with_reducible refine State.Inv.parts ?_; with_reducible assumption)
    | (extract_lets +onlyGivenNames x; clear_value (hx : x = _); refine (fun hw : x.Inv => ?_) ((congrArg State.Inv hx).mpr ?_); clear hx)
    | (fail_if_no_progress extract_lets +onlyGivenNames x)
    | (with_reducible refine PairInv.use (by assumption) ?_)
    | (with_reducible refine OptPairInv.use (by assumption) ?_)
    | (with_reducible refine OptInv.use (by assumption) ?_)
    | (with_reducible refine ExInv.use (by assumption) ?_)
    | (with_reducible refine OutInv.use (by assumption) ?_)
    | split
    | (with_reducible apply State.Inv.ofParts; (first | rw [List.length_map] | rw [List.length_modify] | rw [List.length_set] | rw [List.length_mapIdx]); with_reducible refine State.Inv.parts ?_; with_reducible assumption)
    | (clear_value x; split)
    | (clear_value *; split)
    | (with_reducible apply PairInv.mk)
    | (with_reducible refine Eq.symm ?_; rfl)
    | (simp only [State.Inv.mk_iff]; refine State.Inv.parts ?_)
    | (simp only [List.length_map, List.length_modify, List.length_set])

theorem State.takeFree_inv {s : State} (h0 : s.Inv) : PairInv (State.takeFree s) := by
  unfold State.takeFree
  repeat' first
    | with_reducible assumption
    | with_reducible apply foldl_inv
    | (with_reducible intro _)
    | (with_reducible apply State.Inv.ofParts; with_reducible refine State.Inv.parts ?_; with_reducible assumption)
    | (extract_lets +onlyGivenNames x; clear_value (hx : x = _); refine (fun hw : x.Inv => ?_) ((congrArg State.Inv hx).mpr ?_); clear hx)
    | (fail_if_no_progress extract_lets +onlyGivenNames x)
    | (with_reducible refine PairInv.use (by assumption) ?_)
    | (with_reducible refine OptPairInv.use (by assumption) ?_)
    | (with_reducible refine OptInv.use (by assumption) ?_)
    | (with_reducible refine ExInv.use (by assumption) ?_)
    | (with_reducible refine OutInv.use (by assumption) ?_)
    | split
    | (with_reducible apply State.Inv.ofParts; (first | rw [List.length_map] | rw [List.length_modify] | rw [List.length_set] | rw [List.length_mapIdx]); with_reducible refine State.Inv.parts ?_; with_reducible assumption)
    | (clear_value x; split)
    | (clear_value *; split)
    | (with_reducible apply PairInv.mk)
    | (with_reducible refine Eq.symm ?_; rfl)
    | (simp only [State.Inv.mk_iff]; refine State.Inv.parts ?_)
    | (simp only [List.length_map, List.length_modify, List.length_set])

theorem State.emit_inv {s : State} {a1 : Output} (h0 : s.Inv) : (State.emit s a1).Inv := by
  unfold State.emit
  repeat' first
    | with_reducible assumption
    | with_reducible apply foldl_inv
    | (with_reducible intro _)
    | (with_reducible apply State.Inv.ofParts; with_reducible refine State.Inv.parts ?_; with_reducible assumption)
    | (extract_lets +onlyGivenNames x; clear_value (hx : x = _); refine (fun hw : x.Inv => ?_) ((congrArg State.Inv hx).mpr ?_); clear hx)
    | (fail_if_no_progress extract_lets +onlyGivenNames x)
    | (with_reducible refine PairInv.use (by assumption) ?_)
    | (with_reducible refine OptPairInv.use (by assumption) ?_)
    | (with_reducible refine OptInv.use (by assumption) ?_)
    | (with_reducible refine ExInv.use (by assumption) ?_)
    | (with_reducible refine OutInv.use (by assumption) ?_)
    | split
    | (with_reducible apply State.Inv.ofParts; (first | rw [List.length_map] | rw [List.length_modify] | rw [List.length_set] | rw [List.length_mapIdx]); with_reducible refine State.Inv.parts ?_; with_reducible assumption)
    | (clear_value x; split)
    | (clear_value *; split)
    | (with_reducible apply PairInv.mk)
    | (with_reducible refine Eq.symm ?_; rfl)
    | (simp only [State.Inv.mk_iff]; refine State.Inv.parts ?_)
    | (simp only [List.length_map, List.length_modify, List.length_set])

theorem State.bump_inv {s : State} {a1 : ℕ} (h0 : s.Inv) : (State.bump s a1).Inv := by
  unfold State.bump
  repeat' first
    | with_reducible assumption
    | with_reducible apply State.setNat_inv
    | with_reducible apply State.takeFree_inv
    | with_reducible apply foldl_inv
    | (with_reducible intro _)
    | (with_reducible apply State.Inv.ofParts; with_reducible refine State.Inv.parts ?_; with_reducible assumption)
    | (with_reducible apply PairInv.snd; first | with_reducible apply State.takeFree_inv)
    | (extract_lets +onlyGivenNames x; clear_value (hx : x = _); refine (fun hw : x.Inv => ?_) ((congrArg State.Inv hx).mpr ?_); clear hx)
    | (fail_if_no_progress extract_lets +onlyGivenNames x)
    | (with_reducible refine PairInv.use (by assumption) ?_)
    | (with_reducible refine OptPairInv.use (by assumption) ?_)
    | (with_reducible refine OptInv.use (by assumption) ?_)
    | (with_reducible refine ExInv.use (by assumption) ?_)
    | (with_reducible refine OutInv.use (by assumption) ?_)
    | split
    | (with_reducible apply State.Inv.ofParts; (first | rw [List.length_map] | rw [List.length_modify] | rw [List.length_set] | rw [List.length_mapIdx]); with_reducible refine State.Inv.parts ?_; with_reducible assumption)
    | (clear_value x; split)
    | (clear_value *; split)
    | (with_reducible apply PairInv.mk)
    | (with_reducible refine Eq.symm ?_; rfl)
    | (simp only [State.Inv.mk_iff]; refine State.Inv.parts ?_)
    | (simp only [List.length_map, List.length_modify, List.length_set])

theorem State.bumpBy_inv {s : State} {a1 a2 : Nat} (h0 : s.Inv) : (s.bumpBy a1 a2).Inv := by
  induction a2 generalizing s with
  | zero => exact h0
  | succ n ih => exact ih (State.bump_inv h0)

theorem State.modHead_inv {s : State} {a1 : Nat} {a2 : Head → Head} (h0 : s.Inv) : (s.modHead a1 a2).Inv :=
  { (show Kept s.objs _ _ _ _ _ _ _ _ _ _ _ _ from h0) with heads := by simpa [State.modHead] using h0.heads }

theorem State.modAct_inv {s : State} {a1 : Nat} {a2 : Act → Act} (h0 : s.Inv) : (s.modAct a1 a2).Inv :=
  { (show Kept s.objs _ _ _ _ _ _ _ _ _ _ _ _ from h0) with acts := by simpa [State.modAct] using h0.acts }

theorem State.modPort_inv {s : State} {a1 : Nat} {a2 : Port → Port} (h0 : s.Inv) : (s.modPort a1 a2).Inv :=
  { (show Kept s.objs _ _ _ _ _ _ _ _ _ _ _ _ from h0) with ports := by simpa [State.modPort] using h0.ports }

theorem State.modStream_inv {s : State} {a1 : Nat} {a2 : Stream → Stream} (h0 : s.Inv) : (s.modStream a1 a2).Inv :=
  { (show Kept s.objs _ _ _ _ _ _ _ _ _ _ _ _ from h0) with streams := by simpa [State.modStream] using h0.streams }

theorem State.modLoop_inv {s : State} {a1 : Nat} {a2 : Loop → Loop} (h0 : s.Inv) : (s.modLoop a1 a2).Inv :=
  { (show Kept s.objs _ _ _ _ _ _ _ _ _ _ _ _ from h0) with loops := by simpa [State.modLoop] using h0.loops }

theorem State.setPoint_inv {s : State} {a1 : ℕ} {a2 : ℕ} {a3 : ℤ} (h0 : s.Inv) : (State.setPoint s a1 a2 a3).Inv := by
  unfold State.setPoint
  repeat' first
    | with_reducible assumption
    | with_reducible apply foldl_inv
    | (with_reducible intro _)
    | (with_reducible apply State.Inv.ofParts; with_reducible refine State.Inv.parts ?_; with_reducible assumption)
    | (extract_lets +onlyGivenNames x; clear_value (hx : x = _); refine (fun hw : x.Inv => ?_) ((congrArg State.Inv hx).mpr ?_); clear hx)
    | (fail_if_no_progress extract_lets +onlyGivenNames x)
    | (with_reducible refine PairInv.use (by assumption) ?_)
    | (with_reducible refine OptPairInv.use (by assumption) ?_)
    | (with_reducible refine OptInv.use (by assumption) ?_)
    | (with_reducible refine ExInv.use (by assumption) ?_)
    | (with_reducible refine OutInv.use (by assumption) ?_)
    | split
    | (with_reducible apply State.Inv.ofParts; (first | rw [List.length_map] | rw [List.length_modify] | rw [List.length_set] | rw [List.length_mapIdx]); with_reducible refine State.Inv.parts ?_; with_reducible assumption)
    | (clear_value x; split)
    | (clear_value *; split)
    | (with_reducible apply PairInv.mk)
    | (with_reducible refine Eq.symm ?_; rfl)
    | (simp only [State.Inv.mk_iff]; refine State.Inv.parts ?_)
    | (simp only [List.length_map, List.length_modify, List.length_set])

theorem State.modPcl_inv {s : State} {a1 : Nat} {a2 : Pcl → Pcl} (h0 : s.Inv) : (s.modPcl a1 a2).Inv :=
  { (show Kept s.objs _ _ _ _ _ _ _ _ _ _ _ _ from h0) with pcls := by simpa [State.modPcl] using h0.pcls }

theorem State.modRsl_inv {s : State} {a1 : Nat} {a2 : Rsl → Rsl} (h0 : s.Inv) : (s.modRsl a1 a2).Inv :=
  { (show Kept s.objs _ _ _ _ _ _ _ _ _ _ _ _ from h0) with rsls := by simpa [State.modRsl] using h0.rsls }

theorem State.modWrl_inv {s : State} {a1 : Nat} {a2 : Wrl → Wrl} (h0 : s.Inv) : (s.modWrl a1 a2).Inv :=
  { (show Kept s.objs _ _ _ _ _ _ _ _ _ _ _ _ from h0) with wrls := by simpa [State.modWrl] using h0.wrls }

theorem State.modBus_inv {s : State} {a1 : Nat} {a2 : BusPort → BusPort} (h0 : s.Inv) : (s.modBus a1 a2).Inv :=
  { (show Kept s.objs _ _ _ _ _ _ _ _ _ _ _ _ from h0) with buses := by simpa [State.modBus] using h0.buses }

theorem State.modKey_inv {s : State} {a1 : Nat} {a2 : KeySlot → KeySlot} (h0 : s.Inv) : (s.modKey a1 a2).Inv :=
  { (show Kept s.objs _ _ _ _ _ _ _ _ _ _ _ _ from h0) with keys := by simpa [State.modKey] using h0.keys }

theorem State.modFwSlot_inv {s : State} {a1 : Nat} {a2 : FwSlot → FwSlot} (h0 : s.Inv) : (s.modFwSlot a1 a2).Inv :=
  { (show Kept s.objs _ _ _ _ _ _ _ _ _ _ _ _ from h0) with slots := by simpa [State.modFwSlot] using h0.slots }

theorem State.startRun_inv {s : State} {a1 : ℕ} (h0 : s.Inv) : (State.startRun s a1).Inv := by
  unfold State.startRun
  repeat' first
    | with_reducible assumption
    | with_reducible apply State.setNat_inv
    | with_reducible apply foldl_inv
    | (with_reducible intro _)
    | (with_reducible apply State.Inv.ofParts; with_reducible refine State.Inv.parts ?_; with_reducible assumption)
    | (extract_lets +onlyGivenNames x; clear_value (hx : x = _); refine (fun hw : x.Inv => ?_) ((congrArg State.Inv hx).mpr ?_); clear hx)
    | (fail_if_no_progress extract_lets +onlyGivenNames x)
    | (with_reducible refine PairInv.use (by assumption) ?_)
    | (with_reducible refine OptPairInv.use (by assumption) ?_)
    | (with_reducible refine OptInv.use (by assumption) ?_)
    | (with_reducible refine ExInv.use (by assumption) ?_)
    | (with_reducible refine OutInv.use (by assumption) ?_)
    | split
    | (with_reducible apply State.Inv.ofParts; (first | rw [List.length_map] | rw [List.length_modify] | rw [List.length_set] | rw [List.length_mapIdx]); with_reducible refine State.Inv.parts ?_; with_reducible assumption)
    | (clear_value x; split)
    | (clear_value *; split)
    | (with_reducible apply PairInv.mk)
    | (with_reducible refine Eq.symm ?_; rfl)
    | (simp only [State.Inv.mk_iff]; refine State.Inv.parts ?_)
    | (simp only [List.length_map, List.length_modify, List.length_set])

theorem State.endRun_inv {s : State} {a1 : ℕ} {a2 : ℕ} (h0 : s.Inv) : (State.endRun s a1 a2).Inv := by
  unfold State.endRun
  repeat' first
    | with_reducible assumption
    | with_reducible apply State.setNat_inv
    | with_reducible apply foldl_inv
    | (with_reducible intro _)
    | (with_reducible apply State.Inv.ofParts; with_reducible refine State.Inv.parts ?_; with_reducible assumption)
    | (extract_lets +onlyGivenNames x; clear_value (hx : x = _); refine (fun hw : x.Inv => ?_) ((congrArg State.Inv hx).mpr ?_); clear hx)
    | (fail_if_no_progress extract_lets +onlyGivenNames x)
    | (with_reducible refine PairInv.use (by assumption) ?_)
    | (with_reducible refine OptPairInv.use (by assumption) ?_)
    | (with_reducible refine OptInv.use (by assumption) ?_)
    | (with_reducible refine ExInv.use (by assumption) ?_)
    | (with_reducible refine OutInv.use (by assumption) ?_)
    | split
    | (with_reducible apply State.Inv.ofParts; (first | rw [List.length_map] | rw [List.length_modify] | rw [List.length_set] | rw [List.length_mapIdx]); with_reducible refine State.Inv.parts ?_; with_reducible assumption)
    | (clear_value x; split)
    | (clear_value *; split)
    | (with_reducible apply PairInv.mk)
    | (with_reducible refine Eq.symm ?_; rfl)
    | (simp only [State.Inv.mk_iff]; refine State.Inv.parts ?_)
    | (simp only [List.length_map, List.length_modify, List.length_set])

theorem State.setCodeConfig_inv {s : State} {a1 : CodeConfig} (h0 : s.Inv) : (State.setCodeConfig s a1).Inv := by
  unfold State.setCodeConfig
  repeat' first
    | with_reducible assumption
    | with_reducible apply foldl_inv
    | (with_reducible intro _)
    | (with_reducible apply State.Inv.ofParts; with_reducible refine State.Inv.parts ?_; with_reducible assumption)
    | (extract_lets +onlyGivenNames x; clear_value (hx : x = _); refine (fun hw : x.Inv => ?_) ((congrArg State.Inv hx).mpr ?_); clear hx)
    | (fail_if_no_progress extract_lets +onlyGivenNames x)
    | (with_reducible refine PairInv.use (by assumption) ?_)
    | (with_reducible refine OptPairInv.use (by assumption) ?_)
    | (with_reducible refine OptInv.use (by assumption) ?_)
    | (with_reducible refine ExInv.use (by assumption) ?_)
    | (with_reducible refine OutInv.use (by assumption) ?_)
    | split
    | (with_reducible apply State.Inv.ofParts; (first | rw [List.length_map] | rw [List.length_modify] | rw [List.length_set] | rw [List.length_mapIdx]); with_reducible refine State.Inv.parts ?_; with_reducible assumption)
    | (clear_value x; split)
    | (clear_value *; split)
    | (with_reducible apply PairInv.mk)
    | (with_reducible refine Eq.symm ?_; rfl)
    | (simp only [State.Inv.mk_iff]; refine State.Inv.parts ?_)
    | (simp only [List.length_map, List.length_modify, List.length_set])

theorem State.shelfDrop_inv {s : State} {a1 : Option ℕ} (h0 : s.Inv) : (State.shelfDrop s a1).Inv := by
  unfold State.shelfDrop
  repeat' first
    | with_reducible assumption
    | with_reducible apply foldl_inv
    | (with_reducible intro _)
    | (with_reducible apply State.Inv.ofParts; with_reducible refine State.Inv.parts ?_; with_reducible assumption)
    | (extract_lets +onlyGivenNames x; clear_value (hx : x = _); refine (fun hw : x.Inv => ?_) ((congrArg State.Inv hx).mpr ?_); clear hx)
    | (fail_if_no_progress extract_lets +onlyGivenNames x)
    | (with_reducible refine PairInv.use (by assumption) ?_)
    | (with_reducible refine OptPairInv.use (by assumption) ?_)
    | (with_reducible refine OptInv.use (by assumption) ?_)
    | (with_reducible refine ExInv.use (by assumption) ?_)
    | (with_reducible refine OutInv.use (by assumption) ?_)
    | split
    | (with_reducible apply State.Inv.ofParts; (first | rw [List.length_map] | rw [List.length_modify] | rw [List.length_set] | rw [List.length_mapIdx]); with_reducible refine State.Inv.parts ?_; with_reducible assumption)
    | (clear_value x; split)
    | (clear_value *; split)
    | (with_reducible apply PairInv.mk)
    | (with_reducible refine Eq.symm ?_; rfl)
    | (simp only [State.Inv.mk_iff]; refine State.Inv.parts ?_)
    | (simp only [List.length_map, List.length_modify, List.length_set])

theorem State.shelfEvent_inv {s : State} {a1 : ℕ} {a2 : ℕ} {a3 : ℕ} {a4 : ℕ} {a5 : Bool} {a6 : List ℕ} (h0 : s.Inv) : PairInv (State.shelfEvent s a1 a2 a3 a4 a5 a6) := by
  unfold State.shelfEvent
  simp only []
  generalize 1000000 = m
  split
  · exact PairInv.mk (State.shelfDrop_inv (State.setCodeConfig_inv h0))
  · generalize hs : (if (decide (a1 = 1) || decide (a1 = 2)) = true then s else _) = w
    have hw : w.Inv := by
      subst hs
      split
      · exact h0
      · exact State.setCodeConfig_inv h0
    rw [apply_ite (PairInv (α := Option Nat))]
    exact ite_intro (PairInv.mk (State.shelfDrop_inv hw)) (PairInv.mk (State.Inv.ofParts hw.parts))

theorem State.note_inv {s : State} {a1 : ℕ} {a2 : ℕ} {a3 : List ℕ} (h0 : s.Inv) : (State.note s a1 a2 a3).Inv := by
  unfold State.note
  repeat' first
    | with_reducible assumption
    | with_reducible apply State.shelfEvent_inv
    | with_reducible apply foldl_inv
    | (with_reducible intro _)
    | (with_reducible apply State.Inv.ofParts; with_reducible refine State.Inv.parts ?_; with_reducible assumption)
    | (with_reducible apply PairInv.snd; first | with_reducible apply State.shelfEvent_inv)
    | (extract_lets +onlyGivenNames x; clear_value (hx : x = _); refine (fun hw : x.Inv => ?_) ((congrArg State.Inv hx).mpr ?_); clear hx)
    | (fail_if_no_progress extract_lets +onlyGivenNames x)
    | (with_reducible refine PairInv.use (by assumption) ?_)
    | (with_reducible refine OptPairInv.use (by assumption) ?_)
    | (with_reducible refine OptInv.use (by assumption) ?_)
    | (with_reducible refine ExInv.use (by assumption) ?_)
    | (with_reducible refine OutInv.use (by assumption) ?_)
    | split
    | (with_reducible apply State.Inv.ofParts; (first | rw [List.length_map] | rw [List.length_modify] | rw [List.length_set] | rw [List.length_mapIdx]); with_reducible refine State.Inv.parts ?_; with_reducible assumption)
    | (clear_value x; split)
    | (clear_value *; split)
    | (with_reducible apply PairInv.mk)
    | (with_reducible refine Eq.symm ?_; rfl)
    | (simp only [State.Inv.mk_iff]; refine State.Inv.parts ?_)
    | (simp only [List.length_map, List.length_modify, List.length_set])

theorem State.trunk'_inv {s : State} {a1 : ℕ} {a2 : List ℕ} {a3 : Bool} (h0 : s.Inv) : (State.trunk' s a1 a2 a3).Inv := by
  unfold State.trunk'
  repeat' first
    | with_reducible assumption
    | with_reducible apply foldl_inv
    | (with_reducible intro _)
    | (with_reducible apply State.Inv.ofParts; with_reducible refine State.Inv.parts ?_; with_reducible assumption)
    | (extract_lets +onlyGivenNames x; clear_value (hx : x = _); refine (fun hw : x.Inv => ?_) ((congrArg State.Inv hx).mpr ?_); clear hx)
    | (fail_if_no_progress extract_lets +onlyGivenNames x)
    | (with_reducible refine PairInv.use (by assumption) ?_)
    | (with_reducible refine OptPairInv.use (by assumption) ?_)
    | (with_reducible refine OptInv.use (by assumption) ?_)
    | (with_reducible refine ExInv.use (by assumption) ?_)
    | (with_reducible refine OutInv.use (by assumption) ?_)
    | split
    | (with_reducible apply State.Inv.ofParts; (first | rw [List.length_map] | rw [List.length_modify] | rw [List.length_set] | rw [List.length_mapIdx]); with_reducible refine State.Inv.parts ?_; with_reducible assumption)
    | (clear_value x; split)
    | (clear_value *; split)
    | (with_reducible apply PairInv.mk)
    | (with_reducible refine Eq.symm ?_; rfl)
    | (simp only [State.Inv.mk_iff]; refine State.Inv.parts ?_)
    | (simp only [List.length_map, List.length_modify, List.length_set])

theorem State.append_inv {s : State} {a1 : ℕ} {a2 : List ℕ} (h0 : s.Inv) : (State.append s a1 a2).Inv := by
  unfold State.append
  repeat' first
    | with_reducible assumption
    | with_reducible apply State.trunk'_inv
    | with_reducible apply foldl_inv
    | (with_reducible intro _)
    | (with_reducible apply State.Inv.ofParts; with_reducible refine State.Inv.parts ?_; with_reducible assumption)
    | (extract_lets +onlyGivenNames x; clear_value (hx : x = _); refine (fun hw : x.Inv => ?_) ((congrArg State.Inv hx).mpr ?_); clear hx)
    | (fail_if_no_progress extract_lets +onlyGivenNames x)
    | (with_reducible refine PairInv.use (by assumption) ?_)
    | (with_reducible refine OptPairInv.use (by assumption) ?_)
    | (with_reducible refine OptInv.use (by assumption) ?_)
    | (with_reducible refine ExInv.use (by assumption) ?_)
    | (with_reducible refine OutInv.use (by assumption) ?_)
    | split
    | (with_reducible apply State.Inv.ofParts; (first | rw [List.length_map] | rw [List.length_modify] | rw [List.length_set] | rw [List.length_mapIdx]); with_reducible refine State.Inv.parts ?_; with_reducible assumption)
    | (clear_value x; split)
    | (clear_value *; split)
    | (with_reducible apply PairInv.mk)
    | (with_reducible refine Eq.symm ?_; rfl)
    | (simp only [State.Inv.mk_iff]; refine State.Inv.parts ?_)
    | (simp only [List.length_map, List.length_modify, List.length_set])

theorem State.appendRaising_inv {s : State} {a1 : ℕ} {a2 : ℕ} {a3 : ℕ} {a4 : ℕ} (h0 : s.Inv) : (State.appendRaising s a1 a2 a3 a4).Inv := by
  unfold State.appendRaising
  repeat' first
    | with_reducible assumption
    | with_reducible apply State.append_inv
    | with_reducible apply foldl_inv
    | (with_reducible intro _)
    | (with_reducible apply State.Inv.ofParts; with_reducible refine State.Inv.parts ?_; with_reducible assumption)
    | (extract_lets +onlyGivenNames x; clear_value (hx : x = _); refine (fun hw : x.Inv => ?_) ((congrArg State.Inv hx).mpr ?_); clear hx)
    | (fail_if_no_progress extract_lets +onlyGivenNames x)
    | (with_reducible refine PairInv.use (by assumption) ?_)
    | (with_reducible refine OptPairInv.use (by assumption) ?_)
    | (with_reducible refine OptInv.use (by assumption) ?_)
    | (with_reducible refine ExInv.use (by assumption) ?_)
    | (with_reducible refine OutInv.use (by assumption) ?_)
    | split
    | (with_reducible apply State.Inv.ofParts; (first | rw [List.length_map] | rw [List.length_modify] | rw [List.length_set] | rw [List.length_mapIdx]); with_reducible refine State.Inv.parts ?_; with_reducible assumption)
    | (clear_value x; split)
    | (clear_value *; split)
    | (with_reducible apply PairInv.mk)
    | (with_reducible refine Eq.symm ?_; rfl)
    | (simp only [State.Inv.mk_iff]; refine State.Inv.parts ?_)
    | (simp only [List.length_map, List.length_modify, List.length_set])

theorem State.queueEmcy_inv {s : State} {a1 : ℕ} {a2 : List ℕ} (h0 : s.Inv) : (State.queueEmcy s a1 a2).Inv := by
  unfold State.queueEmcy
  repeat' first
    | with_reducible assumption
    | with_reducible apply foldl_inv
    | (with_reducible intro _)
    | (with_reducible apply State.Inv.ofParts; with_reducible refine State.Inv.parts ?_; with_reducible assumption)
    | (extract_lets +onlyGivenNames x; clear_value (hx : x = _); refine (fun hw : x.Inv => ?_) ((congrArg State.Inv hx).mpr ?_); clear hx)
    | (fail_if_no_progress extract_lets +onlyGivenNames x)
    | (with_reducible refine PairInv.use (by assumption) ?_)
    | (with_reducible refine OptPairInv.use (by assumption) ?_)
    | (with_reducible refine OptInv.use (by assumption) ?_)
    | (with_reducible refine ExInv.use (by assumption) ?_)
    | (with_reducible refine OutInv.use (by assumption) ?_)
    | split
    | (with_reducible apply State.Inv.ofParts; (first | rw [List.length_map] | rw [List.length_modify] | rw [List.length_set] | rw [List.length_mapIdx]); with_reducible refine State.Inv.parts ?_; with_reducible assumption)
    | (clear_value x; split)
    | (clear_value *; split)
    | (with_reducible apply PairInv.mk)
    | (with_reducible refine Eq.symm ?_; rfl)
    | (simp only [State.Inv.mk_iff]; refine State.Inv.parts ?_)
    | (simp only [List.length_map, List.length_modify, List.length_set])

theorem State.noteErrorRegister_inv {s : State} (h0 : s.Inv) : (State.noteErrorRegister s).Inv := by
  unfold State.noteErrorRegister
  repeat' first
    | with_reducible assumption
    | with_reducible apply State.queueEmcy_inv
    | with_reducible apply foldl_inv
    | (with_reducible intro _)
    | (with_reducible apply State.Inv.ofParts; with_reducible refine State.Inv.parts ?_; with_reducible assumption)
    | (extract_lets +onlyGivenNames x; clear_value (hx : x = _); refine (fun hw : x.Inv => ?_) ((congrArg State.Inv hx).mpr ?_); clear hx)
    | (fail_if_no_progress extract_lets +onlyGivenNames x)
    | (with_reducible refine PairInv.use (by assumption) ?_)
    | (with_reducible refine OptPairInv.use (by assumption) ?_)
    | (with_reducible refine OptInv.use (by assumption) ?_)
    | (with_reducible refine ExInv.use (by assumption) ?_)
    | (with_reducible refine OutInv.use (by assumption) ?_)
    | split
    | (with_reducible apply State.Inv.ofParts; (first | rw [List.length_map] | rw [List.length_modify] | rw [List.length_set] | rw [List.length_mapIdx]); with_reducible refine State.Inv.parts ?_; with_reducible assumption)
    | (clear_value x; split)
    | (clear_value *; split)
    | (with_reducible apply PairInv.mk)
    | (with_reducible refine Eq.symm ?_; rfl)
    | (simp only [State.Inv.mk_iff]; refine State.Inv.parts ?_)
    | (simp only [List.length_map, List.length_modify, List.length_set])

theorem State.drivePin_inv {s : State} (h0 : s.Inv) : (State.drivePin s).Inv := by
  unfold State.drivePin
  repeat' first
    | with_reducible assumption
    | with_reducible apply foldl_inv
    | (with_reducible intro _)
    | (with_reducible apply State.Inv.ofParts; with_reducible refine State.Inv.parts ?_; with_reducible assumption)
    | (extract_lets +onlyGivenNames x; clear_value (hx : x = _); refine (fun hw : x.Inv => ?_) ((congrArg State.Inv hx).mpr ?_); clear hx)
    | (fail_if_no_progress extract_lets +onlyGivenNames x)
    | (with_reducible refine PairInv.use (by assumption) ?_)
    | (with_reducible refine OptPairInv.use (by assumption) ?_)
    | (with_reducible refine OptInv.use (by assumption) ?_)
    | (with_reducible refine ExInv.use (by assumption) ?_)
    | (with_reducible refine OutInv.use (by assumption) ?_)
    | split
    | (with_reducible apply State.Inv.ofParts; (first | rw [List.length_map] | rw [List.length_modify] | rw [List.length_set] | rw [List.length_mapIdx]); with_reducible refine State.Inv.parts ?_; with_reducible assumption)
    | (clear_value x; split)
    | (clear_value *; split)
    | (with_reducible apply PairInv.mk)
    | (with_reducible refine Eq.symm ?_; rfl)
    | (simp only [State.Inv.mk_iff]; refine State.Inv.parts ?_)
    | (simp only [List.length_map, List.length_modify, List.length_set])

theorem State.pclIssueOne_inv {s : State} {a1 : ℕ} (h0 : s.Inv) : (State.pclIssueOne s a1).Inv := by
  unfold State.pclIssueOne
  repeat' first
    | with_reducible assumption
    | with_reducible apply State.emit_inv
    | with_reducible apply State.modPcl_inv
    | with_reducible apply foldl_inv
    | (with_reducible intro _)
    | (with_reducible apply State.Inv.ofParts; with_reducible refine State.Inv.parts ?_; with_reducible assumption)
    | (extract_lets +onlyGivenNames x; clear_value (hx : x = _); refine (fun hw : x.Inv => ?_) ((congrArg State.Inv hx).mpr ?_); clear hx)
    | (fail_if_no_progress extract_lets +onlyGivenNames x)
    | (with_reducible refine PairInv.use (by assumption) ?_)
    | (with_reducible refine OptPairInv.use (by assumption) ?_)
    | (with_reducible refine OptInv.use (by assumption) ?_)
    | (with_reducible refine ExInv.use (by assumption) ?_)
    | (with_reducible refine OutInv.use (by assumption) ?_)
    | split
    | (with_reducible apply State.Inv.ofParts; (first | rw [List.length_map] | rw [List.length_modify] | rw [List.length_set] | rw [List.length_mapIdx]); with_reducible refine State.Inv.parts ?_; with_reducible assumption)
    | (clear_value x; split)
    | (clear_value *; split)
    | (with_reducible apply PairInv.mk)
    | (with_reducible refine Eq.symm ?_; rfl)
    | (simp only [State.Inv.mk_iff]; refine State.Inv.parts ?_)
    | (simp only [List.length_map, List.length_modify, List.length_set])

theorem State.pclIssue_inv {s : State} {a1 : ℕ} (h0 : s.Inv) : (State.pclIssue s a1).Inv := by
  unfold State.pclIssue
  repeat' first
    | with_reducible assumption
    | with_reducible apply State.pclIssueOne_inv
    | with_reducible apply foldl_inv
    | (with_reducible intro _)
    | (with_reducible apply State.Inv.ofParts; with_reducible refine State.Inv.parts ?_; with_reducible assumption)
    | (extract_lets +onlyGivenNames x; clear_value (hx : x = _); refine (fun hw : x.Inv => ?_) ((congrArg State.Inv hx).mpr ?_); clear hx)
    | (fail_if_no_progress extract_lets +onlyGivenNames x)
    | (with_reducible refine PairInv.use (by assumption) ?_)
    | (with_reducible refine OptPairInv.use (by assumption) ?_)
    | (with_reducible refine OptInv.use (by assumption) ?_)
    | (with_reducible refine ExInv.use (by assumption) ?_)
    | (with_reducible refine OutInv.use (by assumption) ?_)
    | split
    | (with_reducible apply State.Inv.ofParts; (first | rw [List.length_map] | rw [List.length_modify] | rw [List.length_set] | rw [List.length_mapIdx]); with_reducible refine State.Inv.parts ?_; with_reducible assumption)
    | (clear_value x; split)
    | (clear_value *; split)
    | (with_reducible apply PairInv.mk)
    | (with_reducible refine Eq.symm ?_; rfl)
    | (simp only [State.Inv.mk_iff]; refine State.Inv.parts ?_)
    | (simp only [List.length_map, List.length_modify, List.length_set])

theorem State.pclAsk_inv {s : State} {a1 : ℕ} {a2 : ℕ} {a3 : ℕ} {a4 : ℕ} {a5 : ℕ} {a6 : Bool} (h0 : s.Inv) : (State.pclAsk s a1 a2 a3 a4 a5 a6).Inv := by
  unfold State.pclAsk
  repeat' first
    | with_reducible assumption
    | with_reducible apply State.pclIssue_inv
    | with_reducible apply State.modPcl_inv
    | with_reducible apply foldl_inv
    | (with_reducible intro _)
    | (with_reducible apply State.Inv.ofParts; with_reducible refine State.Inv.parts ?_; with_reducible assumption)
    | (extract_lets +onlyGivenNames x; clear_value (hx : x = _); refine (fun hw : x.Inv => ?_) ((congrArg State.Inv hx).mpr ?_); clear hx)
    | (fail_if_no_progress extract_lets +onlyGivenNames x)
    | (with_reducible refine PairInv.use (by assumption) ?_)
    | (with_reducible refine OptPairInv.use (by assumption) ?_)
    | (with_reducible refine OptInv.use (by assumption) ?_)
    | (with_reducible refine ExInv.use (by assumption) ?_)
    | (with_reducible refine OutInv.use (by assumption) ?_)
    | split
    | (with_reducible apply State.Inv.ofParts; (first | rw [List.length_map] | rw [List.length_modify] | rw [List.length_set] | rw [List.length_mapIdx]); with_reducible refine State.Inv.parts ?_; with_reducible assumption)
    | (clear_value x; split)
    | (clear_value *; split)
    | (with_reducible apply PairInv.mk)
    | (with_reducible refine Eq.symm ?_; rfl)
    | (simp only [State.Inv.mk_iff]; refine State.Inv.parts ?_)
    | (simp only [List.length_map, List.length_modify, List.length_set])

theorem State.pclWrite_inv {s : State} {a1 : ℕ} {a2 : ℕ} {a3 : ℕ} (h0 : s.Inv) : (State.pclWrite s a1 a2 a3).Inv := by
  unfold State.pclWrite
  repeat' first
    | with_reducible assumption
    | with_reducible apply State.pclAsk_inv
    | with_reducible apply foldl_inv
    | (with_reducible intro _)
    | (with_reducible apply State.Inv.ofParts; with_reducible refine State.Inv.parts ?_; with_reducible assumption)
    | (extract_lets +onlyGivenNames x; clear_value (hx : x = _); refine (fun hw : x.Inv => ?_) ((congrArg State.Inv hx).mpr ?_); clear hx)
    | (fail_if_no_progress extract_lets +onlyGivenNames x)
    | (with_reducible refine PairInv.use (by assumption) ?_)
    | (with_reducible refine OptPairInv.use (by assumption) ?_)
    | (with_reducible refine OptInv.use (by assumption) ?_)
    | (with_reducible refine ExInv.use (by assumption) ?_)
    | (with_reducible refine OutInv.use (by assumption) ?_)
    | split
    | (with_reducible apply State.Inv.ofParts; (first | rw [List.length_map] | rw [List.length_modify] | rw [List.length_set] | rw [List.length_mapIdx]); with_reducible refine State.Inv.parts ?_; with_reducible assumption)
    | (clear_value x; split)
    | (clear_value *; split)
    | (with_reducible apply PairInv.mk)
    | (with_reducible refine Eq.symm ?_; rfl)
    | (simp only [State.Inv.mk_iff]; refine State.Inv.parts ?_)
    | (simp only [List.length_map, List.length_modify, List.length_set])

theorem State.writeHeater_inv {s : State} {a1 : ℕ} {a2 : ℕ} (h0 : s.Inv) : (State.writeHeater s a1 a2).Inv := by
  unfold State.writeHeater
  repeat' first
    | with_reducible assumption
    | with_reducible apply State.pclWrite_inv
    | with_reducible apply State.modHead_inv
    | with_reducible apply foldl_inv
    | (with_reducible intro _)
    | (with_reducible apply State.Inv.ofParts; with_reducible refine State.Inv.parts ?_; with_reducible assumption)
    | (extract_lets +onlyGivenNames x; clear_value (hx : x = _); refine (fun hw : x.Inv => ?_) ((congrArg State.Inv hx).mpr ?_); clear hx)
    | (fail_if_no_progress extract_lets +onlyGivenNames x)
    | (with_reducible refine PairInv.use (by assumption) ?_)
    | (with_reducible refine OptPairInv.use (by assumption) ?_)
    | (with_reducible refine OptInv.use (by assumption) ?_)
    | (with_reducible refine ExInv.use (by assumption) ?_)
    | (with_reducible refine OutInv.use (by assumption) ?_)
    | split
    | (with_reducible apply State.Inv.ofParts; (first | rw [List.length_map] | rw [List.length_modify] | rw [List.length_set] | rw [List.length_mapIdx]); with_reducible refine State.Inv.parts ?_; with_reducible assumption)
    | (clear_value x; split)
    | (clear_value *; split)
    | (with_reducible apply PairInv.mk)
    | (with_reducible refine Eq.symm ?_; rfl)
    | (simp only [State.Inv.mk_iff]; refine State.Inv.parts ?_)
    | (simp only [List.length_map, List.length_modify, List.length_set])

theorem State.putChunk_inv {s : State} {a1 : ChunkWrite} (h0 : s.Inv) : (State.putChunk s a1).Inv := by
  unfold State.putChunk
  repeat' first
    | with_reducible assumption
    | with_reducible apply foldl_inv
    | (with_reducible intro _)
    | (with_reducible apply State.Inv.ofParts; with_reducible refine State.Inv.parts ?_; with_reducible assumption)
    | (extract_lets +onlyGivenNames x; clear_value (hx : x = _); refine (fun hw : x.Inv => ?_) ((congrArg State.Inv hx).mpr ?_); clear hx)
    | (fail_if_no_progress extract_lets +onlyGivenNames x)
    | (with_reducible refine PairInv.use (by assumption) ?_)
    | (with_reducible refine OptPairInv.use (by assumption) ?_)
    | (with_reducible refine OptInv.use (by assumption) ?_)
    | (with_reducible refine ExInv.use (by assumption) ?_)
    | (with_reducible refine OutInv.use (by assumption) ?_)
    | split
    | (with_reducible apply State.Inv.ofParts; (first | rw [List.length_map] | rw [List.length_modify] | rw [List.length_set] | rw [List.length_mapIdx]); with_reducible refine State.Inv.parts ?_; with_reducible assumption)
    | (clear_value x; split)
    | (clear_value *; split)
    | (with_reducible apply PairInv.mk)
    | (with_reducible refine Eq.symm ?_; rfl)
    | (simp only [State.Inv.mk_iff]; refine State.Inv.parts ?_)
    | (simp only [List.length_map, List.length_modify, List.length_set])

theorem State.sendSector_inv {s : State} {a1 : ℕ} {a2 : List Bool} {a3 : SectorOut} (h0 : s.Inv) : (State.sendSector s a1 a2 a3).Inv := by
  unfold State.sendSector
  repeat' first
    | with_reducible assumption
    | with_reducible apply State.emit_inv
    | with_reducible apply foldl_inv
    | (with_reducible intro _)
    | (with_reducible apply State.Inv.ofParts; with_reducible refine State.Inv.parts ?_; with_reducible assumption)
    | (extract_lets +onlyGivenNames x; clear_value (hx : x = _); refine (fun hw : x.Inv => ?_) ((congrArg State.Inv hx).mpr ?_); clear hx)
    | (fail_if_no_progress extract_lets +onlyGivenNames x)
    | (with_reducible refine PairInv.use (by assumption) ?_)
    | (with_reducible refine OptPairInv.use (by assumption) ?_)
    | (with_reducible refine OptInv.use (by assumption) ?_)
    | (with_reducible refine ExInv.use (by assumption) ?_)
    | (with_reducible refine OutInv.use (by assumption) ?_)
    | split
    | (with_reducible apply State.Inv.ofParts; (first | rw [List.length_map] | rw [List.length_modify] | rw [List.length_set] | rw [List.length_mapIdx]); with_reducible refine State.Inv.parts ?_; with_reducible assumption)
    | (clear_value x; split)
    | (clear_value *; split)
    | (with_reducible apply PairInv.mk)
    | (with_reducible refine Eq.symm ?_; rfl)
    | (simp only [State.Inv.mk_iff]; refine State.Inv.parts ?_)
    | (simp only [List.length_map, List.length_modify, List.length_set])

theorem State.emitSectors_inv {s : State} {a1 : ChunkWrite} (h0 : s.Inv) : (State.emitSectors s a1).Inv := by
  unfold State.emitSectors
  repeat' first
    | with_reducible assumption
    | with_reducible apply State.sendSector_inv
    | with_reducible apply State.bump_inv
    | with_reducible apply foldl_inv
    | (with_reducible intro _)
    | (with_reducible apply State.Inv.ofParts; with_reducible refine State.Inv.parts ?_; with_reducible assumption)
    | (extract_lets +onlyGivenNames x; clear_value (hx : x = _); refine (fun hw : x.Inv => ?_) ((congrArg State.Inv hx).mpr ?_); clear hx)
    | (fail_if_no_progress extract_lets +onlyGivenNames x)
    | (with_reducible refine PairInv.use (by assumption) ?_)
    | (with_reducible refine OptPairInv.use (by assumption) ?_)
    | (with_reducible refine OptInv.use (by assumption) ?_)
    | (with_reducible refine ExInv.use (by assumption) ?_)
    | (with_reducible refine OutInv.use (by assumption) ?_)
    | split
    | (with_reducible apply State.Inv.ofParts; (first | rw [List.length_map] | rw [List.length_modify] | rw [List.length_set] | rw [List.length_mapIdx]); with_reducible refine State.Inv.parts ?_; with_reducible assumption)
    | (clear_value x; split)
    | (clear_value *; split)
    | (with_reducible apply PairInv.mk)
    | (with_reducible refine Eq.symm ?_; rfl)
    | (simp only [State.Inv.mk_iff]; refine State.Inv.parts ?_)
    | (simp only [List.length_map, List.length_modify, List.length_set])

theorem State.endLead_inv {s : State} {a1 : ℕ} (h0 : s.Inv) : (State.endLead s a1).Inv := by
  unfold State.endLead
  repeat' first
    | with_reducible assumption
    | with_reducible apply State.pclWrite_inv
    | with_reducible apply State.modHead_inv
    | with_reducible apply State.writeHeater_inv
    | with_reducible apply foldl_inv
    | (with_reducible intro _)
    | (with_reducible apply State.Inv.ofParts; with_reducible refine State.Inv.parts ?_; with_reducible assumption)
    | (extract_lets +onlyGivenNames x; clear_value (hx : x = _); refine (fun hw : x.Inv => ?_) ((congrArg State.Inv hx).mpr ?_); clear hx)
    | (fail_if_no_progress extract_lets +onlyGivenNames x)
    | (with_reducible refine PairInv.use (by assumption) ?_)
    | (with_reducible refine OptPairInv.use (by assumption) ?_)
    | (with_reducible refine OptInv.use (by assumption) ?_)
    | (with_reducible refine ExInv.use (by assumption) ?_)
    | (with_reducible refine OutInv.use (by assumption) ?_)
    | split
    | (with_reducible apply State.Inv.ofParts; (first | rw [List.length_map] | rw [List.length_modify] | rw [List.length_set] | rw [List.length_mapIdx]); with_reducible refine State.Inv.parts ?_; with_reducible assumption)
    | (clear_value x; split)
    | (clear_value *; split)
    | (with_reducible apply PairInv.mk)
    | (with_reducible refine Eq.symm ?_; rfl)
    | (simp only [State.Inv.mk_iff]; refine State.Inv.parts ?_)
    | (simp only [List.length_map, List.length_modify, List.length_set])

theorem State.closeGate_inv {s : State} {a1 : ℕ} (h0 : s.Inv) : (State.closeGate s a1).Inv := by
  unfold State.closeGate
  repeat' first
    | with_reducible assumption
    | with_reducible apply State.modWrl_inv
    | with_reducible apply State.modHead_inv
    | with_reducible apply State.bump_inv
    | with_reducible apply State.putChunk_inv
    | with_reducible apply State.emitSectors_inv
    | with_reducible apply State.pclIssue_inv
    | with_reducible apply State.endLead_inv
    | with_reducible apply foldl_inv
    | (with_reducible intro _)
    | (with_reducible apply State.Inv.ofParts; with_reducible refine State.Inv.parts ?_; with_reducible assumption)
    | (extract_lets +onlyGivenNames x; clear_value (hx : x = _); refine (fun hw : x.Inv => ?_) ((congrArg State.Inv hx).mpr ?_); clear hx)
    | (fail_if_no_progress extract_lets +onlyGivenNames x)
    | (with_reducible refine PairInv.use (by assumption) ?_)
    | (with_reducible refine OptPairInv.use (by assumption) ?_)
    | (with_reducible refine OptInv.use (by assumption) ?_)
    | (with_reducible refine ExInv.use (by assumption) ?_)
    | (with_reducible refine OutInv.use (by assumption) ?_)
    | split
    | (with_reducible apply State.Inv.ofParts; (first | rw [List.length_map] | rw [List.length_modify] | rw [List.length_set] | rw [List.length_mapIdx]); with_reducible refine State.Inv.parts ?_; with_reducible assumption)
    | (clear_value x; split)
    | (clear_value *; split)
    | (with_reducible apply PairInv.mk)
    | (with_reducible refine Eq.symm ?_; rfl)
    | (simp only [State.Inv.mk_iff]; refine State.Inv.parts ?_)
    | (simp only [List.length_map, List.length_modify, List.length_set])

theorem State.failBurst_inv {s : State} {a1 : ℕ} (h0 : s.Inv) : (State.failBurst s a1).Inv := by
  unfold State.failBurst
  repeat' first
    | with_reducible assumption
    | with_reducible apply State.closeGate_inv
    | with_reducible apply foldl_inv
    | (with_reducible intro _)
    | (with_reducible apply State.Inv.ofParts; with_reducible refine State.Inv.parts ?_; with_reducible assumption)
    | (extract_lets +onlyGivenNames x; clear_value (hx : x = _); refine (fun hw : x.Inv => ?_) ((congrArg State.Inv hx).mpr ?_); clear hx)
    | (fail_if_no_progress extract_lets +onlyGivenNames x)
    | (with_reducible refine PairInv.use (by assumption) ?_)
    | (with_reducible refine OptPairInv.use (by assumption) ?_)
    | (with_reducible refine OptInv.use (by assumption) ?_)
    | (with_reducible refine ExInv.use (by assumption) ?_)
    | (with_reducible refine OutInv.use (by assumption) ?_)
    | split
    | (with_reducible apply State.Inv.ofParts; (first | rw [List.length_map] | rw [List.length_modify] | rw [List.length_set] | rw [List.length_mapIdx]); with_reducible refine State.Inv.parts ?_; with_reducible assumption)
    | (clear_value x; split)
    | (clear_value *; split)
    | (with_reducible apply PairInv.mk)
    | (with_reducible refine Eq.symm ?_; rfl)
    | (simp only [State.Inv.mk_iff]; refine State.Inv.parts ?_)
    | (simp only [List.length_map, List.length_modify, List.length_set])

theorem State.systemWrite_inv {s : State} {a1 : ℕ} {a2 : ℕ} {a3 : ℕ} {a4 : ℕ} {a5 : List ℕ} (h0 : s.Inv) : (State.systemWrite s a1 a2 a3 a4 a5).Inv := by
  unfold State.systemWrite
  repeat' first
    | with_reducible assumption
    | with_reducible apply State.emit_inv
    | with_reducible apply foldl_inv
    | (with_reducible intro _)
    | (with_reducible apply State.Inv.ofParts; with_reducible refine State.Inv.parts ?_; with_reducible assumption)
    | (extract_lets +onlyGivenNames x; clear_value (hx : x = _); refine (fun hw : x.Inv => ?_) ((congrArg State.Inv hx).mpr ?_); clear hx)
    | (fail_if_no_progress extract_lets +onlyGivenNames x)
    | (with_reducible refine PairInv.use (by assumption) ?_)
    | (with_reducible refine OptPairInv.use (by assumption) ?_)
    | (with_reducible refine OptInv.use (by assumption) ?_)
    | (with_reducible refine ExInv.use (by assumption) ?_)
    | (with_reducible refine OutInv.use (by assumption) ?_)
    | split
    | (with_reducible apply State.Inv.ofParts; (first | rw [List.length_map] | rw [List.length_modify] | rw [List.length_set] | rw [List.length_mapIdx]); with_reducible refine State.Inv.parts ?_; with_reducible assumption)
    | (clear_value x; split)
    | (clear_value *; split)
    | (with_reducible apply PairInv.mk)
    | (with_reducible refine Eq.symm ?_; rfl)
    | (simp only [State.Inv.mk_iff]; refine State.Inv.parts ?_)
    | (simp only [List.length_map, List.length_modify, List.length_set])

theorem State.cancelSwaps_inv {s : State} {a1 : List ℕ} {a2 : ℕ} (h0 : s.Inv) : (State.cancelSwaps s a1 a2).Inv := by
  unfold State.cancelSwaps
  repeat' first
    | with_reducible assumption
    | with_reducible apply State.each_inv
    | with_reducible apply State.setNat_inv
    | with_reducible apply State.modLoop_inv
    | with_reducible apply State.endRun_inv
    | with_reducible apply foldl_inv
    | (with_reducible intro _)
    | (with_reducible apply State.Inv.ofParts; with_reducible refine State.Inv.parts ?_; with_reducible assumption)
    | (extract_lets +onlyGivenNames x; clear_value (hx : x = _); refine (fun hw : x.Inv => ?_) ((congrArg State.Inv hx).mpr ?_); clear hx)
    | (fail_if_no_progress extract_lets +onlyGivenNames x)
    | (with_reducible refine PairInv.use (by assumption) ?_)
    | (with_reducible refine OptPairInv.use (by assumption) ?_)
    | (with_reducible refine OptInv.use (by assumption) ?_)
    | (with_reducible refine ExInv.use (by assumption) ?_)
    | (with_reducible refine OutInv.use (by assumption) ?_)
    | split
    | (with_reducible apply State.Inv.ofParts; (first | rw [List.length_map] | rw [List.length_modify] | rw [List.length_set] | rw [List.length_mapIdx]); with_reducible refine State.Inv.parts ?_; with_reducible assumption)
    | (clear_value x; split)
    | (clear_value *; split)
    | (with_reducible apply PairInv.mk)
    | (with_reducible refine Eq.symm ?_; rfl)
    | (simp only [State.Inv.mk_iff]; refine State.Inv.parts ?_)
    | (simp only [List.length_map, List.length_modify, List.length_set])

theorem State.dropIdentify_inv {s : State} {a1 : ℕ} (h0 : s.Inv) : (State.dropIdentify s a1).Inv := by
  unfold State.dropIdentify
  repeat' first
    | with_reducible assumption
    | with_reducible apply State.endRun_inv
    | with_reducible apply foldl_inv
    | (with_reducible intro _)
    | (with_reducible apply State.Inv.ofParts; with_reducible refine State.Inv.parts ?_; with_reducible assumption)
    | (extract_lets +onlyGivenNames x; clear_value (hx : x = _); refine (fun hw : x.Inv => ?_) ((congrArg State.Inv hx).mpr ?_); clear hx)
    | (fail_if_no_progress extract_lets +onlyGivenNames x)
    | (with_reducible refine PairInv.use (by assumption) ?_)
    | (with_reducible refine OptPairInv.use (by assumption) ?_)
    | (with_reducible refine OptInv.use (by assumption) ?_)
    | (with_reducible refine ExInv.use (by assumption) ?_)
    | (with_reducible refine OutInv.use (by assumption) ?_)
    | split
    | (with_reducible apply State.Inv.ofParts; (first | rw [List.length_map] | rw [List.length_modify] | rw [List.length_set] | rw [List.length_mapIdx]); with_reducible refine State.Inv.parts ?_; with_reducible assumption)
    | (clear_value x; split)
    | (clear_value *; split)
    | (with_reducible apply PairInv.mk)
    | (with_reducible refine Eq.symm ?_; rfl)
    | (simp only [State.Inv.mk_iff]; refine State.Inv.parts ?_)
    | (simp only [List.length_map, List.length_modify, List.length_set])

theorem State.parkSequence_inv {s : State} {a1 : ℕ} {a2 : ℕ} (h0 : s.Inv) : (State.parkSequence s a1 a2).Inv := by
  unfold State.parkSequence
  refine ite_inv h0 ?_
  extract_lets +onlyGivenNames s1 s2 s3 s4 s5 s6 _ s7
  have h1 : s1.Inv := by
    refine State.each_inv h0 fun t x ht => ?_
    have g1 := State.closeGate_inv (a1 := x) ht
    extract_lets +onlyGivenNames t1 t2 t3
    have k2 : (if (t1.head x).lead.isSome = true then t1.endLead x else t1).Inv := ite_inv (State.endLead_inv g1) g1
    have g2 : t2.Inv := State.writeHeater_inv k2
    have g3 : t3.Inv := State.modHead_inv (State.emit_inv g2)
    clear_value t3
    exact ite_inv g3 (State.setNat_inv g3)
  clear_value s1
  have h2 : s2.Inv := State.emit_inv h1
  clear_value s2
  have h3 : s3.Inv := State.cancelSwaps_inv h2
  clear_value s3
  have h4 : s4.Inv := State.each_inv h3 fun t x ht => State.modLoop_inv (State.setNat_inv (State.setNat_inv ht))
  clear_value s4
  have h5 : s5.Inv := State.bump_inv h4
  clear_value s5
  have h6 : s6.Inv := State.dropIdentify_inv h5
  clear_value s6
  have h7 : s7.Inv := ite_inv (State.Inv.ofParts h6.parts) h6
  clear_value s7
  exact State.modAct_inv h7


theorem State.postEvent_inv {s : State} {a1 : ℕ} {a2 : ℕ} {a3 : ℕ} {a4 : ℕ} {a5 : Option ℕ} (h0 : s.Inv) : (State.postEvent s a1 a2 a3 a4 a5).Inv := by
  unfold State.postEvent
  repeat' first
    | with_reducible assumption
    | with_reducible apply State.modPort_inv
    | with_reducible apply State.emit_inv
    | with_reducible apply foldl_inv
    | (with_reducible intro _)
    | (with_reducible apply State.Inv.ofParts; with_reducible refine State.Inv.parts ?_; with_reducible assumption)
    | (extract_lets +onlyGivenNames x; clear_value (hx : x = _); refine (fun hw : x.Inv => ?_) ((congrArg State.Inv hx).mpr ?_); clear hx)
    | (fail_if_no_progress extract_lets +onlyGivenNames x)
    | (with_reducible refine PairInv.use (by assumption) ?_)
    | (with_reducible refine OptPairInv.use (by assumption) ?_)
    | (with_reducible refine OptInv.use (by assumption) ?_)
    | (with_reducible refine ExInv.use (by assumption) ?_)
    | (with_reducible refine OutInv.use (by assumption) ?_)
    | split
    | (with_reducible apply State.Inv.ofParts; (first | rw [List.length_map] | rw [List.length_modify] | rw [List.length_set] | rw [List.length_mapIdx]); with_reducible refine State.Inv.parts ?_; with_reducible assumption)
    | (clear_value x; split)
    | (clear_value *; split)
    | (with_reducible apply PairInv.mk)
    | (with_reducible refine Eq.symm ?_; rfl)
    | (simp only [State.Inv.mk_iff]; refine State.Inv.parts ?_)
    | (simp only [List.length_map, List.length_modify, List.length_set])

theorem State.postAll_inv {s : State} {a1 : ℕ} {a2 : ℕ} {a3 : ℕ} {a4 : Option ℕ} (h0 : s.Inv) : (State.postAll s a1 a2 a3 a4).Inv := by
  unfold State.postAll
  repeat' first
    | with_reducible assumption
    | with_reducible apply State.each_inv
    | with_reducible apply State.postEvent_inv
    | with_reducible apply foldl_inv
    | (with_reducible intro _)
    | (with_reducible apply State.Inv.ofParts; with_reducible refine State.Inv.parts ?_; with_reducible assumption)
    | (extract_lets +onlyGivenNames x; clear_value (hx : x = _); refine (fun hw : x.Inv => ?_) ((congrArg State.Inv hx).mpr ?_); clear hx)
    | (fail_if_no_progress extract_lets +onlyGivenNames x)
    | (with_reducible refine PairInv.use (by assumption) ?_)
    | (with_reducible refine OptPairInv.use (by assumption) ?_)
    | (with_reducible refine OptInv.use (by assumption) ?_)
    | (with_reducible refine ExInv.use (by assumption) ?_)
    | (with_reducible refine OutInv.use (by assumption) ?_)
    | split
    | (with_reducible apply State.Inv.ofParts; (first | rw [List.length_map] | rw [List.length_modify] | rw [List.length_set] | rw [List.length_mapIdx]); with_reducible refine State.Inv.parts ?_; with_reducible assumption)
    | (clear_value x; split)
    | (clear_value *; split)
    | (with_reducible apply PairInv.mk)
    | (with_reducible refine Eq.symm ?_; rfl)
    | (simp only [State.Inv.mk_iff]; refine State.Inv.parts ?_)
    | (simp only [List.length_map, List.length_modify, List.length_set])

end Sys2Proof.Machine
end

