-- ==== Sys2Proof/Laws/InvFlags.lean ====
section
/-! SUPPORT. The invariant is kept by the operations of Machine/Flags.lean. -/

set_option linter.all false

namespace Sys2Proof.Machine

theorem State.noteNamespaces_inv {s : State} {a1 : List ℕ} (h0 : s.Inv) : (State.noteNamespaces s a1).Inv := by
  unfold State.noteNamespaces
  repeat' first
    | with_reducible assumption
    | with_reducible apply State.each_inv
    | with_reducible apply State.modPort_inv
    | with_reducible apply foldl_inv
    | (with_reducible intro _)
    | (with_reducible apply State.Inv.ofParts; with_reducible refine State.Inv.parts ?_; with_reducible assumption)
    | (extract_lets +onlyGivenNames x; clear_value (hx : x = _); refine (fun hw : x.Inv => ?_) ((congrArg State.Inv hx).mpr ?_); clear hx)
    | (fail_if_no_progress extract_lets +onlyGivenNames x)
    | (with_reducible refine PairInv.use (by assumption) ?_)
    | (with_reducible refine OptPairInv.use (by assumption) ?_)
    | (with_reducible refine OptInv.use (by assumption) ?_)
    | (with_reducible refine ExInv.use (by assumption) ?_)
    | (with_reducible refine OutInv.use (by assumption) ?_)
    | split
    | (with_reducible apply State.Inv.ofParts; (first | rw [List.length_map] | rw [List.length_modify] | rw [List.length_set] | rw [List.length_mapIdx]); with_reducible refine State.Inv.parts ?_; with_reducible assumption)
    | (clear_value x; split)
    | (clear_value *; split)
    | (with_reducible apply PairInv.mk)
    | (with_reducible refine Eq.symm ?_; rfl)
    | (simp only [State.Inv.mk_iff]; refine State.Inv.parts ?_)
    | (simp only [List.length_map, List.length_modify, List.length_set])

theorem State.noteWarnings_inv {s : State} (h0 : s.Inv) : (State.noteWarnings s).Inv := by
  unfold State.noteWarnings
  repeat' first
    | with_reducible assumption
    | with_reducible apply State.each_inv
    | with_reducible apply State.postAll_inv
    | with_reducible apply State.noteNamespaces_inv
    | with_reducible apply foldl_inv
    | (with_reducible intro _)
    | (with_reducible apply State.Inv.ofParts; with_reducible refine State.Inv.parts ?_; with_reducible assumption)
    | (extract_lets +onlyGivenNames x; clear_value (hx : x = _); refine (fun hw : x.Inv => ?_) ((congrArg State.Inv hx).mpr ?_); clear hx)
    | (fail_if_no_progress extract_lets +onlyGivenNames x)
    | (with_reducible refine PairInv.use (by assumption) ?_)
    | (with_reducible refine OptPairInv.use (by assumption) ?_)
    | (with_reducible refine OptInv.use (by assumption) ?_)
    | (with_reducible refine ExInv.use (by assumption) ?_)
    | (with_reducible refine OutInv.use (by assumption) ?_)
    | split
    | (with_reducible apply State.Inv.ofParts; (first | rw [List.length_map] | rw [List.length_modify] | rw [List.length_set] | rw [List.length_mapIdx]); with_reducible refine State.Inv.parts ?_; with_reducible assumption)
    | (clear_value x; split)
    | (clear_value *; split)
    | (with_reducible apply PairInv.mk)
    | (with_reducible refine Eq.symm ?_; rfl)
    | (simp only [State.Inv.mk_iff]; refine State.Inv.parts ?_)
    | (simp only [List.length_map, List.length_modify, List.length_set])

theorem State.setStatusBit_inv {s : State} {a1 : ℕ} {a2 : ℕ} {a3 : Bool} (h0 : s.Inv) : (State.setStatusBit s a1 a2 a3).Inv := by
  unfold State.setStatusBit
  repeat' first
    | with_reducible assumption
    | with_reducible apply State.setNat_inv
    | with_reducible apply foldl_inv
    | (with_reducible intro _)
    | (with_reducible apply State.Inv.ofParts; with_reducible refine State.Inv.parts ?_; with_reducible assumption)
    | (extract_lets +onlyGivenNames x; clear_value (hx : x = _); refine (fun hw : x.Inv => ?_) ((congrArg State.Inv hx).mpr ?_); clear hx)
    | (fail_if_no_progress extract_lets +onlyGivenNames x)
    | (with_reducible refine PairInv.use (by assumption) ?_)
    | (with_reducible refine OptPairInv.use (by assumption) ?_)
    | (with_reducible refine OptInv.use (by assumption) ?_)
    | (with_reducible refine ExInv.use (by assumption) ?_)
    | (with_reducible refine OutInv.use (by assumption) ?_)
    | split
    | (with_reducible apply State.Inv.ofParts; (first | rw [List.length_map] | rw [List.length_modify] | rw [List.length_set] | rw [List.length_mapIdx]); with_reducible refine State.Inv.parts ?_; with_reducible assumption)
    | (clear_value x; split)
    | (clear_value *; split)
    | (with_reducible apply PairInv.mk)
    | (with_reducible refine Eq.symm ?_; rfl)
    | (simp only [State.Inv.mk_iff]; refine State.Inv.parts ?_)
    | (simp only [List.length_map, List.length_modify, List.length_set])

theorem State.fireTrace_inv {s : State} (h0 : s.Inv) : (State.fireTrace s).Inv := by
  unfold State.fireTrace
  split
  · exact State.setNat_inv (State.setNat_inv (State.Inv.ofParts { h0.parts with channels := by simp }))
  · exact h0

theorem State.traceEvent_inv {s : State} {a1 : ℕ} {a2 : ℕ} (h0 : s.Inv) : (State.traceEvent s a1 a2).Inv := by
  unfold State.traceEvent
  repeat' first
    | with_reducible assumption
    | with_reducible apply State.fireTrace_inv
    | with_reducible apply foldl_inv
    | (with_reducible intro _)
    | (with_reducible apply State.Inv.ofParts; with_reducible refine State.Inv.parts ?_; with_reducible assumption)
    | (extract_lets +onlyGivenNames x; clear_value (hx : x = _); refine (fun hw : x.Inv => ?_) ((congrArg State.Inv hx).mpr ?_); clear hx)
    | (fail_if_no_progress extract_lets +onlyGivenNames x)
    | (with_reducible refine PairInv.use (by assumption) ?_)
    | (with_reducible refine OptPairInv.use (by assumption) ?_)
    | (with_reducible refine OptInv.use (by assumption) ?_)
    | (with_reducible refine ExInv.use (by assumption) ?_)
    | (with_reducible refine OutInv.use (by assumption) ?_)
    | split
    | (with_reducible apply State.Inv.ofParts; (first | rw [List.length_map] | rw [List.length_modify] | rw [List.length_set] | rw [List.length_mapIdx]); with_reducible refine State.Inv.parts ?_; with_reducible assumption)
    | (clear_value x; split)
    | (clear_value *; split)
    | (with_reducible apply PairInv.mk)
    | (with_reducible refine Eq.symm ?_; rfl)
    | (simp only [State.Inv.mk_iff]; refine State.Inv.parts ?_)
    | (simp only [List.length_map, List.length_modify, List.length_set])

end Sys2Proof.Machine
end

