-- ==== Sys2Proof/Laws/InvReactions.lean ====
section
/-! SUPPORT. The invariant is kept by the operations of Machine/Reactions.lean. -/

set_option linter.all false

namespace Sys2Proof.Machine

theorem State.parkMask_inv {s : State} {a1 : ℕ} (h0 : s.Inv) : (State.parkMask s a1).Inv := by
  unfold State.parkMask
  repeat' first
    | with_reducible assumption
    | with_reducible apply State.each_inv
    | with_reducible apply State.parkSequence_inv
    | with_reducible apply foldl_inv
    | (with_reducible intro _)
    | (with_reducible apply State.Inv.ofParts; with_reducible refine State.Inv.parts ?_; with_reducible assumption)
    | (extract_lets +onlyGivenNames x; clear_value (hx : x = _); refine (fun hw : x.Inv => ?_) ((congrArg State.Inv hx).mpr ?_); clear hx)
    | (fail_if_no_progress extract_lets +onlyGivenNames x)
    | (with_reducible refine PairInv.use (by assumption) ?_)
    | (with_reducible refine OptPairInv.use (by assumption) ?_)
    | (with_reducible refine OptInv.use (by assumption) ?_)
    | (with_reducible refine ExInv.use (by assumption) ?_)
    | (with_reducible refine OutInv.use (by assumption) ?_)
    | split
    | (with_reducible apply State.Inv.ofParts; (first | rw [List.length_map] | rw [List.length_modify] | rw [List.length_set] | rw [List.length_mapIdx]); with_reducible refine State.Inv.parts ?_; with_reducible assumption)
    | (clear_value x; split)
    | (clear_value *; split)
    | (with_reducible apply PairInv.mk)
    | (with_reducible refine Eq.symm ?_; rfl)
    | (simp only [State.Inv.mk_iff]; refine State.Inv.parts ?_)
    | (simp only [List.length_map, List.length_modify, List.length_set])

theorem State.resetReaction_inv {s : State} {a1 : ℕ} {a2 : ℕ} (h0 : s.Inv) : (State.resetReaction s a1 a2).Inv := by
  unfold State.resetReaction
  repeat' first
    | with_reducible assumption
    | with_reducible apply State.parkMask_inv
    | with_reducible apply State.note_inv
    | with_reducible apply State.bump_inv
    | with_reducible apply foldl_inv
    | (with_reducible intro _)
    | (with_reducible apply State.Inv.ofParts; with_reducible refine State.Inv.parts ?_; with_reducible assumption)
    | (extract_lets +onlyGivenNames x; clear_value (hx : x = _); refine (fun hw : x.Inv => ?_) ((congrArg State.Inv hx).mpr ?_); clear hx)
    | (fail_if_no_progress extract_lets +onlyGivenNames x)
    | (with_reducible refine PairInv.use (by assumption) ?_)
    | (with_reducible refine OptPairInv.use (by assumption) ?_)
    | (with_reducible refine OptInv.use (by assumption) ?_)
    | (with_reducible refine ExInv.use (by assumption) ?_)
    | (with_reducible refine OutInv.use (by assumption) ?_)
    | split
    | (with_reducible apply State.Inv.ofParts; (first | rw [List.length_map] | rw [List.length_modify] | rw [List.length_set] | rw [List.length_mapIdx]); with_reducible refine State.Inv.parts ?_; with_reducible assumption)
    | (clear_value x; split)
    | (clear_value *; split)
    | (with_reducible apply PairInv.mk)
    | (with_reducible refine Eq.symm ?_; rfl)
    | (simp only [State.Inv.mk_iff]; refine State.Inv.parts ?_)
    | (simp only [List.length_map, List.length_modify, List.length_set])

theorem State.raiseWith_inv {s : State} {a1 a2 : ℕ} {a3 : Bool} {a4 : List ℕ} (h0 : s.Inv) : (State.raiseWith s a1 a2 a3 a4).Inv := by
  unfold State.raiseWith
  refine ite_inv h0 ?_
  extract_lets +onlyGivenNames severity mask lost s1 parks _ s2
  have h1 : s1.Inv := State.bump_inv (State.bump_inv h0)
  have h2 : s2.Inv := State.Inv.ofParts h1.parts
  clear_value severity mask lost
  have h3 : PairInv (if mask.testBit 0 || recordRequired a1
      then s2.shelfEvent (0x8000 + a1) a1 severity a2 a3 a4 else (none, s2)) := by
    split
    · exact State.shelfEvent_inv h2
    · exact h2
  revert h3
  generalize (if mask.testBit 0 || recordRequired a1
      then s2.shelfEvent (0x8000 + a1) a1 severity a2 a3 a4 else (none, s2)) = p
  intro h3
  split
  rename_i q t
  have key : ∀ q : Option ℕ, (match q with
      | some q => { t with faults := { t.faults with lastRecord := putKey t.faults.lastRecord a1 q } }
      | none => t : State).Inv := by
    intro q
    cases q with
    | none => exact h3
    | some q => exact State.Inv.ofParts (State.Inv.parts h3)
  extract_lets +onlyGivenNames _ t1 seq t2 t3 t4 t5 t6 t7 t8 t9
  have g1 : t1.Inv := key q
  have g2 : t2.Inv := State.each_inv g1 fun _ _ h => State.modPort_inv h
  have g3 : t3.Inv := ite_inv (State.appendRaising_inv g2) g2
  have g4 : t4.Inv := ite_inv (State.drivePin_inv (State.bump_inv g3)) g3
  have g5 : t5.Inv := ite_inv (State.parkMask_inv g4) g4
  have g6 : t6.Inv := ite_inv (State.queueEmcy_inv g5) g5
  have g7 : t7.Inv := ite_inv (ite_inv (State.postAll_inv g6) (State.postAll_inv g6)) g6
  have g8 : t8.Inv := ite_inv (State.resetReaction_inv g7) g7
  exact State.noteWarnings_inv (State.noteErrorRegister_inv (ite_inv (State.traceEvent_inv g8) (ite_inv (State.traceEvent_inv g8) g8)))

theorem State.raiseFault_inv {s : State} {a1 : ℕ} {a2 : ℕ} (h0 : s.Inv) : (State.raiseFault s a1 a2).Inv := by
  unfold State.raiseFault
  repeat' first
    | with_reducible assumption
    | with_reducible apply State.raiseWith_inv
    | with_reducible apply foldl_inv
    | (with_reducible intro _)
    | (with_reducible apply State.Inv.ofParts; with_reducible refine State.Inv.parts ?_; with_reducible assumption)
    | (extract_lets +onlyGivenNames x; clear_value (hx : x = _); refine (fun hw : x.Inv => ?_) ((congrArg State.Inv hx).mpr ?_); clear hx)
    | (fail_if_no_progress extract_lets +onlyGivenNames x)
    | (with_reducible refine PairInv.use (by assumption) ?_)
    | (with_reducible refine OptPairInv.use (by assumption) ?_)
    | (with_reducible refine OptInv.use (by assumption) ?_)
    | (with_reducible refine ExInv.use (by assumption) ?_)
    | (with_reducible refine OutInv.use (by assumption) ?_)
    | split
    | (with_reducible apply State.Inv.ofParts; (first | rw [List.length_map] | rw [List.length_modify] | rw [List.length_set] | rw [List.length_mapIdx]); with_reducible refine State.Inv.parts ?_; with_reducible assumption)
    | (clear_value x; split)
    | (clear_value *; split)
    | (with_reducible apply PairInv.mk)
    | (with_reducible refine Eq.symm ?_; rfl)
    | (simp only [State.Inv.mk_iff]; refine State.Inv.parts ?_)
    | (simp only [List.length_map, List.length_modify, List.length_set])

theorem State.endCondition_inv {s : State} {a1 : ℕ} (h0 : s.Inv) : (State.endCondition s a1).Inv := by
  unfold State.endCondition
  repeat' first
    | with_reducible assumption
    | with_reducible apply foldl_inv
    | (with_reducible intro _)
    | (with_reducible apply State.Inv.ofParts; with_reducible refine State.Inv.parts ?_; with_reducible assumption)
    | (extract_lets +onlyGivenNames x; clear_value (hx : x = _); refine (fun hw : x.Inv => ?_) ((congrArg State.Inv hx).mpr ?_); clear hx)
    | (fail_if_no_progress extract_lets +onlyGivenNames x)
    | (with_reducible refine PairInv.use (by assumption) ?_)
    | (with_reducible refine OptPairInv.use (by assumption) ?_)
    | (with_reducible refine OptInv.use (by assumption) ?_)
    | (with_reducible refine ExInv.use (by assumption) ?_)
    | (with_reducible refine OutInv.use (by assumption) ?_)
    | split
    | (with_reducible apply State.Inv.ofParts; (first | rw [List.length_map] | rw [List.length_modify] | rw [List.length_set] | rw [List.length_mapIdx]); with_reducible refine State.Inv.parts ?_; with_reducible assumption)
    | (clear_value x; split)
    | (clear_value *; split)
    | (with_reducible apply PairInv.mk)
    | (with_reducible refine Eq.symm ?_; rfl)
    | (simp only [State.Inv.mk_iff]; refine State.Inv.parts ?_)
    | (simp only [List.length_map, List.length_modify, List.length_set])

theorem State.deadlineMiss_inv {s : State} {a1 : ℕ} {a2 : ℕ} {a3 : ℕ} {a4 : ℕ} {a5 : ℕ} (h0 : s.Inv) : (State.deadlineMiss s a1 a2 a3 a4 a5).Inv := by
  unfold State.deadlineMiss
  repeat' first
    | with_reducible assumption
    | with_reducible apply State.bump_inv
    | with_reducible apply State.raiseWith_inv
    | with_reducible apply foldl_inv
    | (with_reducible intro _)
    | (with_reducible apply State.Inv.ofParts; with_reducible refine State.Inv.parts ?_; with_reducible assumption)
    | (extract_lets +onlyGivenNames x; clear_value (hx : x = _); refine (fun hw : x.Inv => ?_) ((congrArg State.Inv hx).mpr ?_); clear hx)
    | (fail_if_no_progress extract_lets +onlyGivenNames x)
    | (with_reducible refine PairInv.use (by assumption) ?_)
    | (with_reducible refine OptPairInv.use (by assumption) ?_)
    | (with_reducible refine OptInv.use (by assumption) ?_)
    | (with_reducible refine ExInv.use (by assumption) ?_)
    | (with_reducible refine OutInv.use (by assumption) ?_)
    | split
    | (with_reducible apply State.Inv.ofParts; (first | rw [List.length_map] | rw [List.length_modify] | rw [List.length_set] | rw [List.length_mapIdx]); with_reducible refine State.Inv.parts ?_; with_reducible assumption)
    | (clear_value x; split)
    | (clear_value *; split)
    | (with_reducible apply PairInv.mk)
    | (with_reducible refine Eq.symm ?_; rfl)
    | (simp only [State.Inv.mk_iff]; refine State.Inv.parts ?_)
    | (simp only [List.length_map, List.length_modify, List.length_set])

theorem State.safePark_inv {s : State} {a1 : ℕ} {a2 : ℕ} (h0 : s.Inv) : (State.safePark s a1 a2).Inv := by
  unfold State.safePark
  repeat' first
    | with_reducible assumption
    | with_reducible apply State.raiseFault_inv
    | with_reducible apply State.parkSequence_inv
    | with_reducible apply foldl_inv
    | (with_reducible intro _)
    | (with_reducible apply State.Inv.ofParts; with_reducible refine State.Inv.parts ?_; with_reducible assumption)
    | (extract_lets +onlyGivenNames x; clear_value (hx : x = _); refine (fun hw : x.Inv => ?_) ((congrArg State.Inv hx).mpr ?_); clear hx)
    | (fail_if_no_progress extract_lets +onlyGivenNames x)
    | (with_reducible refine PairInv.use (by assumption) ?_)
    | (with_reducible refine OptPairInv.use (by assumption) ?_)
    | (with_reducible refine OptInv.use (by assumption) ?_)
    | (with_reducible refine ExInv.use (by assumption) ?_)
    | (with_reducible refine OutInv.use (by assumption) ?_)
    | split
    | (with_reducible apply State.Inv.ofParts; (first | rw [List.length_map] | rw [List.length_modify] | rw [List.length_set] | rw [List.length_mapIdx]); with_reducible refine State.Inv.parts ?_; with_reducible assumption)
    | (clear_value x; split)
    | (clear_value *; split)
    | (with_reducible apply PairInv.mk)
    | (with_reducible refine Eq.symm ?_; rfl)
    | (simp only [State.Inv.mk_iff]; refine State.Inv.parts ?_)
    | (simp only [List.length_map, List.length_modify, List.length_set])

theorem State.safeParkAll_inv {s : State} {a1 : ℕ} (h0 : s.Inv) : (State.safeParkAll s a1).Inv := by
  unfold State.safeParkAll
  repeat' first
    | with_reducible assumption
    | with_reducible apply State.each_inv
    | with_reducible apply State.safePark_inv
    | with_reducible apply foldl_inv
    | (with_reducible intro _)
    | (with_reducible apply State.Inv.ofParts; with_reducible refine State.Inv.parts ?_; with_reducible assumption)
    | (extract_lets +onlyGivenNames x; clear_value (hx : x = _); refine (fun hw : x.Inv => ?_) ((congrArg State.Inv hx).mpr ?_); clear hx)
    | (fail_if_no_progress extract_lets +onlyGivenNames x)
    | (with_reducible refine PairInv.use (by assumption) ?_)
    | (with_reducible refine OptPairInv.use (by assumption) ?_)
    | (with_reducible refine OptInv.use (by assumption) ?_)
    | (with_reducible refine ExInv.use (by assumption) ?_)
    | (with_reducible refine OutInv.use (by assumption) ?_)
    | split
    | (with_reducible apply State.Inv.ofParts; (first | rw [List.length_map] | rw [List.length_modify] | rw [List.length_set] | rw [List.length_mapIdx]); with_reducible refine State.Inv.parts ?_; with_reducible assumption)
    | (clear_value x; split)
    | (clear_value *; split)
    | (with_reducible apply PairInv.mk)
    | (with_reducible refine Eq.symm ?_; rfl)
    | (simp only [State.Inv.mk_iff]; refine State.Inv.parts ?_)
    | (simp only [List.length_map, List.length_modify, List.length_set])

theorem State.assignLender_inv {s : State} {a1 : ℕ} (h0 : s.Inv) : (State.assignLender s a1).Inv := by
  unfold State.assignLender
  repeat' first
    | with_reducible assumption
    | with_reducible apply State.bump_inv
    | with_reducible apply State.setNat_inv
    | with_reducible apply State.modHead_inv
    | with_reducible apply foldl_inv
    | (with_reducible intro _)
    | (with_reducible apply State.Inv.ofParts; with_reducible refine State.Inv.parts ?_; with_reducible assumption)
    | (extract_lets +onlyGivenNames x; clear_value (hx : x = _); refine (fun hw : x.Inv => ?_) ((congrArg State.Inv hx).mpr ?_); clear hx)
    | (fail_if_no_progress extract_lets +onlyGivenNames x)
    | (with_reducible refine PairInv.use (by assumption) ?_)
    | (with_reducible refine OptPairInv.use (by assumption) ?_)
    | (with_reducible refine OptInv.use (by assumption) ?_)
    | (with_reducible refine ExInv.use (by assumption) ?_)
    | (with_reducible refine OutInv.use (by assumption) ?_)
    | split
    | (with_reducible apply State.Inv.ofParts; (first | rw [List.length_map] | rw [List.length_modify] | rw [List.length_set] | rw [List.length_mapIdx]); with_reducible refine State.Inv.parts ?_; with_reducible assumption)
    | (clear_value x; split)
    | (clear_value *; split)
    | (with_reducible apply PairInv.mk)
    | (with_reducible refine Eq.symm ?_; rfl)
    | (simp only [State.Inv.mk_iff]; refine State.Inv.parts ?_)
    | (simp only [List.length_map, List.length_modify, List.length_set])

theorem State.refreshService_inv {s : State} {a1 : ℕ} (h0 : s.Inv) : (State.refreshService s a1).Inv := by
  unfold State.refreshService
  repeat' first
    | with_reducible assumption
    | with_reducible apply State.setNat_inv
    | with_reducible apply foldl_inv
    | (with_reducible intro _)
    | (with_reducible apply State.Inv.ofParts; with_reducible refine State.Inv.parts ?_; with_reducible assumption)
    | (extract_lets +onlyGivenNames x; clear_value (hx : x = _); refine (fun hw : x.Inv => ?_) ((congrArg State.Inv hx).mpr ?_); clear hx)
    | (fail_if_no_progress extract_lets +onlyGivenNames x)
    | (with_reducible refine PairInv.use (by assumption) ?_)
    | (with_reducible refine OptPairInv.use (by assumption) ?_)
    | (with_reducible refine OptInv.use (by assumption) ?_)
    | (with_reducible refine ExInv.use (by assumption) ?_)
    | (with_reducible refine OutInv.use (by assumption) ?_)
    | split
    | (with_reducible apply State.Inv.ofParts; (first | rw [List.length_map] | rw [List.length_modify] | rw [List.length_set] | rw [List.length_mapIdx]); with_reducible refine State.Inv.parts ?_; with_reducible assumption)
    | (clear_value x; split)
    | (clear_value *; split)
    | (with_reducible apply PairInv.mk)
    | (with_reducible refine Eq.symm ?_; rfl)
    | (simp only [State.Inv.mk_iff]; refine State.Inv.parts ?_)
    | (simp only [List.length_map, List.length_modify, List.length_set])

theorem State.failReturn_inv {s : State} {a1 : List ℕ} {a2 : ℕ} (h0 : s.Inv) : (State.failReturn s a1 a2).Inv := by
  unfold State.failReturn
  repeat' first
    | with_reducible assumption
    | with_reducible apply State.endRun_inv
    | with_reducible apply foldl_inv
    | (with_reducible intro _)
    | (with_reducible apply State.Inv.ofParts; with_reducible refine State.Inv.parts ?_; with_reducible assumption)
    | (extract_lets +onlyGivenNames x; clear_value (hx : x = _); refine (fun hw : x.Inv => ?_) ((congrArg State.Inv hx).mpr ?_); clear hx)
    | (fail_if_no_progress extract_lets +onlyGivenNames x)
    | (with_reducible refine PairInv.use (by assumption) ?_)
    | (with_reducible refine OptPairInv.use (by assumption) ?_)
    | (with_reducible refine OptInv.use (by assumption) ?_)
    | (with_reducible refine ExInv.use (by assumption) ?_)
    | (with_reducible refine OutInv.use (by assumption) ?_)
    | split
    | (with_reducible apply State.Inv.ofParts; (first | rw [List.length_map] | rw [List.length_modify] | rw [List.length_set] | rw [List.length_mapIdx]); with_reducible refine State.Inv.parts ?_; with_reducible assumption)
    | (clear_value x; split)
    | (clear_value *; split)
    | (with_reducible apply PairInv.mk)
    | (with_reducible refine Eq.symm ?_; rfl)
    | (simp only [State.Inv.mk_iff]; refine State.Inv.parts ?_)
    | (simp only [List.length_map, List.length_modify, List.length_set])

theorem State.fenceHead_inv {s : State} {a1 : ℕ} {a2 : ℕ} (h0 : s.Inv) : (State.fenceHead s a1 a2).Inv := by
  unfold State.fenceHead
  repeat' first
    | with_reducible assumption
    | with_reducible apply State.failReturn_inv
    | with_reducible apply State.setNat_inv
    | with_reducible apply State.modHead_inv
    | with_reducible apply State.writeHeater_inv
    | with_reducible apply State.closeGate_inv
    | with_reducible apply State.each_inv
    | with_reducible apply State.assignLender_inv
    | with_reducible apply State.noteWarnings_inv
    | with_reducible apply foldl_inv
    | (with_reducible intro _)
    | (with_reducible apply State.Inv.ofParts; with_reducible refine State.Inv.parts ?_; with_reducible assumption)
    | (extract_lets +onlyGivenNames x; clear_value (hx : x = _); refine (fun hw : x.Inv => ?_) ((congrArg State.Inv hx).mpr ?_); clear hx)
    | (fail_if_no_progress extract_lets +onlyGivenNames x)
    | (with_reducible refine PairInv.use (by assumption) ?_)
    | (with_reducible refine OptPairInv.use (by assumption) ?_)
    | (with_reducible refine OptInv.use (by assumption) ?_)
    | (with_reducible refine ExInv.use (by assumption) ?_)
    | (with_reducible refine OutInv.use (by assumption) ?_)
    | split
    | (with_reducible apply State.Inv.ofParts; (first | rw [List.length_map] | rw [List.length_modify] | rw [List.length_set] | rw [List.length_mapIdx]); with_reducible refine State.Inv.parts ?_; with_reducible assumption)
    | (clear_value x; split)
    | (clear_value *; split)
    | (with_reducible apply PairInv.mk)
    | (with_reducible refine Eq.symm ?_; rfl)
    | (simp only [State.Inv.mk_iff]; refine State.Inv.parts ?_)
    | (simp only [List.length_map, List.length_modify, List.length_set])

theorem State.dropOps_inv {s : State} {a1 : ℕ} (h0 : s.Inv) : (State.dropOps s a1).Inv := by
  unfold State.dropOps
  repeat' first
    | with_reducible assumption
    | with_reducible apply foldl_inv
    | (with_reducible intro _)
    | (with_reducible apply State.Inv.ofParts; with_reducible refine State.Inv.parts ?_; with_reducible assumption)
    | (extract_lets +onlyGivenNames x; clear_value (hx : x = _); refine (fun hw : x.Inv => ?_) ((congrArg State.Inv hx).mpr ?_); clear hx)
    | (fail_if_no_progress extract_lets +onlyGivenNames x)
    | (with_reducible refine PairInv.use (by assumption) ?_)
    | (with_reducible refine OptPairInv.use (by assumption) ?_)
    | (with_reducible refine OptInv.use (by assumption) ?_)
    | (with_reducible refine ExInv.use (by assumption) ?_)
    | (with_reducible refine OutInv.use (by assumption) ?_)
    | split
    | (with_reducible apply State.Inv.ofParts; (first | rw [List.length_map] | rw [List.length_modify] | rw [List.length_set] | rw [List.length_mapIdx]); with_reducible refine State.Inv.parts ?_; with_reducible assumption)
    | (clear_value x; split)
    | (clear_value *; split)
    | (with_reducible apply PairInv.mk)
    | (with_reducible refine Eq.symm ?_; rfl)
    | (simp only [State.Inv.mk_iff]; refine State.Inv.parts ?_)
    | (simp only [List.length_map, List.length_modify, List.length_set])

theorem State.returnSurge_inv {s : State} {a1 : ℕ} {a2 : ℕ} (h0 : s.Inv) : (State.returnSurge s a1 a2).Inv := by
  unfold State.returnSurge
  repeat' first
    | with_reducible assumption
    | with_reducible apply foldl_inv
    | (with_reducible intro _)
    | (with_reducible apply State.Inv.ofParts; with_reducible refine State.Inv.parts ?_; with_reducible assumption)
    | (extract_lets +onlyGivenNames x; clear_value (hx : x = _); refine (fun hw : x.Inv => ?_) ((congrArg State.Inv hx).mpr ?_); clear hx)
    | (fail_if_no_progress extract_lets +onlyGivenNames x)
    | (with_reducible refine PairInv.use (by assumption) ?_)
    | (with_reducible refine OptPairInv.use (by assumption) ?_)
    | (with_reducible refine OptInv.use (by assumption) ?_)
    | (with_reducible refine ExInv.use (by assumption) ?_)
    | (with_reducible refine OutInv.use (by assumption) ?_)
    | split
    | (with_reducible apply State.Inv.ofParts; (first | rw [List.length_map] | rw [List.length_modify] | rw [List.length_set] | rw [List.length_mapIdx]); with_reducible refine State.Inv.parts ?_; with_reducible assumption)
    | (clear_value x; split)
    | (clear_value *; split)
    | (with_reducible apply PairInv.mk)
    | (with_reducible refine Eq.symm ?_; rfl)
    | (simp only [State.Inv.mk_iff]; refine State.Inv.parts ?_)
    | (simp only [List.length_map, List.length_modify, List.length_set])

theorem State.dropSurge_inv {s : State} {a1 : ℕ} {a2 : ℕ} (h0 : s.Inv) : (State.dropSurge s a1 a2).Inv := by
  unfold State.dropSurge
  repeat' first
    | with_reducible assumption
    | with_reducible apply foldl_inv
    | (with_reducible intro _)
    | (with_reducible apply State.Inv.ofParts; with_reducible refine State.Inv.parts ?_; with_reducible assumption)
    | (extract_lets +onlyGivenNames x; clear_value (hx : x = _); refine (fun hw : x.Inv => ?_) ((congrArg State.Inv hx).mpr ?_); clear hx)
    | (fail_if_no_progress extract_lets +onlyGivenNames x)
    | (with_reducible refine PairInv.use (by assumption) ?_)
    | (with_reducible refine OptPairInv.use (by assumption) ?_)
    | (with_reducible refine OptInv.use (by assumption) ?_)
    | (with_reducible refine ExInv.use (by assumption) ?_)
    | (with_reducible refine OutInv.use (by assumption) ?_)
    | split
    | (with_reducible apply State.Inv.ofParts; (first | rw [List.length_map] | rw [List.length_modify] | rw [List.length_set] | rw [List.length_mapIdx]); with_reducible refine State.Inv.parts ?_; with_reducible assumption)
    | (clear_value x; split)
    | (clear_value *; split)
    | (with_reducible apply PairInv.mk)
    | (with_reducible refine Eq.symm ?_; rfl)
    | (simp only [State.Inv.mk_iff]; refine State.Inv.parts ?_)
    | (simp only [List.length_map, List.length_modify, List.length_set])

theorem State.fenceAct_inv {s : State} {a1 : ℕ} {a2 : ℕ} (h0 : s.Inv) : (State.fenceAct s a1 a2).Inv := by
  unfold State.fenceAct
  repeat' first
    | with_reducible assumption
    | with_reducible apply State.failReturn_inv
    | with_reducible apply State.safePark_inv
    | with_reducible apply State.setNat_inv
    | with_reducible apply State.each_inv
    | with_reducible apply State.fenceHead_inv
    | with_reducible apply State.dropSurge_inv
    | with_reducible apply State.returnSurge_inv
    | with_reducible apply State.dropOps_inv
    | with_reducible apply State.modAct_inv
    | with_reducible apply State.noteWarnings_inv
    | with_reducible apply State.raiseFault_inv
    | with_reducible apply foldl_inv
    | (with_reducible intro _)
    | (with_reducible apply State.Inv.ofParts; with_reducible refine State.Inv.parts ?_; with_reducible assumption)
    | (extract_lets +onlyGivenNames x; clear_value (hx : x = _); refine (fun hw : x.Inv => ?_) ((congrArg State.Inv hx).mpr ?_); clear hx)
    | (fail_if_no_progress extract_lets +onlyGivenNames x)
    | (with_reducible refine PairInv.use (by assumption) ?_)
    | (with_reducible refine OptPairInv.use (by assumption) ?_)
    | (with_reducible refine OptInv.use (by assumption) ?_)
    | (with_reducible refine ExInv.use (by assumption) ?_)
    | (with_reducible refine OutInv.use (by assumption) ?_)
    | split
    | (with_reducible apply State.Inv.ofParts; (first | rw [List.length_map] | rw [List.length_modify] | rw [List.length_set] | rw [List.length_mapIdx]); with_reducible refine State.Inv.parts ?_; with_reducible assumption)
    | (clear_value x; split)
    | (clear_value *; split)
    | (with_reducible apply PairInv.mk)
    | (with_reducible refine Eq.symm ?_; rfl)
    | (simp only [State.Inv.mk_iff]; refine State.Inv.parts ?_)
    | (simp only [List.length_map, List.length_modify, List.length_set])

theorem State.protectAct_inv {s : State} {a1 : ℕ} (h0 : s.Inv) : (State.protectAct s a1).Inv := by
  unfold State.protectAct
  repeat' first
    | with_reducible assumption
    | with_reducible apply State.noteWarnings_inv
    | with_reducible apply State.setNat_inv
    | with_reducible apply foldl_inv
    | (with_reducible intro _)
    | (with_reducible apply State.Inv.ofParts; with_reducible refine State.Inv.parts ?_; with_reducible assumption)
    | (extract_lets +onlyGivenNames x; clear_value (hx : x = _); refine (fun hw : x.Inv => ?_) ((congrArg State.Inv hx).mpr ?_); clear hx)
    | (fail_if_no_progress extract_lets +onlyGivenNames x)
    | (with_reducible refine PairInv.use (by assumption) ?_)
    | (with_reducible refine OptPairInv.use (by assumption) ?_)
    | (with_reducible refine OptInv.use (by assumption) ?_)
    | (with_reducible refine ExInv.use (by assumption) ?_)
    | (with_reducible refine OutInv.use (by assumption) ?_)
    | split
    | (with_reducible apply State.Inv.ofParts; (first | rw [List.length_map] | rw [List.length_modify] | rw [List.length_set] | rw [List.length_mapIdx]); with_reducible refine State.Inv.parts ?_; with_reducible assumption)
    | (clear_value x; split)
    | (clear_value *; split)
    | (with_reducible apply PairInv.mk)
    | (with_reducible refine Eq.symm ?_; rfl)
    | (simp only [State.Inv.mk_iff]; refine State.Inv.parts ?_)
    | (simp only [List.length_map, List.length_modify, List.length_set])

end Sys2Proof.Machine
end

