-- ==== Sys2Proof/Laws/InvRafterOps.lean ====
section
/-! SUPPORT. The invariant is kept by the operations of Machine/RafterOps.lean. -/

set_option linter.all false

namespace Sys2Proof.Machine

theorem State.openBank_inv {s : State} {a1 : ℕ} {a2 : List (ℕ × ℤ)} (h0 : s.Inv) : (State.openBank s a1 a2).Inv := by
  unfold State.openBank
  repeat' first
    | with_reducible assumption
    | with_reducible apply State.setNat_inv
    | with_reducible apply State.modLoop_inv
    | with_reducible apply foldl_inv
    | (with_reducible intro _)
    | (with_reducible apply State.Inv.ofParts; with_reducible refine State.Inv.parts ?_; with_reducible assumption)
    | (extract_lets +onlyGivenNames x; clear_value (hx : x = _); refine (fun hw : x.Inv => ?_) ((congrArg State.Inv hx).mpr ?_); clear hx)
    | (fail_if_no_progress extract_lets +onlyGivenNames x)
    | (with_reducible refine PairInv.use (by assumption) ?_)
    | (with_reducible refine OptPairInv.use (by assumption) ?_)
    | (with_reducible refine OptInv.use (by assumption) ?_)
    | (with_reducible refine ExInv.use (by assumption) ?_)
    | (with_reducible refine OutInv.use (by assumption) ?_)
    | split
    | (with_reducible apply State.Inv.ofParts; (first | rw [List.length_map] | rw [List.length_modify] | rw [List.length_set] | rw [List.length_mapIdx]); with_reducible refine State.Inv.parts ?_; with_reducible assumption)
    | (clear_value x; split)
    | (clear_value *; split)
    | (with_reducible apply PairInv.mk)
    | (with_reducible refine Eq.symm ?_; rfl)
    | (simp only [State.Inv.mk_iff]; refine State.Inv.parts ?_)
    | (simp only [List.length_map, List.length_modify, List.length_set])

theorem State.sealBank_inv {s : State} {a1 : ℕ} (h0 : s.Inv) : (State.sealBank s a1).Inv := by
  unfold State.sealBank
  repeat' first
    | with_reducible assumption
    | with_reducible apply State.setNat_inv
    | with_reducible apply State.modLoop_inv
    | with_reducible apply foldl_inv
    | (with_reducible intro _)
    | (with_reducible apply State.Inv.ofParts; with_reducible refine State.Inv.parts ?_; with_reducible assumption)
    | (extract_lets +onlyGivenNames x; clear_value (hx : x = _); refine (fun hw : x.Inv => ?_) ((congrArg State.Inv hx).mpr ?_); clear hx)
    | (fail_if_no_progress extract_lets +onlyGivenNames x)
    | (with_reducible refine PairInv.use (by assumption) ?_)
    | (with_reducible refine OptPairInv.use (by assumption) ?_)
    | (with_reducible refine OptInv.use (by assumption) ?_)
    | (with_reducible refine ExInv.use (by assumption) ?_)
    | (with_reducible refine OutInv.use (by assumption) ?_)
    | split
    | (with_reducible apply State.Inv.ofParts; (first | rw [List.length_map] | rw [List.length_modify] | rw [List.length_set] | rw [List.length_mapIdx]); with_reducible refine State.Inv.parts ?_; with_reducible assumption)
    | (clear_value x; split)
    | (clear_value *; split)
    | (with_reducible apply PairInv.mk)
    | (with_reducible refine Eq.symm ?_; rfl)
    | (simp only [State.Inv.mk_iff]; refine State.Inv.parts ?_)
    | (simp only [List.length_map, List.length_modify, List.length_set])

theorem State.flipBank_inv {s : State} {a1 : ℕ} (h0 : s.Inv) : (State.flipBank s a1).Inv := by
  unfold State.flipBank
  repeat' first
    | with_reducible assumption
    | with_reducible apply State.setNat_inv
    | with_reducible apply State.modLoop_inv
    | with_reducible apply foldl_inv
    | (with_reducible intro _)
    | (with_reducible apply State.Inv.ofParts; with_reducible refine State.Inv.parts ?_; with_reducible assumption)
    | (extract_lets +onlyGivenNames x; clear_value (hx : x = _); refine (fun hw : x.Inv => ?_) ((congrArg State.Inv hx).mpr ?_); clear hx)
    | (fail_if_no_progress extract_lets +onlyGivenNames x)
    | (with_reducible refine PairInv.use (by assumption) ?_)
    | (with_reducible refine OptPairInv.use (by assumption) ?_)
    | (with_reducible refine OptInv.use (by assumption) ?_)
    | (with_reducible refine ExInv.use (by assumption) ?_)
    | (with_reducible refine OutInv.use (by assumption) ?_)
    | split
    | (with_reducible apply State.Inv.ofParts; (first | rw [List.length_map] | rw [List.length_modify] | rw [List.length_set] | rw [List.length_mapIdx]); with_reducible refine State.Inv.parts ?_; with_reducible assumption)
    | (clear_value x; split)
    | (clear_value *; split)
    | (with_reducible apply PairInv.mk)
    | (with_reducible refine Eq.symm ?_; rfl)
    | (simp only [State.Inv.mk_iff]; refine State.Inv.parts ?_)
    | (simp only [List.length_map, List.length_modify, List.length_set])

theorem State.takeSwap_inv {s : State} {a1 : ℕ} {a2 : ℕ} (h0 : s.Inv) : (State.takeSwap s a1 a2).Inv := by
  unfold State.takeSwap
  repeat' first
    | with_reducible assumption
    | with_reducible apply State.setNat_inv
    | with_reducible apply State.flipBank_inv
    | with_reducible apply State.modLoop_inv
    | with_reducible apply State.traceEvent_inv
    | with_reducible apply State.bump_inv
    | with_reducible apply State.endRun_inv
    | with_reducible apply foldl_inv
    | (with_reducible intro _)
    | (with_reducible apply State.Inv.ofParts; with_reducible refine State.Inv.parts ?_; with_reducible assumption)
    | (extract_lets +onlyGivenNames x; clear_value (hx : x = _); refine (fun hw : x.Inv => ?_) ((congrArg State.Inv hx).mpr ?_); clear hx)
    | (fail_if_no_progress extract_lets +onlyGivenNames x)
    | (with_reducible refine PairInv.use (by assumption) ?_)
    | (with_reducible refine OptPairInv.use (by assumption) ?_)
    | (with_reducible refine OptInv.use (by assumption) ?_)
    | (with_reducible refine ExInv.use (by assumption) ?_)
    | (with_reducible refine OutInv.use (by assumption) ?_)
    | split
    | (with_reducible apply State.Inv.ofParts; (first | rw [List.length_map] | rw [List.length_modify] | rw [List.length_set] | rw [List.length_mapIdx]); with_reducible refine State.Inv.parts ?_; with_reducible assumption)
    | (clear_value x; split)
    | (clear_value *; split)
    | (with_reducible apply PairInv.mk)
    | (with_reducible refine Eq.symm ?_; rfl)
    | (simp only [State.Inv.mk_iff]; refine State.Inv.parts ?_)
    | (simp only [List.length_map, List.length_modify, List.length_set])

theorem State.takeSwaps_inv {s : State} {a1 : ℕ} (h0 : s.Inv) : (State.takeSwaps s a1).Inv := by
  unfold State.takeSwaps
  repeat' first
    | with_reducible assumption
    | with_reducible apply State.each_inv
    | with_reducible apply State.takeSwap_inv
    | with_reducible apply foldl_inv
    | (with_reducible intro _)
    | (with_reducible apply State.Inv.ofParts; with_reducible refine State.Inv.parts ?_; with_reducible assumption)
    | (extract_lets +onlyGivenNames x; clear_value (hx : x = _); refine (fun hw : x.Inv => ?_) ((congrArg State.Inv hx).mpr ?_); clear hx)
    | (fail_if_no_progress extract_lets +onlyGivenNames x)
    | (with_reducible refine PairInv.use (by assumption) ?_)
    | (with_reducible refine OptPairInv.use (by assumption) ?_)
    | (with_reducible refine OptInv.use (by assumption) ?_)
    | (with_reducible refine ExInv.use (by assumption) ?_)
    | (with_reducible refine OutInv.use (by assumption) ?_)
    | split
    | (with_reducible apply State.Inv.ofParts; (first | rw [List.length_map] | rw [List.length_modify] | rw [List.length_set] | rw [List.length_mapIdx]); with_reducible refine State.Inv.parts ?_; with_reducible assumption)
    | (clear_value x; split)
    | (clear_value *; split)
    | (with_reducible apply PairInv.mk)
    | (with_reducible refine Eq.symm ?_; rfl)
    | (simp only [State.Inv.mk_iff]; refine State.Inv.parts ?_)
    | (simp only [List.length_map, List.length_modify, List.length_set])

theorem State.acceptSwap_inv {s : State} {a1 : ℕ} {a2 : ℕ} {a3 : ℕ} {a4 : ℕ} {a5 : List ℕ} (h0 : s.Inv) : (State.acceptSwap s a1 a2 a3 a4 a5).Inv := by
  unfold State.acceptSwap
  repeat' first
    | with_reducible assumption
    | with_reducible apply State.each_inv
    | with_reducible apply State.setNat_inv
    | with_reducible apply State.modLoop_inv
    | with_reducible apply State.takeSwap_inv
    | with_reducible apply foldl_inv
    | (with_reducible intro _)
    | (with_reducible apply State.Inv.ofParts; with_reducible refine State.Inv.parts ?_; with_reducible assumption)
    | (extract_lets +onlyGivenNames x; clear_value (hx : x = _); refine (fun hw : x.Inv => ?_) ((congrArg State.Inv hx).mpr ?_); clear hx)
    | (fail_if_no_progress extract_lets +onlyGivenNames x)
    | (with_reducible refine PairInv.use (by assumption) ?_)
    | (with_reducible refine OptPairInv.use (by assumption) ?_)
    | (with_reducible refine OptInv.use (by assumption) ?_)
    | (with_reducible refine ExInv.use (by assumption) ?_)
    | (with_reducible refine OutInv.use (by assumption) ?_)
    | split
    | (with_reducible apply State.Inv.ofParts; (first | rw [List.length_map] | rw [List.length_modify] | rw [List.length_set] | rw [List.length_mapIdx]); with_reducible refine State.Inv.parts ?_; with_reducible assumption)
    | (clear_value x; split)
    | (clear_value *; split)
    | (with_reducible apply PairInv.mk)
    | (with_reducible refine Eq.symm ?_; rfl)
    | (simp only [State.Inv.mk_iff]; refine State.Inv.parts ?_)
    | (simp only [List.length_map, List.length_modify, List.length_set])

theorem State.firmwareChange_inv {s : State} {a1 : ℕ} {a2 : List (ℕ × ℤ)} (h0 : s.Inv) : (State.firmwareChange s a1 a2).Inv := by
  unfold State.firmwareChange
  repeat' first
    | with_reducible assumption
    | with_reducible apply State.sealBank_inv
    | with_reducible apply State.openBank_inv
    | with_reducible apply State.acceptSwap_inv
    | with_reducible apply foldl_inv
    | (with_reducible intro _)
    | (with_reducible apply State.Inv.ofParts; with_reducible refine State.Inv.parts ?_; with_reducible assumption)
    | (extract_lets +onlyGivenNames x; clear_value (hx : x = _); refine (fun hw : x.Inv => ?_) ((congrArg State.Inv hx).mpr ?_); clear hx)
    | (fail_if_no_progress extract_lets +onlyGivenNames x)
    | (with_reducible refine PairInv.use (by assumption) ?_)
    | (with_reducible refine OptPairInv.use (by assumption) ?_)
    | (with_reducible refine OptInv.use (by assumption) ?_)
    | (with_reducible refine ExInv.use (by assumption) ?_)
    | (with_reducible refine OutInv.use (by assumption) ?_)
    | split
    | (with_reducible apply State.Inv.ofParts; (first | rw [List.length_map] | rw [List.length_modify] | rw [List.length_set] | rw [List.length_mapIdx]); with_reducible refine State.Inv.parts ?_; with_reducible assumption)
    | (clear_value x; split)
    | (clear_value *; split)
    | (with_reducible apply PairInv.mk)
    | (with_reducible refine Eq.symm ?_; rfl)
    | (simp only [State.Inv.mk_iff]; refine State.Inv.parts ?_)
    | (simp only [List.length_map, List.length_modify, List.length_set])

theorem State.loadTable_inv {s : State} {a1 : ℕ} {a2 : List (ℕ × ℤ)} (h0 : s.Inv) : (State.loadTable s a1 a2).Inv := by
  unfold State.loadTable
  repeat' first
    | with_reducible assumption
    | with_reducible apply State.sealBank_inv
    | with_reducible apply State.openBank_inv
    | with_reducible apply State.modLoop_inv
    | with_reducible apply State.acceptSwap_inv
    | with_reducible apply State.firmwareChange_inv
    | with_reducible apply foldl_inv
    | (with_reducible intro _)
    | (with_reducible apply State.Inv.ofParts; with_reducible refine State.Inv.parts ?_; with_reducible assumption)
    | (extract_lets +onlyGivenNames x; clear_value (hx : x = _); refine (fun hw : x.Inv => ?_) ((congrArg State.Inv hx).mpr ?_); clear hx)
    | (fail_if_no_progress extract_lets +onlyGivenNames x)
    | (with_reducible refine PairInv.use (by assumption) ?_)
    | (with_reducible refine OptPairInv.use (by assumption) ?_)
    | (with_reducible refine OptInv.use (by assumption) ?_)
    | (with_reducible refine ExInv.use (by assumption) ?_)
    | (with_reducible refine OutInv.use (by assumption) ?_)
    | split
    | (with_reducible apply State.Inv.ofParts; (first | rw [List.length_map] | rw [List.length_modify] | rw [List.length_set] | rw [List.length_mapIdx]); with_reducible refine State.Inv.parts ?_; with_reducible assumption)
    | (clear_value x; split)
    | (clear_value *; split)
    | (with_reducible apply PairInv.mk)
    | (with_reducible refine Eq.symm ?_; rfl)
    | (simp only [State.Inv.mk_iff]; refine State.Inv.parts ?_)
    | (simp only [List.length_map, List.length_modify, List.length_set])

theorem State.startLoop_inv {s : State} {a1 : ℕ} (h0 : s.Inv) : (State.startLoop s a1).Inv := by
  unfold State.startLoop
  repeat' first
    | with_reducible assumption
    | with_reducible apply State.modLoop_inv
    | with_reducible apply State.setNat_inv
    | with_reducible apply foldl_inv
    | (with_reducible intro _)
    | (with_reducible apply State.Inv.ofParts; with_reducible refine State.Inv.parts ?_; with_reducible assumption)
    | (extract_lets +onlyGivenNames x; clear_value (hx : x = _); refine (fun hw : x.Inv => ?_) ((congrArg State.Inv hx).mpr ?_); clear hx)
    | (fail_if_no_progress extract_lets +onlyGivenNames x)
    | (with_reducible refine PairInv.use (by assumption) ?_)
    | (with_reducible refine OptPairInv.use (by assumption) ?_)
    | (with_reducible refine OptInv.use (by assumption) ?_)
    | (with_reducible refine ExInv.use (by assumption) ?_)
    | (with_reducible refine OutInv.use (by assumption) ?_)
    | split
    | (with_reducible apply State.Inv.ofParts; (first | rw [List.length_map] | rw [List.length_modify] | rw [List.length_set] | rw [List.length_mapIdx]); with_reducible refine State.Inv.parts ?_; with_reducible assumption)
    | (clear_value x; split)
    | (clear_value *; split)
    | (with_reducible apply PairInv.mk)
    | (with_reducible refine Eq.symm ?_; rfl)
    | (simp only [State.Inv.mk_iff]; refine State.Inv.parts ?_)
    | (simp only [List.length_map, List.length_modify, List.length_set])

theorem State.stopLoop_inv {s : State} {a1 : ℕ} (h0 : s.Inv) : (State.stopLoop s a1).Inv := by
  unfold State.stopLoop
  repeat' first
    | with_reducible assumption
    | with_reducible apply State.modLoop_inv
    | with_reducible apply State.setNat_inv
    | with_reducible apply State.takeSwap_inv
    | with_reducible apply State.each_inv
    | with_reducible apply foldl_inv
    | (with_reducible intro _)
    | (with_reducible apply State.Inv.ofParts; with_reducible refine State.Inv.parts ?_; with_reducible assumption)
    | (extract_lets +onlyGivenNames x; clear_value (hx : x = _); refine (fun hw : x.Inv => ?_) ((congrArg State.Inv hx).mpr ?_); clear hx)
    | (fail_if_no_progress extract_lets +onlyGivenNames x)
    | (with_reducible refine PairInv.use (by assumption) ?_)
    | (with_reducible refine OptPairInv.use (by assumption) ?_)
    | (with_reducible refine OptInv.use (by assumption) ?_)
    | (with_reducible refine ExInv.use (by assumption) ?_)
    | (with_reducible refine OutInv.use (by assumption) ?_)
    | split
    | (with_reducible apply State.Inv.ofParts; (first | rw [List.length_map] | rw [List.length_modify] | rw [List.length_set] | rw [List.length_mapIdx]); with_reducible refine State.Inv.parts ?_; with_reducible assumption)
    | (clear_value x; split)
    | (clear_value *; split)
    | (with_reducible apply PairInv.mk)
    | (with_reducible refine Eq.symm ?_; rfl)
    | (simp only [State.Inv.mk_iff]; refine State.Inv.parts ?_)
    | (simp only [List.length_map, List.length_modify, List.length_set])

theorem State.startLoops_inv {s : State} {a1 : ℕ} (h0 : s.Inv) : (State.startLoops s a1).Inv := by
  unfold State.startLoops
  repeat' first
    | with_reducible assumption
    | with_reducible apply State.each_inv
    | with_reducible apply State.startLoop_inv
    | with_reducible apply foldl_inv
    | (with_reducible intro _)
    | (with_reducible apply State.Inv.ofParts; with_reducible refine State.Inv.parts ?_; with_reducible assumption)
    | (extract_lets +onlyGivenNames x; clear_value (hx : x = _); refine (fun hw : x.Inv => ?_) ((congrArg State.Inv hx).mpr ?_); clear hx)
    | (fail_if_no_progress extract_lets +onlyGivenNames x)
    | (with_reducible refine PairInv.use (by assumption) ?_)
    | (with_reducible refine OptPairInv.use (by assumption) ?_)
    | (with_reducible refine OptInv.use (by assumption) ?_)
    | (with_reducible refine ExInv.use (by assumption) ?_)
    | (with_reducible refine OutInv.use (by assumption) ?_)
    | split
    | (with_reducible apply State.Inv.ofParts; (first | rw [List.length_map] | rw [List.length_modify] | rw [List.length_set] | rw [List.length_mapIdx]); with_reducible refine State.Inv.parts ?_; with_reducible assumption)
    | (clear_value x; split)
    | (clear_value *; split)
    | (with_reducible apply PairInv.mk)
    | (with_reducible refine Eq.symm ?_; rfl)
    | (simp only [State.Inv.mk_iff]; refine State.Inv.parts ?_)
    | (simp only [List.length_map, List.length_modify, List.length_set])

theorem State.stopLoops_inv {s : State} {a1 : ℕ} (h0 : s.Inv) : (State.stopLoops s a1).Inv := by
  unfold State.stopLoops
  repeat' first
    | with_reducible assumption
    | with_reducible apply State.each_inv
    | with_reducible apply State.stopLoop_inv
    | with_reducible apply foldl_inv
    | (with_reducible intro _)
    | (with_reducible apply State.Inv.ofParts; with_reducible refine State.Inv.parts ?_; with_reducible assumption)
    | (extract_lets +onlyGivenNames x; clear_value (hx : x = _); refine (fun hw : x.Inv => ?_) ((congrArg State.Inv hx).mpr ?_); clear hx)
    | (fail_if_no_progress extract_lets +onlyGivenNames x)
    | (with_reducible refine PairInv.use (by assumption) ?_)
    | (with_reducible refine OptPairInv.use (by assumption) ?_)
    | (with_reducible refine OptInv.use (by assumption) ?_)
    | (with_reducible refine ExInv.use (by assumption) ?_)
    | (with_reducible refine OutInv.use (by assumption) ?_)
    | split
    | (with_reducible apply State.Inv.ofParts; (first | rw [List.length_map] | rw [List.length_modify] | rw [List.length_set] | rw [List.length_mapIdx]); with_reducible refine State.Inv.parts ?_; with_reducible assumption)
    | (clear_value x; split)
    | (clear_value *; split)
    | (with_reducible apply PairInv.mk)
    | (with_reducible refine Eq.symm ?_; rfl)
    | (simp only [State.Inv.mk_iff]; refine State.Inv.parts ?_)
    | (simp only [List.length_map, List.length_modify, List.length_set])

theorem State.speedLoop_inv {s : State} {a1 : Bool} (h0 : s.Inv) : (State.speedLoop s a1).Inv := by
  unfold State.speedLoop
  repeat' first
    | with_reducible assumption
    | with_reducible apply State.startLoop_inv
    | with_reducible apply State.stopLoop_inv
    | with_reducible apply foldl_inv
    | (with_reducible intro _)
    | (with_reducible apply State.Inv.ofParts; with_reducible refine State.Inv.parts ?_; with_reducible assumption)
    | (extract_lets +onlyGivenNames x; clear_value (hx : x = _); refine (fun hw : x.Inv => ?_) ((congrArg State.Inv hx).mpr ?_); clear hx)
    | (fail_if_no_progress extract_lets +onlyGivenNames x)
    | (with_reducible refine PairInv.use (by assumption) ?_)
    | (with_reducible refine OptPairInv.use (by assumption) ?_)
    | (with_reducible refine OptInv.use (by assumption) ?_)
    | (with_reducible refine ExInv.use (by assumption) ?_)
    | (with_reducible refine OutInv.use (by assumption) ?_)
    | split
    | (with_reducible apply State.Inv.ofParts; (first | rw [List.length_map] | rw [List.length_modify] | rw [List.length_set] | rw [List.length_mapIdx]); with_reducible refine State.Inv.parts ?_; with_reducible assumption)
    | (clear_value x; split)
    | (clear_value *; split)
    | (with_reducible apply PairInv.mk)
    | (with_reducible refine Eq.symm ?_; rfl)
    | (simp only [State.Inv.mk_iff]; refine State.Inv.parts ?_)
    | (simp only [List.length_map, List.length_modify, List.length_set])

theorem State.cancelFirmwareSwaps_inv {s : State} (h0 : s.Inv) : (State.cancelFirmwareSwaps s).Inv := by
  unfold State.cancelFirmwareSwaps
  repeat' first
    | with_reducible assumption
    | with_reducible apply State.each_inv
    | with_reducible apply State.setNat_inv
    | with_reducible apply State.modLoop_inv
    | with_reducible apply foldl_inv
    | (with_reducible intro _)
    | (with_reducible apply State.Inv.ofParts; with_reducible refine State.Inv.parts ?_; with_reducible assumption)
    | (extract_lets +onlyGivenNames x; clear_value (hx : x = _); refine (fun hw : x.Inv => ?_) ((congrArg State.Inv hx).mpr ?_); clear hx)
    | (fail_if_no_progress extract_lets +onlyGivenNames x)
    | (with_reducible refine PairInv.use (by assumption) ?_)
    | (with_reducible refine OptPairInv.use (by assumption) ?_)
    | (with_reducible refine OptInv.use (by assumption) ?_)
    | (with_reducible refine ExInv.use (by assumption) ?_)
    | (with_reducible refine OutInv.use (by assumption) ?_)
    | split
    | (with_reducible apply State.Inv.ofParts; (first | rw [List.length_map] | rw [List.length_modify] | rw [List.length_set] | rw [List.length_mapIdx]); with_reducible refine State.Inv.parts ?_; with_reducible assumption)
    | (clear_value x; split)
    | (clear_value *; split)
    | (with_reducible apply PairInv.mk)
    | (with_reducible refine Eq.symm ?_; rfl)
    | (simp only [State.Inv.mk_iff]; refine State.Inv.parts ?_)
    | (simp only [List.length_map, List.length_modify, List.length_set])

theorem State.rebuildLoops_inv {s : State} (h0 : s.Inv) : (State.rebuildLoops s).Inv := by
  unfold State.rebuildLoops
  repeat' first
    | with_reducible assumption
    | with_reducible apply State.each_inv
    | with_reducible apply State.setNat_inv
    | with_reducible apply State.modLoop_inv
    | with_reducible apply foldl_inv
    | (with_reducible intro _)
    | (with_reducible apply State.Inv.ofParts; with_reducible refine State.Inv.parts ?_; with_reducible assumption)
    | (extract_lets +onlyGivenNames x; clear_value (hx : x = _); refine (fun hw : x.Inv => ?_) ((congrArg State.Inv hx).mpr ?_); clear hx)
    | (fail_if_no_progress extract_lets +onlyGivenNames x)
    | (with_reducible refine PairInv.use (by assumption) ?_)
    | (with_reducible refine OptPairInv.use (by assumption) ?_)
    | (with_reducible refine OptInv.use (by assumption) ?_)
    | (with_reducible refine ExInv.use (by assumption) ?_)
    | (with_reducible refine OutInv.use (by assumption) ?_)
    | split
    | (with_reducible apply State.Inv.ofParts; (first | rw [List.length_map] | rw [List.length_modify] | rw [List.length_set] | rw [List.length_mapIdx]); with_reducible refine State.Inv.parts ?_; with_reducible assumption)
    | (clear_value x; split)
    | (clear_value *; split)
    | (with_reducible apply PairInv.mk)
    | (with_reducible refine Eq.symm ?_; rfl)
    | (simp only [State.Inv.mk_iff]; refine State.Inv.parts ?_)
    | (simp only [List.length_map, List.length_modify, List.length_set])

end Sys2Proof.Machine
end

