-- ==== Sys2Proof/Laws/InvSurge.lean ====
section
/-! SUPPORT. The invariant is kept by the operations of Machine/Surge.lean. -/

set_option linter.all false

namespace Sys2Proof.Machine

theorem State.sendVoltage_inv {s : State} {a1 : ℕ} (h0 : s.Inv) : (State.sendVoltage s a1).Inv := by
  unfold State.sendVoltage
  repeat' first
    | with_reducible assumption
    | with_reducible apply State.emit_inv
    | with_reducible apply State.setNat_inv
    | with_reducible apply foldl_inv
    | (with_reducible intro _)
    | (with_reducible apply State.Inv.ofParts; with_reducible refine State.Inv.parts ?_; with_reducible assumption)
    | (extract_lets +onlyGivenNames x; clear_value (hx : x = _); refine (fun hw : x.Inv => ?_) ((congrArg State.Inv hx).mpr ?_); clear hx)
    | (fail_if_no_progress extract_lets +onlyGivenNames x)
    | (with_reducible refine PairInv.use (by assumption) ?_)
    | (with_reducible refine OptPairInv.use (by assumption) ?_)
    | (with_reducible refine OptInv.use (by assumption) ?_)
    | (with_reducible refine ExInv.use (by assumption) ?_)
    | (with_reducible refine OutInv.use (by assumption) ?_)
    | split
    | (with_reducible apply State.Inv.ofParts; (first | rw [List.length_map] | rw [List.length_modify] | rw [List.length_set] | rw [List.length_mapIdx]); with_reducible refine State.Inv.parts ?_; with_reducible assumption)
    | (clear_value x; split)
    | (clear_value *; split)
    | (with_reducible apply PairInv.mk)
    | (with_reducible refine Eq.symm ?_; rfl)
    | (simp only [State.Inv.mk_iff]; refine State.Inv.parts ?_)
    | (simp only [List.length_map, List.length_modify, List.length_set])

theorem State.admitStreams_inv {s : State} {a1 : ℕ} (h0 : s.Inv) : (State.admitStreams s a1).Inv := by
  unfold State.admitStreams
  repeat' first
    | with_reducible assumption
    | with_reducible apply State.setNat_inv
    | with_reducible apply foldl_inv
    | (with_reducible intro _)
    | (with_reducible apply State.Inv.ofParts; with_reducible refine State.Inv.parts ?_; with_reducible assumption)
    | (extract_lets +onlyGivenNames x; clear_value (hx : x = _); refine (fun hw : x.Inv => ?_) ((congrArg State.Inv hx).mpr ?_); clear hx)
    | (fail_if_no_progress extract_lets +onlyGivenNames x)
    | (with_reducible refine PairInv.use (by assumption) ?_)
    | (with_reducible refine OptPairInv.use (by assumption) ?_)
    | (with_reducible refine OptInv.use (by assumption) ?_)
    | (with_reducible refine ExInv.use (by assumption) ?_)
    | (with_reducible refine OutInv.use (by assumption) ?_)
    | split
    | (with_reducible apply State.Inv.ofParts; (first | rw [List.length_map] | rw [List.length_modify] | rw [List.length_set] | rw [List.length_mapIdx]); with_reducible refine State.Inv.parts ?_; with_reducible assumption)
    | (clear_value x; split)
    | (clear_value *; split)
    | (with_reducible apply PairInv.mk)
    | (with_reducible refine Eq.symm ?_; rfl)
    | (simp only [State.Inv.mk_iff]; refine State.Inv.parts ?_)
    | (simp only [List.length_map, List.length_modify, List.length_set])

theorem State.takeLevel_inv {s : State} {a1 : ℕ} (h0 : s.Inv) : (State.takeLevel s a1).Inv := by
  unfold State.takeLevel
  repeat' first
    | with_reducible assumption
    | with_reducible apply State.bump_inv
    | with_reducible apply State.setNat_inv
    | with_reducible apply State.each_inv
    | with_reducible apply foldl_inv
    | (with_reducible intro _)
    | (with_reducible apply State.Inv.ofParts; with_reducible refine State.Inv.parts ?_; with_reducible assumption)
    | (extract_lets +onlyGivenNames x; clear_value (hx : x = _); refine (fun hw : x.Inv => ?_) ((congrArg State.Inv hx).mpr ?_); clear hx)
    | (fail_if_no_progress extract_lets +onlyGivenNames x)
    | (with_reducible refine PairInv.use (by assumption) ?_)
    | (with_reducible refine OptPairInv.use (by assumption) ?_)
    | (with_reducible refine OptInv.use (by assumption) ?_)
    | (with_reducible refine ExInv.use (by assumption) ?_)
    | (with_reducible refine OutInv.use (by assumption) ?_)
    | split
    | (with_reducible apply State.Inv.ofParts; (first | rw [List.length_map] | rw [List.length_modify] | rw [List.length_set] | rw [List.length_mapIdx]); with_reducible refine State.Inv.parts ?_; with_reducible assumption)
    | (clear_value x; split)
    | (clear_value *; split)
    | (with_reducible apply PairInv.mk)
    | (with_reducible refine Eq.symm ?_; rfl)
    | (simp only [State.Inv.mk_iff]; refine State.Inv.parts ?_)
    | (simp only [List.length_map, List.length_modify, List.length_set])

theorem State.lowerCeiling_inv {s : State} (h0 : s.Inv) : (State.lowerCeiling s).Inv := by
  unfold State.lowerCeiling
  repeat' first
    | with_reducible assumption
    | with_reducible apply State.takeLevel_inv
    | with_reducible apply State.sendVoltage_inv
    | with_reducible apply foldl_inv
    | (with_reducible intro _)
    | (with_reducible apply State.Inv.ofParts; with_reducible refine State.Inv.parts ?_; with_reducible assumption)
    | (extract_lets +onlyGivenNames x; clear_value (hx : x = _); refine (fun hw : x.Inv => ?_) ((congrArg State.Inv hx).mpr ?_); clear hx)
    | (fail_if_no_progress extract_lets +onlyGivenNames x)
    | (with_reducible refine PairInv.use (by assumption) ?_)
    | (with_reducible refine OptPairInv.use (by assumption) ?_)
    | (with_reducible refine OptInv.use (by assumption) ?_)
    | (with_reducible refine ExInv.use (by assumption) ?_)
    | (with_reducible refine OutInv.use (by assumption) ?_)
    | split
    | (with_reducible apply State.Inv.ofParts; (first | rw [List.length_map] | rw [List.length_modify] | rw [List.length_set] | rw [List.length_mapIdx]); with_reducible refine State.Inv.parts ?_; with_reducible assumption)
    | (clear_value x; split)
    | (clear_value *; split)
    | (with_reducible apply PairInv.mk)
    | (with_reducible refine Eq.symm ?_; rfl)
    | (simp only [State.Inv.mk_iff]; refine State.Inv.parts ?_)
    | (simp only [List.length_map, List.length_modify, List.length_set])

theorem State.spindleEnter_inv {s : State} {a1 : ℕ} (h0 : s.Inv) : (State.spindleEnter s a1).Inv := by
  unfold State.spindleEnter
  repeat' first
    | with_reducible assumption
    | with_reducible apply State.setNat_inv
    | with_reducible apply State.speedLoop_inv
    | with_reducible apply foldl_inv
    | (with_reducible intro _)
    | (with_reducible apply State.Inv.ofParts; with_reducible refine State.Inv.parts ?_; with_reducible assumption)
    | (extract_lets +onlyGivenNames x; clear_value (hx : x = _); refine (fun hw : x.Inv => ?_) ((congrArg State.Inv hx).mpr ?_); clear hx)
    | (fail_if_no_progress extract_lets +onlyGivenNames x)
    | (with_reducible refine PairInv.use (by assumption) ?_)
    | (with_reducible refine OptPairInv.use (by assumption) ?_)
    | (with_reducible refine OptInv.use (by assumption) ?_)
    | (with_reducible refine ExInv.use (by assumption) ?_)
    | (with_reducible refine OutInv.use (by assumption) ?_)
    | split
    | (with_reducible apply State.Inv.ofParts; (first | rw [List.length_map] | rw [List.length_modify] | rw [List.length_set] | rw [List.length_mapIdx]); with_reducible refine State.Inv.parts ?_; with_reducible assumption)
    | (clear_value x; split)
    | (clear_value *; split)
    | (with_reducible apply PairInv.mk)
    | (with_reducible refine Eq.symm ?_; rfl)
    | (simp only [State.Inv.mk_iff]; refine State.Inv.parts ?_)
    | (simp only [List.length_map, List.length_modify, List.length_set])

theorem State.listen_inv {s : State} (h0 : s.Inv) : (State.listen s).Inv := by
  unfold State.listen
  repeat' first
    | with_reducible assumption
    | with_reducible apply State.spindleEnter_inv
    | with_reducible apply foldl_inv
    | (with_reducible intro _)
    | (with_reducible apply State.Inv.ofParts; with_reducible refine State.Inv.parts ?_; with_reducible assumption)
    | (extract_lets +onlyGivenNames x; clear_value (hx : x = _); refine (fun hw : x.Inv => ?_) ((congrArg State.Inv hx).mpr ?_); clear hx)
    | (fail_if_no_progress extract_lets +onlyGivenNames x)
    | (with_reducible refine PairInv.use (by assumption) ?_)
    | (with_reducible refine OptPairInv.use (by assumption) ?_)
    | (with_reducible refine OptInv.use (by assumption) ?_)
    | (with_reducible refine ExInv.use (by assumption) ?_)
    | (with_reducible refine OutInv.use (by assumption) ?_)
    | split
    | (with_reducible apply State.Inv.ofParts; (first | rw [List.length_map] | rw [List.length_modify] | rw [List.length_set] | rw [List.length_mapIdx]); with_reducible refine State.Inv.parts ?_; with_reducible assumption)
    | (clear_value x; split)
    | (clear_value *; split)
    | (with_reducible apply PairInv.mk)
    | (with_reducible refine Eq.symm ?_; rfl)
    | (simp only [State.Inv.mk_iff]; refine State.Inv.parts ?_)
    | (simp only [List.length_map, List.length_modify, List.length_set])

theorem State.afterGrant_inv {s : State} {a1 : Surge} (h0 : s.Inv) : (State.afterGrant s a1).Inv := by
  unfold State.afterGrant
  repeat' first
    | with_reducible assumption
    | with_reducible apply State.spindleEnter_inv
    | with_reducible apply State.listen_inv
    | with_reducible apply State.sendVoltage_inv
    | with_reducible apply State.writeHeater_inv
    | with_reducible apply foldl_inv
    | (with_reducible intro _)
    | (with_reducible apply State.Inv.ofParts; with_reducible refine State.Inv.parts ?_; with_reducible assumption)
    | (extract_lets +onlyGivenNames x; clear_value (hx : x = _); refine (fun hw : x.Inv => ?_) ((congrArg State.Inv hx).mpr ?_); clear hx)
    | (fail_if_no_progress extract_lets +onlyGivenNames x)
    | (with_reducible refine PairInv.use (by assumption) ?_)
    | (with_reducible refine OptPairInv.use (by assumption) ?_)
    | (with_reducible refine OptInv.use (by assumption) ?_)
    | (with_reducible refine ExInv.use (by assumption) ?_)
    | (with_reducible refine OutInv.use (by assumption) ?_)
    | split
    | (with_reducible apply State.Inv.ofParts; (first | rw [List.length_map] | rw [List.length_modify] | rw [List.length_set] | rw [List.length_mapIdx]); with_reducible refine State.Inv.parts ?_; with_reducible assumption)
    | (clear_value x; split)
    | (clear_value *; split)
    | (with_reducible apply PairInv.mk)
    | (with_reducible refine Eq.symm ?_; rfl)
    | (simp only [State.Inv.mk_iff]; refine State.Inv.parts ?_)
    | (simp only [List.length_map, List.length_modify, List.length_set])

theorem State.requestSurge_inv {s : State} {a1 : ℕ} {a2 : ℕ} {a3 : ℕ} (h0 : s.Inv) : (State.requestSurge s a1 a2 a3).Inv := by
  unfold State.requestSurge
  repeat' first
    | with_reducible assumption
    | with_reducible apply State.afterGrant_inv
    | with_reducible apply State.bump_inv
    | with_reducible apply foldl_inv
    | (with_reducible intro _)
    | (with_reducible apply State.Inv.ofParts; with_reducible refine State.Inv.parts ?_; with_reducible assumption)
    | (extract_lets +onlyGivenNames x; clear_value (hx : x = _); refine (fun hw : x.Inv => ?_) ((congrArg State.Inv hx).mpr ?_); clear hx)
    | (fail_if_no_progress extract_lets +onlyGivenNames x)
    | (with_reducible refine PairInv.use (by assumption) ?_)
    | (with_reducible refine OptPairInv.use (by assumption) ?_)
    | (with_reducible refine OptInv.use (by assumption) ?_)
    | (with_reducible refine ExInv.use (by assumption) ?_)
    | (with_reducible refine OutInv.use (by assumption) ?_)
    | split
    | (with_reducible apply State.Inv.ofParts; (first | rw [List.length_map] | rw [List.length_modify] | rw [List.length_set] | rw [List.length_mapIdx]); with_reducible refine State.Inv.parts ?_; with_reducible assumption)
    | (clear_value x; split)
    | (clear_value *; split)
    | (with_reducible apply PairInv.mk)
    | (with_reducible refine Eq.symm ?_; rfl)
    | (simp only [State.Inv.mk_iff]; refine State.Inv.parts ?_)
    | (simp only [List.length_map, List.length_modify, List.length_set])

theorem State.startLevelStep_inv {s : State} (h0 : s.Inv) : (State.startLevelStep s).Inv := by
  unfold State.startLevelStep
  repeat' first
    | with_reducible assumption
    | with_reducible apply State.requestSurge_inv
    | with_reducible apply State.admitStreams_inv
    | with_reducible apply State.lowerCeiling_inv
    | with_reducible apply foldl_inv
    | (with_reducible intro _)
    | (with_reducible apply State.Inv.ofParts; with_reducible refine State.Inv.parts ?_; with_reducible assumption)
    | (extract_lets +onlyGivenNames x; clear_value (hx : x = _); refine (fun hw : x.Inv => ?_) ((congrArg State.Inv hx).mpr ?_); clear hx)
    | (fail_if_no_progress extract_lets +onlyGivenNames x)
    | (with_reducible refine PairInv.use (by assumption) ?_)
    | (with_reducible refine OptPairInv.use (by assumption) ?_)
    | (with_reducible refine OptInv.use (by assumption) ?_)
    | (with_reducible refine ExInv.use (by assumption) ?_)
    | (with_reducible refine OutInv.use (by assumption) ?_)
    | split
    | (with_reducible apply State.Inv.ofParts; (first | rw [List.length_map] | rw [List.length_modify] | rw [List.length_set] | rw [List.length_mapIdx]); with_reducible refine State.Inv.parts ?_; with_reducible assumption)
    | (clear_value x; split)
    | (clear_value *; split)
    | (with_reducible apply PairInv.mk)
    | (with_reducible refine Eq.symm ?_; rfl)
    | (simp only [State.Inv.mk_iff]; refine State.Inv.parts ?_)
    | (simp only [List.length_map, List.length_modify, List.length_set])

theorem State.spinUpSurge_inv {s : State} (h0 : s.Inv) : (State.spinUpSurge s).Inv := by
  unfold State.spinUpSurge
  repeat' first
    | with_reducible assumption
    | with_reducible apply State.requestSurge_inv
    | with_reducible apply foldl_inv
    | (with_reducible intro _)
    | (with_reducible apply State.Inv.ofParts; with_reducible refine State.Inv.parts ?_; with_reducible assumption)
    | (extract_lets +onlyGivenNames x; clear_value (hx : x = _); refine (fun hw : x.Inv => ?_) ((congrArg State.Inv hx).mpr ?_); clear hx)
    | (fail_if_no_progress extract_lets +onlyGivenNames x)
    | (with_reducible refine PairInv.use (by assumption) ?_)
    | (with_reducible refine OptPairInv.use (by assumption) ?_)
    | (with_reducible refine OptInv.use (by assumption) ?_)
    | (with_reducible refine ExInv.use (by assumption) ?_)
    | (with_reducible refine OutInv.use (by assumption) ?_)
    | split
    | (with_reducible apply State.Inv.ofParts; (first | rw [List.length_map] | rw [List.length_modify] | rw [List.length_set] | rw [List.length_mapIdx]); with_reducible refine State.Inv.parts ?_; with_reducible assumption)
    | (clear_value x; split)
    | (clear_value *; split)
    | (with_reducible apply PairInv.mk)
    | (with_reducible refine Eq.symm ?_; rfl)
    | (simp only [State.Inv.mk_iff]; refine State.Inv.parts ?_)
    | (simp only [List.length_map, List.length_modify, List.length_set])

theorem State.requestSpinUp_inv {s : State} (h0 : s.Inv) : (State.requestSpinUp s).Inv := by
  unfold State.requestSpinUp
  repeat' first
    | with_reducible assumption
    | with_reducible apply State.setNat_inv
    | with_reducible apply State.spindleEnter_inv
    | with_reducible apply State.spinUpSurge_inv
    | with_reducible apply foldl_inv
    | (with_reducible intro _)
    | (with_reducible apply State.Inv.ofParts; with_reducible refine State.Inv.parts ?_; with_reducible assumption)
    | (extract_lets +onlyGivenNames x; clear_value (hx : x = _); refine (fun hw : x.Inv => ?_) ((congrArg State.Inv hx).mpr ?_); clear hx)
    | (fail_if_no_progress extract_lets +onlyGivenNames x)
    | (with_reducible refine PairInv.use (by assumption) ?_)
    | (with_reducible refine OptPairInv.use (by assumption) ?_)
    | (with_reducible refine OptInv.use (by assumption) ?_)
    | (with_reducible refine ExInv.use (by assumption) ?_)
    | (with_reducible refine OutInv.use (by assumption) ?_)
    | split
    | (with_reducible apply State.Inv.ofParts; (first | rw [List.length_map] | rw [List.length_modify] | rw [List.length_set] | rw [List.length_mapIdx]); with_reducible refine State.Inv.parts ?_; with_reducible assumption)
    | (clear_value x; split)
    | (clear_value *; split)
    | (with_reducible apply PairInv.mk)
    | (with_reducible refine Eq.symm ?_; rfl)
    | (simp only [State.Inv.mk_iff]; refine State.Inv.parts ?_)
    | (simp only [List.length_map, List.length_modify, List.length_set])

theorem State.requestLoad_inv {s : State} {a1 : ℕ} (h0 : s.Inv) : (State.requestLoad s a1).Inv := by
  unfold State.requestLoad
  repeat' first
    | with_reducible assumption
    | with_reducible apply State.modAct_inv
    | with_reducible apply State.requestSurge_inv
    | with_reducible apply foldl_inv
    | (with_reducible intro _)
    | (with_reducible apply State.Inv.ofParts; with_reducible refine State.Inv.parts ?_; with_reducible assumption)
    | (extract_lets +onlyGivenNames x; clear_value (hx : x = _); refine (fun hw : x.Inv => ?_) ((congrArg State.Inv hx).mpr ?_); clear hx)
    | (fail_if_no_progress extract_lets +onlyGivenNames x)
    | (with_reducible refine PairInv.use (by assumption) ?_)
    | (with_reducible refine OptPairInv.use (by assumption) ?_)
    | (with_reducible refine OptInv.use (by assumption) ?_)
    | (with_reducible refine ExInv.use (by assumption) ?_)
    | (with_reducible refine OutInv.use (by assumption) ?_)
    | split
    | (with_reducible apply State.Inv.ofParts; (first | rw [List.length_map] | rw [List.length_modify] | rw [List.length_set] | rw [List.length_mapIdx]); with_reducible refine State.Inv.parts ?_; with_reducible assumption)
    | (clear_value x; split)
    | (clear_value *; split)
    | (with_reducible apply PairInv.mk)
    | (with_reducible refine Eq.symm ?_; rfl)
    | (simp only [State.Inv.mk_iff]; refine State.Inv.parts ?_)
    | (simp only [List.length_map, List.length_modify, List.length_set])

theorem State.requestLoads_inv {s : State} (h0 : s.Inv) : (State.requestLoads s).Inv := by
  unfold State.requestLoads
  repeat' first
    | with_reducible assumption
    | with_reducible apply State.each_inv
    | with_reducible apply State.requestLoad_inv
    | with_reducible apply foldl_inv
    | (with_reducible intro _)
    | (with_reducible apply State.Inv.ofParts; with_reducible refine State.Inv.parts ?_; with_reducible assumption)
    | (extract_lets +onlyGivenNames x; clear_value (hx : x = _); refine (fun hw : x.Inv => ?_) ((congrArg State.Inv hx).mpr ?_); clear hx)
    | (fail_if_no_progress extract_lets +onlyGivenNames x)
    | (with_reducible refine PairInv.use (by assumption) ?_)
    | (with_reducible refine OptPairInv.use (by assumption) ?_)
    | (with_reducible refine OptInv.use (by assumption) ?_)
    | (with_reducible refine ExInv.use (by assumption) ?_)
    | (with_reducible refine OutInv.use (by assumption) ?_)
    | split
    | (with_reducible apply State.Inv.ofParts; (first | rw [List.length_map] | rw [List.length_modify] | rw [List.length_set] | rw [List.length_mapIdx]); with_reducible refine State.Inv.parts ?_; with_reducible assumption)
    | (clear_value x; split)
    | (clear_value *; split)
    | (with_reducible apply PairInv.mk)
    | (with_reducible refine Eq.symm ?_; rfl)
    | (simp only [State.Inv.mk_iff]; refine State.Inv.parts ?_)
    | (simp only [List.length_map, List.length_modify, List.length_set])

theorem State.setHeater_inv {s : State} {a1 : ℕ} {a2 : ℕ} (h0 : s.Inv) : (State.setHeater s a1 a2).Inv := by
  unfold State.setHeater
  repeat' first
    | with_reducible assumption
    | with_reducible apply State.requestSurge_inv
    | with_reducible apply State.modHead_inv
    | with_reducible apply State.writeHeater_inv
    | with_reducible apply foldl_inv
    | (with_reducible intro _)
    | (with_reducible apply State.Inv.ofParts; with_reducible refine State.Inv.parts ?_; with_reducible assumption)
    | (extract_lets +onlyGivenNames x; clear_value (hx : x = _); refine (fun hw : x.Inv => ?_) ((congrArg State.Inv hx).mpr ?_); clear hx)
    | (fail_if_no_progress extract_lets +onlyGivenNames x)
    | (with_reducible refine PairInv.use (by assumption) ?_)
    | (with_reducible refine OptPairInv.use (by assumption) ?_)
    | (with_reducible refine OptInv.use (by assumption) ?_)
    | (with_reducible refine ExInv.use (by assumption) ?_)
    | (with_reducible refine OutInv.use (by assumption) ?_)
    | split
    | (with_reducible apply State.Inv.ofParts; (first | rw [List.length_map] | rw [List.length_modify] | rw [List.length_set] | rw [List.length_mapIdx]); with_reducible refine State.Inv.parts ?_; with_reducible assumption)
    | (clear_value x; split)
    | (clear_value *; split)
    | (with_reducible apply PairInv.mk)
    | (with_reducible refine Eq.symm ?_; rfl)
    | (simp only [State.Inv.mk_iff]; refine State.Inv.parts ?_)
    | (simp only [List.length_map, List.length_modify, List.length_set])

end Sys2Proof.Machine
end

