-- ==== Sys2Proof/Laws/InvDictionary.lean ====
section
/-! SUPPORT. The invariant is kept by the operations of Machine/Dictionary.lean. -/

set_option linter.all false

namespace Sys2Proof.Machine

theorem State.putMapping_inv {s : State} {a1 : ℕ} {a2 : ℕ} {a3 : Bool} {a4 : ℤ} (h0 : s.Inv) : ExInv (State.putMapping s a1 a2 a3 a4) := by
  unfold State.putMapping
  repeat' first
    | with_reducible assumption
    | with_reducible apply State.setObj_inv
    | with_reducible apply ExInv.ok
    | with_reducible apply ExInv.error
    | with_reducible apply foldl_inv
    | (with_reducible intro _)
    | (with_reducible apply State.Inv.ofParts; with_reducible refine State.Inv.parts ?_; with_reducible assumption)
    | (extract_lets +onlyGivenNames x; clear_value (hx : x = _); refine (fun hw : x.Inv => ?_) ((congrArg State.Inv hx).mpr ?_); clear hx)
    | (fail_if_no_progress extract_lets +onlyGivenNames x)
    | (with_reducible refine PairInv.use (by assumption) ?_)
    | (with_reducible refine OptPairInv.use (by assumption) ?_)
    | (with_reducible refine OptInv.use (by assumption) ?_)
    | (with_reducible refine ExInv.use (by assumption) ?_)
    | (with_reducible refine OutInv.use (by assumption) ?_)
    | split
    | (with_reducible apply State.Inv.ofParts; (first | rw [List.length_map] | rw [List.length_modify] | rw [List.length_set] | rw [List.length_mapIdx]); with_reducible refine State.Inv.parts ?_; with_reducible assumption)
    | (clear_value x; split)
    | (clear_value *; split)
    | (with_reducible apply PairInv.mk)
    | (with_reducible refine Eq.symm ?_; rfl)
    | (simp only [State.Inv.mk_iff]; refine State.Inv.parts ?_)
    | (simp only [List.length_map, List.length_modify, List.length_set])

theorem State.keepConfig_inv {s : State} {a1 : ℕ} (h0 : s.Inv) : (State.keepConfig s a1).Inv := by
  unfold State.keepConfig
  repeat' first
    | with_reducible assumption
    | with_reducible apply State.each_inv
    | with_reducible apply State.modHead_inv
    | with_reducible apply foldl_inv
    | (with_reducible intro _)
    | (with_reducible apply State.Inv.ofParts; with_reducible refine State.Inv.parts ?_; with_reducible assumption)
    | (extract_lets +onlyGivenNames x; clear_value (hx : x = _); refine (fun hw : x.Inv => ?_) ((congrArg State.Inv hx).mpr ?_); clear hx)
    | (fail_if_no_progress extract_lets +onlyGivenNames x)
    | (with_reducible refine PairInv.use (by assumption) ?_)
    | (with_reducible refine OptPairInv.use (by assumption) ?_)
    | (with_reducible refine OptInv.use (by assumption) ?_)
    | (with_reducible refine ExInv.use (by assumption) ?_)
    | (with_reducible refine OutInv.use (by assumption) ?_)
    | split
    | (with_reducible apply State.Inv.ofParts; (first | rw [List.length_map] | rw [List.length_modify] | rw [List.length_set] | rw [List.length_mapIdx]); with_reducible refine State.Inv.parts ?_; with_reducible assumption)
    | (clear_value x; split)
    | (clear_value *; split)
    | (with_reducible apply PairInv.mk)
    | (with_reducible refine Eq.symm ?_; rfl)
    | (simp only [State.Inv.mk_iff]; refine State.Inv.parts ?_)
    | (simp only [List.length_map, List.length_modify, List.length_set])

theorem State.putPlain_inv {s : State} {a1 : Requester} {a2 : ℕ} {a3 : ObjData} (h0 : s.Inv) : ExInv (State.putPlain s a1 a2 a3) := by
  unfold State.putPlain
  repeat' first
    | with_reducible assumption
    | with_reducible apply State.acceptMode_inv
    | with_reducible apply State.setBlob_inv
    | with_reducible apply State.setObj_inv
    | with_reducible apply State.putMapping_inv
    | with_reducible apply State.keepConfig_inv
    | with_reducible apply State.each_inv
    | with_reducible apply State.modBus_inv
    | with_reducible apply State.modMb_inv
    | with_reducible apply State.feedForward_inv
    | with_reducible apply State.dropAhead_inv
    | with_reducible apply State.refitSensors_inv
    | with_reducible apply ExInv.ok
    | with_reducible apply ExInv.error
    | with_reducible apply foldl_inv
    | (with_reducible intro _)
    | (with_reducible apply State.Inv.ofParts; with_reducible refine State.Inv.parts ?_; with_reducible assumption)
    | (extract_lets +onlyGivenNames x; clear_value (hx : x = _); refine (fun hw : x.Inv => ?_) ((congrArg State.Inv hx).mpr ?_); clear hx)
    | (fail_if_no_progress extract_lets +onlyGivenNames x)
    | (with_reducible refine PairInv.use (by assumption) ?_)
    | (with_reducible refine OptPairInv.use (by assumption) ?_)
    | (with_reducible refine OptInv.use (by assumption) ?_)
    | (with_reducible refine ExInv.use (by assumption) ?_)
    | (with_reducible refine OutInv.use (by assumption) ?_)
    | split
    | (with_reducible apply State.Inv.ofParts; (first | rw [List.length_map] | rw [List.length_modify] | rw [List.length_set] | rw [List.length_mapIdx]); with_reducible refine State.Inv.parts ?_; with_reducible assumption)
    | (clear_value x; split)
    | (clear_value *; split)
    | (with_reducible apply PairInv.mk)
    | (with_reducible refine Eq.symm ?_; rfl)
    | (simp only [State.Inv.mk_iff]; refine State.Inv.parts ?_)
    | (simp only [List.length_map, List.length_modify, List.length_set])

theorem State.after_inv {s : State} {a1 : Host.Outcome State Fault Refusal} (h0 : s.Inv) (h1 : OutInv a1) : (State.after s a1).Inv := by
  unfold State.after
  split
  · exact h1 _ rfl
  · exact h0

theorem State.actNumber_inv {s : State} {a1 : Requester} {a2 a3 : ℕ} {a4 : Int} (h0 : s.Inv) :
    ∀ o, State.actNumber s a1 a2 a3 a4 = some o → OutInv o := by
  unfold State.actNumber
  have g0 : s.takeFree.2.Inv := State.takeFree_inv h0
  intro o
  simp only [apply_ite (fun x : Option (Host.Outcome State Fault Refusal) => x = some o), Option.some.injEq, reduceCtorEq]
  repeat' refine ite_imp ?_ ?_
  all_goals try exact False.elim
  all_goals rintro rfl
  all_goals repeat' split
  all_goals first
    | with_reducible exact execEqRestore_inv h0
    | with_reducible exact execOutcomeCounterClear_inv h0
    | with_reducible exact execNarrowEnableWrite_inv h0
    | with_reducible exact execPaceIntervalWrite_inv h0
    | with_reducible exact execPreampAccessRead_inv h0
    | with_reducible exact execPreampAccessWrite_inv h0
    | with_reducible exact execLinkCounterClear_inv h0
    | with_reducible exact execCoefClaim_inv h0
    | with_reducible exact execCoefRelease_inv h0
    | with_reducible exact execCoefCopyActive_inv h0
    | with_reducible exact execCoefValueWrite_inv h0
    | with_reducible exact execCoefSeal_inv h0
    | with_reducible exact execSwapRequest_inv h0
    | with_reducible exact execGroupSwapRequest_inv h0
    | with_reducible exact execRafterStatsClear_inv h0
    | with_reducible exact execTraceArm_inv h0
    | with_reducible exact execTraceTrigger_inv h0
    | with_reducible exact execTraceStop_inv h0
    | with_reducible exact execLoopIdRequest_inv h0
    | with_reducible exact execSpinUpTokenGrant_inv h0
    | with_reducible exact execSpindleRetry_inv h0
    | with_reducible exact execSineTableRestore_inv h0
    | with_reducible exact execKeyAcquire_inv h0
    | with_reducible exact execKeyRelease_inv h0
    | with_reducible exact execLevelRequestWrite_inv h0
    | with_reducible exact execAvsRestart_inv h0
    | with_reducible exact execSleepStateRequestWrite_inv h0
    | with_reducible exact execFaultClear_inv h0
    | with_reducible exact execFaultPinRelease_inv h0
    | with_reducible exact execInjectStart_inv h0
    | with_reducible exact execInjectCancel_inv h0
    | with_reducible exact execShelfClear_inv h0
    | with_reducible exact execWallTimeSet_inv h0
    | with_reducible exact execStageRequest_inv h0
    | with_reducible exact execActivateImmediate_inv h0
    | with_reducible exact execActivateArm_inv h0
    | with_reducible exact execActivateCancel_inv h0
    | with_reducible exact execStoreParameters_inv h0
    | with_reducible exact execRestoreDefaults_inv h0
    | with_reducible exact execBusSelect_inv h0
    | with_reducible exact execMbPortRestart_inv h0
    | with_reducible exact execLarderEnable_inv h0
    | with_reducible exact execLarderDisable_inv h0
    | with_reducible exact execLarderInvalidate_inv h0
    | with_reducible exact execMapLbaRequest_inv h0
    | with_reducible exact execFenceHead_inv h0
    | with_reducible exact execReturnHead_inv h0
    | with_reducible exact execReturnActuator_inv h0
    | with_reducible exact execSvnCommit_inv g0

theorem State.actBytes_inv {s : State} {a1 : Requester} {a2 : ℕ} {a3 : List ℕ} (h0 : s.Inv) :
    ∀ o, State.actBytes s a1 a2 a3 = some o → OutInv o := by
  unfold State.actBytes
  have g0 := State.takeFree_inv h0
  intro o
  simp only [apply_ite (fun x : Option (Host.Outcome State Fault Refusal) => x = some o), Option.some.injEq, reduceCtorEq]
  refine ite_imp ?_ (ite_imp ?_ (ite_imp ?_ (ite_imp ?_ (ite_imp ?_ (ite_imp ?_ (ite_imp ?_ False.elim)))))) <;> rintro rfl
  · exact execInactiveImageWrite_inv h0
  · exact execSineTableWrite_inv h0
  · exact execSnapshotListWrite_inv h0
  · exact execCrateBlockWrite_inv h0
  · exact execShelfClearToken_inv h0
  · exact execTrapdoorToken_inv g0
  · split
    · exact execOwnerLockClear_inv g0
    · exact execOwnerLockSet_inv g0

theorem State.putObject_inv {s : State} {a1 : Requester} {a2 : ℕ} {a3 : ObjData} (h0 : s.Inv) : (State.putObject s a1 a2 a3).Inv := by
  unfold State.putObject
  split
  · exact State.emit_inv h0
  · have key : ∀ a : Option (Host.Outcome State Fault Refusal), (∀ o, a = some o → OutInv o) → (match a with
        | some o => s.after o
        | none => s.writeVia a1 a2 a3 fun s => s.putPlain a1 a2 a3).Inv := by
      intro a ha
      cases a with
      | none => exact State.writeVia_inv h0 fun t ht => State.putPlain_inv ht
      | some o => exact State.after_inv h0 (ha o rfl)
    refine key _ ?_
    cases a3 with
    | num w v => exact State.actNumber_inv h0
    | bytes b => exact State.actBytes_inv h0

theorem State.takeAnswer_inv {s : State} (h0 : s.Inv) : PairInv (State.takeAnswer s) := by
  unfold State.takeAnswer
  repeat' first
    | with_reducible assumption
    | with_reducible apply foldl_inv
    | (with_reducible intro _)
    | (with_reducible apply State.Inv.ofParts; with_reducible refine State.Inv.parts ?_; with_reducible assumption)
    | (extract_lets +onlyGivenNames x; clear_value (hx : x = _); refine (fun hw : x.Inv => ?_) ((congrArg State.Inv hx).mpr ?_); clear hx)
    | (fail_if_no_progress extract_lets +onlyGivenNames x)
    | (with_reducible refine PairInv.use (by assumption) ?_)
    | (with_reducible refine OptPairInv.use (by assumption) ?_)
    | (with_reducible refine OptInv.use (by assumption) ?_)
    | (with_reducible refine ExInv.use (by assumption) ?_)
    | (with_reducible refine OutInv.use (by assumption) ?_)
    | split
    | (with_reducible apply State.Inv.ofParts; (first | rw [List.length_map] | rw [List.length_modify] | rw [List.length_set] | rw [List.length_mapIdx]); with_reducible refine State.Inv.parts ?_; with_reducible assumption)
    | (clear_value x; split)
    | (clear_value *; split)
    | (with_reducible apply PairInv.mk)
    | (with_reducible refine Eq.symm ?_; rfl)
    | (simp only [State.Inv.mk_iff]; refine State.Inv.parts ?_)
    | (simp only [List.length_map, List.length_modify, List.length_set])

theorem execObjectWrite_inv {a0 : Requester} {a1 : ℕ} {a2 : ObjData} {s : State} (h3 : s.Inv) : OutInv (execObjectWrite a0 a1 a2 s) := by
  unfold execObjectWrite
  repeat' first
    | with_reducible assumption
    | with_reducible apply State.putObject_inv
    | with_reducible apply OutInv.next
    | with_reducible apply OutInv.fault
    | with_reducible apply OutInv.refused
    | with_reducible apply foldl_inv
    | (with_reducible intro _)
    | (with_reducible apply State.Inv.ofParts; with_reducible refine State.Inv.parts ?_; with_reducible assumption)
    | (extract_lets +onlyGivenNames x; clear_value (hx : x = _); refine (fun hw : x.Inv => ?_) ((congrArg State.Inv hx).mpr ?_); clear hx)
    | (fail_if_no_progress extract_lets +onlyGivenNames x)
    | (with_reducible refine PairInv.use (by assumption) ?_)
    | (with_reducible refine OptPairInv.use (by assumption) ?_)
    | (with_reducible refine OptInv.use (by assumption) ?_)
    | (with_reducible refine ExInv.use (by assumption) ?_)
    | (with_reducible refine OutInv.use (by assumption) ?_)
    | split
    | (with_reducible apply State.Inv.ofParts; (first | rw [List.length_map] | rw [List.length_modify] | rw [List.length_set] | rw [List.length_mapIdx]); with_reducible refine State.Inv.parts ?_; with_reducible assumption)
    | (clear_value x; split)
    | (clear_value *; split)
    | (with_reducible apply PairInv.mk)
    | (with_reducible refine Eq.symm ?_; rfl)
    | (simp only [State.Inv.mk_iff]; refine State.Inv.parts ?_)
    | (simp only [List.length_map, List.length_modify, List.length_set])

theorem execDictionaryGet_inv {a0 : ℕ} {a1 : ℕ} {a2 : ℕ} {a3 : ℕ} {a4 : ℕ} {s : State} (h5 : s.Inv) : OutInv (execDictionaryGet a0 a1 a2 a3 a4 s) := by
  unfold execDictionaryGet
  repeat' first
    | with_reducible assumption
    | with_reducible apply State.admin_inv
    | with_reducible apply State.sendData_inv
    | with_reducible apply State.noteRead_inv
    | with_reducible apply OutInv.next
    | with_reducible apply OutInv.fault
    | with_reducible apply OutInv.refused
    | with_reducible apply foldl_inv
    | (with_reducible intro _)
    | (with_reducible apply State.Inv.ofParts; with_reducible refine State.Inv.parts ?_; with_reducible assumption)
    | (extract_lets +onlyGivenNames x; clear_value (hx : x = _); refine (fun hw : x.Inv => ?_) ((congrArg State.Inv hx).mpr ?_); clear hx)
    | (fail_if_no_progress extract_lets +onlyGivenNames x)
    | (with_reducible refine PairInv.use (by assumption) ?_)
    | (with_reducible refine OptPairInv.use (by assumption) ?_)
    | (with_reducible refine OptInv.use (by assumption) ?_)
    | (with_reducible refine ExInv.use (by assumption) ?_)
    | (with_reducible refine OutInv.use (by assumption) ?_)
    | split
    | (with_reducible apply State.Inv.ofParts; (first | rw [List.length_map] | rw [List.length_modify] | rw [List.length_set] | rw [List.length_mapIdx]); with_reducible refine State.Inv.parts ?_; with_reducible assumption)
    | (clear_value x; split)
    | (clear_value *; split)
    | (with_reducible apply PairInv.mk)
    | (with_reducible refine Eq.symm ?_; rfl)
    | (simp only [State.Inv.mk_iff]; refine State.Inv.parts ?_)
    | (simp only [List.length_map, List.length_modify, List.length_set])

theorem execDictionaryPut_inv {a0 : ℕ} {a1 : ℕ} {a2 : ℕ} {a3 : List ℕ} {a4 : ℕ} {s : State} (h5 : s.Inv) : OutInv (execDictionaryPut a0 a1 a2 a3 a4 s) := by
  unfold execDictionaryPut
  repeat' first
    | with_reducible assumption
    | with_reducible apply State.admin_inv
    | with_reducible apply State.takeAnswer_inv
    | with_reducible apply State.putObject_inv
    | with_reducible apply OutInv.next
    | with_reducible apply OutInv.fault
    | with_reducible apply OutInv.refused
    | with_reducible apply foldl_inv
    | (with_reducible intro _)
    | (with_reducible apply State.Inv.ofParts; with_reducible refine State.Inv.parts ?_; with_reducible assumption)
    | (with_reducible apply PairInv.snd; first | with_reducible apply State.takeAnswer_inv)
    | (extract_lets +onlyGivenNames x; clear_value (hx : x = _); refine (fun hw : x.Inv => ?_) ((congrArg State.Inv hx).mpr ?_); clear hx)
    | (fail_if_no_progress extract_lets +onlyGivenNames x)
    | (with_reducible refine PairInv.use (by assumption) ?_)
    | (with_reducible refine OptPairInv.use (by assumption) ?_)
    | (with_reducible refine OptInv.use (by assumption) ?_)
    | (with_reducible refine ExInv.use (by assumption) ?_)
    | (with_reducible refine OutInv.use (by assumption) ?_)
    | split
    | (with_reducible apply State.Inv.ofParts; (first | rw [List.length_map] | rw [List.length_modify] | rw [List.length_set] | rw [List.length_mapIdx]); with_reducible refine State.Inv.parts ?_; with_reducible assumption)
    | (clear_value x; split)
    | (clear_value *; split)
    | (with_reducible apply PairInv.mk)
    | (with_reducible refine Eq.symm ?_; rfl)
    | (simp only [State.Inv.mk_iff]; refine State.Inv.parts ?_)
    | (simp only [List.length_map, List.length_modify, List.length_set])

theorem State.putMb_inv {s : State} {a1 : ℕ} {a2 : List ℕ} (h0 : s.Inv) : PairInv (State.putMb s a1 a2) := by
  unfold State.putMb
  repeat' first
    | with_reducible assumption
    | with_reducible apply State.takeAnswer_inv
    | with_reducible apply State.putObject_inv
    | with_reducible apply foldl_inv
    | (with_reducible intro _)
    | (with_reducible apply State.Inv.ofParts; with_reducible refine State.Inv.parts ?_; with_reducible assumption)
    | (with_reducible apply PairInv.snd; first | with_reducible apply State.takeAnswer_inv)
    | (extract_lets +onlyGivenNames x; clear_value (hx : x = _); refine (fun hw : x.Inv => ?_) ((congrArg State.Inv hx).mpr ?_); clear hx)
    | (fail_if_no_progress extract_lets +onlyGivenNames x)
    | (with_reducible refine PairInv.use (by assumption) ?_)
    | (with_reducible refine OptPairInv.use (by assumption) ?_)
    | (with_reducible refine OptInv.use (by assumption) ?_)
    | (with_reducible refine ExInv.use (by assumption) ?_)
    | (with_reducible refine OutInv.use (by assumption) ?_)
    | split
    | (with_reducible apply State.Inv.ofParts; (first | rw [List.length_map] | rw [List.length_modify] | rw [List.length_set] | rw [List.length_mapIdx]); with_reducible refine State.Inv.parts ?_; with_reducible assumption)
    | (clear_value x; split)
    | (clear_value *; split)
    | (with_reducible apply PairInv.mk)
    | (with_reducible refine Eq.symm ?_; rfl)
    | (simp only [State.Inv.mk_iff]; refine State.Inv.parts ?_)
    | (simp only [List.length_map, List.length_modify, List.length_set])

theorem State.usdoWrite_inv {s : State} {a1 : ℕ} {a2 : List ℕ} (h0 : s.Inv) : (State.usdoWrite s a1 a2).Inv := by
  unfold State.usdoWrite
  repeat' first
    | with_reducible assumption
    | with_reducible apply State.putMb_inv
    | with_reducible apply State.sendMb_inv
    | with_reducible apply foldl_inv
    | (with_reducible intro _)
    | (with_reducible apply State.Inv.ofParts; with_reducible refine State.Inv.parts ?_; with_reducible assumption)
    | (with_reducible apply PairInv.snd; first | with_reducible apply State.putMb_inv)
    | (extract_lets +onlyGivenNames x; clear_value (hx : x = _); refine (fun hw : x.Inv => ?_) ((congrArg State.Inv hx).mpr ?_); clear hx)
    | (fail_if_no_progress extract_lets +onlyGivenNames x)
    | (with_reducible refine PairInv.use (by assumption) ?_)
    | (with_reducible refine OptPairInv.use (by assumption) ?_)
    | (with_reducible refine OptInv.use (by assumption) ?_)
    | (with_reducible refine ExInv.use (by assumption) ?_)
    | (with_reducible refine OutInv.use (by assumption) ?_)
    | split
    | (with_reducible apply State.Inv.ofParts; (first | rw [List.length_map] | rw [List.length_modify] | rw [List.length_set] | rw [List.length_mapIdx]); with_reducible refine State.Inv.parts ?_; with_reducible assumption)
    | (clear_value x; split)
    | (clear_value *; split)
    | (with_reducible apply PairInv.mk)
    | (with_reducible refine Eq.symm ?_; rfl)
    | (simp only [State.Inv.mk_iff]; refine State.Inv.parts ?_)
    | (simp only [List.length_map, List.length_modify, List.length_set])

theorem execUsdoRequest_inv {a0 : ℕ} {a1 : ℕ} {a2 : Bool} {a3 : Bool} {a4 : ℕ} {a5 : List ℕ} {a6 : Bool} {s : State} (h7 : s.Inv) : OutInv (execUsdoRequest a0 a1 a2 a3 a4 a5 a6 s) := by
  unfold execUsdoRequest
  repeat' first
    | with_reducible assumption
    | with_reducible apply State.foreign_inv
    | with_reducible apply State.sendMb_inv
    | with_reducible apply State.usdoWrite_inv
    | with_reducible apply State.modMb_inv
    | with_reducible apply State.noteRead_inv
    | with_reducible apply OutInv.next
    | with_reducible apply OutInv.fault
    | with_reducible apply OutInv.refused
    | with_reducible apply foldl_inv
    | (with_reducible intro _)
    | (with_reducible apply State.Inv.ofParts; with_reducible refine State.Inv.parts ?_; with_reducible assumption)
    | (extract_lets +onlyGivenNames x; clear_value (hx : x = _); refine (fun hw : x.Inv => ?_) ((congrArg State.Inv hx).mpr ?_); clear hx)
    | (fail_if_no_progress extract_lets +onlyGivenNames x)
    | (with_reducible refine PairInv.use (by assumption) ?_)
    | (with_reducible refine OptPairInv.use (by assumption) ?_)
    | (with_reducible refine OptInv.use (by assumption) ?_)
    | (with_reducible refine ExInv.use (by assumption) ?_)
    | (with_reducible refine OutInv.use (by assumption) ?_)
    | split
    | (with_reducible apply State.Inv.ofParts; (first | rw [List.length_map] | rw [List.length_modify] | rw [List.length_set] | rw [List.length_mapIdx]); with_reducible refine State.Inv.parts ?_; with_reducible assumption)
    | (clear_value x; split)
    | (clear_value *; split)
    | (with_reducible apply PairInv.mk)
    | (with_reducible refine Eq.symm ?_; rfl)
    | (simp only [State.Inv.mk_iff]; refine State.Inv.parts ?_)
    | (simp only [List.length_map, List.length_modify, List.length_set])

theorem execUsdoTimeout_inv {s : State} (h0 : s.Inv) : OutInv (execUsdoTimeout s) := by
  unfold execUsdoTimeout
  repeat' first
    | with_reducible assumption
    | with_reducible apply State.sendMb_inv
    | with_reducible apply State.modMb_inv
    | with_reducible apply OutInv.next
    | with_reducible apply OutInv.fault
    | with_reducible apply OutInv.refused
    | with_reducible apply foldl_inv
    | (with_reducible intro _)
    | (with_reducible apply State.Inv.ofParts; with_reducible refine State.Inv.parts ?_; with_reducible assumption)
    | (extract_lets +onlyGivenNames x; clear_value (hx : x = _); refine (fun hw : x.Inv => ?_) ((congrArg State.Inv hx).mpr ?_); clear hx)
    | (fail_if_no_progress extract_lets +onlyGivenNames x)
    | (with_reducible refine PairInv.use (by assumption) ?_)
    | (with_reducible refine OptPairInv.use (by assumption) ?_)
    | (with_reducible refine OptInv.use (by assumption) ?_)
    | (with_reducible refine ExInv.use (by assumption) ?_)
    | (with_reducible refine OutInv.use (by assumption) ?_)
    | split
    | (with_reducible apply State.Inv.ofParts; (first | rw [List.length_map] | rw [List.length_modify] | rw [List.length_set] | rw [List.length_mapIdx]); with_reducible refine State.Inv.parts ?_; with_reducible assumption)
    | (clear_value x; split)
    | (clear_value *; split)
    | (with_reducible apply PairInv.mk)
    | (with_reducible refine Eq.symm ?_; rfl)
    | (simp only [State.Inv.mk_iff]; refine State.Inv.parts ?_)
    | (simp only [List.length_map, List.length_modify, List.length_set])

theorem State.applyRpdo_inv {s : State} {a1 : ℕ} {a2 : List ℕ} (h0 : s.Inv) : (State.applyRpdo s a1 a2).Inv := by
  unfold State.applyRpdo
  repeat' first
    | with_reducible assumption
    | with_reducible apply State.putMb_inv
    | with_reducible apply State.bump_inv
    | with_reducible apply foldl_inv
    | (with_reducible intro _)
    | (with_reducible apply State.Inv.ofParts; with_reducible refine State.Inv.parts ?_; with_reducible assumption)
    | (with_reducible apply PairInv.snd; first | with_reducible apply State.putMb_inv)
    | (extract_lets +onlyGivenNames x; clear_value (hx : x = _); refine (fun hw : x.Inv => ?_) ((congrArg State.Inv hx).mpr ?_); clear hx)
    | (fail_if_no_progress extract_lets +onlyGivenNames x)
    | (with_reducible refine PairInv.use (by assumption) ?_)
    | (with_reducible refine OptPairInv.use (by assumption) ?_)
    | (with_reducible refine OptInv.use (by assumption) ?_)
    | (with_reducible refine ExInv.use (by assumption) ?_)
    | (with_reducible refine OutInv.use (by assumption) ?_)
    | split
    | (with_reducible apply State.Inv.ofParts; (first | rw [List.length_map] | rw [List.length_modify] | rw [List.length_set] | rw [List.length_mapIdx]); with_reducible refine State.Inv.parts ?_; with_reducible assumption)
    | (clear_value x; split)
    | (clear_value *; split)
    | (with_reducible apply PairInv.mk)
    | (with_reducible refine Eq.symm ?_; rfl)
    | (simp only [State.Inv.mk_iff]; refine State.Inv.parts ?_)
    | (simp only [List.length_map, List.length_modify, List.length_set])

theorem execRpdoReceived_inv {a0 : ℕ} {a1 : ℕ} {a2 : List ℕ} {s : State} (h3 : s.Inv) : OutInv (execRpdoReceived a0 a1 a2 s) := by
  unfold execRpdoReceived
  repeat' first
    | with_reducible assumption
    | with_reducible apply State.foreign_inv
    | with_reducible apply State.modMb_inv
    | with_reducible apply State.applyRpdo_inv
    | with_reducible apply OutInv.next
    | with_reducible apply OutInv.fault
    | with_reducible apply OutInv.refused
    | with_reducible apply foldl_inv
    | (with_reducible intro _)
    | (with_reducible apply State.Inv.ofParts; with_reducible refine State.Inv.parts ?_; with_reducible assumption)
    | (extract_lets +onlyGivenNames x; clear_value (hx : x = _); refine (fun hw : x.Inv => ?_) ((congrArg State.Inv hx).mpr ?_); clear hx)
    | (fail_if_no_progress extract_lets +onlyGivenNames x)
    | (with_reducible refine PairInv.use (by assumption) ?_)
    | (with_reducible refine OptPairInv.use (by assumption) ?_)
    | (with_reducible refine OptInv.use (by assumption) ?_)
    | (with_reducible refine ExInv.use (by assumption) ?_)
    | (with_reducible refine OutInv.use (by assumption) ?_)
    | split
    | (with_reducible apply State.Inv.ofParts; (first | rw [List.length_map] | rw [List.length_modify] | rw [List.length_set] | rw [List.length_mapIdx]); with_reducible refine State.Inv.parts ?_; with_reducible assumption)
    | (clear_value x; split)
    | (clear_value *; split)
    | (with_reducible apply PairInv.mk)
    | (with_reducible refine Eq.symm ?_; rfl)
    | (simp only [State.Inv.mk_iff]; refine State.Inv.parts ?_)
    | (simp only [List.length_map, List.length_modify, List.length_set])

theorem State.sendTpdo_inv {s : State} {a1 : ℕ} (h0 : s.Inv) : (State.sendTpdo s a1).Inv := by
  unfold State.sendTpdo
  repeat' first
    | with_reducible assumption
    | with_reducible apply State.modMb_inv
    | with_reducible apply State.emit_inv
    | with_reducible apply foldl_inv
    | (with_reducible intro _)
    | (with_reducible apply State.Inv.ofParts; with_reducible refine State.Inv.parts ?_; with_reducible assumption)
    | (extract_lets +onlyGivenNames x; clear_value (hx : x = _); refine (fun hw : x.Inv => ?_) ((congrArg State.Inv hx).mpr ?_); clear hx)
    | (fail_if_no_progress extract_lets +onlyGivenNames x)
    | (with_reducible refine PairInv.use (by assumption) ?_)
    | (with_reducible refine OptPairInv.use (by assumption) ?_)
    | (with_reducible refine OptInv.use (by assumption) ?_)
    | (with_reducible refine ExInv.use (by assumption) ?_)
    | (with_reducible refine OutInv.use (by assumption) ?_)
    | split
    | (with_reducible apply State.Inv.ofParts; (first | rw [List.length_map] | rw [List.length_modify] | rw [List.length_set] | rw [List.length_mapIdx]); with_reducible refine State.Inv.parts ?_; with_reducible assumption)
    | (clear_value x; split)
    | (clear_value *; split)
    | (with_reducible apply PairInv.mk)
    | (with_reducible refine Eq.symm ?_; rfl)
    | (simp only [State.Inv.mk_iff]; refine State.Inv.parts ?_)
    | (simp only [List.length_map, List.length_modify, List.length_set])

theorem execTpdoTransmit_inv {a0 : ℕ} {s : State} (h1 : s.Inv) : OutInv (execTpdoTransmit a0 s) := by
  unfold execTpdoTransmit
  repeat' first
    | with_reducible assumption
    | with_reducible apply State.sendTpdo_inv
    | with_reducible apply OutInv.next
    | with_reducible apply OutInv.fault
    | with_reducible apply OutInv.refused
    | with_reducible apply foldl_inv
    | (with_reducible intro _)
    | (with_reducible apply State.Inv.ofParts; with_reducible refine State.Inv.parts ?_; with_reducible assumption)
    | (extract_lets +onlyGivenNames x; clear_value (hx : x = _); refine (fun hw : x.Inv => ?_) ((congrArg State.Inv hx).mpr ?_); clear hx)
    | (fail_if_no_progress extract_lets +onlyGivenNames x)
    | (with_reducible refine PairInv.use (by assumption) ?_)
    | (with_reducible refine OptPairInv.use (by assumption) ?_)
    | (with_reducible refine OptInv.use (by assumption) ?_)
    | (with_reducible refine ExInv.use (by assumption) ?_)
    | (with_reducible refine OutInv.use (by assumption) ?_)
    | split
    | (with_reducible apply State.Inv.ofParts; (first | rw [List.length_map] | rw [List.length_modify] | rw [List.length_set] | rw [List.length_mapIdx]); with_reducible refine State.Inv.parts ?_; with_reducible assumption)
    | (clear_value x; split)
    | (clear_value *; split)
    | (with_reducible apply PairInv.mk)
    | (with_reducible refine Eq.symm ?_; rfl)
    | (simp only [State.Inv.mk_iff]; refine State.Inv.parts ?_)
    | (simp only [List.length_map, List.length_modify, List.length_set])

theorem State.syncTpdo_inv {s : State} {a1 : ℕ} (h0 : s.Inv) : (State.syncTpdo s a1).Inv := by
  unfold State.syncTpdo
  repeat' first
    | with_reducible assumption
    | with_reducible apply State.sendTpdo_inv
    | with_reducible apply State.modMb_inv
    | with_reducible apply foldl_inv
    | (with_reducible intro _)
    | (with_reducible apply State.Inv.ofParts; with_reducible refine State.Inv.parts ?_; with_reducible assumption)
    | (extract_lets +onlyGivenNames x; clear_value (hx : x = _); refine (fun hw : x.Inv => ?_) ((congrArg State.Inv hx).mpr ?_); clear hx)
    | (fail_if_no_progress extract_lets +onlyGivenNames x)
    | (with_reducible refine PairInv.use (by assumption) ?_)
    | (with_reducible refine OptPairInv.use (by assumption) ?_)
    | (with_reducible refine OptInv.use (by assumption) ?_)
    | (with_reducible refine ExInv.use (by assumption) ?_)
    | (with_reducible refine OutInv.use (by assumption) ?_)
    | split
    | (with_reducible apply State.Inv.ofParts; (first | rw [List.length_map] | rw [List.length_modify] | rw [List.length_set] | rw [List.length_mapIdx]); with_reducible refine State.Inv.parts ?_; with_reducible assumption)
    | (clear_value x; split)
    | (clear_value *; split)
    | (with_reducible apply PairInv.mk)
    | (with_reducible refine Eq.symm ?_; rfl)
    | (simp only [State.Inv.mk_iff]; refine State.Inv.parts ?_)
    | (simp only [List.length_map, List.length_modify, List.length_set])

theorem execSyncMessage_inv {a0 : ℕ} {s : State} (h1 : s.Inv) : OutInv (execSyncMessage a0 s) := by
  unfold execSyncMessage
  repeat' first
    | with_reducible assumption
    | with_reducible apply State.foreign_inv
    | with_reducible apply State.modMb_inv
    | with_reducible apply State.applyRpdo_inv
    | with_reducible apply State.syncTpdo_inv
    | with_reducible apply OutInv.next
    | with_reducible apply OutInv.fault
    | with_reducible apply OutInv.refused
    | with_reducible apply foldl_inv
    | (with_reducible intro _)
    | (with_reducible apply State.Inv.ofParts; with_reducible refine State.Inv.parts ?_; with_reducible assumption)
    | (extract_lets +onlyGivenNames x; clear_value (hx : x = _); refine (fun hw : x.Inv => ?_) ((congrArg State.Inv hx).mpr ?_); clear hx)
    | (fail_if_no_progress extract_lets +onlyGivenNames x)
    | (with_reducible refine PairInv.use (by assumption) ?_)
    | (with_reducible refine OptPairInv.use (by assumption) ?_)
    | (with_reducible refine OptInv.use (by assumption) ?_)
    | (with_reducible refine ExInv.use (by assumption) ?_)
    | (with_reducible refine OutInv.use (by assumption) ?_)
    | split
    | (with_reducible apply State.Inv.ofParts; (first | rw [List.length_map] | rw [List.length_modify] | rw [List.length_set] | rw [List.length_mapIdx]); with_reducible refine State.Inv.parts ?_; with_reducible assumption)
    | (clear_value x; split)
    | (clear_value *; split)
    | (with_reducible apply PairInv.mk)
    | (with_reducible refine Eq.symm ?_; rfl)
    | (simp only [State.Inv.mk_iff]; refine State.Inv.parts ?_)
    | (simp only [List.length_map, List.length_modify, List.length_set])

end Sys2Proof.Machine
end

