-- ==== Sys2Proof/Laws/State.lean ====
section
/-! SUPPORT. One lemma for each field of the state and each named update of it, so that no later proof unfolds an update. -/

set_option linter.all false

namespace Sys2Proof.Machine

/-! ### State.setObj -/

@[simp] theorem State.setObj_tick (s : State) (k : Nat) (v : Int) : (s.setObj k v).tick = s.tick := rfl
@[simp] theorem State.setObj_freeIx (s : State) (k : Nat) (v : Int) : (s.setObj k v).freeIx = s.freeIx := rfl
@[simp] theorem State.setObj_pending (s : State) (k : Nat) (v : Int) : (s.setObj k v).pending = s.pending := rfl
@[simp] theorem State.setObj_outbox (s : State) (k : Nat) (v : Int) : (s.setObj k v).outbox = s.outbox := rfl
@[simp] theorem State.setObj_objs (s : State) (k : Nat) (v : Int) : (s.setObj k v).objs = storePut objDefault s.objs k v := rfl
@[simp] theorem State.setObj_blobs (s : State) (k : Nat) (v : Int) : (s.setObj k v).blobs = s.blobs := rfl
@[simp] theorem State.setObj_platform (s : State) (k : Nat) (v : Int) : (s.setObj k v).platform = s.platform := rfl
@[simp] theorem State.setObj_keys (s : State) (k : Nat) (v : Int) : (s.setObj k v).keys = s.keys := rfl
@[simp] theorem State.setObj_faults (s : State) (k : Nat) (v : Int) : (s.setObj k v).faults = s.faults := rfl
@[simp] theorem State.setObj_shelf (s : State) (k : Nat) (v : Int) : (s.setObj k v).shelf = s.shelf := rfl
@[simp] theorem State.setObj_trunk (s : State) (k : Nat) (v : Int) : (s.setObj k v).trunk = s.trunk := rfl
@[simp] theorem State.setObj_wall (s : State) (k : Nat) (v : Int) : (s.setObj k v).wall = s.wall := rfl
@[simp] theorem State.setObj_mb (s : State) (k : Nat) (v : Int) : (s.setObj k v).mb = s.mb := rfl
@[simp] theorem State.setObj_ports (s : State) (k : Nat) (v : Int) : (s.setObj k v).ports = s.ports := rfl
@[simp] theorem State.setObj_sub (s : State) (k : Nat) (v : Int) : (s.setObj k v).sub = s.sub := rfl
@[simp] theorem State.setObj_cmds (s : State) (k : Nat) (v : Int) : (s.setObj k v).cmds = s.cmds := rfl
@[simp] theorem State.setObj_larder (s : State) (k : Nat) (v : Int) : (s.setObj k v).larder = s.larder := rfl
@[simp] theorem State.setObj_layout (s : State) (k : Nat) (v : Int) : (s.setObj k v).layout = s.layout := rfl
@[simp] theorem State.setObj_links (s : State) (k : Nat) (v : Int) : (s.setObj k v).links = s.links := rfl
@[simp] theorem State.setObj_heads (s : State) (k : Nat) (v : Int) : (s.setObj k v).heads = s.heads := rfl
@[simp] theorem State.setObj_acts (s : State) (k : Nat) (v : Int) : (s.setObj k v).acts = s.acts := rfl
@[simp] theorem State.setObj_pos (s : State) (k : Nat) (v : Int) : (s.setObj k v).pos = s.pos := rfl
@[simp] theorem State.setObj_detect (s : State) (k : Nat) (v : Int) : (s.setObj k v).detect = s.detect := rfl
@[simp] theorem State.setObj_write (s : State) (k : Nat) (v : Int) : (s.setObj k v).write = s.write := rfl
@[simp] theorem State.setObj_rafter (s : State) (k : Nat) (v : Int) : (s.setObj k v).rafter = s.rafter := rfl
@[simp] theorem State.setObj_spindle (s : State) (k : Nat) (v : Int) : (s.setObj k v).spindle = s.spindle := rfl
@[simp] theorem State.setObj_power (s : State) (k : Nat) (v : Int) : (s.setObj k v).power = s.power := rfl
@[simp] theorem State.setObj_fw (s : State) (k : Nat) (v : Int) : (s.setObj k v).fw = s.fw := rfl
@[simp] theorem State.setObj_sec (s : State) (k : Nat) (v : Int) : (s.setObj k v).sec = s.sec := rfl
@[simp] theorem State.setObj_dbg (s : State) (k : Nat) (v : Int) : (s.setObj k v).dbg = s.dbg := rfl

/-! ### State.setNat -/

@[simp] theorem State.setNat_tick (s : State) (k v : Nat) : (s.setNat k v).tick = s.tick := rfl
@[simp] theorem State.setNat_freeIx (s : State) (k v : Nat) : (s.setNat k v).freeIx = s.freeIx := rfl
@[simp] theorem State.setNat_pending (s : State) (k v : Nat) : (s.setNat k v).pending = s.pending := rfl
@[simp] theorem State.setNat_outbox (s : State) (k v : Nat) : (s.setNat k v).outbox = s.outbox := rfl
@[simp] theorem State.setNat_objs (s : State) (k v : Nat) : (s.setNat k v).objs = storePut objDefault s.objs k (v : Int) := rfl
@[simp] theorem State.setNat_blobs (s : State) (k v : Nat) : (s.setNat k v).blobs = s.blobs := rfl
@[simp] theorem State.setNat_platform (s : State) (k v : Nat) : (s.setNat k v).platform = s.platform := rfl
@[simp] theorem State.setNat_keys (s : State) (k v : Nat) : (s.setNat k v).keys = s.keys := rfl
@[simp] theorem State.setNat_faults (s : State) (k v : Nat) : (s.setNat k v).faults = s.faults := rfl
@[simp] theorem State.setNat_shelf (s : State) (k v : Nat) : (s.setNat k v).shelf = s.shelf := rfl
@[simp] theorem State.setNat_trunk (s : State) (k v : Nat) : (s.setNat k v).trunk = s.trunk := rfl
@[simp] theorem State.setNat_wall (s : State) (k v : Nat) : (s.setNat k v).wall = s.wall := rfl
@[simp] theorem State.setNat_mb (s : State) (k v : Nat) : (s.setNat k v).mb = s.mb := rfl
@[simp] theorem State.setNat_ports (s : State) (k v : Nat) : (s.setNat k v).ports = s.ports := rfl
@[simp] theorem State.setNat_sub (s : State) (k v : Nat) : (s.setNat k v).sub = s.sub := rfl
@[simp] theorem State.setNat_cmds (s : State) (k v : Nat) : (s.setNat k v).cmds = s.cmds := rfl
@[simp] theorem State.setNat_larder (s : State) (k v : Nat) : (s.setNat k v).larder = s.larder := rfl
@[simp] theorem State.setNat_layout (s : State) (k v : Nat) : (s.setNat k v).layout = s.layout := rfl
@[simp] theorem State.setNat_links (s : State) (k v : Nat) : (s.setNat k v).links = s.links := rfl
@[simp] theorem State.setNat_heads (s : State) (k v : Nat) : (s.setNat k v).heads = s.heads := rfl
@[simp] theorem State.setNat_acts (s : State) (k v : Nat) : (s.setNat k v).acts = s.acts := rfl
@[simp] theorem State.setNat_pos (s : State) (k v : Nat) : (s.setNat k v).pos = s.pos := rfl
@[simp] theorem State.setNat_detect (s : State) (k v : Nat) : (s.setNat k v).detect = s.detect := rfl
@[simp] theorem State.setNat_write (s : State) (k v : Nat) : (s.setNat k v).write = s.write := rfl
@[simp] theorem State.setNat_rafter (s : State) (k v : Nat) : (s.setNat k v).rafter = s.rafter := rfl
@[simp] theorem State.setNat_spindle (s : State) (k v : Nat) : (s.setNat k v).spindle = s.spindle := rfl
@[simp] theorem State.setNat_power (s : State) (k v : Nat) : (s.setNat k v).power = s.power := rfl
@[simp] theorem State.setNat_fw (s : State) (k v : Nat) : (s.setNat k v).fw = s.fw := rfl
@[simp] theorem State.setNat_sec (s : State) (k v : Nat) : (s.setNat k v).sec = s.sec := rfl
@[simp] theorem State.setNat_dbg (s : State) (k v : Nat) : (s.setNat k v).dbg = s.dbg := rfl

/-! ### State.setBlob -/

@[simp] theorem State.setBlob_tick (s : State) (k : Nat) (b : List Nat) : (s.setBlob k b).tick = s.tick := rfl
@[simp] theorem State.setBlob_freeIx (s : State) (k : Nat) (b : List Nat) : (s.setBlob k b).freeIx = s.freeIx := rfl
@[simp] theorem State.setBlob_pending (s : State) (k : Nat) (b : List Nat) : (s.setBlob k b).pending = s.pending := rfl
@[simp] theorem State.setBlob_outbox (s : State) (k : Nat) (b : List Nat) : (s.setBlob k b).outbox = s.outbox := rfl
@[simp] theorem State.setBlob_objs (s : State) (k : Nat) (b : List Nat) : (s.setBlob k b).objs = s.objs := rfl
@[simp] theorem State.setBlob_blobs (s : State) (k : Nat) (b : List Nat) : (s.setBlob k b).blobs = putKey s.blobs k b := rfl
@[simp] theorem State.setBlob_platform (s : State) (k : Nat) (b : List Nat) : (s.setBlob k b).platform = s.platform := rfl
@[simp] theorem State.setBlob_keys (s : State) (k : Nat) (b : List Nat) : (s.setBlob k b).keys = s.keys := rfl
@[simp] theorem State.setBlob_faults (s : State) (k : Nat) (b : List Nat) : (s.setBlob k b).faults = s.faults := rfl
@[simp] theorem State.setBlob_shelf (s : State) (k : Nat) (b : List Nat) : (s.setBlob k b).shelf = s.shelf := rfl
@[simp] theorem State.setBlob_trunk (s : State) (k : Nat) (b : List Nat) : (s.setBlob k b).trunk = s.trunk := rfl
@[simp] theorem State.setBlob_wall (s : State) (k : Nat) (b : List Nat) : (s.setBlob k b).wall = s.wall := rfl
@[simp] theorem State.setBlob_mb (s : State) (k : Nat) (b : List Nat) : (s.setBlob k b).mb = s.mb := rfl
@[simp] theorem State.setBlob_ports (s : State) (k : Nat) (b : List Nat) : (s.setBlob k b).ports = s.ports := rfl
@[simp] theorem State.setBlob_sub (s : State) (k : Nat) (b : List Nat) : (s.setBlob k b).sub = s.sub := rfl
@[simp] theorem State.setBlob_cmds (s : State) (k : Nat) (b : List Nat) : (s.setBlob k b).cmds = s.cmds := rfl
@[simp] theorem State.setBlob_larder (s : State) (k : Nat) (b : List Nat) : (s.setBlob k b).larder = s.larder := rfl
@[simp] theorem State.setBlob_layout (s : State) (k : Nat) (b : List Nat) : (s.setBlob k b).layout = s.layout := rfl
@[simp] theorem State.setBlob_links (s : State) (k : Nat) (b : List Nat) : (s.setBlob k b).links = s.links := rfl
@[simp] theorem State.setBlob_heads (s : State) (k : Nat) (b : List Nat) : (s.setBlob k b).heads = s.heads := rfl
@[simp] theorem State.setBlob_acts (s : State) (k : Nat) (b : List Nat) : (s.setBlob k b).acts = s.acts := rfl
@[simp] theorem State.setBlob_pos (s : State) (k : Nat) (b : List Nat) : (s.setBlob k b).pos = s.pos := rfl
@[simp] theorem State.setBlob_detect (s : State) (k : Nat) (b : List Nat) : (s.setBlob k b).detect = s.detect := rfl
@[simp] theorem State.setBlob_write (s : State) (k : Nat) (b : List Nat) : (s.setBlob k b).write = s.write := rfl
@[simp] theorem State.setBlob_rafter (s : State) (k : Nat) (b : List Nat) : (s.setBlob k b).rafter = s.rafter := rfl
@[simp] theorem State.setBlob_spindle (s : State) (k : Nat) (b : List Nat) : (s.setBlob k b).spindle = s.spindle := rfl
@[simp] theorem State.setBlob_power (s : State) (k : Nat) (b : List Nat) : (s.setBlob k b).power = s.power := rfl
@[simp] theorem State.setBlob_fw (s : State) (k : Nat) (b : List Nat) : (s.setBlob k b).fw = s.fw := rfl
@[simp] theorem State.setBlob_sec (s : State) (k : Nat) (b : List Nat) : (s.setBlob k b).sec = s.sec := rfl
@[simp] theorem State.setBlob_dbg (s : State) (k : Nat) (b : List Nat) : (s.setBlob k b).dbg = s.dbg := rfl

/-! ### State.emit -/

@[simp] theorem State.emit_tick (s : State) (o : Output) : (s.emit o).tick = s.tick := rfl
@[simp] theorem State.emit_freeIx (s : State) (o : Output) : (s.emit o).freeIx = s.freeIx := rfl
@[simp] theorem State.emit_pending (s : State) (o : Output) : (s.emit o).pending = s.pending := rfl
@[simp] theorem State.emit_outbox (s : State) (o : Output) : (s.emit o).outbox = o :: s.outbox := rfl
@[simp] theorem State.emit_objs (s : State) (o : Output) : (s.emit o).objs = s.objs := rfl
@[simp] theorem State.emit_blobs (s : State) (o : Output) : (s.emit o).blobs = s.blobs := rfl
@[simp] theorem State.emit_platform (s : State) (o : Output) : (s.emit o).platform = s.platform := rfl
@[simp] theorem State.emit_keys (s : State) (o : Output) : (s.emit o).keys = s.keys := rfl
@[simp] theorem State.emit_faults (s : State) (o : Output) : (s.emit o).faults = s.faults := rfl
@[simp] theorem State.emit_shelf (s : State) (o : Output) : (s.emit o).shelf = s.shelf := rfl
@[simp] theorem State.emit_trunk (s : State) (o : Output) : (s.emit o).trunk = s.trunk := rfl
@[simp] theorem State.emit_wall (s : State) (o : Output) : (s.emit o).wall = s.wall := rfl
@[simp] theorem State.emit_mb (s : State) (o : Output) : (s.emit o).mb = s.mb := rfl
@[simp] theorem State.emit_ports (s : State) (o : Output) : (s.emit o).ports = s.ports := rfl
@[simp] theorem State.emit_sub (s : State) (o : Output) : (s.emit o).sub = s.sub := rfl
@[simp] theorem State.emit_cmds (s : State) (o : Output) : (s.emit o).cmds = s.cmds := rfl
@[simp] theorem State.emit_larder (s : State) (o : Output) : (s.emit o).larder = s.larder := rfl
@[simp] theorem State.emit_layout (s : State) (o : Output) : (s.emit o).layout = s.layout := rfl
@[simp] theorem State.emit_links (s : State) (o : Output) : (s.emit o).links = s.links := rfl
@[simp] theorem State.emit_heads (s : State) (o : Output) : (s.emit o).heads = s.heads := rfl
@[simp] theorem State.emit_acts (s : State) (o : Output) : (s.emit o).acts = s.acts := rfl
@[simp] theorem State.emit_pos (s : State) (o : Output) : (s.emit o).pos = s.pos := rfl
@[simp] theorem State.emit_detect (s : State) (o : Output) : (s.emit o).detect = s.detect := rfl
@[simp] theorem State.emit_write (s : State) (o : Output) : (s.emit o).write = s.write := rfl
@[simp] theorem State.emit_rafter (s : State) (o : Output) : (s.emit o).rafter = s.rafter := rfl
@[simp] theorem State.emit_spindle (s : State) (o : Output) : (s.emit o).spindle = s.spindle := rfl
@[simp] theorem State.emit_power (s : State) (o : Output) : (s.emit o).power = s.power := rfl
@[simp] theorem State.emit_fw (s : State) (o : Output) : (s.emit o).fw = s.fw := rfl
@[simp] theorem State.emit_sec (s : State) (o : Output) : (s.emit o).sec = s.sec := rfl
@[simp] theorem State.emit_dbg (s : State) (o : Output) : (s.emit o).dbg = s.dbg := rfl

/-! ### State.modHead -/

@[simp] theorem State.modHead_tick (s : State) (h : Nat) (f : Head → Head) : (s.modHead h f).tick = s.tick := rfl
@[simp] theorem State.modHead_freeIx (s : State) (h : Nat) (f : Head → Head) : (s.modHead h f).freeIx = s.freeIx := rfl
@[simp] theorem State.modHead_pending (s : State) (h : Nat) (f : Head → Head) : (s.modHead h f).pending = s.pending := rfl
@[simp] theorem State.modHead_outbox (s : State) (h : Nat) (f : Head → Head) : (s.modHead h f).outbox = s.outbox := rfl
@[simp] theorem State.modHead_objs (s : State) (h : Nat) (f : Head → Head) : (s.modHead h f).objs = s.objs := rfl
@[simp] theorem State.modHead_blobs (s : State) (h : Nat) (f : Head → Head) : (s.modHead h f).blobs = s.blobs := rfl
@[simp] theorem State.modHead_platform (s : State) (h : Nat) (f : Head → Head) : (s.modHead h f).platform = s.platform := rfl
@[simp] theorem State.modHead_keys (s : State) (h : Nat) (f : Head → Head) : (s.modHead h f).keys = s.keys := rfl
@[simp] theorem State.modHead_faults (s : State) (h : Nat) (f : Head → Head) : (s.modHead h f).faults = s.faults := rfl
@[simp] theorem State.modHead_shelf (s : State) (h : Nat) (f : Head → Head) : (s.modHead h f).shelf = s.shelf := rfl
@[simp] theorem State.modHead_trunk (s : State) (h : Nat) (f : Head → Head) : (s.modHead h f).trunk = s.trunk := rfl
@[simp] theorem State.modHead_wall (s : State) (h : Nat) (f : Head → Head) : (s.modHead h f).wall = s.wall := rfl
@[simp] theorem State.modHead_mb (s : State) (h : Nat) (f : Head → Head) : (s.modHead h f).mb = s.mb := rfl
@[simp] theorem State.modHead_ports (s : State) (h : Nat) (f : Head → Head) : (s.modHead h f).ports = s.ports := rfl
@[simp] theorem State.modHead_sub (s : State) (h : Nat) (f : Head → Head) : (s.modHead h f).sub = s.sub := rfl
@[simp] theorem State.modHead_cmds (s : State) (h : Nat) (f : Head → Head) : (s.modHead h f).cmds = s.cmds := rfl
@[simp] theorem State.modHead_larder (s : State) (h : Nat) (f : Head → Head) : (s.modHead h f).larder = s.larder := rfl
@[simp] theorem State.modHead_layout (s : State) (h : Nat) (f : Head → Head) : (s.modHead h f).layout = s.layout := rfl
@[simp] theorem State.modHead_links (s : State) (h : Nat) (f : Head → Head) : (s.modHead h f).links = s.links := rfl
@[simp] theorem State.modHead_heads (s : State) (h : Nat) (f : Head → Head) : (s.modHead h f).heads = s.heads.modify h f := rfl
@[simp] theorem State.modHead_acts (s : State) (h : Nat) (f : Head → Head) : (s.modHead h f).acts = s.acts := rfl
@[simp] theorem State.modHead_pos (s : State) (h : Nat) (f : Head → Head) : (s.modHead h f).pos = s.pos := rfl
@[simp] theorem State.modHead_detect (s : State) (h : Nat) (f : Head → Head) : (s.modHead h f).detect = s.detect := rfl
@[simp] theorem State.modHead_write (s : State) (h : Nat) (f : Head → Head) : (s.modHead h f).write = s.write := rfl
@[simp] theorem State.modHead_rafter (s : State) (h : Nat) (f : Head → Head) : (s.modHead h f).rafter = s.rafter := rfl
@[simp] theorem State.modHead_spindle (s : State) (h : Nat) (f : Head → Head) : (s.modHead h f).spindle = s.spindle := rfl
@[simp] theorem State.modHead_power (s : State) (h : Nat) (f : Head → Head) : (s.modHead h f).power = s.power := rfl
@[simp] theorem State.modHead_fw (s : State) (h : Nat) (f : Head → Head) : (s.modHead h f).fw = s.fw := rfl
@[simp] theorem State.modHead_sec (s : State) (h : Nat) (f : Head → Head) : (s.modHead h f).sec = s.sec := rfl
@[simp] theorem State.modHead_dbg (s : State) (h : Nat) (f : Head → Head) : (s.modHead h f).dbg = s.dbg := rfl

/-! ### State.modAct -/

@[simp] theorem State.modAct_tick (s : State) (a : Nat) (f : Act → Act) : (s.modAct a f).tick = s.tick := rfl
@[simp] theorem State.modAct_freeIx (s : State) (a : Nat) (f : Act → Act) : (s.modAct a f).freeIx = s.freeIx := rfl
@[simp] theorem State.modAct_pending (s : State) (a : Nat) (f : Act → Act) : (s.modAct a f).pending = s.pending := rfl
@[simp] theorem State.modAct_outbox (s : State) (a : Nat) (f : Act → Act) : (s.modAct a f).outbox = s.outbox := rfl
@[simp] theorem State.modAct_objs (s : State) (a : Nat) (f : Act → Act) : (s.modAct a f).objs = s.objs := rfl
@[simp] theorem State.modAct_blobs (s : State) (a : Nat) (f : Act → Act) : (s.modAct a f).blobs = s.blobs := rfl
@[simp] theorem State.modAct_platform (s : State) (a : Nat) (f : Act → Act) : (s.modAct a f).platform = s.platform := rfl
@[simp] theorem State.modAct_keys (s : State) (a : Nat) (f : Act → Act) : (s.modAct a f).keys = s.keys := rfl
@[simp] theorem State.modAct_faults (s : State) (a : Nat) (f : Act → Act) : (s.modAct a f).faults = s.faults := rfl
@[simp] theorem State.modAct_shelf (s : State) (a : Nat) (f : Act → Act) : (s.modAct a f).shelf = s.shelf := rfl
@[simp] theorem State.modAct_trunk (s : State) (a : Nat) (f : Act → Act) : (s.modAct a f).trunk = s.trunk := rfl
@[simp] theorem State.modAct_wall (s : State) (a : Nat) (f : Act → Act) : (s.modAct a f).wall = s.wall := rfl
@[simp] theorem State.modAct_mb (s : State) (a : Nat) (f : Act → Act) : (s.modAct a f).mb = s.mb := rfl
@[simp] theorem State.modAct_ports (s : State) (a : Nat) (f : Act → Act) : (s.modAct a f).ports = s.ports := rfl
@[simp] theorem State.modAct_sub (s : State) (a : Nat) (f : Act → Act) : (s.modAct a f).sub = s.sub := rfl
@[simp] theorem State.modAct_cmds (s : State) (a : Nat) (f : Act → Act) : (s.modAct a f).cmds = s.cmds := rfl
@[simp] theorem State.modAct_larder (s : State) (a : Nat) (f : Act → Act) : (s.modAct a f).larder = s.larder := rfl
@[simp] theorem State.modAct_layout (s : State) (a : Nat) (f : Act → Act) : (s.modAct a f).layout = s.layout := rfl
@[simp] theorem State.modAct_links (s : State) (a : Nat) (f : Act → Act) : (s.modAct a f).links = s.links := rfl
@[simp] theorem State.modAct_heads (s : State) (a : Nat) (f : Act → Act) : (s.modAct a f).heads = s.heads := rfl
@[simp] theorem State.modAct_acts (s : State) (a : Nat) (f : Act → Act) : (s.modAct a f).acts = s.acts.modify a f := rfl
@[simp] theorem State.modAct_pos (s : State) (a : Nat) (f : Act → Act) : (s.modAct a f).pos = s.pos := rfl
@[simp] theorem State.modAct_detect (s : State) (a : Nat) (f : Act → Act) : (s.modAct a f).detect = s.detect := rfl
@[simp] theorem State.modAct_write (s : State) (a : Nat) (f : Act → Act) : (s.modAct a f).write = s.write := rfl
@[simp] theorem State.modAct_rafter (s : State) (a : Nat) (f : Act → Act) : (s.modAct a f).rafter = s.rafter := rfl
@[simp] theorem State.modAct_spindle (s : State) (a : Nat) (f : Act → Act) : (s.modAct a f).spindle = s.spindle := rfl
@[simp] theorem State.modAct_power (s : State) (a : Nat) (f : Act → Act) : (s.modAct a f).power = s.power := rfl
@[simp] theorem State.modAct_fw (s : State) (a : Nat) (f : Act → Act) : (s.modAct a f).fw = s.fw := rfl
@[simp] theorem State.modAct_sec (s : State) (a : Nat) (f : Act → Act) : (s.modAct a f).sec = s.sec := rfl
@[simp] theorem State.modAct_dbg (s : State) (a : Nat) (f : Act → Act) : (s.modAct a f).dbg = s.dbg := rfl

/-! ### State.modPort -/

@[simp] theorem State.modPort_tick (s : State) (p : Nat) (f : Port → Port) : (s.modPort p f).tick = s.tick := rfl
@[simp] theorem State.modPort_freeIx (s : State) (p : Nat) (f : Port → Port) : (s.modPort p f).freeIx = s.freeIx := rfl
@[simp] theorem State.modPort_pending (s : State) (p : Nat) (f : Port → Port) : (s.modPort p f).pending = s.pending := rfl
@[simp] theorem State.modPort_outbox (s : State) (p : Nat) (f : Port → Port) : (s.modPort p f).outbox = s.outbox := rfl
@[simp] theorem State.modPort_objs (s : State) (p : Nat) (f : Port → Port) : (s.modPort p f).objs = s.objs := rfl
@[simp] theorem State.modPort_blobs (s : State) (p : Nat) (f : Port → Port) : (s.modPort p f).blobs = s.blobs := rfl
@[simp] theorem State.modPort_platform (s : State) (p : Nat) (f : Port → Port) : (s.modPort p f).platform = s.platform := rfl
@[simp] theorem State.modPort_keys (s : State) (p : Nat) (f : Port → Port) : (s.modPort p f).keys = s.keys := rfl
@[simp] theorem State.modPort_faults (s : State) (p : Nat) (f : Port → Port) : (s.modPort p f).faults = s.faults := rfl
@[simp] theorem State.modPort_shelf (s : State) (p : Nat) (f : Port → Port) : (s.modPort p f).shelf = s.shelf := rfl
@[simp] theorem State.modPort_trunk (s : State) (p : Nat) (f : Port → Port) : (s.modPort p f).trunk = s.trunk := rfl
@[simp] theorem State.modPort_wall (s : State) (p : Nat) (f : Port → Port) : (s.modPort p f).wall = s.wall := rfl
@[simp] theorem State.modPort_mb (s : State) (p : Nat) (f : Port → Port) : (s.modPort p f).mb = s.mb := rfl
@[simp] theorem State.modPort_ports (s : State) (p : Nat) (f : Port → Port) : (s.modPort p f).ports = s.ports.modify p f := rfl
@[simp] theorem State.modPort_sub (s : State) (p : Nat) (f : Port → Port) : (s.modPort p f).sub = s.sub := rfl
@[simp] theorem State.modPort_cmds (s : State) (p : Nat) (f : Port → Port) : (s.modPort p f).cmds = s.cmds := rfl
@[simp] theorem State.modPort_larder (s : State) (p : Nat) (f : Port → Port) : (s.modPort p f).larder = s.larder := rfl
@[simp] theorem State.modPort_layout (s : State) (p : Nat) (f : Port → Port) : (s.modPort p f).layout = s.layout := rfl
@[simp] theorem State.modPort_links (s : State) (p : Nat) (f : Port → Port) : (s.modPort p f).links = s.links := rfl
@[simp] theorem State.modPort_heads (s : State) (p : Nat) (f : Port → Port) : (s.modPort p f).heads = s.heads := rfl
@[simp] theorem State.modPort_acts (s : State) (p : Nat) (f : Port → Port) : (s.modPort p f).acts = s.acts := rfl
@[simp] theorem State.modPort_pos (s : State) (p : Nat) (f : Port → Port) : (s.modPort p f).pos = s.pos := rfl
@[simp] theorem State.modPort_detect (s : State) (p : Nat) (f : Port → Port) : (s.modPort p f).detect = s.detect := rfl
@[simp] theorem State.modPort_write (s : State) (p : Nat) (f : Port → Port) : (s.modPort p f).write = s.write := rfl
@[simp] theorem State.modPort_rafter (s : State) (p : Nat) (f : Port → Port) : (s.modPort p f).rafter = s.rafter := rfl
@[simp] theorem State.modPort_spindle (s : State) (p : Nat) (f : Port → Port) : (s.modPort p f).spindle = s.spindle := rfl
@[simp] theorem State.modPort_power (s : State) (p : Nat) (f : Port → Port) : (s.modPort p f).power = s.power := rfl
@[simp] theorem State.modPort_fw (s : State) (p : Nat) (f : Port → Port) : (s.modPort p f).fw = s.fw := rfl
@[simp] theorem State.modPort_sec (s : State) (p : Nat) (f : Port → Port) : (s.modPort p f).sec = s.sec := rfl
@[simp] theorem State.modPort_dbg (s : State) (p : Nat) (f : Port → Port) : (s.modPort p f).dbg = s.dbg := rfl

/-! ### State.modKey -/

@[simp] theorem State.modKey_tick (s : State) (k : Nat) (f : KeySlot → KeySlot) : (s.modKey k f).tick = s.tick := rfl
@[simp] theorem State.modKey_freeIx (s : State) (k : Nat) (f : KeySlot → KeySlot) : (s.modKey k f).freeIx = s.freeIx := rfl
@[simp] theorem State.modKey_pending (s : State) (k : Nat) (f : KeySlot → KeySlot) : (s.modKey k f).pending = s.pending := rfl
@[simp] theorem State.modKey_outbox (s : State) (k : Nat) (f : KeySlot → KeySlot) : (s.modKey k f).outbox = s.outbox := rfl
@[simp] theorem State.modKey_objs (s : State) (k : Nat) (f : KeySlot → KeySlot) : (s.modKey k f).objs = s.objs := rfl
@[simp] theorem State.modKey_blobs (s : State) (k : Nat) (f : KeySlot → KeySlot) : (s.modKey k f).blobs = s.blobs := rfl
@[simp] theorem State.modKey_platform (s : State) (k : Nat) (f : KeySlot → KeySlot) : (s.modKey k f).platform = s.platform := rfl
@[simp] theorem State.modKey_keys (s : State) (k : Nat) (f : KeySlot → KeySlot) : (s.modKey k f).keys = s.keys.modify k f := rfl
@[simp] theorem State.modKey_faults (s : State) (k : Nat) (f : KeySlot → KeySlot) : (s.modKey k f).faults = s.faults := rfl
@[simp] theorem State.modKey_shelf (s : State) (k : Nat) (f : KeySlot → KeySlot) : (s.modKey k f).shelf = s.shelf := rfl
@[simp] theorem State.modKey_trunk (s : State) (k : Nat) (f : KeySlot → KeySlot) : (s.modKey k f).trunk = s.trunk := rfl
@[simp] theorem State.modKey_wall (s : State) (k : Nat) (f : KeySlot → KeySlot) : (s.modKey k f).wall = s.wall := rfl
@[simp] theorem State.modKey_mb (s : State) (k : Nat) (f : KeySlot → KeySlot) : (s.modKey k f).mb = s.mb := rfl
@[simp] theorem State.modKey_ports (s : State) (k : Nat) (f : KeySlot → KeySlot) : (s.modKey k f).ports = s.ports := rfl
@[simp] theorem State.modKey_sub (s : State) (k : Nat) (f : KeySlot → KeySlot) : (s.modKey k f).sub = s.sub := rfl
@[simp] theorem State.modKey_cmds (s : State) (k : Nat) (f : KeySlot → KeySlot) : (s.modKey k f).cmds = s.cmds := rfl
@[simp] theorem State.modKey_larder (s : State) (k : Nat) (f : KeySlot → KeySlot) : (s.modKey k f).larder = s.larder := rfl
@[simp] theorem State.modKey_layout (s : State) (k : Nat) (f : KeySlot → KeySlot) : (s.modKey k f).layout = s.layout := rfl
@[simp] theorem State.modKey_links (s : State) (k : Nat) (f : KeySlot → KeySlot) : (s.modKey k f).links = s.links := rfl
@[simp] theorem State.modKey_heads (s : State) (k : Nat) (f : KeySlot → KeySlot) : (s.modKey k f).heads = s.heads := rfl
@[simp] theorem State.modKey_acts (s : State) (k : Nat) (f : KeySlot → KeySlot) : (s.modKey k f).acts = s.acts := rfl
@[simp] theorem State.modKey_pos (s : State) (k : Nat) (f : KeySlot → KeySlot) : (s.modKey k f).pos = s.pos := rfl
@[simp] theorem State.modKey_detect (s : State) (k : Nat) (f : KeySlot → KeySlot) : (s.modKey k f).detect = s.detect := rfl
@[simp] theorem State.modKey_write (s : State) (k : Nat) (f : KeySlot → KeySlot) : (s.modKey k f).write = s.write := rfl
@[simp] theorem State.modKey_rafter (s : State) (k : Nat) (f : KeySlot → KeySlot) : (s.modKey k f).rafter = s.rafter := rfl
@[simp] theorem State.modKey_spindle (s : State) (k : Nat) (f : KeySlot → KeySlot) : (s.modKey k f).spindle = s.spindle := rfl
@[simp] theorem State.modKey_power (s : State) (k : Nat) (f : KeySlot → KeySlot) : (s.modKey k f).power = s.power := rfl
@[simp] theorem State.modKey_fw (s : State) (k : Nat) (f : KeySlot → KeySlot) : (s.modKey k f).fw = s.fw := rfl
@[simp] theorem State.modKey_sec (s : State) (k : Nat) (f : KeySlot → KeySlot) : (s.modKey k f).sec = s.sec := rfl
@[simp] theorem State.modKey_dbg (s : State) (k : Nat) (f : KeySlot → KeySlot) : (s.modKey k f).dbg = s.dbg := rfl

/-! ### State.modStream -/

@[simp] theorem State.modStream_tick (s : State) (n : Nat) (f : Stream → Stream) : (s.modStream n f).tick = s.tick := rfl
@[simp] theorem State.modStream_freeIx (s : State) (n : Nat) (f : Stream → Stream) : (s.modStream n f).freeIx = s.freeIx := rfl
@[simp] theorem State.modStream_pending (s : State) (n : Nat) (f : Stream → Stream) : (s.modStream n f).pending = s.pending := rfl
@[simp] theorem State.modStream_outbox (s : State) (n : Nat) (f : Stream → Stream) : (s.modStream n f).outbox = s.outbox := rfl
@[simp] theorem State.modStream_objs (s : State) (n : Nat) (f : Stream → Stream) : (s.modStream n f).objs = s.objs := rfl
@[simp] theorem State.modStream_blobs (s : State) (n : Nat) (f : Stream → Stream) : (s.modStream n f).blobs = s.blobs := rfl
@[simp] theorem State.modStream_platform (s : State) (n : Nat) (f : Stream → Stream) : (s.modStream n f).platform = s.platform := rfl
@[simp] theorem State.modStream_keys (s : State) (n : Nat) (f : Stream → Stream) : (s.modStream n f).keys = s.keys := rfl
@[simp] theorem State.modStream_faults (s : State) (n : Nat) (f : Stream → Stream) : (s.modStream n f).faults = s.faults := rfl
@[simp] theorem State.modStream_shelf (s : State) (n : Nat) (f : Stream → Stream) : (s.modStream n f).shelf = s.shelf := rfl
@[simp] theorem State.modStream_trunk (s : State) (n : Nat) (f : Stream → Stream) : (s.modStream n f).trunk = s.trunk := rfl
@[simp] theorem State.modStream_wall (s : State) (n : Nat) (f : Stream → Stream) : (s.modStream n f).wall = s.wall := rfl
@[simp] theorem State.modStream_mb (s : State) (n : Nat) (f : Stream → Stream) : (s.modStream n f).mb = s.mb := rfl
@[simp] theorem State.modStream_ports (s : State) (n : Nat) (f : Stream → Stream) : (s.modStream n f).ports = s.ports := rfl
@[simp] theorem State.modStream_sub (s : State) (n : Nat) (f : Stream → Stream) : (s.modStream n f).sub = s.sub := rfl
@[simp] theorem State.modStream_cmds (s : State) (n : Nat) (f : Stream → Stream) : (s.modStream n f).cmds = s.cmds := rfl
@[simp] theorem State.modStream_larder (s : State) (n : Nat) (f : Stream → Stream) : (s.modStream n f).larder = s.larder := rfl
@[simp] theorem State.modStream_layout (s : State) (n : Nat) (f : Stream → Stream) : (s.modStream n f).layout = s.layout := rfl
@[simp] theorem State.modStream_links (s : State) (n : Nat) (f : Stream → Stream) : (s.modStream n f).links = s.links := rfl
@[simp] theorem State.modStream_heads (s : State) (n : Nat) (f : Stream → Stream) : (s.modStream n f).heads = s.heads := rfl
@[simp] theorem State.modStream_acts (s : State) (n : Nat) (f : Stream → Stream) : (s.modStream n f).acts = s.acts := rfl
@[simp] theorem State.modStream_pos (s : State) (n : Nat) (f : Stream → Stream) : (s.modStream n f).pos = s.pos := rfl
@[simp] theorem State.modStream_write (s : State) (n : Nat) (f : Stream → Stream) : (s.modStream n f).write = s.write := rfl
@[simp] theorem State.modStream_rafter (s : State) (n : Nat) (f : Stream → Stream) : (s.modStream n f).rafter = s.rafter := rfl
@[simp] theorem State.modStream_spindle (s : State) (n : Nat) (f : Stream → Stream) : (s.modStream n f).spindle = s.spindle := rfl
@[simp] theorem State.modStream_power (s : State) (n : Nat) (f : Stream → Stream) : (s.modStream n f).power = s.power := rfl
@[simp] theorem State.modStream_fw (s : State) (n : Nat) (f : Stream → Stream) : (s.modStream n f).fw = s.fw := rfl
@[simp] theorem State.modStream_sec (s : State) (n : Nat) (f : Stream → Stream) : (s.modStream n f).sec = s.sec := rfl
@[simp] theorem State.modStream_dbg (s : State) (n : Nat) (f : Stream → Stream) : (s.modStream n f).dbg = s.dbg := rfl

/-! ### State.modLoop -/

@[simp] theorem State.modLoop_tick (s : State) (n : Nat) (f : Loop → Loop) : (s.modLoop n f).tick = s.tick := rfl
@[simp] theorem State.modLoop_freeIx (s : State) (n : Nat) (f : Loop → Loop) : (s.modLoop n f).freeIx = s.freeIx := rfl
@[simp] theorem State.modLoop_pending (s : State) (n : Nat) (f : Loop → Loop) : (s.modLoop n f).pending = s.pending := rfl
@[simp] theorem State.modLoop_outbox (s : State) (n : Nat) (f : Loop → Loop) : (s.modLoop n f).outbox = s.outbox := rfl
@[simp] theorem State.modLoop_objs (s : State) (n : Nat) (f : Loop → Loop) : (s.modLoop n f).objs = s.objs := rfl
@[simp] theorem State.modLoop_blobs (s : State) (n : Nat) (f : Loop → Loop) : (s.modLoop n f).blobs = s.blobs := rfl
@[simp] theorem State.modLoop_platform (s : State) (n : Nat) (f : Loop → Loop) : (s.modLoop n f).platform = s.platform := rfl
@[simp] theorem State.modLoop_keys (s : State) (n : Nat) (f : Loop → Loop) : (s.modLoop n f).keys = s.keys := rfl
@[simp] theorem State.modLoop_faults (s : State) (n : Nat) (f : Loop → Loop) : (s.modLoop n f).faults = s.faults := rfl
@[simp] theorem State.modLoop_shelf (s : State) (n : Nat) (f : Loop → Loop) : (s.modLoop n f).shelf = s.shelf := rfl
@[simp] theorem State.modLoop_trunk (s : State) (n : Nat) (f : Loop → Loop) : (s.modLoop n f).trunk = s.trunk := rfl
@[simp] theorem State.modLoop_wall (s : State) (n : Nat) (f : Loop → Loop) : (s.modLoop n f).wall = s.wall := rfl
@[simp] theorem State.modLoop_mb (s : State) (n : Nat) (f : Loop → Loop) : (s.modLoop n f).mb = s.mb := rfl
@[simp] theorem State.modLoop_ports (s : State) (n : Nat) (f : Loop → Loop) : (s.modLoop n f).ports = s.ports := rfl
@[simp] theorem State.modLoop_sub (s : State) (n : Nat) (f : Loop → Loop) : (s.modLoop n f).sub = s.sub := rfl
@[simp] theorem State.modLoop_cmds (s : State) (n : Nat) (f : Loop → Loop) : (s.modLoop n f).cmds = s.cmds := rfl
@[simp] theorem State.modLoop_larder (s : State) (n : Nat) (f : Loop → Loop) : (s.modLoop n f).larder = s.larder := rfl
@[simp] theorem State.modLoop_layout (s : State) (n : Nat) (f : Loop → Loop) : (s.modLoop n f).layout = s.layout := rfl
@[simp] theorem State.modLoop_links (s : State) (n : Nat) (f : Loop → Loop) : (s.modLoop n f).links = s.links := rfl
@[simp] theorem State.modLoop_heads (s : State) (n : Nat) (f : Loop → Loop) : (s.modLoop n f).heads = s.heads := rfl
@[simp] theorem State.modLoop_acts (s : State) (n : Nat) (f : Loop → Loop) : (s.modLoop n f).acts = s.acts := rfl
@[simp] theorem State.modLoop_pos (s : State) (n : Nat) (f : Loop → Loop) : (s.modLoop n f).pos = s.pos := rfl
@[simp] theorem State.modLoop_detect (s : State) (n : Nat) (f : Loop → Loop) : (s.modLoop n f).detect = s.detect := rfl
@[simp] theorem State.modLoop_write (s : State) (n : Nat) (f : Loop → Loop) : (s.modLoop n f).write = s.write := rfl
@[simp] theorem State.modLoop_spindle (s : State) (n : Nat) (f : Loop → Loop) : (s.modLoop n f).spindle = s.spindle := rfl
@[simp] theorem State.modLoop_power (s : State) (n : Nat) (f : Loop → Loop) : (s.modLoop n f).power = s.power := rfl
@[simp] theorem State.modLoop_fw (s : State) (n : Nat) (f : Loop → Loop) : (s.modLoop n f).fw = s.fw := rfl
@[simp] theorem State.modLoop_sec (s : State) (n : Nat) (f : Loop → Loop) : (s.modLoop n f).sec = s.sec := rfl
@[simp] theorem State.modLoop_dbg (s : State) (n : Nat) (f : Loop → Loop) : (s.modLoop n f).dbg = s.dbg := rfl

/-! ### State.modPcl -/

@[simp] theorem State.modPcl_tick (s : State) (k : Nat) (f : Pcl → Pcl) : (s.modPcl k f).tick = s.tick := rfl
@[simp] theorem State.modPcl_freeIx (s : State) (k : Nat) (f : Pcl → Pcl) : (s.modPcl k f).freeIx = s.freeIx := rfl
@[simp] theorem State.modPcl_pending (s : State) (k : Nat) (f : Pcl → Pcl) : (s.modPcl k f).pending = s.pending := rfl
@[simp] theorem State.modPcl_outbox (s : State) (k : Nat) (f : Pcl → Pcl) : (s.modPcl k f).outbox = s.outbox := rfl
@[simp] theorem State.modPcl_objs (s : State) (k : Nat) (f : Pcl → Pcl) : (s.modPcl k f).objs = s.objs := rfl
@[simp] theorem State.modPcl_blobs (s : State) (k : Nat) (f : Pcl → Pcl) : (s.modPcl k f).blobs = s.blobs := rfl
@[simp] theorem State.modPcl_platform (s : State) (k : Nat) (f : Pcl → Pcl) : (s.modPcl k f).platform = s.platform := rfl
@[simp] theorem State.modPcl_keys (s : State) (k : Nat) (f : Pcl → Pcl) : (s.modPcl k f).keys = s.keys := rfl
@[simp] theorem State.modPcl_faults (s : State) (k : Nat) (f : Pcl → Pcl) : (s.modPcl k f).faults = s.faults := rfl
@[simp] theorem State.modPcl_shelf (s : State) (k : Nat) (f : Pcl → Pcl) : (s.modPcl k f).shelf = s.shelf := rfl
@[simp] theorem State.modPcl_trunk (s : State) (k : Nat) (f : Pcl → Pcl) : (s.modPcl k f).trunk = s.trunk := rfl
@[simp] theorem State.modPcl_wall (s : State) (k : Nat) (f : Pcl → Pcl) : (s.modPcl k f).wall = s.wall := rfl
@[simp] theorem State.modPcl_mb (s : State) (k : Nat) (f : Pcl → Pcl) : (s.modPcl k f).mb = s.mb := rfl
@[simp] theorem State.modPcl_ports (s : State) (k : Nat) (f : Pcl → Pcl) : (s.modPcl k f).ports = s.ports := rfl
@[simp] theorem State.modPcl_sub (s : State) (k : Nat) (f : Pcl → Pcl) : (s.modPcl k f).sub = s.sub := rfl
@[simp] theorem State.modPcl_cmds (s : State) (k : Nat) (f : Pcl → Pcl) : (s.modPcl k f).cmds = s.cmds := rfl
@[simp] theorem State.modPcl_larder (s : State) (k : Nat) (f : Pcl → Pcl) : (s.modPcl k f).larder = s.larder := rfl
@[simp] theorem State.modPcl_layout (s : State) (k : Nat) (f : Pcl → Pcl) : (s.modPcl k f).layout = s.layout := rfl
@[simp] theorem State.modPcl_heads (s : State) (k : Nat) (f : Pcl → Pcl) : (s.modPcl k f).heads = s.heads := rfl
@[simp] theorem State.modPcl_acts (s : State) (k : Nat) (f : Pcl → Pcl) : (s.modPcl k f).acts = s.acts := rfl
@[simp] theorem State.modPcl_pos (s : State) (k : Nat) (f : Pcl → Pcl) : (s.modPcl k f).pos = s.pos := rfl
@[simp] theorem State.modPcl_detect (s : State) (k : Nat) (f : Pcl → Pcl) : (s.modPcl k f).detect = s.detect := rfl
@[simp] theorem State.modPcl_write (s : State) (k : Nat) (f : Pcl → Pcl) : (s.modPcl k f).write = s.write := rfl
@[simp] theorem State.modPcl_rafter (s : State) (k : Nat) (f : Pcl → Pcl) : (s.modPcl k f).rafter = s.rafter := rfl
@[simp] theorem State.modPcl_spindle (s : State) (k : Nat) (f : Pcl → Pcl) : (s.modPcl k f).spindle = s.spindle := rfl
@[simp] theorem State.modPcl_power (s : State) (k : Nat) (f : Pcl → Pcl) : (s.modPcl k f).power = s.power := rfl
@[simp] theorem State.modPcl_fw (s : State) (k : Nat) (f : Pcl → Pcl) : (s.modPcl k f).fw = s.fw := rfl
@[simp] theorem State.modPcl_sec (s : State) (k : Nat) (f : Pcl → Pcl) : (s.modPcl k f).sec = s.sec := rfl
@[simp] theorem State.modPcl_dbg (s : State) (k : Nat) (f : Pcl → Pcl) : (s.modPcl k f).dbg = s.dbg := rfl

/-! ### State.modRsl -/

@[simp] theorem State.modRsl_tick (s : State) (n : Nat) (f : Rsl → Rsl) : (s.modRsl n f).tick = s.tick := rfl
@[simp] theorem State.modRsl_freeIx (s : State) (n : Nat) (f : Rsl → Rsl) : (s.modRsl n f).freeIx = s.freeIx := rfl
@[simp] theorem State.modRsl_pending (s : State) (n : Nat) (f : Rsl → Rsl) : (s.modRsl n f).pending = s.pending := rfl
@[simp] theorem State.modRsl_outbox (s : State) (n : Nat) (f : Rsl → Rsl) : (s.modRsl n f).outbox = s.outbox := rfl
@[simp] theorem State.modRsl_objs (s : State) (n : Nat) (f : Rsl → Rsl) : (s.modRsl n f).objs = s.objs := rfl
@[simp] theorem State.modRsl_blobs (s : State) (n : Nat) (f : Rsl → Rsl) : (s.modRsl n f).blobs = s.blobs := rfl
@[simp] theorem State.modRsl_platform (s : State) (n : Nat) (f : Rsl → Rsl) : (s.modRsl n f).platform = s.platform := rfl
@[simp] theorem State.modRsl_keys (s : State) (n : Nat) (f : Rsl → Rsl) : (s.modRsl n f).keys = s.keys := rfl
@[simp] theorem State.modRsl_faults (s : State) (n : Nat) (f : Rsl → Rsl) : (s.modRsl n f).faults = s.faults := rfl
@[simp] theorem State.modRsl_shelf (s : State) (n : Nat) (f : Rsl → Rsl) : (s.modRsl n f).shelf = s.shelf := rfl
@[simp] theorem State.modRsl_trunk (s : State) (n : Nat) (f : Rsl → Rsl) : (s.modRsl n f).trunk = s.trunk := rfl
@[simp] theorem State.modRsl_wall (s : State) (n : Nat) (f : Rsl → Rsl) : (s.modRsl n f).wall = s.wall := rfl
@[simp] theorem State.modRsl_mb (s : State) (n : Nat) (f : Rsl → Rsl) : (s.modRsl n f).mb = s.mb := rfl
@[simp] theorem State.modRsl_ports (s : State) (n : Nat) (f : Rsl → Rsl) : (s.modRsl n f).ports = s.ports := rfl
@[simp] theorem State.modRsl_sub (s : State) (n : Nat) (f : Rsl → Rsl) : (s.modRsl n f).sub = s.sub := rfl
@[simp] theorem State.modRsl_cmds (s : State) (n : Nat) (f : Rsl → Rsl) : (s.modRsl n f).cmds = s.cmds := rfl
@[simp] theorem State.modRsl_larder (s : State) (n : Nat) (f : Rsl → Rsl) : (s.modRsl n f).larder = s.larder := rfl
@[simp] theorem State.modRsl_layout (s : State) (n : Nat) (f : Rsl → Rsl) : (s.modRsl n f).layout = s.layout := rfl
@[simp] theorem State.modRsl_heads (s : State) (n : Nat) (f : Rsl → Rsl) : (s.modRsl n f).heads = s.heads := rfl
@[simp] theorem State.modRsl_acts (s : State) (n : Nat) (f : Rsl → Rsl) : (s.modRsl n f).acts = s.acts := rfl
@[simp] theorem State.modRsl_pos (s : State) (n : Nat) (f : Rsl → Rsl) : (s.modRsl n f).pos = s.pos := rfl
@[simp] theorem State.modRsl_detect (s : State) (n : Nat) (f : Rsl → Rsl) : (s.modRsl n f).detect = s.detect := rfl
@[simp] theorem State.modRsl_write (s : State) (n : Nat) (f : Rsl → Rsl) : (s.modRsl n f).write = s.write := rfl
@[simp] theorem State.modRsl_rafter (s : State) (n : Nat) (f : Rsl → Rsl) : (s.modRsl n f).rafter = s.rafter := rfl
@[simp] theorem State.modRsl_spindle (s : State) (n : Nat) (f : Rsl → Rsl) : (s.modRsl n f).spindle = s.spindle := rfl
@[simp] theorem State.modRsl_power (s : State) (n : Nat) (f : Rsl → Rsl) : (s.modRsl n f).power = s.power := rfl
@[simp] theorem State.modRsl_fw (s : State) (n : Nat) (f : Rsl → Rsl) : (s.modRsl n f).fw = s.fw := rfl
@[simp] theorem State.modRsl_sec (s : State) (n : Nat) (f : Rsl → Rsl) : (s.modRsl n f).sec = s.sec := rfl
@[simp] theorem State.modRsl_dbg (s : State) (n : Nat) (f : Rsl → Rsl) : (s.modRsl n f).dbg = s.dbg := rfl

/-! ### State.modWrl -/

@[simp] theorem State.modWrl_tick (s : State) (n : Nat) (f : Wrl → Wrl) : (s.modWrl n f).tick = s.tick := rfl
@[simp] theorem State.modWrl_freeIx (s : State) (n : Nat) (f : Wrl → Wrl) : (s.modWrl n f).freeIx = s.freeIx := rfl
@[simp] theorem State.modWrl_pending (s : State) (n : Nat) (f : Wrl → Wrl) : (s.modWrl n f).pending = s.pending := rfl
@[simp] theorem State.modWrl_outbox (s : State) (n : Nat) (f : Wrl → Wrl) : (s.modWrl n f).outbox = s.outbox := rfl
@[simp] theorem State.modWrl_objs (s : State) (n : Nat) (f : Wrl → Wrl) : (s.modWrl n f).objs = s.objs := rfl
@[simp] theorem State.modWrl_blobs (s : State) (n : Nat) (f : Wrl → Wrl) : (s.modWrl n f).blobs = s.blobs := rfl
@[simp] theorem State.modWrl_platform (s : State) (n : Nat) (f : Wrl → Wrl) : (s.modWrl n f).platform = s.platform := rfl
@[simp] theorem State.modWrl_keys (s : State) (n : Nat) (f : Wrl → Wrl) : (s.modWrl n f).keys = s.keys := rfl
@[simp] theorem State.modWrl_faults (s : State) (n : Nat) (f : Wrl → Wrl) : (s.modWrl n f).faults = s.faults := rfl
@[simp] theorem State.modWrl_shelf (s : State) (n : Nat) (f : Wrl → Wrl) : (s.modWrl n f).shelf = s.shelf := rfl
@[simp] theorem State.modWrl_trunk (s : State) (n : Nat) (f : Wrl → Wrl) : (s.modWrl n f).trunk = s.trunk := rfl
@[simp] theorem State.modWrl_wall (s : State) (n : Nat) (f : Wrl → Wrl) : (s.modWrl n f).wall = s.wall := rfl
@[simp] theorem State.modWrl_mb (s : State) (n : Nat) (f : Wrl → Wrl) : (s.modWrl n f).mb = s.mb := rfl
@[simp] theorem State.modWrl_ports (s : State) (n : Nat) (f : Wrl → Wrl) : (s.modWrl n f).ports = s.ports := rfl
@[simp] theorem State.modWrl_sub (s : State) (n : Nat) (f : Wrl → Wrl) : (s.modWrl n f).sub = s.sub := rfl
@[simp] theorem State.modWrl_cmds (s : State) (n : Nat) (f : Wrl → Wrl) : (s.modWrl n f).cmds = s.cmds := rfl
@[simp] theorem State.modWrl_larder (s : State) (n : Nat) (f : Wrl → Wrl) : (s.modWrl n f).larder = s.larder := rfl
@[simp] theorem State.modWrl_layout (s : State) (n : Nat) (f : Wrl → Wrl) : (s.modWrl n f).layout = s.layout := rfl
@[simp] theorem State.modWrl_heads (s : State) (n : Nat) (f : Wrl → Wrl) : (s.modWrl n f).heads = s.heads := rfl
@[simp] theorem State.modWrl_acts (s : State) (n : Nat) (f : Wrl → Wrl) : (s.modWrl n f).acts = s.acts := rfl
@[simp] theorem State.modWrl_pos (s : State) (n : Nat) (f : Wrl → Wrl) : (s.modWrl n f).pos = s.pos := rfl
@[simp] theorem State.modWrl_detect (s : State) (n : Nat) (f : Wrl → Wrl) : (s.modWrl n f).detect = s.detect := rfl
@[simp] theorem State.modWrl_write (s : State) (n : Nat) (f : Wrl → Wrl) : (s.modWrl n f).write = s.write := rfl
@[simp] theorem State.modWrl_rafter (s : State) (n : Nat) (f : Wrl → Wrl) : (s.modWrl n f).rafter = s.rafter := rfl
@[simp] theorem State.modWrl_spindle (s : State) (n : Nat) (f : Wrl → Wrl) : (s.modWrl n f).spindle = s.spindle := rfl
@[simp] theorem State.modWrl_power (s : State) (n : Nat) (f : Wrl → Wrl) : (s.modWrl n f).power = s.power := rfl
@[simp] theorem State.modWrl_fw (s : State) (n : Nat) (f : Wrl → Wrl) : (s.modWrl n f).fw = s.fw := rfl
@[simp] theorem State.modWrl_sec (s : State) (n : Nat) (f : Wrl → Wrl) : (s.modWrl n f).sec = s.sec := rfl
@[simp] theorem State.modWrl_dbg (s : State) (n : Nat) (f : Wrl → Wrl) : (s.modWrl n f).dbg = s.dbg := rfl

/-! ### State.modBus -/

@[simp] theorem State.modBus_tick (s : State) (b : Nat) (f : BusPort → BusPort) : (s.modBus b f).tick = s.tick := rfl
@[simp] theorem State.modBus_freeIx (s : State) (b : Nat) (f : BusPort → BusPort) : (s.modBus b f).freeIx = s.freeIx := rfl
@[simp] theorem State.modBus_pending (s : State) (b : Nat) (f : BusPort → BusPort) : (s.modBus b f).pending = s.pending := rfl
@[simp] theorem State.modBus_outbox (s : State) (b : Nat) (f : BusPort → BusPort) : (s.modBus b f).outbox = s.outbox := rfl
@[simp] theorem State.modBus_objs (s : State) (b : Nat) (f : BusPort → BusPort) : (s.modBus b f).objs = s.objs := rfl
@[simp] theorem State.modBus_blobs (s : State) (b : Nat) (f : BusPort → BusPort) : (s.modBus b f).blobs = s.blobs := rfl
@[simp] theorem State.modBus_platform (s : State) (b : Nat) (f : BusPort → BusPort) : (s.modBus b f).platform = s.platform := rfl
@[simp] theorem State.modBus_keys (s : State) (b : Nat) (f : BusPort → BusPort) : (s.modBus b f).keys = s.keys := rfl
@[simp] theorem State.modBus_faults (s : State) (b : Nat) (f : BusPort → BusPort) : (s.modBus b f).faults = s.faults := rfl
@[simp] theorem State.modBus_shelf (s : State) (b : Nat) (f : BusPort → BusPort) : (s.modBus b f).shelf = s.shelf := rfl
@[simp] theorem State.modBus_trunk (s : State) (b : Nat) (f : BusPort → BusPort) : (s.modBus b f).trunk = s.trunk := rfl
@[simp] theorem State.modBus_wall (s : State) (b : Nat) (f : BusPort → BusPort) : (s.modBus b f).wall = s.wall := rfl
@[simp] theorem State.modBus_ports (s : State) (b : Nat) (f : BusPort → BusPort) : (s.modBus b f).ports = s.ports := rfl
@[simp] theorem State.modBus_sub (s : State) (b : Nat) (f : BusPort → BusPort) : (s.modBus b f).sub = s.sub := rfl
@[simp] theorem State.modBus_cmds (s : State) (b : Nat) (f : BusPort → BusPort) : (s.modBus b f).cmds = s.cmds := rfl
@[simp] theorem State.modBus_larder (s : State) (b : Nat) (f : BusPort → BusPort) : (s.modBus b f).larder = s.larder := rfl
@[simp] theorem State.modBus_layout (s : State) (b : Nat) (f : BusPort → BusPort) : (s.modBus b f).layout = s.layout := rfl
@[simp] theorem State.modBus_links (s : State) (b : Nat) (f : BusPort → BusPort) : (s.modBus b f).links = s.links := rfl
@[simp] theorem State.modBus_heads (s : State) (b : Nat) (f : BusPort → BusPort) : (s.modBus b f).heads = s.heads := rfl
@[simp] theorem State.modBus_acts (s : State) (b : Nat) (f : BusPort → BusPort) : (s.modBus b f).acts = s.acts := rfl
@[simp] theorem State.modBus_pos (s : State) (b : Nat) (f : BusPort → BusPort) : (s.modBus b f).pos = s.pos := rfl
@[simp] theorem State.modBus_detect (s : State) (b : Nat) (f : BusPort → BusPort) : (s.modBus b f).detect = s.detect := rfl
@[simp] theorem State.modBus_write (s : State) (b : Nat) (f : BusPort → BusPort) : (s.modBus b f).write = s.write := rfl
@[simp] theorem State.modBus_rafter (s : State) (b : Nat) (f : BusPort → BusPort) : (s.modBus b f).rafter = s.rafter := rfl
@[simp] theorem State.modBus_spindle (s : State) (b : Nat) (f : BusPort → BusPort) : (s.modBus b f).spindle = s.spindle := rfl
@[simp] theorem State.modBus_power (s : State) (b : Nat) (f : BusPort → BusPort) : (s.modBus b f).power = s.power := rfl
@[simp] theorem State.modBus_fw (s : State) (b : Nat) (f : BusPort → BusPort) : (s.modBus b f).fw = s.fw := rfl
@[simp] theorem State.modBus_sec (s : State) (b : Nat) (f : BusPort → BusPort) : (s.modBus b f).sec = s.sec := rfl
@[simp] theorem State.modBus_dbg (s : State) (b : Nat) (f : BusPort → BusPort) : (s.modBus b f).dbg = s.dbg := rfl

/-! ### State.modFwSlot -/

@[simp] theorem State.modFwSlot_tick (s : State) (n : Nat) (f : FwSlot → FwSlot) : (s.modFwSlot n f).tick = s.tick := rfl
@[simp] theorem State.modFwSlot_freeIx (s : State) (n : Nat) (f : FwSlot → FwSlot) : (s.modFwSlot n f).freeIx = s.freeIx := rfl
@[simp] theorem State.modFwSlot_pending (s : State) (n : Nat) (f : FwSlot → FwSlot) : (s.modFwSlot n f).pending = s.pending := rfl
@[simp] theorem State.modFwSlot_outbox (s : State) (n : Nat) (f : FwSlot → FwSlot) : (s.modFwSlot n f).outbox = s.outbox := rfl
@[simp] theorem State.modFwSlot_objs (s : State) (n : Nat) (f : FwSlot → FwSlot) : (s.modFwSlot n f).objs = s.objs := rfl
@[simp] theorem State.modFwSlot_blobs (s : State) (n : Nat) (f : FwSlot → FwSlot) : (s.modFwSlot n f).blobs = s.blobs := rfl
@[simp] theorem State.modFwSlot_platform (s : State) (n : Nat) (f : FwSlot → FwSlot) : (s.modFwSlot n f).platform = s.platform := rfl
@[simp] theorem State.modFwSlot_keys (s : State) (n : Nat) (f : FwSlot → FwSlot) : (s.modFwSlot n f).keys = s.keys := rfl
@[simp] theorem State.modFwSlot_faults (s : State) (n : Nat) (f : FwSlot → FwSlot) : (s.modFwSlot n f).faults = s.faults := rfl
@[simp] theorem State.modFwSlot_shelf (s : State) (n : Nat) (f : FwSlot → FwSlot) : (s.modFwSlot n f).shelf = s.shelf := rfl
@[simp] theorem State.modFwSlot_trunk (s : State) (n : Nat) (f : FwSlot → FwSlot) : (s.modFwSlot n f).trunk = s.trunk := rfl
@[simp] theorem State.modFwSlot_wall (s : State) (n : Nat) (f : FwSlot → FwSlot) : (s.modFwSlot n f).wall = s.wall := rfl
@[simp] theorem State.modFwSlot_mb (s : State) (n : Nat) (f : FwSlot → FwSlot) : (s.modFwSlot n f).mb = s.mb := rfl
@[simp] theorem State.modFwSlot_ports (s : State) (n : Nat) (f : FwSlot → FwSlot) : (s.modFwSlot n f).ports = s.ports := rfl
@[simp] theorem State.modFwSlot_sub (s : State) (n : Nat) (f : FwSlot → FwSlot) : (s.modFwSlot n f).sub = s.sub := rfl
@[simp] theorem State.modFwSlot_cmds (s : State) (n : Nat) (f : FwSlot → FwSlot) : (s.modFwSlot n f).cmds = s.cmds := rfl
@[simp] theorem State.modFwSlot_larder (s : State) (n : Nat) (f : FwSlot → FwSlot) : (s.modFwSlot n f).larder = s.larder := rfl
@[simp] theorem State.modFwSlot_layout (s : State) (n : Nat) (f : FwSlot → FwSlot) : (s.modFwSlot n f).layout = s.layout := rfl
@[simp] theorem State.modFwSlot_links (s : State) (n : Nat) (f : FwSlot → FwSlot) : (s.modFwSlot n f).links = s.links := rfl
@[simp] theorem State.modFwSlot_heads (s : State) (n : Nat) (f : FwSlot → FwSlot) : (s.modFwSlot n f).heads = s.heads := rfl
@[simp] theorem State.modFwSlot_acts (s : State) (n : Nat) (f : FwSlot → FwSlot) : (s.modFwSlot n f).acts = s.acts := rfl
@[simp] theorem State.modFwSlot_pos (s : State) (n : Nat) (f : FwSlot → FwSlot) : (s.modFwSlot n f).pos = s.pos := rfl
@[simp] theorem State.modFwSlot_detect (s : State) (n : Nat) (f : FwSlot → FwSlot) : (s.modFwSlot n f).detect = s.detect := rfl
@[simp] theorem State.modFwSlot_write (s : State) (n : Nat) (f : FwSlot → FwSlot) : (s.modFwSlot n f).write = s.write := rfl
@[simp] theorem State.modFwSlot_rafter (s : State) (n : Nat) (f : FwSlot → FwSlot) : (s.modFwSlot n f).rafter = s.rafter := rfl
@[simp] theorem State.modFwSlot_spindle (s : State) (n : Nat) (f : FwSlot → FwSlot) : (s.modFwSlot n f).spindle = s.spindle := rfl
@[simp] theorem State.modFwSlot_power (s : State) (n : Nat) (f : FwSlot → FwSlot) : (s.modFwSlot n f).power = s.power := rfl
@[simp] theorem State.modFwSlot_sec (s : State) (n : Nat) (f : FwSlot → FwSlot) : (s.modFwSlot n f).sec = s.sec := rfl
@[simp] theorem State.modFwSlot_dbg (s : State) (n : Nat) (f : FwSlot → FwSlot) : (s.modFwSlot n f).dbg = s.dbg := rfl

/-! ### State.modSpindle -/

@[simp] theorem State.modSpindle_tick (s : State) (f : Spindle → Spindle) : (s.modSpindle f).tick = s.tick := rfl
@[simp] theorem State.modSpindle_freeIx (s : State) (f : Spindle → Spindle) : (s.modSpindle f).freeIx = s.freeIx := rfl
@[simp] theorem State.modSpindle_pending (s : State) (f : Spindle → Spindle) : (s.modSpindle f).pending = s.pending := rfl
@[simp] theorem State.modSpindle_outbox (s : State) (f : Spindle → Spindle) : (s.modSpindle f).outbox = s.outbox := rfl
@[simp] theorem State.modSpindle_objs (s : State) (f : Spindle → Spindle) : (s.modSpindle f).objs = s.objs := rfl
@[simp] theorem State.modSpindle_blobs (s : State) (f : Spindle → Spindle) : (s.modSpindle f).blobs = s.blobs := rfl
@[simp] theorem State.modSpindle_platform (s : State) (f : Spindle → Spindle) : (s.modSpindle f).platform = s.platform := rfl
@[simp] theorem State.modSpindle_keys (s : State) (f : Spindle → Spindle) : (s.modSpindle f).keys = s.keys := rfl
@[simp] theorem State.modSpindle_faults (s : State) (f : Spindle → Spindle) : (s.modSpindle f).faults = s.faults := rfl
@[simp] theorem State.modSpindle_shelf (s : State) (f : Spindle → Spindle) : (s.modSpindle f).shelf = s.shelf := rfl
@[simp] theorem State.modSpindle_trunk (s : State) (f : Spindle → Spindle) : (s.modSpindle f).trunk = s.trunk := rfl
@[simp] theorem State.modSpindle_wall (s : State) (f : Spindle → Spindle) : (s.modSpindle f).wall = s.wall := rfl
@[simp] theorem State.modSpindle_mb (s : State) (f : Spindle → Spindle) : (s.modSpindle f).mb = s.mb := rfl
@[simp] theorem State.modSpindle_ports (s : State) (f : Spindle → Spindle) : (s.modSpindle f).ports = s.ports := rfl
@[simp] theorem State.modSpindle_sub (s : State) (f : Spindle → Spindle) : (s.modSpindle f).sub = s.sub := rfl
@[simp] theorem State.modSpindle_cmds (s : State) (f : Spindle → Spindle) : (s.modSpindle f).cmds = s.cmds := rfl
@[simp] theorem State.modSpindle_larder (s : State) (f : Spindle → Spindle) : (s.modSpindle f).larder = s.larder := rfl
@[simp] theorem State.modSpindle_layout (s : State) (f : Spindle → Spindle) : (s.modSpindle f).layout = s.layout := rfl
@[simp] theorem State.modSpindle_links (s : State) (f : Spindle → Spindle) : (s.modSpindle f).links = s.links := rfl
@[simp] theorem State.modSpindle_heads (s : State) (f : Spindle → Spindle) : (s.modSpindle f).heads = s.heads := rfl
@[simp] theorem State.modSpindle_acts (s : State) (f : Spindle → Spindle) : (s.modSpindle f).acts = s.acts := rfl
@[simp] theorem State.modSpindle_pos (s : State) (f : Spindle → Spindle) : (s.modSpindle f).pos = s.pos := rfl
@[simp] theorem State.modSpindle_detect (s : State) (f : Spindle → Spindle) : (s.modSpindle f).detect = s.detect := rfl
@[simp] theorem State.modSpindle_write (s : State) (f : Spindle → Spindle) : (s.modSpindle f).write = s.write := rfl
@[simp] theorem State.modSpindle_rafter (s : State) (f : Spindle → Spindle) : (s.modSpindle f).rafter = s.rafter := rfl
@[simp] theorem State.modSpindle_spindle (s : State) (f : Spindle → Spindle) : (s.modSpindle f).spindle = f s.spindle := rfl
@[simp] theorem State.modSpindle_power (s : State) (f : Spindle → Spindle) : (s.modSpindle f).power = s.power := rfl
@[simp] theorem State.modSpindle_fw (s : State) (f : Spindle → Spindle) : (s.modSpindle f).fw = s.fw := rfl
@[simp] theorem State.modSpindle_sec (s : State) (f : Spindle → Spindle) : (s.modSpindle f).sec = s.sec := rfl
@[simp] theorem State.modSpindle_dbg (s : State) (f : Spindle → Spindle) : (s.modSpindle f).dbg = s.dbg := rfl

/-! ### State.modFaults -/

@[simp] theorem State.modFaults_tick (s : State) (f : Faults → Faults) : (s.modFaults f).tick = s.tick := rfl
@[simp] theorem State.modFaults_freeIx (s : State) (f : Faults → Faults) : (s.modFaults f).freeIx = s.freeIx := rfl
@[simp] theorem State.modFaults_pending (s : State) (f : Faults → Faults) : (s.modFaults f).pending = s.pending := rfl
@[simp] theorem State.modFaults_outbox (s : State) (f : Faults → Faults) : (s.modFaults f).outbox = s.outbox := rfl
@[simp] theorem State.modFaults_objs (s : State) (f : Faults → Faults) : (s.modFaults f).objs = s.objs := rfl
@[simp] theorem State.modFaults_blobs (s : State) (f : Faults → Faults) : (s.modFaults f).blobs = s.blobs := rfl
@[simp] theorem State.modFaults_platform (s : State) (f : Faults → Faults) : (s.modFaults f).platform = s.platform := rfl
@[simp] theorem State.modFaults_keys (s : State) (f : Faults → Faults) : (s.modFaults f).keys = s.keys := rfl
@[simp] theorem State.modFaults_faults (s : State) (f : Faults → Faults) : (s.modFaults f).faults = f s.faults := rfl
@[simp] theorem State.modFaults_shelf (s : State) (f : Faults → Faults) : (s.modFaults f).shelf = s.shelf := rfl
@[simp] theorem State.modFaults_trunk (s : State) (f : Faults → Faults) : (s.modFaults f).trunk = s.trunk := rfl
@[simp] theorem State.modFaults_wall (s : State) (f : Faults → Faults) : (s.modFaults f).wall = s.wall := rfl
@[simp] theorem State.modFaults_mb (s : State) (f : Faults → Faults) : (s.modFaults f).mb = s.mb := rfl
@[simp] theorem State.modFaults_ports (s : State) (f : Faults → Faults) : (s.modFaults f).ports = s.ports := rfl
@[simp] theorem State.modFaults_sub (s : State) (f : Faults → Faults) : (s.modFaults f).sub = s.sub := rfl
@[simp] theorem State.modFaults_cmds (s : State) (f : Faults → Faults) : (s.modFaults f).cmds = s.cmds := rfl
@[simp] theorem State.modFaults_larder (s : State) (f : Faults → Faults) : (s.modFaults f).larder = s.larder := rfl
@[simp] theorem State.modFaults_layout (s : State) (f : Faults → Faults) : (s.modFaults f).layout = s.layout := rfl
@[simp] theorem State.modFaults_links (s : State) (f : Faults → Faults) : (s.modFaults f).links = s.links := rfl
@[simp] theorem State.modFaults_heads (s : State) (f : Faults → Faults) : (s.modFaults f).heads = s.heads := rfl
@[simp] theorem State.modFaults_acts (s : State) (f : Faults → Faults) : (s.modFaults f).acts = s.acts := rfl
@[simp] theorem State.modFaults_pos (s : State) (f : Faults → Faults) : (s.modFaults f).pos = s.pos := rfl
@[simp] theorem State.modFaults_detect (s : State) (f : Faults → Faults) : (s.modFaults f).detect = s.detect := rfl
@[simp] theorem State.modFaults_write (s : State) (f : Faults → Faults) : (s.modFaults f).write = s.write := rfl
@[simp] theorem State.modFaults_rafter (s : State) (f : Faults → Faults) : (s.modFaults f).rafter = s.rafter := rfl
@[simp] theorem State.modFaults_spindle (s : State) (f : Faults → Faults) : (s.modFaults f).spindle = s.spindle := rfl
@[simp] theorem State.modFaults_power (s : State) (f : Faults → Faults) : (s.modFaults f).power = s.power := rfl
@[simp] theorem State.modFaults_fw (s : State) (f : Faults → Faults) : (s.modFaults f).fw = s.fw := rfl
@[simp] theorem State.modFaults_sec (s : State) (f : Faults → Faults) : (s.modFaults f).sec = s.sec := rfl
@[simp] theorem State.modFaults_dbg (s : State) (f : Faults → Faults) : (s.modFaults f).dbg = s.dbg := rfl

/-! ### State.modMb -/

@[simp] theorem State.modMb_tick (s : State) (f : MgmtBus → MgmtBus) : (s.modMb f).tick = s.tick := rfl
@[simp] theorem State.modMb_freeIx (s : State) (f : MgmtBus → MgmtBus) : (s.modMb f).freeIx = s.freeIx := rfl
@[simp] theorem State.modMb_pending (s : State) (f : MgmtBus → MgmtBus) : (s.modMb f).pending = s.pending := rfl
@[simp] theorem State.modMb_outbox (s : State) (f : MgmtBus → MgmtBus) : (s.modMb f).outbox = s.outbox := rfl
@[simp] theorem State.modMb_objs (s : State) (f : MgmtBus → MgmtBus) : (s.modMb f).objs = s.objs := rfl
@[simp] theorem State.modMb_blobs (s : State) (f : MgmtBus → MgmtBus) : (s.modMb f).blobs = s.blobs := rfl
@[simp] theorem State.modMb_platform (s : State) (f : MgmtBus → MgmtBus) : (s.modMb f).platform = s.platform := rfl
@[simp] theorem State.modMb_keys (s : State) (f : MgmtBus → MgmtBus) : (s.modMb f).keys = s.keys := rfl
@[simp] theorem State.modMb_faults (s : State) (f : MgmtBus → MgmtBus) : (s.modMb f).faults = s.faults := rfl
@[simp] theorem State.modMb_shelf (s : State) (f : MgmtBus → MgmtBus) : (s.modMb f).shelf = s.shelf := rfl
@[simp] theorem State.modMb_trunk (s : State) (f : MgmtBus → MgmtBus) : (s.modMb f).trunk = s.trunk := rfl
@[simp] theorem State.modMb_wall (s : State) (f : MgmtBus → MgmtBus) : (s.modMb f).wall = s.wall := rfl
@[simp] theorem State.modMb_mb (s : State) (f : MgmtBus → MgmtBus) : (s.modMb f).mb = f s.mb := rfl
@[simp] theorem State.modMb_ports (s : State) (f : MgmtBus → MgmtBus) : (s.modMb f).ports = s.ports := rfl
@[simp] theorem State.modMb_sub (s : State) (f : MgmtBus → MgmtBus) : (s.modMb f).sub = s.sub := rfl
@[simp] theorem State.modMb_cmds (s : State) (f : MgmtBus → MgmtBus) : (s.modMb f).cmds = s.cmds := rfl
@[simp] theorem State.modMb_larder (s : State) (f : MgmtBus → MgmtBus) : (s.modMb f).larder = s.larder := rfl
@[simp] theorem State.modMb_layout (s : State) (f : MgmtBus → MgmtBus) : (s.modMb f).layout = s.layout := rfl
@[simp] theorem State.modMb_links (s : State) (f : MgmtBus → MgmtBus) : (s.modMb f).links = s.links := rfl
@[simp] theorem State.modMb_heads (s : State) (f : MgmtBus → MgmtBus) : (s.modMb f).heads = s.heads := rfl
@[simp] theorem State.modMb_acts (s : State) (f : MgmtBus → MgmtBus) : (s.modMb f).acts = s.acts := rfl
@[simp] theorem State.modMb_pos (s : State) (f : MgmtBus → MgmtBus) : (s.modMb f).pos = s.pos := rfl
@[simp] theorem State.modMb_detect (s : State) (f : MgmtBus → MgmtBus) : (s.modMb f).detect = s.detect := rfl
@[simp] theorem State.modMb_write (s : State) (f : MgmtBus → MgmtBus) : (s.modMb f).write = s.write := rfl
@[simp] theorem State.modMb_rafter (s : State) (f : MgmtBus → MgmtBus) : (s.modMb f).rafter = s.rafter := rfl
@[simp] theorem State.modMb_spindle (s : State) (f : MgmtBus → MgmtBus) : (s.modMb f).spindle = s.spindle := rfl
@[simp] theorem State.modMb_power (s : State) (f : MgmtBus → MgmtBus) : (s.modMb f).power = s.power := rfl
@[simp] theorem State.modMb_fw (s : State) (f : MgmtBus → MgmtBus) : (s.modMb f).fw = s.fw := rfl
@[simp] theorem State.modMb_sec (s : State) (f : MgmtBus → MgmtBus) : (s.modMb f).sec = s.sec := rfl
@[simp] theorem State.modMb_dbg (s : State) (f : MgmtBus → MgmtBus) : (s.modMb f).dbg = s.dbg := rfl

/-! ### State.modFw -/

@[simp] theorem State.modFw_tick (s : State) (f : Firmware → Firmware) : (s.modFw f).tick = s.tick := rfl
@[simp] theorem State.modFw_freeIx (s : State) (f : Firmware → Firmware) : (s.modFw f).freeIx = s.freeIx := rfl
@[simp] theorem State.modFw_pending (s : State) (f : Firmware → Firmware) : (s.modFw f).pending = s.pending := rfl
@[simp] theorem State.modFw_outbox (s : State) (f : Firmware → Firmware) : (s.modFw f).outbox = s.outbox := rfl
@[simp] theorem State.modFw_objs (s : State) (f : Firmware → Firmware) : (s.modFw f).objs = s.objs := rfl
@[simp] theorem State.modFw_blobs (s : State) (f : Firmware → Firmware) : (s.modFw f).blobs = s.blobs := rfl
@[simp] theorem State.modFw_platform (s : State) (f : Firmware → Firmware) : (s.modFw f).platform = s.platform := rfl
@[simp] theorem State.modFw_keys (s : State) (f : Firmware → Firmware) : (s.modFw f).keys = s.keys := rfl
@[simp] theorem State.modFw_faults (s : State) (f : Firmware → Firmware) : (s.modFw f).faults = s.faults := rfl
@[simp] theorem State.modFw_shelf (s : State) (f : Firmware → Firmware) : (s.modFw f).shelf = s.shelf := rfl
@[simp] theorem State.modFw_trunk (s : State) (f : Firmware → Firmware) : (s.modFw f).trunk = s.trunk := rfl
@[simp] theorem State.modFw_wall (s : State) (f : Firmware → Firmware) : (s.modFw f).wall = s.wall := rfl
@[simp] theorem State.modFw_mb (s : State) (f : Firmware → Firmware) : (s.modFw f).mb = s.mb := rfl
@[simp] theorem State.modFw_ports (s : State) (f : Firmware → Firmware) : (s.modFw f).ports = s.ports := rfl
@[simp] theorem State.modFw_sub (s : State) (f : Firmware → Firmware) : (s.modFw f).sub = s.sub := rfl
@[simp] theorem State.modFw_cmds (s : State) (f : Firmware → Firmware) : (s.modFw f).cmds = s.cmds := rfl
@[simp] theorem State.modFw_larder (s : State) (f : Firmware → Firmware) : (s.modFw f).larder = s.larder := rfl
@[simp] theorem State.modFw_layout (s : State) (f : Firmware → Firmware) : (s.modFw f).layout = s.layout := rfl
@[simp] theorem State.modFw_links (s : State) (f : Firmware → Firmware) : (s.modFw f).links = s.links := rfl
@[simp] theorem State.modFw_heads (s : State) (f : Firmware → Firmware) : (s.modFw f).heads = s.heads := rfl
@[simp] theorem State.modFw_acts (s : State) (f : Firmware → Firmware) : (s.modFw f).acts = s.acts := rfl
@[simp] theorem State.modFw_pos (s : State) (f : Firmware → Firmware) : (s.modFw f).pos = s.pos := rfl
@[simp] theorem State.modFw_detect (s : State) (f : Firmware → Firmware) : (s.modFw f).detect = s.detect := rfl
@[simp] theorem State.modFw_write (s : State) (f : Firmware → Firmware) : (s.modFw f).write = s.write := rfl
@[simp] theorem State.modFw_rafter (s : State) (f : Firmware → Firmware) : (s.modFw f).rafter = s.rafter := rfl
@[simp] theorem State.modFw_spindle (s : State) (f : Firmware → Firmware) : (s.modFw f).spindle = s.spindle := rfl
@[simp] theorem State.modFw_power (s : State) (f : Firmware → Firmware) : (s.modFw f).power = s.power := rfl
@[simp] theorem State.modFw_fw (s : State) (f : Firmware → Firmware) : (s.modFw f).fw = f s.fw := rfl
@[simp] theorem State.modFw_sec (s : State) (f : Firmware → Firmware) : (s.modFw f).sec = s.sec := rfl
@[simp] theorem State.modFw_dbg (s : State) (f : Firmware → Firmware) : (s.modFw f).dbg = s.dbg := rfl

end Sys2Proof.Machine
end

