-- ==== Sys2Proof/Laws/Ops.lean ====
section
/-! SUPPORT. What the shared operations answer, said once: a fetch, an admin command, a dictionary write, a free value. -/

namespace Sys2Proof.Machine

/-- A fetch that succeeds takes its queue's entry and changes nothing else: the context is counted with its command. -/
theorem State.fetch_eq {s : State} {p q : Nat} (h : (s.fetch p q).1 = true) : s.fetch p q = (true, s.modPort p (Port.advance q)) := by
  have hr : ∀ io, (s.roomFor p io).1 = true → s.roomFor p io = (true, s) := by
    intro io h
    unfold State.roomFor at h ⊢
    split_ifs at h ⊢
    simp_all
  unfold State.fetch at h ⊢
  split_ifs at h ⊢ with ho
  have h' : (s.roomFor p (decide (q ≠ 0))).1 = true := by simpa using h
  rw [hr _ h']
  rfl

/-- A fetched admin command answers with what its body gives on the state the fetch leaves. -/
theorem State.admin_fetched {s : State} {p i : Nat} {body : State → (Nat × Nat × Nat) × State} (h : (s.fetch p 0).1 = true) :
    s.admin p i body = (body (s.modPort p (Port.advance 0))).2.answer p 0 i (body (s.modPort p (Port.advance 0))).1.1
      (body (s.modPort p (Port.advance 0))).1.2.1 (body (s.modPort p (Port.advance 0))).1.2.2 := by
  unfold State.admin
  rw [State.fetch_eq h]
  rfl

/-- An admin command that is not fetched leaves what the fetch leaves. -/
theorem State.admin_unfetched {s : State} {p i : Nat} {body : State → (Nat × Nat × Nat) × State} (h : (s.fetch p 0).1 = false) :
    s.admin p i body = (s.fetch p 0).2 := by
  simp [State.admin, h]

/-- A fetched I/O command that no check refuses has its body's effect on the state with its queue entry taken and, where it uses the
media, the sleep timers restarted. -/
theorem State.ioFetch_runs {s : State} {p q i : Nat} {k : CmdKind} {nsid slba count : Nat} {body : State → State}
    (h : (s.fetch p q).1 = true) (hr : (s.modPort p (Port.advance q)).ioRefusal k nsid slba count = none) :
    s.ioFetch p q i k nsid slba count body =
      body (if k.media then (s.modPort p (Port.advance q)).ioWake else s.modPort p (Port.advance q)) := by
  unfold State.ioFetch
  rw [State.fetch_eq h]
  simp only [not_true, if_false, hr]

/-- A fetched I/O command that a check refuses is answered with that status. -/
theorem State.ioFetch_refused {s : State} {p q i : Nat} {k : CmdKind} {nsid slba count sct sc : Nat} {body : State → State}
    (h : (s.fetch p q).1 = true) (hr : (s.modPort p (Port.advance q)).ioRefusal k nsid slba count = some (sct, sc)) :
    s.ioFetch p q i k nsid slba count body = (s.modPort p (Port.advance q)).answer p q i sct sc 0 := by
  unfold State.ioFetch
  rw [State.fetch_eq h]
  simp only [not_true, if_false, hr]

/-- A successful completion goes to the outbox and changes nothing else. -/
theorem State.answer_done (s : State) (p q i dw0 : Nat) :
    s.answer p q i 0 0 dw0 = s.emit (.completion p q i 0 0 (dnrOf 0 0) dw0) := by
  simp [State.answer]

/-- A dictionary write that a check refuses sends the refusal's code and changes nothing else. -/
theorem State.writeVia_refused {s : State} {r : Requester} {k : Nat} {d : ObjData} {op : State → Except DictRefusal State} {x : DictRefusal}
    (h : s.checkPut r k d = some x) : s.writeVia r k d op = s.emit (.dict r.code (x.code r)) := by
  simp [State.writeVia, h]

/-- An accepted dictionary write has its action's effect and answers 0. -/
theorem State.writeVia_ok {s t : State} {r : Requester} {k : Nat} {d : ObjData} {op : State → Except DictRefusal State}
    (h : s.checkPut r k d = none) (ho : op s = .ok t) : s.writeVia r k d op = t.emit (.dict r.code 0) := by
  simp [State.writeVia, h, ho]

/-- A dictionary write whose action refuses it sends that refusal's code and changes nothing else. -/
theorem State.writeVia_error {s : State} {r : Requester} {k : Nat} {d : ObjData} {op : State → Except DictRefusal State} {x : DictRefusal}
    (h : s.checkPut r k d = none) (ho : op s = .error x) : s.writeVia r k d op = s.emit (.dict r.code (x.code r)) := by
  simp [State.writeVia, h, ho]

/-- A write of any object that a check refuses sends the refusal's code and changes nothing else. -/
theorem State.putObject_refused {s : State} {r : Requester} {k : Nat} {d : ObjData} {x : DictRefusal} (h : s.checkPut r k d = some x) :
    s.putObject r k d = s.emit (.dict r.code (x.code r)) := by
  simp [State.putObject, h]

end Sys2Proof.Machine
end

