-- ==== Sys2Proof/WellFormed.lean ====
section
/-! DEFINITION. Which commands are well formed: every operand that names a unit, a port or a record of fixed
number lies in the range the largest variant has (R1, R7, R467, R419). A unit that the part in hand lacks is the
meanings' own check (R2). -/

namespace Sys2Proof

/-- Every unit number of the command lies in the range R7 and the owning chapter give that kind of unit. -/
def Instr.wellFormed (i : Instr) : Bool :=
  match i with
  | .powerUpReset _ _ => true
  | .startupStepEnd _ => true
  | .mediaReady => true
  | .supplyDip _ _ _ => true
  | .vddCoreStartTimeout => true
  | .refclkStop _ => true
  | .powerLossDetected _ _ => true
  | .powerLossRecordAppend => true
  | .holdUpEnergyUpdate _ => true
  | .faultReset => true
  | .nssrSubsystemReset port _ => decide (port < 2)
  | .controllerEnableClear port => decide (port < 2)
  | .controllerEnableSet port _ _ => decide (port < 2)
  | .functionLevelReset port => decide (port < 2)
  | .hotResetOrLinkDown port _ => decide (port < 2)
  | .perstAssert port => decide (port < 2)
  | .perstDeassert port => decide (port < 2)
  | .controllerResetDrainEnd port => decide (port < 2)
  | .shutdownNotification port _ => decide (port < 2)
  | .shutdownComplete port => decide (port < 2)
  | .doorbellWrite port qid _ => decide (port < 2) && decide (qid < 129)
  | .contextFreed port => decide (port < 2)
  | .deleteIoSubmissionQueue port _ qid => decide (port < 2) && decide (qid < 129)
  | .createIoSubmissionQueue port _ qid _ _ _ => decide (port < 2) && decide (qid < 129)
  | .deleteIoCompletionQueue port _ qid => decide (port < 2) && decide (qid < 129)
  | .createIoCompletionQueue port _ qid _ _ _ => decide (port < 2) && decide (qid < 129)
  | .getLogPage port _ _ _ _ _ _ => decide (port < 2)
  | .identifyController port _ => decide (port < 2)
  | .identifyNamespace port _ _ => decide (port < 2)
  | .identifyList port _ _ _ => decide (port < 2)
  | .abort port _ _ _ _ => decide (port < 2)
  | .setFeaturesArbitration port _ _ _ => decide (port < 2)
  | .setFeaturesPowerManagement port _ _ _ => decide (port < 2)
  | .setFeaturesTemperatureThreshold port _ _ _ => decide (port < 2)
  | .setFeaturesErrorRecovery port _ _ _ _ => decide (port < 2)
  | .setFeaturesNumberOfQueues port _ _ _ _ => decide (port < 2)
  | .setFeaturesInterruptCoalescing port _ _ _ => decide (port < 2)
  | .setFeaturesInterruptVectorConfig port _ _ _ => decide (port < 2)
  | .setFeaturesWriteAtomicityNormal port _ _ _ => decide (port < 2)
  | .setFeaturesAsyncEventConfig port _ _ _ => decide (port < 2)
  | .getFeatures port _ _ _ _ _ => decide (port < 2)
  | .asynchronousEventRequest port _ => decide (port < 2)
  | .firmwareImageDownload port _ _ _ => decide (port < 2)
  | .firmwareCommitStage port _ _ _ => decide (port < 2)
  | .firmwareCommitActivate port _ _ => decide (port < 2)
  | .deviceSelfTestShort port _ => decide (port < 2)
  | .deviceSelfTestExtended port _ => decide (port < 2)
  | .deviceSelfTestAbort port _ => decide (port < 2)
  | .selfTestComplete _ _ _ => true
  | .formatNvm port _ _ _ _ => decide (port < 2)
  | .formatNvmComplete _ _ _ => true
  | .sanitize port _ _ _ => decide (port < 2)
  | .sanitizeComplete _ => true
  | .securitySend port _ _ _ _ _ _ _ => decide (port < 2)
  | .securityReceive port _ _ => decide (port < 2)
  | .dictionaryGet port _ _ _ _ => decide (port < 2)
  | .dictionaryPut port _ _ _ _ => decide (port < 2)
  | .objectWrite _ _ _ => true
  | .read port qid _ nsid _ _ _ _ => decide (port < 2) && decide (qid < 129) && decide (nsid < 5)
  | .write port qid _ nsid _ _ _ => decide (port < 2) && decide (qid < 129) && decide (nsid < 5)
  | .writeZeroes port qid _ nsid _ _ => decide (port < 2) && decide (qid < 129) && decide (nsid < 5)
  | .verify port qid _ nsid _ _ _ => decide (port < 2) && decide (qid < 129) && decide (nsid < 5)
  | .flush port qid _ nsid => decide (port < 2) && decide (qid < 129) && decide (nsid < 5)
  | .datasetManagement port qid _ nsid _ => decide (port < 2) && decide (qid < 129) && decide (nsid < 5)
  | .rangeLockGranted port qid _ => decide (port < 2) && decide (qid < 129)
  | .mediaOpIssue port qid _ => decide (port < 2) && decide (qid < 129)
  | .hostCommandDeadline port qid _ => decide (port < 2) && decide (qid < 129)
  | .readAheadFill nsid _ => decide (nsid < 5)
  | .mergeBufferFreed => true
  | .mergeWindowExpiry nsid _ => decide (nsid < 5)
  | .cellarSlotPlace port qid _ _ => decide (port < 2) && decide (qid < 129)
  | .restockChunk nsid _ => decide (nsid < 5)
  | .watermarkAppend act => decide (act < 4)
  | .activationDrainEnd => true
  | .activationDrainTimeout => true
  | .sectorFramed stream _ _ => decide (stream < 48)
  | .decoderTurnEnd decoder _ => decide (decoder < 64)
  | .deferredDecode stream _ => decide (stream < 48)
  | .decoderSelfTest _ => true
  | .ladderExtendedDecode _ _ => true
  | .ladderCountFramedReread _ _ => true
  | .ladderAveragingPass _ _ => true
  | .ladderOffsetRead _ _ => true
  | .ladderHeaterStep _ _ => true
  | .ladderTimeLimit _ => true
  | .clockWaitLimit _ => true
  | .captureSlotFreed => true
  | .sectorRefresh nsid _ => decide (nsid < 5)
  | .writeBurstOpen head nsid _ => decide (head < 24) && decide (nsid < 5)
  | .writeBurstEnd head => decide (head < 24)
  | .writeRetryLimitReached head nsid _ => decide (head < 24) && decide (nsid < 5)
  | .chunkFillRead head nsid _ => decide (head < 24) && decide (nsid < 5)
  | .ledgerLearnRead nsid _ => decide (nsid < 5)
  | .ledgerAudit nsid _ => decide (nsid < 5)
  | .ledgerFlush => true
  | .verifyReadback head nsid _ => decide (head < 24) && decide (nsid < 5)
  | .adjacentCheckRead head _ => decide (head < 24)
  | .laneRemapCopy surface zone _ => decide (surface < 24) && decide (zone < 64)
  | .laneRemapCommit surface zone _ _ => decide (surface < 24) && decide (zone < 64)
  | .positionSample head sub => decide (head < 24) && decide (sub < 120)
  | .seekRequest act zone _ _ => decide (act < 4) && decide (zone < 64)
  | .handOver act sub => decide (act < 4) && decide (sub < 120)
  | .stripeCrossing head _ _ => decide (head < 24)
  | .laneCheckRead head => decide (head < 24)
  | .laneUncertain act => decide (act < 4)
  | .actuatorLoad act _ _ => decide (act < 4)
  | .loadTimeout act => decide (act < 4)
  | .actuatorUnload act => decide (act < 4)
  | .safeParkTimeEnd act => decide (act < 4)
  | .sensorTransaction sensor _ => decide (sensor < 2)
  | .shockHoldExpiry => true
  | .shockReloadDelay => true
  | .sensorRetry sensor _ => decide (sensor < 2)
  | .lenderAssign head => decide (head < 24)
  | .headHold head => decide (head < 24)
  | .readOnlyEnd head => decide (head < 24)
  | .rroLearnUpdate head coefWord => decide (head < 24) && decide (coefWord < 256)
  | .loopIdentificationEnd slot _ _ _ _ => decide (slot < 37)
  | .heaterCalibration head => decide (head < 24)
  | .calibrationCheckEnd head => decide (head < 24)
  | .loopIdRequest _ slot => decide (slot < 37)
  | .indexFieldDetected head => decide (head < 24)
  | .acquisitionTimeout head => decide (head < 24)
  | .eqAdaptBlock stream => decide (stream < 48)
  | .detectorBankSwap head _ => decide (head < 24)
  | .detectorSetsSave => true
  | .eqIdleCalibrationRead stream => decide (stream < 48)
  | .paceIntervalEnd => true
  | .narrowServiceStart head => decide (head < 24)
  | .narrowServiceEnd head => decide (head < 24)
  | .deferralExit stream => decide (stream < 48)
  | .streamAdmissionRecompute _ => true
  | .admissionTakeEffect act => decide (act < 4)
  | .pclStatusFrame pcl _ => decide (pcl < 8)
  | .pclWriteAck pcl _ => decide (pcl < 8)
  | .pclReadData pcl _ => decide (pcl < 8)
  | .pclNak pcl _ => decide (pcl < 8)
  | .registerAccessTimeout pcl _ => decide (pcl < 8)
  | .pclUpstreamLost pcl => decide (pcl < 8)
  | .rslDataBlock link lane _ _ _ => decide (link < 72) && decide (lane < 2)
  | .rslAlignmentMarker link _ _ _ => decide (link < 72)
  | .linkTrainingEnd _ _ _ _ _ _ _ => true
  | .linkTrainingDeadline _ _ => true
  | .failedLinkRetry _ _ => true
  | .chipWarningClear pcl => decide (pcl < 8)
  | .preampAccessRead _ => true
  | .preampAccessWrite _ => true
  | .linkCounterClear _ => true
  | .loopSampleBoundary slot sub => decide (slot < 37) && decide (sub < 120)
  | .loopSampleDeadline slot sub => decide (slot < 37) && decide (sub < 120)
  | .outputApplication slot sub => decide (slot < 37) && decide (sub < 120)
  | .vcmMeasFrame act _ => decide (act < 4)
  | .commutationAngleUpdate sub => decide (sub < 120)
  | .mcNop slot => decide (slot < 37)
  | .mcIn slot dst imm shift _ _ => decide (slot < 37) && decide (dst < 64) && decide (imm < 4096) && decide (-8 ≤ shift) && decide (shift ≤ 7)
  | .mcOut slot srcA imm => decide (slot < 37) && decide (srcA < 64) && decide (imm < 4096)
  | .mcMov slot dst srcA shift _ _ => decide (slot < 37) && decide (dst < 64) && decide (srcA < 64) && decide (-8 ≤ shift) && decide (shift ≤ 7)
  | .mcAdd slot dst srcA srcB shift _ _ => decide (slot < 37) && decide (dst < 64) && decide (srcA < 64) && decide (srcB < 64) && decide (-8 ≤ shift) && decide (shift ≤ 7)
  | .mcSub slot dst srcA srcB shift _ _ => decide (slot < 37) && decide (dst < 64) && decide (srcA < 64) && decide (srcB < 64) && decide (-8 ≤ shift) && decide (shift ≤ 7)
  | .mcMul slot dst srcA coefWord shift _ _ => decide (slot < 37) && decide (dst < 64) && decide (srcA < 64) && decide (coefWord < 256) && decide (-8 ≤ shift) && decide (shift ≤ 7)
  | .mcMac slot dst srcA srcB coefWord shift _ _ => decide (slot < 37) && decide (dst < 64) && decide (srcA < 64) && decide (srcB < 64) && decide (coefWord < 256) && decide (-8 ≤ shift) && decide (shift ≤ 7)
  | .mcBiq slot dst srcA coefWord stateBase sections shift _ _ => decide (slot < 37) && decide (dst < 64) && decide (srcA < 64) && decide (coefWord < 256) && decide (stateBase < 64) && decide (sections < 64) && decide (-8 ≤ shift) && decide (shift ≤ 7)
  | .mcSsb slot dst srcA coefWord stateBase imm shift _ _ => decide (slot < 37) && decide (dst < 64) && decide (srcA < 64) && decide (coefWord < 256) && decide (stateBase < 64) && decide (imm < 4096) && decide (-8 ≤ shift) && decide (shift ≤ 7)
  | .mcLim slot dst srcA coefWord shift _ _ => decide (slot < 37) && decide (dst < 64) && decide (srcA < 64) && decide (coefWord < 256) && decide (-8 ≤ shift) && decide (shift ≤ 7)
  | .mcInt slot dst srcA coefWord stateBase shift _ _ => decide (slot < 37) && decide (dst < 64) && decide (srcA < 64) && decide (coefWord < 256) && decide (stateBase < 64) && decide (-8 ≤ shift) && decide (shift ≤ 7)
  | .mcSel slot dst srcA srcB imm shift _ _ => decide (slot < 37) && decide (dst < 64) && decide (srcA < 64) && decide (srcB < 64) && decide (imm < 4096) && decide (-8 ≤ shift) && decide (shift ≤ 7)
  | .mcLut slot dst srcA coefWord sections shift _ _ => decide (slot < 37) && decide (dst < 64) && decide (srcA < 64) && decide (coefWord < 256) && decide (sections < 64) && decide (-8 ≤ shift) && decide (shift ≤ 7)
  | .mcEnds slot sub => decide (slot < 37) && decide (sub < 120)
  | .bankIntegrityCheck sub _ => decide (sub < 120)
  | .coefSwapTakeEffect slot sub => decide (slot < 37) && decide (sub < 120)
  | .microcodeSwap sub => decide (sub < 120)
  | .microcodeHealthWindowEnd sub => decide (sub < 120)
  | .coefClaim _ => true
  | .coefRelease _ => true
  | .coefCopyActive _ => true
  | .coefValueWrite _ _ => true
  | .coefSeal _ => true
  | .inactiveImageWrite _ _ => true
  | .swapRequest _ sub _ => decide (sub < 120)
  | .groupSwapRequest _ sub _ => decide (sub < 120)
  | .rafterStatsClear _ => true
  | .traceArm _ => true
  | .traceTrigger _ => true
  | .traceStop _ => true
  | .spinUpRequest => true
  | .spinUpTokenGrant _ => true
  | .spinUpTokenTimeout => true
  | .spinUpSlotDelayEnd => true
  | .surgeGrant => true
  | .surgeReturn _ _ => true
  | .chopperTestEnd _ => true
  | .listeningEnd => true
  | .rotorAngleResolved _ _ => true
  | .resolveTimeout => true
  | .polarityPulsesEnd _ _ => true
  | .backEmfCrossing phase _ _ sub _ => decide (phase < 3) && decide (sub < 120)
  | .commutationInstant sub _ => decide (sub < 120)
  | .lockedRotorTimeout => true
  | .lockedRotorRetry => true
  | .spinUpTimeLimit => true
  | .speedErrorCheck _ => true
  | .flywheelCyclesEnd => true
  | .coastEnd _ => true
  | .pwmPeriod sub _ _ _ _ => decide (sub < 120)
  | .overcurrentTrip _ => true
  | .busOvervoltageOv2 _ => true
  | .chopperFaultDeclare => true
  | .brakeEndSpeed => true
  | .brakeNoCrossingTimeout => true
  | .spindleRetry _ => true
  | .sineTableRestore _ => true
  | .sineTableWrite _ _ => true
  | .zoneTableRpmChange => true
  | .levelRequestWrite _ level => decide (level < 6)
  | .levelStep => true
  | .avsResponse _ _ => true
  | .avsSettleEnd => true
  | .avsAckTimeout => true
  | .avsRetryDelayEnd => true
  | .avsRestart _ => true
  | .thermalLevelAdjust _ => true
  | .caseTemperatureCritical _ => true
  | .replicaMeasurement level _ => decide (level < 6)
  | .readMarginRecord => true
  | .sleepStateRequestWrite _ _ => true
  | .sleepBlockVote block _ => decide (block < 9)
  | .sleepStateReached => true
  | .sleepPrepareTimeout => true
  | .wakeEvent _ => true
  | .wakeTimerExpiry => true
  | .sleepIdleTimeExpiry => true
  | .faultRaising src _ => decide (src < 384)
  | .faultClear _ _ => true
  | .faultPinRelease _ => true
  | .faultPulseEnd => true
  | .emcySend => true
  | .trapdoorToken _ _ _ => true
  | .injectStart _ => true
  | .injectCancel _ => true
  | .injectionInterval => true
  | .shelfClear _ _ => true
  | .shelfClearToken _ _ => true
  | .wallTimeSet _ _ => true
  | .snapshotListWrite _ _ => true
  | .trunkAppendComplete _ => true
  | .trunkMirrorWrite act => decide (act < 4)
  | .storeParameters _ _ => true
  | .restoreDefaults _ _ => true
  | .keyAcquire _ key => decide (key < 16)
  | .keyRelease _ key => decide (key < 16)
  | .keyLeaseExpiry key => decide (key < 16)
  | .nmtStartRemoteNode bus _ => decide (bus < 2)
  | .nmtStopRemoteNode bus _ => decide (bus < 2)
  | .nmtEnterPreOperational bus _ => decide (bus < 2)
  | .nmtResetNode bus _ => decide (bus < 2)
  | .nmtResetCommunication bus _ => decide (bus < 2)
  | .lssSwitchStateGlobal bus _ => decide (bus < 2)
  | .lssSwitchStateSelective bus _ _ _ _ => decide (bus < 2)
  | .lssConfigureNodeId bus _ => decide (bus < 2)
  | .lssStoreConfiguration bus => decide (bus < 2)
  | .lssInquireIdentity bus _ => decide (bus < 2)
  | .lssInquireNodeId bus => decide (bus < 2)
  | .lssFastscan bus _ _ _ _ => decide (bus < 2)
  | .lssConfigureBitTiming bus => decide (bus < 2)
  | .usdoRequest bus _ _ _ _ _ _ => decide (bus < 2)
  | .usdoTimeout => true
  | .rpdoReceived bus _ _ => decide (bus < 2)
  | .tpdoTransmit _ => true
  | .heartbeatProduce => true
  | .consumerHeartbeatLost bus _ => decide (bus < 2)
  | .timeMessage bus _ => decide (bus < 2)
  | .foreignFrame bus => decide (bus < 2)
  | .arbitrationLost bus => decide (bus < 2)
  | .staleFrameDrop bus _ => decide (bus < 2)
  | .busOff bus => decide (bus < 2)
  | .busOffRecoveryStart bus => decide (bus < 2)
  | .busOffRecovered bus => decide (bus < 2)
  | .duplicateNodeId bus => decide (bus < 2)
  | .busSelect _ _ => true
  | .mbPortRestart _ bus => decide (bus < 2)
  | .larderEnable _ => true
  | .larderDisable _ => true
  | .larderInvalidate _ => true
  | .larderInvalidateComplete => true
  | .narrowEnableWrite _ _ => true
  | .paceIntervalWrite _ _ => true
  | .eqRestore _ => true
  | .outcomeCounterClear _ => true
  | .mapLbaRequest _ _ => true
  | .mapRunEnd => true
  | .crateBlockWrite _ _ => true
  | .stageRequest _ => true
  | .stagingEnd _ => true
  | .activateImmediate _ => true
  | .activateArm _ => true
  | .activateCancel _ => true
  | .activationStepEnd => true
  | .activationStepTimeout _ => true
  | .tbiEdge _ => true
  | .scheduledPulseMissed => true
  | .svnCommit _ _ => true
  | .ownerLockSet _ _ _ => true
  | .ownerLockClear _ _ _ => true
  | .spdmGetVersion transport => decide (transport < 4)
  | .spdmGetCapabilities transport => decide (transport < 4)
  | .spdmNegotiateAlgorithms transport _ => decide (transport < 4)
  | .spdmGetDigests transport => decide (transport < 4)
  | .spdmGetCertificate transport _ _ _ => decide (transport < 4)
  | .spdmChallenge transport _ _ => decide (transport < 4)
  | .spdmGetMeasurements transport _ _ _ => decide (transport < 4)
  | .spdmUnsupportedRequest transport => decide (transport < 4)
  | .setEndpointId port _ _ => decide (port < 2)
  | .getEndpointId port => decide (port < 2)
  | .getMctpVersionSupport port _ => decide (port < 2)
  | .getMessageTypeSupport port => decide (port < 2)
  | .fenceHead _ head => decide (head < 24)
  | .returnHead _ head => decide (head < 24)
  | .returnActuator _ act => decide (act < 4)
  | .returnRunEnd _ _ _ _ => true
  | .jtagBypass => true
  | .jtagIdcode => true
  | .jtagSamplePreload _ _ => true
  | .jtagExtest => true
  | .jtagClamp => true
  | .jtagHighz => true
  | .dbgTokenShift _ _ => true
  | .inputPowerReturn _ => true
  | .spindleStopLimit => true
  | .crwmtExpiry port => decide (port < 2)
  | .busVoltageSample _ _ => true
  | .functionPowerStateChange port _ _ => decide (port < 2)
  | .hostLinkUp port _ _ => decide (port < 2)
  | .errorPassiveChange bus _ _ => decide (bus < 2)
  | .consumerHeartbeatReceived bus _ => decide (bus < 2)
  | .syncMessage bus => decide (bus < 2)
  | .motionLinkError _ => true
  | .controlMemoryEccError _ => true
  | .linkUncorrectableError port => decide (port < 2)
  | .supplyAboveThreshold _ _ _ => true

end Sys2Proof
end

