-- ==== Sys2Proof/Tests/Slice0.lean ====
section
/-! SUPPORT. Tests: the spec's worked examples, commands that are not well formed, and for every statement with hypotheses a
concrete state and operands that meet them. -/

open Sys2Proof Sys2Proof.Machine

/-! ### The spec's worked examples -/

/-- R6: CRC-32C of the nine ASCII digits 123456789 is E306 9283h. -/
theorem test_crc32c_check_value : crc32c [0x31, 0x32, 0x33, 0x34, 0x35, 0x36, 0x37, 0x38, 0x39] = 0xE3069283 := by decide +kernel

/-- The zones Z00 and Z01 of surface 23 in the example "LBA 1,000,000,123 on a VZ-RX2448". -/
def exampleZones : List ZoneEntry :=
  [{ zone := 0, firstLane := 64, laneCount := 12000, cellarLanes := 24, spareLanes := 96, sectorsPerTrack := 1280,
     clockPeriods := 1510416, trackStart := 20000, laneSkew := 615000 },
   { zone := 1, firstLane := 12064, laneCount := 12000, cellarLanes := 0, spareLanes := 96, sectorsPerTrack := 1248,
     clockPeriods := 1473000, trackStart := 40000, laneSkew := 600000 }]

/-- SynthInt and SynthFrac of the example "block fill on H23". -/
theorem test_synth_words :
    exampleZones.map (synthWords 7200) = [(61, 40958), (60, 6449)] := by decide +kernel

/-- A state with all four actuators mapped and the example's tables in force: entry 3 of the spare table of Z01 maps lane offset 4,508. -/
def exampleDrive : State :=
  { State.reset.setNat O.mappedActuators 15 with layout :=
    { tables := [{ surface := 23, entries := exampleZones }]
      spares := [{ surface := 23, zone := 1, entries := [{}, {}, {}, { state := 1, laneOffset := 4508 }] }] } }

/-- Steps 1 to 7 of the example "LBA 1,000,000,123 on a VZ-RX2448". -/
theorem test_map_example :
    exampleDrive.locate 1 1000000123 = some
      { act := 3, dlba := 249989755, stripe := 651014, chunk := 5, inChunk := 59, surface := 23, zone := 1, row := 4508,
        lane := 23971, track := 0, sector := 187, startBit := 33720240, remapped := true } := by decide +kernel

/-- R387: LBA 1,000,000,123 of NSID 1 lies in set 3,239 of the Larder. -/
theorem test_larder_set : larderSet 1 (1000000123 / 16) = 3239 := by decide

/-- The seven cases of the example "window decisions": the frame's offset, and whether it is count-framed or an early mark. -/
theorem test_window_decisions :
    [[(0, 0)], [(1, 2), (0, 9)], [(-3, 1), (0, 4)], [(-3, 2), (0, 7)], [(2, 4), (0, 5)], [(-1, 2), (1, 2), (0, 6)],
      [(-2, 3), (0, 3)]].map (fun w => (frameSector 3 6 true w).map fun x => (x.1, x.2.2.1, x.2.2.2)) =
    [some (0, false, false), some (1, false, false), some (-3, false, true), some (-3, false, false), some (0, true, false),
      some (-1, false, false), some (0, false, false)] := by decide +kernel

/-- A record with a payload of 20 bytes has the length 72 (chapter "Shelf Event Recorder and Trunk Record"). -/
theorem test_trunk_length : recordLength 0x10 [0, 0, 0, 0, 0] = 72 := by decide +kernel

/-- The start of the example "a lease lapses under a claim": MB acquires the Rafter key, HP1 is refused with C1h, and the lease ends
at 30 s. -/
theorem test_lease_begins :
    (match exec (.keyAcquire .mb 2) (State.reset) with
      | .next s => match exec (.keyAcquire .hp1 2) s with
        | .next t => decide ((t.key 2).holder = 3) && decide ((t.key 2).leaseEnd = 30000000) &&
            decide (t.outbox.head? = some (.dict 2 0xC1))
        | _ => false
      | _ => false) = true := by decide +kernel

/-- A command that waits behind another runs in the second step: the queue is first in, first out. -/
theorem test_queue_order :
    (match step { State.reset with pending := [.contextFreed 0, .holdUpEnergyUpdate 0] } with
      | .next s => decide (s.pending = [.holdUpEnergyUpdate 0])
      | _ => false) = true := by decide +kernel

/-! ### Ill-formed commands: one number too large for each operand the checks bound. -/

/-- Every command that names ports is refused with a number out of range. -/
theorem test_ill_formed_ports :
    ([
      .nssrSubsystemReset 2 0,
      .controllerEnableClear 2,
      .controllerEnableSet 2 false 0,
      .functionLevelReset 2,
      .hotResetOrLinkDown 2 false,
      .perstAssert 2,
      .perstDeassert 2,
      .controllerResetDrainEnd 2,
      .shutdownNotification 2 0,
      .shutdownComplete 2,
      .doorbellWrite 2 0 0,
      .contextFreed 2,
      .deleteIoSubmissionQueue 2 0 0,
      .createIoSubmissionQueue 2 0 0 0 0 false,
      .deleteIoCompletionQueue 2 0 0,
      .createIoCompletionQueue 2 0 0 0 0 false,
      .getLogPage 2 0 0 0 false 0 0,
      .identifyController 2 0,
      .identifyNamespace 2 0 0,
      .identifyList 2 0 0 0,
      .abort 2 0 0 0 0,
      .setFeaturesArbitration 2 0 0 false,
      .setFeaturesPowerManagement 2 0 0 false,
      .setFeaturesTemperatureThreshold 2 0 0 false,
      .setFeaturesErrorRecovery 2 0 0 0 false,
      .setFeaturesNumberOfQueues 2 0 0 0 false,
      .setFeaturesInterruptCoalescing 2 0 0 false,
      .setFeaturesInterruptVectorConfig 2 0 0 false,
      .setFeaturesWriteAtomicityNormal 2 0 0 false,
      .setFeaturesAsyncEventConfig 2 0 0 false,
      .getFeatures 2 0 0 0 0 0,
      .asynchronousEventRequest 2 0,
      .firmwareImageDownload 2 0 0 [],
      .firmwareCommitStage 2 0 0 0,
      .firmwareCommitActivate 2 0 0,
      .deviceSelfTestShort 2 0,
      .deviceSelfTestExtended 2 0,
      .deviceSelfTestAbort 2 0,
      .formatNvm 2 0 0 0 0,
      .sanitize 2 0 0 0,
      .securitySend 2 0 0 0 0 0 0 0,
      .securityReceive 2 0 0,
      .dictionaryGet 2 0 0 0 0,
      .dictionaryPut 2 0 0 [] 0,
      .read 2 0 0 0 0 0 false false,
      .write 2 0 0 0 0 0 [],
      .writeZeroes 2 0 0 0 0 0,
      .verify 2 0 0 0 0 0 false,
      .flush 2 0 0 0,
      .datasetManagement 2 0 0 0 [],
      .rangeLockGranted 2 0 0,
      .mediaOpIssue 2 0 0,
      .hostCommandDeadline 2 0 0,
      .cellarSlotPlace 2 0 0 0,
      .setEndpointId 2 0 0,
      .getEndpointId 2,
      .getMctpVersionSupport 2 0,
      .getMessageTypeSupport 2,
      .crwmtExpiry 2,
      .functionPowerStateChange 2 false false,
      .hostLinkUp 2 0 0,
      .linkUncorrectableError 2] : List Instr).all (fun i => !i.wellFormed) = true := by decide

/-- Every command that names queue numbers is refused with a number out of range. -/
theorem test_ill_formed_queue_numbers :
    ([
      .doorbellWrite 0 129 0,
      .deleteIoSubmissionQueue 0 0 129,
      .createIoSubmissionQueue 0 0 129 0 0 false,
      .deleteIoCompletionQueue 0 0 129,
      .createIoCompletionQueue 0 0 129 0 0 false,
      .read 0 129 0 0 0 0 false false,
      .write 0 129 0 0 0 0 [],
      .writeZeroes 0 129 0 0 0 0,
      .verify 0 129 0 0 0 0 false,
      .flush 0 129 0 0,
      .datasetManagement 0 129 0 0 [],
      .rangeLockGranted 0 129 0,
      .mediaOpIssue 0 129 0,
      .hostCommandDeadline 0 129 0,
      .cellarSlotPlace 0 129 0 0] : List Instr).all (fun i => !i.wellFormed) = true := by decide

/-- Every command that names namespaces is refused with a number out of range. -/
theorem test_ill_formed_namespaces :
    ([
      .read 0 0 0 5 0 0 false false,
      .write 0 0 0 5 0 0 [],
      .writeZeroes 0 0 0 5 0 0,
      .verify 0 0 0 5 0 0 false,
      .flush 0 0 0 5,
      .datasetManagement 0 0 0 5 [],
      .readAheadFill 5 0,
      .mergeWindowExpiry 5 0,
      .restockChunk 5 0,
      .sectorRefresh 5 0,
      .writeBurstOpen 0 5 0,
      .writeRetryLimitReached 0 5 0,
      .chunkFillRead 0 5 0,
      .ledgerLearnRead 5 0,
      .ledgerAudit 5 0,
      .verifyReadback 0 5 0] : List Instr).all (fun i => !i.wellFormed) = true := by decide

/-- Every command that names actuators is refused with a number out of range. -/
theorem test_ill_formed_actuators :
    ([
      .watermarkAppend 4,
      .seekRequest 4 0 0 none,
      .handOver 4 0,
      .laneUncertain 4,
      .actuatorLoad 4 [] [],
      .loadTimeout 4,
      .actuatorUnload 4,
      .safeParkTimeEnd 4,
      .admissionTakeEffect 4,
      .vcmMeasFrame 4 none,
      .trunkMirrorWrite 4,
      .returnActuator .mb 4] : List Instr).all (fun i => !i.wellFormed) = true := by decide

/-- Every command that names streams is refused with a number out of range. -/
theorem test_ill_formed_streams :
    ([
      .sectorFramed 48 0 0,
      .deferredDecode 48 0,
      .eqAdaptBlock 48,
      .eqIdleCalibrationRead 48,
      .deferralExit 48] : List Instr).all (fun i => !i.wellFormed) = true := by decide

/-- Every command that names decoders is refused with a number out of range. -/
theorem test_ill_formed_decoders :
    ([
      .decoderTurnEnd 64 0] : List Instr).all (fun i => !i.wellFormed) = true := by decide

/-- Every command that names heads is refused with a number out of range. -/
theorem test_ill_formed_heads :
    ([
      .writeBurstOpen 24 0 0,
      .writeBurstEnd 24,
      .writeRetryLimitReached 24 0 0,
      .chunkFillRead 24 0 0,
      .verifyReadback 24 0 0,
      .adjacentCheckRead 24 0,
      .positionSample 24 0,
      .stripeCrossing 24 false false,
      .laneCheckRead 24,
      .lenderAssign 24,
      .headHold 24,
      .readOnlyEnd 24,
      .rroLearnUpdate 24 0,
      .heaterCalibration 24,
      .calibrationCheckEnd 24,
      .indexFieldDetected 24,
      .acquisitionTimeout 24,
      .detectorBankSwap 24 0,
      .narrowServiceStart 24,
      .narrowServiceEnd 24,
      .fenceHead .mb 24,
      .returnHead .mb 24] : List Instr).all (fun i => !i.wellFormed) = true := by decide

/-- Every command that names surfaces is refused with a number out of range. -/
theorem test_ill_formed_surfaces :
    ([
      .laneRemapCopy 24 0 0,
      .laneRemapCommit 24 0 0 false] : List Instr).all (fun i => !i.wellFormed) = true := by decide

/-- Every command that names zones is refused with a number out of range. -/
theorem test_ill_formed_zones :
    ([
      .laneRemapCopy 0 64 0,
      .laneRemapCommit 0 64 0 false,
      .seekRequest 0 64 0 none] : List Instr).all (fun i => !i.wellFormed) = true := by decide

/-- Every command that names sub-ticks is refused with a number out of range. -/
theorem test_ill_formed_sub_ticks :
    ([
      .positionSample 0 120,
      .handOver 0 120,
      .loopSampleBoundary 0 120,
      .loopSampleDeadline 0 120,
      .outputApplication 0 120,
      .commutationAngleUpdate 120,
      .mcEnds 0 120,
      .bankIntegrityCheck 120 [],
      .coefSwapTakeEffect 0 120,
      .microcodeSwap 120,
      .microcodeHealthWindowEnd 120,
      .swapRequest .mb 120 0,
      .groupSwapRequest .mb 120 0,
      .backEmfCrossing 0 0 0 120 0,
      .commutationInstant 120 0,
      .pwmPeriod 120 0 0 0 0] : List Instr).all (fun i => !i.wellFormed) = true := by decide

/-- Every command that names sensors is refused with a number out of range. -/
theorem test_ill_formed_sensors :
    ([
      .sensorTransaction 2 0,
      .sensorRetry 2 0] : List Instr).all (fun i => !i.wellFormed) = true := by decide

/-- Every command that names coefficient words is refused with a number out of range. -/
theorem test_ill_formed_coefficient_words :
    ([
      .rroLearnUpdate 0 256,
      .mcMul 0 0 0 256 0 false false,
      .mcMac 0 0 0 0 256 0 false false,
      .mcBiq 0 0 0 256 0 0 0 false false,
      .mcSsb 0 0 0 256 0 0 0 false false,
      .mcLim 0 0 0 256 0 false false,
      .mcInt 0 0 0 256 0 0 false false,
      .mcLut 0 0 0 256 0 0 false false] : List Instr).all (fun i => !i.wellFormed) = true := by decide

/-- Every command that names loop slots is refused with a number out of range. -/
theorem test_ill_formed_loop_slots :
    ([
      .loopIdentificationEnd 37 0 0 0 [],
      .loopIdRequest .mb 37,
      .loopSampleBoundary 37 0,
      .loopSampleDeadline 37 0,
      .outputApplication 37 0,
      .mcNop 37,
      .mcIn 37 0 0 0 false false,
      .mcOut 37 0 0,
      .mcMov 37 0 0 0 false false,
      .mcAdd 37 0 0 0 0 false false,
      .mcSub 37 0 0 0 0 false false,
      .mcMul 37 0 0 0 0 false false,
      .mcMac 37 0 0 0 0 0 false false,
      .mcBiq 37 0 0 0 0 0 0 false false,
      .mcSsb 37 0 0 0 0 0 0 false false,
      .mcLim 37 0 0 0 0 false false,
      .mcInt 37 0 0 0 0 0 false false,
      .mcSel 37 0 0 0 0 0 false false,
      .mcLut 37 0 0 0 0 0 false false,
      .mcEnds 37 0,
      .coefSwapTakeEffect 37 0] : List Instr).all (fun i => !i.wellFormed) = true := by decide

/-- Every command that names control links is refused with a number out of range. -/
theorem test_ill_formed_control_links :
    ([
      .pclStatusFrame 8 0,
      .pclWriteAck 8 0,
      .pclReadData 8 0,
      .pclNak 8 0,
      .registerAccessTimeout 8 0,
      .pclUpstreamLost 8,
      .chipWarningClear 8] : List Instr).all (fun i => !i.wellFormed) = true := by decide

/-- Every command that names reader links is refused with a number out of range. -/
theorem test_ill_formed_reader_links :
    ([
      .rslDataBlock 72 0 0 0 false,
      .rslAlignmentMarker 72 0 0 0] : List Instr).all (fun i => !i.wellFormed) = true := by decide

/-- Every command that names lanes is refused with a number out of range. -/
theorem test_ill_formed_lanes :
    ([
      .rslDataBlock 0 2 0 0 false] : List Instr).all (fun i => !i.wellFormed) = true := by decide

/-- Every command that names destination nodes is refused with a number out of range. -/
theorem test_ill_formed_destination_nodes :
    ([
      .mcIn 0 64 0 0 false false,
      .mcMov 0 64 0 0 false false,
      .mcAdd 0 64 0 0 0 false false,
      .mcSub 0 64 0 0 0 false false,
      .mcMul 0 64 0 0 0 false false,
      .mcMac 0 64 0 0 0 0 false false,
      .mcBiq 0 64 0 0 0 0 0 false false,
      .mcSsb 0 64 0 0 0 0 0 false false,
      .mcLim 0 64 0 0 0 false false,
      .mcInt 0 64 0 0 0 0 false false,
      .mcSel 0 64 0 0 0 0 false false,
      .mcLut 0 64 0 0 0 0 false false] : List Instr).all (fun i => !i.wellFormed) = true := by decide

/-- Every command that names immediates is refused with a number out of range. -/
theorem test_ill_formed_immediates :
    ([
      .mcIn 0 0 4096 0 false false,
      .mcOut 0 0 4096,
      .mcSsb 0 0 0 0 0 4096 0 false false,
      .mcSel 0 0 0 0 4096 0 false false] : List Instr).all (fun i => !i.wellFormed) = true := by decide

/-- Every command that names shifts too far right is refused with a number out of range. -/
theorem test_ill_formed_shifts_too_far_right :
    ([
      .mcIn 0 0 0 (-9) false false,
      .mcMov 0 0 0 (-9) false false,
      .mcAdd 0 0 0 0 (-9) false false,
      .mcSub 0 0 0 0 (-9) false false,
      .mcMul 0 0 0 0 (-9) false false,
      .mcMac 0 0 0 0 0 (-9) false false,
      .mcBiq 0 0 0 0 0 0 (-9) false false,
      .mcSsb 0 0 0 0 0 0 (-9) false false,
      .mcLim 0 0 0 0 (-9) false false,
      .mcInt 0 0 0 0 0 (-9) false false,
      .mcSel 0 0 0 0 0 (-9) false false,
      .mcLut 0 0 0 0 0 (-9) false false] : List Instr).all (fun i => !i.wellFormed) = true := by decide

/-- Every command that names shifts too far left is refused with a number out of range. -/
theorem test_ill_formed_shifts_too_far_left :
    ([
      .mcIn 0 0 0 8 false false,
      .mcMov 0 0 0 8 false false,
      .mcAdd 0 0 0 0 8 false false,
      .mcSub 0 0 0 0 8 false false,
      .mcMul 0 0 0 0 8 false false,
      .mcMac 0 0 0 0 0 8 false false,
      .mcBiq 0 0 0 0 0 0 8 false false,
      .mcSsb 0 0 0 0 0 0 8 false false,
      .mcLim 0 0 0 0 8 false false,
      .mcInt 0 0 0 0 0 8 false false,
      .mcSel 0 0 0 0 0 8 false false,
      .mcLut 0 0 0 0 0 8 false false] : List Instr).all (fun i => !i.wellFormed) = true := by decide

/-- Every command that names first source nodes is refused with a number out of range. -/
theorem test_ill_formed_first_source_nodes :
    ([
      .mcOut 0 64 0,
      .mcMov 0 0 64 0 false false,
      .mcAdd 0 0 64 0 0 false false,
      .mcSub 0 0 64 0 0 false false,
      .mcMul 0 0 64 0 0 false false,
      .mcMac 0 0 64 0 0 0 false false,
      .mcBiq 0 0 64 0 0 0 0 false false,
      .mcSsb 0 0 64 0 0 0 0 false false,
      .mcLim 0 0 64 0 0 false false,
      .mcInt 0 0 64 0 0 0 false false,
      .mcSel 0 0 64 0 0 0 false false,
      .mcLut 0 0 64 0 0 0 false false] : List Instr).all (fun i => !i.wellFormed) = true := by decide

/-- Every command that names second source nodes is refused with a number out of range. -/
theorem test_ill_formed_second_source_nodes :
    ([
      .mcAdd 0 0 0 64 0 false false,
      .mcSub 0 0 0 64 0 false false,
      .mcMac 0 0 0 64 0 0 false false,
      .mcSel 0 0 0 64 0 0 false false] : List Instr).all (fun i => !i.wellFormed) = true := by decide

/-- Every command that names state words is refused with a number out of range. -/
theorem test_ill_formed_state_words :
    ([
      .mcBiq 0 0 0 0 64 0 0 false false,
      .mcSsb 0 0 0 0 64 0 0 false false,
      .mcInt 0 0 0 0 64 0 false false] : List Instr).all (fun i => !i.wellFormed) = true := by decide

/-- Every command that names section counts is refused with a number out of range. -/
theorem test_ill_formed_section_counts :
    ([
      .mcBiq 0 0 0 0 0 64 0 false false,
      .mcLut 0 0 0 0 64 0 false false] : List Instr).all (fun i => !i.wellFormed) = true := by decide

/-- Every command that names phases is refused with a number out of range. -/
theorem test_ill_formed_phases :
    ([
      .backEmfCrossing 3 0 0 0 0] : List Instr).all (fun i => !i.wellFormed) = true := by decide

/-- Every command that names levels is refused with a number out of range. -/
theorem test_ill_formed_levels :
    ([
      .levelRequestWrite .mb 6,
      .replicaMeasurement 6 []] : List Instr).all (fun i => !i.wellFormed) = true := by decide

/-- Every command that names sleep blocks is refused with a number out of range. -/
theorem test_ill_formed_sleep_blocks :
    ([
      .sleepBlockVote 9 none] : List Instr).all (fun i => !i.wellFormed) = true := by decide

/-- Every command that names fault sources is refused with a number out of range. -/
theorem test_ill_formed_fault_sources :
    ([
      .faultRaising 384 0] : List Instr).all (fun i => !i.wellFormed) = true := by decide

/-- Every command that names keys is refused with a number out of range. -/
theorem test_ill_formed_keys :
    ([
      .keyAcquire .mb 16,
      .keyRelease .mb 16,
      .keyLeaseExpiry 16] : List Instr).all (fun i => !i.wellFormed) = true := by decide

/-- Every command that names buses is refused with a number out of range. -/
theorem test_ill_formed_buses :
    ([
      .nmtStartRemoteNode 2 0,
      .nmtStopRemoteNode 2 0,
      .nmtEnterPreOperational 2 0,
      .nmtResetNode 2 0,
      .nmtResetCommunication 2 0,
      .lssSwitchStateGlobal 2 0,
      .lssSwitchStateSelective 2 0 0 0 0,
      .lssConfigureNodeId 2 0,
      .lssStoreConfiguration 2,
      .lssInquireIdentity 2 0,
      .lssInquireNodeId 2,
      .lssFastscan 2 0 0 0 0,
      .lssConfigureBitTiming 2,
      .usdoRequest 2 0 false false 0 [] false,
      .rpdoReceived 2 0 [],
      .consumerHeartbeatLost 2 0,
      .timeMessage 2 0,
      .foreignFrame 2,
      .arbitrationLost 2,
      .staleFrameDrop 2 0,
      .busOff 2,
      .busOffRecoveryStart 2,
      .busOffRecovered 2,
      .duplicateNodeId 2,
      .mbPortRestart .mb 2,
      .errorPassiveChange 2 0 0,
      .consumerHeartbeatReceived 2 0,
      .syncMessage 2] : List Instr).all (fun i => !i.wellFormed) = true := by decide

/-- Every command that names transports is refused with a number out of range. -/
theorem test_ill_formed_transports :
    ([
      .spdmGetVersion 4,
      .spdmGetCapabilities 4,
      .spdmNegotiateAlgorithms 4 false,
      .spdmGetDigests 4,
      .spdmGetCertificate 4 0 0 0,
      .spdmChallenge 4 0 0,
      .spdmGetMeasurements 4 0 0 0,
      .spdmUnsupportedRequest 4] : List Instr).all (fun i => !i.wellFormed) = true := by decide

/-! ### A device in service, from which the states below differ in what a statement asks for -/

/-- The zone that every surface of the device in service has: 90 data lanes, 2 Cellar lanes, 8 spare lanes. -/
def readyZone : ZoneEntry :=
  { firstLane := 64, laneCount := 100, cellarLanes := 2, spareLanes := 8, sectorsPerTrack := 64, clockPeriods := 1510416 }

/-- A device in service: start-up complete, its one actuator loaded and mapped, every link active, every head Confirmed, a queue pair
on HP0, and every key held by the management bus. -/
def ready : State :=
  let on (k n v : Nat) : List (Nat × Int) := (List.range n).map fun i => (k + i, (v : Int))
  { State.reset with
    objs := [(O.startupPhase, 8), (O.mediaReadyTick, 1)] ++ on O.headService 6 1 ++
      [(O.mappedActuators, 1), (O.interleavedCapacity, 65536)] ++ on O.rslState 18 3 ++ on O.wrlState 6 3 ++
      on O.pclState 2 3 ++ on O.clockState 6 3 ++ on O.positionStatus 6 0x61 ++ on O.loopState 9 2 ++ [(O.loopState + 36, 2)] ++
      [(O.spindleState, 5), (O.trapdoorState, 2)]
    tick := 10000000000000
    keys := List.replicate 16 { explicit := 3 }
    wall := { set := true }
    mb := { nmt := 5, nodeId := 5 }
    platform := { variant := 2, supplies := 2047, vregEnable := true, recovered := true }
    layout := { tables := (List.range 6).map fun n => { surface := n, entries := [readyZone] } }
    heads := List.replicate 24 { admitted := true, onRow := true, lane := 66 }
    acts := List.replicate 4 { load := 2, verified := true }
    ports := [{ linkUp := true, perst := false, enabled := true, ready := true, cqs := [⟨1, 64, 0, 0, 0⟩, ⟨3, 64, 0, 0, 0⟩],
                sqs := [⟨1, 64, 1, 1, 0⟩] }, { linkUp := true, perst := false }]
    spindle := { mrpm := 7200000, gates := true, enable := true } }

/-- The device in service with no key held. -/
def freeKeys : State := { ready with keys := List.replicate 16 {} }

/-- A state with an entry in the admin submission queue of HP0. -/
def asking (s : State) : State := s.modPort 0 fun x => { x with adminTail := 1 }

/-- A pair by its first part. -/
theorem paired {α β : Type} {p : α × β} {a : α} (h : p.1 = a) : p = (a, p.2) := Prod.ext h rfl

/-- A state that is there. -/
theorem gave {o : Option State} (h : o.isSome = true) : o = some (o.getD State.reset) := by cases o <;> simp_all

/-- A pair that is there. -/
theorem gaveBoth {α β : Type} {o : Option (α × β)} (d : α × β) (h : o.isSome = true) : o = some ((o.getD d).1, (o.getD d).2) := by
  cases o <;> simp_all

/-- A pair that is there, by its first part. -/
theorem gavePair {α : Type} {o : Option (α × State)} {a : α} (h : (o.map Prod.fst).isSome = true ∧ ∀ b ∈ o.map Prod.fst, b = a) :
    o = some (a, ((o.map Prod.snd).getD State.reset)) := by
  rcases o with _ | ⟨b, s⟩
  · simp at h
  · simp_all

/-- A sector under read, the first of the namespace. -/
def aSector : SectorInFlight := { lba := 0, nsid := 1, lane := 66, track := 0, sector := 0, port := 0, sqid := 1, cid := 7 }

/-- Where the first sector of the namespace lies. -/
def aPlace : Place :=
  { act := 0, dlba := 0, stripe := 0, chunk := 0, inChunk := 0, surface := 0, zone := 0, row := 0, lane := 66, track := 0, sector := 0,
    startBit := 0, remapped := false }

/-- A ladder of that sector. -/
def aLadder : Ladder :=
  { stream := 0, sector := aSector, outcome := 1, entered := 10000000000000, depth := 5,
    config := ⟨0, 4, 0, 1, 1, 0⟩ }

/-- The device in service with one command's context and media operations. -/
def serving (c : Ctx) (ops : List MediaOp) : State := { ready with cmds := { ctxs := [c], ops := ops } }

/-- The device in service with one ladder. -/
def climbing (l : Ladder) : State := { ready with detect := { ladders := [l] } }

/-- A chunk write of the first chunk, held in Merge Bin buffer 1. -/
def aChunk : ChunkWrite :=
  { head := 0, stripe := 0, lane := 66, nsid := 1, lba := 0, kind := 0, total := 64, buffer := 1 }

/-- The device in service with one chunk write, of a command whose sectors wait in buffer 1. -/
def writing (w : ChunkWrite) : State :=
  { ready with
    cmds := { ops := [⟨0, 0, 1, 7, 1, 0, 64, true, 0, false, false⟩] }
    larder := { buffers := [⟨1, 0, 2 ^ 64 - 1, [], [(0, 1, 7)], 0, false, 1, true, 0⟩] }
    write := { chunks := [w] } }

/-- A Cellar slot of one sector, and the chunk write that holds it. -/
def aSlot : CellarSlot :=
  { act := 0, ring := 0, seq := 1, first := 0, count := 1, nsid := 1, lba := 0, gen1 := 1, gen2 := 1, zeroes := false,
    toRestock := [0], port := 0, sqid := 1, cid := 7, data := [0] }

/-- The chunk write of that slot, under verify. -/
def slotWrite : ChunkWrite := { aChunk with lane := 64, kind := 1, slotSeq := 1, total := 1, verifying := true }


/-- A frame from a chip: its Type and Tag, every other field 0, with its CRC. -/
def aFrame (kind tag : Nat) : Nat :=
  let v := 0x5A * 2 ^ 56 + kind * 2 ^ 52 + tag * 2 ^ 14
  v + crc8 v

/-- The device in service with the link of its first chip locked and head 0 in read mode. -/
def linked : State := ready.modPcl 0 fun x => { x with locked := true, shadow := [(4, 1)] }

/-- Lane 0 in service about to run a microcode word, for a sample of loop slot 0. -/
def fetching (w : Nat) : State :=
  ({ ready with rafter := { store := [(0, w)] } } : State).modLoop 0 fun x => { x with sample := some { boundary := 0, bank := 0 } }
/-! ### For each statement with hypotheses, a state and operands that meet them, clause by clause -/

section

set_option Elab.async false
set_option maxRecDepth 20000

/-- The hypotheses of EmptyQueueLetsOneTickPass can all be met. -/
theorem witness_EmptyQueueLetsOneTickPass :
    ∃ (s : State), s.pending = [] :=
  ⟨ready, by decide +kernel⟩

/-- The hypotheses of StepKeepsInvariant can all be met. -/
theorem witness_StepKeepsInvariant :
    ∃ (s : State) (t : State), s.Inv ∧ step s = .next t :=
  by refine ⟨{ ready with pending := [.contextFreed 0] }, _, ⟨?_, ?_, ?_, ?_, ?_, ?_, ?_, ?_, ?_, ?_, ?_, ?_, ?_⟩, rfl⟩ <;>
    decide +kernel

/-- The hypotheses of RefusedObjectWriteChangesNothing can all be met. -/
theorem witness_RefusedObjectWriteChangesNothing :
    ∃ (r : Requester) (k : Nat) (d : ObjData) (x : DictRefusal) (s : State), s.checkPut r k d = some x :=
  ⟨.mb, 0, .num 1 0, .indexAbsent, ready, by decide +kernel⟩

/-- The hypotheses of UnservedWritesAreRefused can all be met. -/
theorem witness_UnservedWritesAreRefused :
    (∃ (k : Nat) (s : State), s.indexServed (k / 256) = true ∧ isCountKey k = false ∧ findRow k = none) ∧
    (∃ (k : Nat) (s : State) (row : _), s.indexServed (k / 256) = true ∧ isCountKey k = false ∧ findRow k = some row ∧
      s.keyUnitAbsent k = false ∧ (row.access = .ro ∨ row.access = .const)) ∧
    (∃ (k : Nat) (s : State) (row : _) (g : _), s.indexServed (k / 256) = true ∧ isCountKey k = false ∧ findRow k = some row ∧
      s.keyUnitAbsent k = false ∧ (¬ (row.access = .ro ∨ row.access = .const)) ∧ row.guardKey = some g ∧ (s.key g).holder = 0) ∧
    (∃ (r : Requester) (k : Nat) (s : State) (row : _) (g : _), s.indexServed (k / 256) = true ∧ isCountKey k = false ∧ findRow
      k = some row ∧ s.keyUnitAbsent k = false ∧ (¬ (row.access = .ro ∨ row.access = .const)) ∧ row.guardKey = some g ∧ (s.key
      g).holder ≠ 0 ∧ (s.key g).holder ≠ r.code) :=
  ⟨⟨O.keyControl + 100, ready, by decide +kernel⟩,
    ⟨O.mapState, ready, (findRow O.mapState).getD ⟨0, 0, .u8, .ro, 0, 0, 0, none⟩, by decide +kernel⟩,
    ⟨O.coefClaim, freeKeys, (findRow O.coefClaim).getD ⟨0, 0, .u8, .ro, 0, 0, 0, none⟩, 2, by decide +kernel⟩,
    ⟨.hp0, O.coefClaim, ready, (findRow O.coefClaim).getD ⟨0, 0, .u8, .ro, 0, 0, 0, none⟩, 2, by decide +kernel⟩⟩

/-- The hypotheses of SupplyCommandsRun can all be met. -/
theorem witness_SupplyCommandsRun :
    (∃ (s : State), s.nat O.startupPhase = 7 ∧ s.platform.recovered = true ∧ s.nat O.spindleState = 5 ∧ s.mappedDone = true ∧
      s.write.again = [] ∧ s.spindle.powerLost = false) ∧
    (∃ (supply : _) (mv : _) (lasting : _) (s : State), 10 < lasting ∧ s.aboveThreshold supply mv = false ∧ s.supplyUp supply =
      true ∧ s.nat O.sleepStateCurrent ≠ 4 ∧ ((supply = 0 → s.power.stepKind = 0 ∧ s.power.restoring = false))) ∧
    (∃ (lasting : _), 2 < lasting) ∧
    (∃ (s : State), s.spindle.powerLost = true ∧ ((s.nat O.spindleState = 0 ∨ s.nat O.holdUpVoltage < s.nat
      O.holdUpMinVoltage))) ∧
    (∃ (supply : _) (mv : _) (s : State), supply ≤ 10 ∧ supply ≠ 0 ∧ s.aboveThreshold supply mv = true) ∧
    (∃ (mv : _) (s : State), s.aboveThreshold 0 mv = true ∧ s.platform.coreWait = true ∧ s.platform.vregEnable = true) ∧
    (∃ (s : State), s.platform.coreWait = true ∧ s.platform.vregEnable = true ∧ s.platform.coreStart + 5000 ≤ s.tick) ∧
    (∃ (s : State), s.platform.coreWait = true ∧ s.platform.vregEnable = false ∧ s.platform.coreStart + 100000 ≤ s.tick) :=
  ⟨⟨ready.setNat O.startupPhase 7, by decide +kernel⟩,
    ⟨1, 0, 11, ready, by decide +kernel⟩,
    ⟨3, by decide +kernel⟩,
    ⟨(ready.setNat O.spindleState 0).modSpindle fun x => { x with powerLost := true }, by decide +kernel⟩,
    ⟨1, 100000, ready, by decide +kernel⟩,
    ⟨100000, ready.modPlatform fun x => { x with coreWait := true }, by decide +kernel⟩,
    ⟨ready.modPlatform fun x => { x with coreWait := true }, by decide +kernel⟩,
    ⟨ready.modPlatform fun x => { x with coreWait := true, vregEnable := false }, by decide +kernel⟩⟩

/-- The hypotheses of StartupStepsEnd can all be met. -/
theorem witness_StartupStepsEnd :
    (∃ (s : State), s.fw.halted = false ∧ s.spindle.powerLost = false ∧ s.nat O.startupPhase = 0 ∧ s.othersUp = true) ∧
    (∃ (report : StartupReport) (s : State), s.fw.halted = false ∧ s.spindle.powerLost = false ∧ s.nat O.startupPhase = 1 ∧
      s.supplyUp 0 = true ∧ ((∃ b ∈ report.stage1Ok, b = true))) ∧
    (∃ (report : StartupReport) (s : State), s.fw.halted = false ∧ s.spindle.powerLost = false ∧ s.nat O.startupPhase = 1 ∧
      s.supplyUp 0 = true ∧ ((∀ b ∈ report.stage1Ok, b = false))) ∧
    (∃ (s : State), s.fw.halted = false ∧ s.spindle.powerLost = false ∧ s.nat O.startupPhase = 2) ∧
    (∃ (s : State), s.fw.halted = false ∧ s.spindle.powerLost = false ∧ s.nat O.startupPhase = 3 ∧ min 5 (s.nat O.levelCap) <
      s.power.stepped) ∧
    (∃ (s : State), s.fw.halted = false ∧ s.spindle.powerLost = false ∧ s.nat O.startupPhase = 4) ∧
    (∃ (s : State), s.fw.halted = false ∧ s.spindle.powerLost = false ∧ s.nat O.startupPhase = 5 ∧ s.nat O.spindleState = 5) ∧
    (∃ (s : State), s.fw.halted = false ∧ s.spindle.powerLost = false ∧ s.nat O.startupPhase = 6 ∧ s.mappedDone = true) ∧
    (∃ (s : State), s.fw.halted = false ∧ s.spindle.powerLost = false ∧ s.nat O.startupPhase = 7 ∧ s.platform.recovered = false) :=
  ⟨⟨ready.setNat O.startupPhase 0, by decide +kernel⟩,
    ⟨{}, ready.setNat O.startupPhase 1, by decide +kernel⟩,
    ⟨{ stage1Ok := [false] }, ready.setNat O.startupPhase 1, by decide +kernel⟩,
    ⟨ready.setNat O.startupPhase 2, by decide +kernel⟩,
    ⟨(ready.setNat O.startupPhase 3).modPower fun x => { x with stepped := 6 }, by decide +kernel⟩,
    ⟨ready.setNat O.startupPhase 4, by decide +kernel⟩,
    ⟨ready.setNat O.startupPhase 5, by decide +kernel⟩,
    ⟨ready.setNat O.startupPhase 6, by decide +kernel⟩,
    ⟨(ready.setNat O.startupPhase 7).modPlatform fun x => { x with recovered := false }, by decide +kernel⟩⟩

/-- The hypotheses of ResetsRun can all be met. -/
theorem witness_ResetsRun :
    (∃ (due : _) (s : State), s.faults.resetDue = some due ∧ ((due ≤ s.tick ∨ (s.trunk.queue = [] ∧ s.mb.emcyQueue = []))) ∧
      s.spindle.powerLost = false ∧ s.fw.halted = false) ∧
    (∃ (port : _) (s : State), s.hasPort port = true ∧ (s.port port).linkUp = true) :=
  ⟨⟨0, ready.modFaults fun x => { x with resetDue := some 0 }, by decide +kernel⟩,
    ⟨0, ready, by decide +kernel⟩⟩

/-- The hypotheses of PowerLossCommandsRun can all be met. -/
theorem witness_PowerLossCommandsRun :
    (∃ (vin : _) (lasting : _) (s : State), inputMv vin < s.nat O.powerLossThreshold ∧ s.nat O.powerLossFilter ≤ lasting) ∧
    (∃ (s : State), s.spindle.powerLost = true ∧ s.spindle.lossAppended = false ∧ s.allParked = true ∧ s.spindle.lossParks = []) :=
  ⟨⟨0, 1000000, ready, by decide +kernel⟩,
    ⟨{ ready.setNat O.spindleState 0 with acts := List.replicate 4 {}, spindle := { powerLost := true } }, by decide +kernel⟩⟩

/-- The hypotheses of ControllerEventsRun can all be met. -/
theorem witness_ControllerEventsRun :
    (∃ (port : _) (s : State), (s.port port).enabled = true) ∧
    (∃ (port : _) (size : _) (s : State), s.hasPort port = true ∧ (s.port port).linkUp = true ∧ (s.port port).enabled = false ∧
      2 ≤ size ∧ size ≤ 4096) ∧
    (∃ (port : _) (s : State), (s.port port).linkUp = true) ∧
    (∃ (port : _) (s : State), s.hasPort port = true ∧ (s.port port).linkUp = true) ∧
    (∃ (port : _) (s : State), s.hasPort port = true) ∧
    (∃ (port : _) (s : State), s.hasPort port = true ∧ (s.port port).perst = true) ∧
    (∃ (port : _) (s : State), (s.port port).draining = true ∧ s.cmds.ctxs.any (fun c => decide (c.port = port)) = false) ∧
    (∃ (port : _) (s : State), s.hasPort port = true ∧ (s.port port).enabled = true ∧ (s.port port).crime = false ∧ (s.port
      port).draining = false ∧ s.fw.recovery = false ∧ s.fw.halted = false ∧ (s.port port).enableTick + 500000 * (s.port
      port).crwmt ≤ s.tick) ∧
    (∃ (port : _) (s : State), s.hasPort port = true ∧ (s.port port).linkUp = true) :=
  ⟨⟨0, ready, by decide +kernel⟩,
    ⟨0, 2, ready.modPort 0 fun x => { x with enabled := false }, by decide +kernel⟩,
    ⟨0, ready, by decide +kernel⟩,
    ⟨0, ready, by decide +kernel⟩,
    ⟨0, ready, by decide +kernel⟩,
    ⟨0, ready.modPort 0 fun x => { x with perst := true }, by decide +kernel⟩,
    ⟨0, ready.modPort 0 fun x => { x with draining := true }, by decide +kernel⟩,
    ⟨0, ready, by decide +kernel⟩,
    ⟨0, ready, by decide +kernel⟩⟩

/-- The hypotheses of ShutdownAndFetchRun can all be met. -/
theorem witness_ShutdownAndFetchRun :
    (∃ (port : _) (kind : _) (s : State), s.hasPort port = true ∧ (s.port port).linkUp = true ∧ (s.port port).shutdown = 0 ∧
      ((kind = 1 ∨ kind = 2))) ∧
    (∃ (port : _) (s : State), (s.port port).shutdown = 1 ∧ s.writesRemain port = false) ∧
    (∃ (port : _) (speed : _) (width : _) (s : State), s.hasPort port = true ∧ (s.port port).perst = false ∧ s.nat
      O.sleepStateCurrent ≠ 4 ∧ 1 ≤ speed ∧ speed ≤ 5 ∧ ((width = 1 ∨ width = 2 ∨ width = 4))) ∧
    (∃ (port : _) (tail : _) (s : State), s.hasPort port = true ∧ (s.port port).enabled = true ∧ tail < (s.port port).adminSize) ∧
    (∃ (port : _) (qid : _) (tail : _) (s : State), s.hasPort port = true ∧ (s.port port).enabled = true ∧ qid ≠ 0 ∧ ((∃ k ∈
      (s.port port).sqs, k.id = qid ∧ tail < k.size))) ∧
    (∃ (port : _) (s : State), (s.port port).fetchPaused = true ∧ s.ctxFree port = true) :=
  ⟨⟨0, 1, ready, by decide +kernel⟩,
    ⟨0, (ready.modPort 0 fun x => { x with shutdown := 1 }).modPlatform fun x => { x with variant := 0 }, by decide +kernel⟩,
    ⟨0, 1, 1, ready, by decide +kernel⟩,
    ⟨0, 0, ready, by decide +kernel⟩,
    ⟨0, 1, 0, ready, by decide +kernel⟩,
    ⟨0, ready.modPort 0 fun x => { x with fetchPaused := true }, by decide +kernel⟩⟩

/-- The hypotheses of QueueCommandsRun can all be met. -/
theorem witness_QueueCommandsRun :
    (∃ (port : Nat) (s : State) (t : State) (qid : _) (size : _) (vector : _), s.fetch port 0 = (true, t) ∧ queueFree (t.port
      port).cqs (t.port port).queuesGranted.2 qid = true ∧ queueSize size = true ∧ vector ≤ 128) ∧
    (∃ (port : Nat) (s : State) (t : State) (qid : _) (size : _) (cqid : _), s.fetch port 0 = (true, t) ∧ ((∃ k ∈ (t.port
      port).cqs, k.id = cqid)) ∧ queueFree (t.port port).sqs (t.port port).queuesGranted.1 qid = true ∧ queueSize size = true) ∧
    (∃ (port : Nat) (s : State) (t : State) (qid : _), s.fetch port 0 = (true, t) ∧ ((∃ k ∈ (t.port port).cqs, k.id = qid)) ∧
      ((∀ k ∈ (t.port port).sqs, k.cqid ≠ qid))) ∧
    (∃ (port : Nat) (s : State) (t : State) (qid : _), s.fetch port 0 = (true, t) ∧ ((∃ k ∈ (t.port port).sqs, k.id = qid))) :=
  ⟨(by refine ⟨0, asking ready, _, 2, 64, 0, paired ?_, ?_, ?_, ?_⟩ <;> decide +kernel),
    (by refine ⟨0, asking ready, _, 2, 64, 1, paired ?_, ?_, ?_, ?_⟩ <;> decide +kernel),
    (by refine ⟨0, asking ready, _, 3, paired ?_, ?_, ?_⟩ <;> decide +kernel),
    (by refine ⟨0, asking ready, _, 1, paired ?_, ?_⟩ <;> decide +kernel)⟩

/-- The hypotheses of FeatureCommandsRun can all be met. -/
theorem witness_FeatureCommandsRun :
    (∃ (port : Nat) (value : Nat) (s : State) (t : State), s.fetch port 0 = (true, t) ∧ value / 8 % 32 = 0) ∧
    (∃ (port : Nat) (value : Nat) (s : State) (t : State), s.fetch port 0 = (true, t) ∧ ((value / 65536 % 16 = 0 ∨ value / 65536
      % 16 = 15)) ∧ value / 0x100000 < 2) ∧
    (∃ (port : Nat) (value : Nat) (s : State) (t : State) (n : _), s.fetch port 0 = (true, t) ∧ value ≤ 100 ∧ ((n = 0xFFFFFFFF ∨
      t.nsActive n = true))) ∧
    (∃ (port : Nat) (value : Nat) (s : State) (t : State) (n : _), s.fetch port 0 = (true, t) ∧ value < 65535 ∧ n < 65535 ∧
      (t.port port).sqs = [] ∧ (t.port port).cqs = []) ∧
    (∃ (port : Nat) (value : Nat) (s : State) (t : State), s.fetch port 0 = (true, t) ∧ value < 65536) ∧
    (∃ (port : Nat) (value : Nat) (s : State) (t : State), s.fetch port 0 = (true, t) ∧ value < 131072 ∧ value % 65536 ≤ 128) ∧
    (∃ (port : Nat) (value : Nat) (s : State) (t : State), s.fetch port 0 = (true, t) ∧ value < 2) ∧
    (∃ (port : Nat) (value : Nat) (s : State) (t : State), s.fetch port 0 = (true, t) ∧ value &&& 0x30F = value) ∧
    (∃ (port : Nat) (value : Nat) (s : State) (t : State) (feature : _) (select : _) (n : _) (v : _), s.fetch port 0 = (true, t)
      ∧ t.feature (t.port port) port feature value = some v ∧ ((feature = 5 → n = 0xFFFFFFFF ∨ t.nsActive n = true)) ∧ ((feature
      = 9 → value % 65536 ≤ 128)) ∧ ((select = 0 ∨ select = 1 ∨ select = 3))) :=
  ⟨(by refine ⟨0, 0, asking ready, _, paired ?_, ?_⟩ <;> decide +kernel),
    (by refine ⟨0, 0, asking ready, _, paired ?_, ?_, ?_⟩ <;> decide +kernel),
    (by refine ⟨0, 0, asking ready, _, 1, paired ?_, ?_, ?_⟩ <;> decide +kernel),
    (by refine ⟨0, 0, asking (ready.modPort 0 fun x => { x with sqs := [], cqs := [] }), _, 0, paired ?_, ?_, ?_, ?_, ?_⟩ <;>
      decide +kernel),
    (by refine ⟨0, 0, asking ready, _, paired ?_, ?_⟩ <;> decide +kernel),
    (by refine ⟨0, 0, asking ready, _, paired ?_, ?_, ?_⟩ <;> decide +kernel),
    (by refine ⟨0, 0, asking ready, _, paired ?_, ?_⟩ <;> decide +kernel),
    (by refine ⟨0, 0, asking ready, _, paired ?_, ?_⟩ <;> decide +kernel),
    (by refine ⟨0, 0, asking ready, _, 1, 0, 0, 0, paired ?_, ?_, ?_, ?_, ?_⟩ <;> decide +kernel)⟩

/-- The hypotheses of ReservedFeatureFieldsAreRefused can all be met. -/
theorem witness_ReservedFeatureFieldsAreRefused :
    (∃ (port : Nat) (value : Nat) (save : Bool) (s : State) (t : State), s.fetch port 0 = (true, t) ∧ ((save = true ∨ value / 8
      % 32 ≠ 0))) ∧
    (∃ (port : Nat) (value : Nat) (save : Bool) (s : State) (t : State), s.fetch port 0 = (true, t) ∧ ((save = true ∨ (value /
      65536 % 16 ≠ 0 ∧ value / 65536 % 16 ≠ 15) ∨ 2 ≤ value / 0x100000))) ∧
    (∃ (port : Nat) (value : Nat) (save : Bool) (s : State) (t : State), s.fetch port 0 = (true, t) ∧ ((save = true ∨ 100 <
      value))) ∧
    (∃ (port : Nat) (value : Nat) (save : Bool) (s : State) (t : State) (n : _), s.fetch port 0 = (true, t) ∧ ((save = true ∨
      65535 ≤ value ∨ 65535 ≤ n))) ∧
    (∃ (port : Nat) (value : Nat) (save : Bool) (s : State) (t : State), s.fetch port 0 = (true, t) ∧ ((save = true ∨ 65536 ≤
      value))) ∧
    (∃ (port : Nat) (value : Nat) (save : Bool) (s : State) (t : State), s.fetch port 0 = (true, t) ∧ ((save = true ∨ 131072 ≤
      value ∨ 128 < value % 65536))) ∧
    (∃ (port : Nat) (value : Nat) (save : Bool) (s : State) (t : State), s.fetch port 0 = (true, t) ∧ ((save = true ∨ 2 ≤
      value))) ∧
    (∃ (port : Nat) (value : Nat) (save : Bool) (s : State) (t : State), s.fetch port 0 = (true, t) ∧ ((save = true ∨ value &&&
      0x30F ≠ value))) ∧
    (∃ (port : Nat) (value : Nat) (save : Bool) (s : State) (t : State), s.fetch port 0 = (true, t) ∧ ((save = true ∨ 96 ≤ value
      ∨ 2 < value % 32))) :=
  ⟨(by refine ⟨0, 0, true, asking ready, _, paired ?_, ?_⟩ <;> decide +kernel),
    (by refine ⟨0, 0, true, asking ready, _, paired ?_, ?_⟩ <;> decide +kernel),
    (by refine ⟨0, 0, true, asking ready, _, paired ?_, ?_⟩ <;> decide +kernel),
    (by refine ⟨0, 0, true, asking ready, _, 0, paired ?_, ?_⟩ <;> decide +kernel),
    (by refine ⟨0, 0, true, asking ready, _, paired ?_, ?_⟩ <;> decide +kernel),
    (by refine ⟨0, 0, true, asking ready, _, paired ?_, ?_⟩ <;> decide +kernel),
    (by refine ⟨0, 0, true, asking ready, _, paired ?_, ?_⟩ <;> decide +kernel),
    (by refine ⟨0, 0, true, asking ready, _, paired ?_, ?_⟩ <;> decide +kernel),
    (by refine ⟨0, 0, true, asking ready, _, paired ?_, ?_⟩ <;> decide +kernel)⟩

/-- The hypotheses of AdminReadsRun can all be met. -/
theorem witness_AdminReadsRun :
    (∃ (port : Nat) (s : State) (t : State), s.fetch port 0 = (true, t)) ∧
    (∃ (port : Nat) (s : State) (t : State) (n : _), s.fetch port 0 = (true, t) ∧ t.nsActive n = true) ∧
    (∃ (port : Nat) (s : State) (t : State), s.fetch port 0 = (true, t)) ∧
    (∃ (port : Nat) (s : State) (t : State) (page : _) (n : _) (b : _), s.fetch port 0 = (true, t) ∧ t.logPage port page = some
      b ∧ ((page = 2 → n = 0 ∨ n = 0xFFFFFFFF))) ∧
    (∃ (port : Nat) (s : State) (t : State), s.fetch port 0 = (true, t) ∧ (t.port port).aer.length < 8 ∧ (t.port port).held =
      []) ∧
    (∃ (port : Nat) (s : State) (t : State) (type : _) (info : _) (page : _) (rest : _), s.fetch port 0 = (true, t) ∧ (t.port
      port).aer.length < 8 ∧ (t.port port).held = (type, info, page) :: rest) ∧
    (∃ (port : Nat) (s : State) (t : State) (value : _), s.fetch port 0 = (true, t) ∧ value < 96 ∧ value % 32 ≤ 2) ∧
    (∃ (port : Nat) (s : State) (t : State), s.fetch port 0 = (true, t) ∧ t.sub.selfTest = none ∧ t.sub.format = none ∧
      t.sub.sanitize = none) ∧
    (∃ (x : SelfTest) (r : Nat × Nat) (s : State), s.sub.selfTest = some x ∧ (x.rows.find? fun r => !s.headFenced r.1) = some r) ∧
    (∃ (x : SelfTest) (s : State), s.sub.selfTest = some x ∧ ((∀ r ∈ x.rows, s.headFenced r.1 = true))) :=
  ⟨(by refine ⟨0, asking ready, _, paired ?_⟩ <;> decide +kernel),
    (by refine ⟨0, asking ready, _, 1, paired ?_, ?_⟩ <;> decide +kernel),
    (by refine ⟨0, asking ready, _, paired ?_⟩ <;> decide +kernel),
    (by refine ⟨0, asking ready, _, 4, 0, _, paired ?_, rfl, ?_⟩ <;> decide +kernel),
    (by refine ⟨0, asking ready, _, paired ?_, ?_, ?_⟩ <;> decide +kernel),
    (by refine ⟨0, asking (ready.modPort 0 fun x => { x with held := [(0, 0, 0)] }), _, 0, 0, 0, [], paired ?_, ?_, ?_⟩ <;>
      decide +kernel),
    (by refine ⟨0, asking ready, _, 0, paired ?_, ?_, ?_⟩ <;> decide +kernel),
    (by refine ⟨0, asking ready, _, paired ?_, ?_, ?_, ?_⟩ <;> decide +kernel),
    ⟨{ code := 1, port := 0, cid := 0, rows := [(0, 0)] }, (0, 0),
      { ready with sub := { selfTest := some { code := 1, port := 0, cid := 0, rows := [(0, 0)] } } }, by decide +kernel⟩,
    ⟨{ code := 1, port := 0, cid := 0 }, { ready with sub := { selfTest := some { code := 1, port := 0, cid := 0 } } }, by
      decide +kernel⟩⟩

/-- The hypotheses of FirmwareAdminRun can all be met. -/
theorem witness_FirmwareAdminRun :
    (∃ (port : Nat) (s : State) (t : State) (target : _) (tcid : _) (outstanding : _) (c : _), s.fetch port 0 = (true, t) ∧
      outstanding < 4 ∧ t.syncSlots.ctx? port target tcid = some c ∧ c.latch = .clear ∧ c.orphan = false) ∧
    (∃ (port : Nat) (s : State) (t : State) (offset : _) (data : _) (u : State), s.fetch port 0 = (true, t) ∧ (((t.key 1).holder
      = 0 ∨ (t.key 1).holder = port + 1)) ∧ t.storePiece offset data = some u) ∧
    (∃ (port : Nat) (cid : Nat) (slot : Nat) (holds : Bool) (s : State) (t : State) (u : State) (v : State), s.fetch port 0 =
      (true, t) ∧ t.takeKey 1 port = some (holds, u) ∧ v = u.addAdmin port cid holds ∧ slot ≤ 2 ∧ slot ≠ v.fw.active ∧
      v.stagingRefused = false) ∧
    (∃ (port : Nat) (cid : Nat) (slot : Nat) (holds : Bool) (s : State) (t : State) (u : State) (v : State), s.fetch port 0 =
      (true, t) ∧ t.takeKey 1 port = some (holds, u) ∧ v = u.addAdmin port cid holds ∧ slot ≤ 2 ∧ slot ≠ v.fw.active ∧
      v.activationBusy = false) :=
  ⟨(by refine ⟨0, asking (serving { port := 0, sqid := 1, cid := 7, kind := .verify } []), _, 1, 7, 0,
      { port := 0, sqid := 1, cid := 7, kind := .verify }, paired ?_, ?_, ?_, ?_, ?_⟩ <;> decide +kernel),
    (by refine ⟨0, asking ({ ready with keys := List.replicate 16 { explicit := 1 } }), _, 0, List.replicate 4 0, _, paired ?_, ?_,
      gave ?_⟩ <;> decide +kernel),
    (by refine ⟨0, 0, 2, true, asking freeKeys, _, _, _, paired ?_, gavePair ?_, rfl, ?_, ?_, ?_⟩ <;> decide +kernel),
    (by refine ⟨0, 0, 2, true, asking freeKeys, _, _, _, paired ?_, gavePair ?_, rfl, ?_, ?_, ?_⟩ <;> decide +kernel)⟩

/-- The hypotheses of FormatAndSanitizeRun can all be met. -/
theorem witness_FormatAndSanitizeRun :
    (∃ (port : Nat) (nsid : Nat) (mapping : Nat) (held : Bool) (s : State) (t : State) (u : State), s.fetch port 0 = (true, t) ∧
      t.sub.sanitize = none ∧ t.takeKey 0 port = some (held, u) ∧ t.sub.format = none ∧ mapping ≤ 1 ∧ ((nsid = 0xFFFFFFFF ∨
      t.nsActive nsid = true)) ∧ t.formatUnfit = false) ∧
    (∃ (f : FormatRun) (s : State), s.sub.format = some f ∧ s.nat O.spindleState = 5 ∧ s.mappedDone = true ∧ s.spindle.powerLost
      = false ∧ f.left = none) ∧
    (∃ (f : FormatRun) (s : State) (l : _), s.sub.format = some f ∧ s.nat O.spindleState = 5 ∧ s.mappedDone = true ∧
      s.spindle.powerLost = false ∧ f.left = some l) ∧
    (∃ (port : Nat) (dword10 : Nat) (held : Bool) (s : State) (t : State) (u : State), s.fetch port 0 = (true, t) ∧
      t.sub.sanitize = none ∧ t.takeKey 0 port = some (held, u) ∧ t.sub.format = none ∧ dword10 % 8 = 3 ∧ dword10 < 1024) ∧
    (∃ (p : SanitizeRun) (s : State), s.sub.sanitize = some p ∧ s.nat O.spindleState = 5 ∧ s.mappedDone = true ∧
      s.spindle.powerLost = false) :=
  ⟨(by refine ⟨0, 0xFFFFFFFF, 0, true, asking ({ freeKeys with layout := {} }), _, _, paired ?_, ?_, gavePair ?_, ?_, ?_, ?_, ?_⟩
      <;> decide +kernel),
    ⟨{ port := 2, cid := 0, mapping := 0 }, { ready with sub := { format := some { port := 2, cid := 0, mapping := 0 } } }, by
      decide +kernel⟩,
    ⟨{ port := 2, cid := 0, mapping := 0, left := some [] },
      { ready with sub := { format := some { port := 2, cid := 0, mapping := 0, left := some [] } } }, [], by decide +kernel⟩,
    (by refine ⟨0, 3, true, asking freeKeys, _, _, paired ?_, ?_, gavePair ?_, ?_, ?_, ?_⟩ <;> decide +kernel),
    ⟨{ dword10 := 3, pattern := 0 }, { ready with sub := { sanitize := some { dword10 := 3, pattern := 0 } } }, by decide +kernel⟩⟩

/-- The hypotheses of SecurityAndDictionaryRun can all be met. -/
theorem witness_SecurityAndDictionaryRun :
    (∃ (port : Nat) (s : State) (t : State), s.fetch port 0 = (true, t)) ∧
    (∃ (port : Nat) (s : State) (t : State), s.fetch port 0 = (true, t)) ∧
    (∃ (port : Nat) (s : State) (t : State), s.fetch port 0 = (true, t) ∧ t.sec.waiting.getD (2 + port) none = none) ∧
    (∃ (port : Nat) (s : State) (t : State) (name : _) (content : _), s.fetch port 0 = (true, t) ∧ t.sec.waiting.getD (2 + port)
      none = some (name, content)) ∧
    (∃ (port : Nat) (object : Nat) (size : Nat) (b : List Nat) (s : State) (t : State), s.fetch port 0 = (true, t) ∧ 1 ≤ size ∧
      size ≤ 1048576 ∧ t.readValue object (some size) = .ok b) ∧
    (∃ (port : Nat) (object : Nat) (data : List Nat) (s : State) (t : State) (u : State), s.fetch port 0 = (true, t) ∧
      (t.putObject (.ofPort port) object (objData object data)).takeAnswer = (0, u)) :=
  ⟨(by refine ⟨0, asking ready, _, paired ?_⟩ <;> decide +kernel),
    (by refine ⟨0, asking ready, _, paired ?_⟩ <;> decide +kernel),
    (by refine ⟨0, asking ready, _, paired ?_, ?_⟩ <;> decide +kernel),
    (by refine ⟨0, asking (ready.modSec fun x => { x with waiting := [none, none, some (4, []), none] }), _, 4, [], paired ?_, ?_⟩
      <;> decide +kernel),
    (by refine ⟨0, O.syncCobId, 4, _, asking ready, _, paired ?_, ?_, ?_, rfl⟩ <;> decide +kernel),
    (by refine ⟨0, O.syncCobId, [0x80, 0, 0, 0], asking ({ ready with keys := List.replicate 16 { explicit := 1 } }), _, _, paired
      ?_, paired ?_⟩ <;> decide +kernel)⟩

/-- The hypotheses of IoCommandsRun can all be met. -/
theorem witness_IoCommandsRun :
    (∃ (port : Nat) (qid : Nat) (nsid : Nat) (s : State) (t : State) (slba : _) (count : _), s.fetch port qid = (true, t) ∧
      t.ioRefusal .read nsid slba count = none) ∧
    (∃ (port : Nat) (qid : Nat) (nsid : Nat) (s : State) (t : State) (slba : _) (count : _), s.fetch port qid = (true, t) ∧
      t.ioRefusal .write nsid slba count = none) ∧
    (∃ (port : Nat) (qid : Nat) (nsid : Nat) (s : State) (t : State) (slba : _) (count : _), s.fetch port qid = (true, t) ∧
      t.ioRefusal .writeZeroes nsid slba count = none) ∧
    (∃ (port : Nat) (qid : Nat) (nsid : Nat) (s : State) (t : State) (slba : _) (count : _), s.fetch port qid = (true, t) ∧
      t.ioRefusal .verify nsid slba count = none) ∧
    (∃ (port : Nat) (qid : Nat) (nsid : Nat) (s : State) (t : State), s.fetch port qid = (true, t) ∧ t.ioRefusal .dataset nsid 0
      0 = none) :=
  ⟨(by refine ⟨0, 1, 1, ready, _, 0, 1, paired ?_, ?_⟩ <;> decide +kernel),
    (by refine ⟨0, 1, 1, ready, _, 0, 1, paired ?_, ?_⟩ <;> decide +kernel),
    (by refine ⟨0, 1, 1, ready, _, 0, 1, paired ?_, ?_⟩ <;> decide +kernel),
    (by refine ⟨0, 1, 1, ready, _, 0, 1, paired ?_, ?_⟩ <;> decide +kernel),
    (by refine ⟨0, 1, 1, ready, _, paired ?_, ?_⟩ <;> decide +kernel)⟩

/-- The hypotheses of FlushCompletesAtOnce can all be met. -/
theorem witness_FlushCompletesAtOnce :
    ∃ (port : Nat) (qid : Nat) (nsid : Nat) (s : State) (u : State), s.fetch port qid = (true, u) ∧ u.ioRefusal .flush nsid 0 0
      = none :=
  by refine ⟨0, 1, 1, ready, _, paired ?_, ?_⟩ <;> decide +kernel

/-- The hypotheses of SchedulingCommandsRun can all be met. -/
theorem witness_SchedulingCommandsRun :
    (∃ (port : _) (qid : _) (cid : _) (c : Ctx) (s : State), s.ctx? port qid cid = some c ∧ c.kind.media = true ∧ c.started =
      false ∧ s.mayStart (.host port qid cid) = true) ∧
    (∃ (port : _) (qid : _) (cid : _) (c : Ctx) (lba : _) (n : _) (u : State) (s : State), s.ctx? port qid cid = some c ∧
      s.nextOp c = some (lba, n) ∧ c.started = true ∧ ((s.nat (O.actuatorService + s.homeAct c.nsid lba) = 3 → c.kind.writes =
      false)) ∧ s.opsOn (s.homeAct c.nsid lba) < 192 ∧ u =
      ({ s with cmds := { s.cmds with ops := s.cmds.ops ++ [{ act := s.homeAct c.nsid lba, port := port, sqid := qid, cid := cid, nsid := c.nsid, lba := lba, count := n, isWrite := c.kind.writes, issued := s.tick, readAhead := false, overlapped := false }] } }
      : State).cancelReads (fun _ => false)) ∧
    (∃ (port : _) (qid : _) (cid : _) (c : Ctx) (lba : _) (n : _) (o : MediaOp) (u : State) (s : State), s.ctx? port qid cid =
      some c ∧ s.nextOp c = some (lba, n) ∧ c.started = true ∧ ((s.nat (O.actuatorService + s.homeAct c.nsid lba) = 3 →
      c.kind.writes = false)) ∧ 192 ≤ s.opsOn (s.homeAct c.nsid lba) ∧ (s.cmds.ops.find? fun o => decide (o.act = s.homeAct
      c.nsid lba) && o.readAhead) = some o ∧ u =
      ({ s with cmds := { s.cmds with ops := (s.cmds.ops.filter fun x => decide (x ≠ o)) ++ [{ act := s.homeAct c.nsid lba, port := port, sqid := qid, cid := cid, nsid := c.nsid, lba := lba, count := n, isWrite := c.kind.writes, issued := s.tick, readAhead := false, overlapped := false }] } }
      : State).cancelReads (fun d => decide (d.purpose = 10) && (decide (o.nsid = d.nsid) && decide (o.lba = d.lba)))) ∧
    (∃ (port : _) (qid : _) (cid : _) (c : Ctx) (s : State), s.ctx? port qid cid = some c ∧ c.kind ≠ .admin ∧ c.deadlineRaised =
      false ∧ c.fetchTick + 1000000 * s.nat O.hostCommandDeadline ≤ s.tick) ∧
    (∃ (c : Ctx) (s : State), s.buffersUsed < 4096 ∧ (s.cmds.ctxs.find? fun c => c.kind.writes && decide (c.waits ≠ [])) = some
      c) ∧
    (∃ (nsid : _) (chunk : _) (b : MergeBuffer) (s : State), s.openBuffer nsid chunk = some b ∧ b.lastData + s.nat O.mergeWindow
      ≤ s.tick) ∧
    (∃ (port : _) (qid : _) (cid : _) (ring : _) (c : Ctx) (o : MediaOp) (s : State), s.ctx? port qid cid = some c ∧ c.atomic =
      true ∧ c.started = true ∧ c.chunks ≠ [] ∧ c.waits = [] ∧ o ∈ s.cmds.ops ∧ o.port = port ∧ o.sqid = qid ∧ o.cid = cid ∧
      o.readAhead = false ∧ s.ringTakes (s.homeAct c.nsid c.slba) ring c.count = true ∧ ((∀ r, r < 24 → s.ringTakes (s.homeAct
      c.nsid c.slba) r c.count = true → s.ringDistance (s.homeAct c.nsid c.slba) ring ≤ s.ringDistance (s.homeAct c.nsid c.slba)
      r)) ∧ ((∀ x ∈ s.cmds.slots, x.port = port → x.sqid = qid → x.cid = cid → x.live = false ∨ x.failed = true))) ∧
    (∃ (act : _) (v : _) (s : State), assoc? s.cmds.watermarkDirty act = some v) :=
  ⟨⟨0, 1, 7, { port := 0, sqid := 1, cid := 7, kind := .read }, serving { port := 0, sqid := 1, cid := 7, kind := .read } [], by
      decide +kernel⟩,
    (by refine ⟨0, 1, 7, { port := 0, sqid := 1, cid := 7, kind := .read, nsid := 1, count := 1, started := true, want := [0] }, 0,
      1, _, serving { port := 0, sqid := 1, cid := 7, kind := .read, nsid := 1, count := 1, started := true, want := [0] } [],
      ?_, ?_, ?_, ?_, ?_, rfl⟩ <;> decide +kernel),
    (by refine ⟨0, 1, 7, { port := 0, sqid := 1, cid := 7, kind := .read, nsid := 1, count := 1, started := true, want := [0] }, 0,
      1, ⟨0, 0, 0, 0, 1, 0, 16, false, 0, true, false⟩, _, serving
      { port := 0, sqid := 1, cid := 7, kind := .read, nsid := 1, count := 1, started := true, want := [0] } (List.replicate 192
      ⟨0, 0, 0, 0, 1, 0, 16, false, 0, true, false⟩), ?_, ?_, ?_, ?_, ?_, ?_, rfl⟩ <;> decide +kernel),
    ⟨0, 1, 7, { port := 0, sqid := 1, cid := 7, kind := .read }, serving { port := 0, sqid := 1, cid := 7, kind := .read } [], by
      decide +kernel⟩,
    ⟨{ port := 0, sqid := 1, cid := 7, kind := .write, waits := [(0, 1)] }, serving
      { port := 0, sqid := 1, cid := 7, kind := .write, waits := [(0, 1)] } [], by decide +kernel⟩,
    ⟨1, 0, ⟨1, 0, 1, [], [], 0, false, 1, false, 0⟩,
      { ready with larder := { buffers := [⟨1, 0, 1, [], [], 0, false, 1, false, 0⟩] } }, by decide +kernel⟩,
    ⟨0, 1, 7, 0,
      { port := 0, sqid := 1, cid := 7, kind := .write, nsid := 1, count := 1, atomic := true, started := true, chunks := [0] },
      ⟨0, 0, 1, 7, 1, 0, 1, true, 0, false, false⟩, serving
      { port := 0, sqid := 1, cid := 7, kind := .write, nsid := 1, count := 1, atomic := true, started := true, chunks := [0] }
      [⟨0, 0, 1, 7, 1, 0, 1, true, 0, false, false⟩], by decide +kernel⟩,
    ⟨0, 5, { ready with cmds := { watermarkDirty := [(0, 5)] } }, by decide +kernel⟩⟩

/-- The hypotheses of FillsAndRestocksRun can all be met. -/
theorem witness_FillsAndRestocksRun :
    (∃ (nsid : _) (number : _) (o : MediaOp) (d : DeviceRead) (u : State) (s : State), (s.cmds.ops.find? fun o => o.readAhead &&
      decide (o.nsid = nsid) && decide (o.lba = 16 * number)) = some o ∧ s.readFor 10 nsid (16 * number) = some d ∧ d.want = []
      ∧ u =
      ({ s with cmds := { s.cmds with ops := s.cmds.ops.filter fun o => !(o.readAhead && decide (o.nsid = nsid) && decide (o.lba = 16 * number)) } }
      : State).endRead d ∧ o.overlapped = true) ∧
    (∃ (nsid : _) (number : _) (o : MediaOp) (d : DeviceRead) (u : State) (s : State), (s.cmds.ops.find? fun o => o.readAhead &&
      decide (o.nsid = nsid) && decide (o.lba = 16 * number)) = some o ∧ s.readFor 10 nsid (16 * number) = some d ∧ d.want = []
      ∧ u =
      ({ s with cmds := { s.cmds with ops := s.cmds.ops.filter fun o => !(o.readAhead && decide (o.nsid = nsid) && decide (o.lba = 16 * number)) } }
      : State).endRead d ∧ o.overlapped = false ∧ u.nat O.readAheadEnable ≠ 0 ∧ u.nat O.larderEnable ≠ 0 ∧ d.sectors ≠ [] ∧
      u.larderLine nsid number = none ∧ u.pantryLine nsid number = none ∧ u.larder.pantry.length < 32768) ∧
    (∃ (nsid : _) (chunk : _) (p : Place) (s : State), s.locate nsid (64 * chunk) = some p ∧ s.toRestock nsid chunk ≠ [] ∧
      (((s.lockOf (.restock nsid chunk)).isSome = true ∨ ((s.spareFor p.act 2 = true ∨ s.lowWater p.act = true ∨ (s.toRestock
      nsid chunk).any (·.urgent) = true) ∧ s.restockWaits p.act ((s.toRestock nsid chunk).any (·.urgent)) = false)))) :=
  ⟨(by refine ⟨1, 0, ⟨0, 0, 0, 0, 1, 0, 16, false, 0, true, true⟩, ⟨0, 10, 0, 1, 0, [], []⟩, _,
      { ready with cmds := { ops := [⟨0, 0, 0, 0, 1, 0, 16, false, 0, true, true⟩] }, detect := { reads := [⟨0, 10, 0, 1, 0, [], []⟩] } },
      ?_, ?_, ?_, rfl, ?_⟩ <;> decide +kernel),
    (by refine ⟨1, 0, ⟨0, 0, 0, 0, 1, 0, 16, false, 0, true, false⟩, ⟨0, 10, 0, 1, 0, [], [⟨0, 66, 0, 0, 0, 1, false, some {}⟩]⟩, _,
      ({ ready with cmds := { ops := [⟨0, 0, 0, 0, 1, 0, 16, false, 0, true, false⟩] }, detect := { reads := [⟨0, 10, 0, 1, 0, [], [⟨0, 66, 0, 0, 0, 1, false, some {}⟩]⟩] } }
      : State).setNat O.larderEnable 1, ?_, ?_, ?_, rfl, ?_, ?_, ?_, ?_, ?_, ?_, ?_⟩ <;> decide +kernel),
    ⟨1, 0, aPlace, { ready with cmds := { slots := [{ aSlot with stage := 3, copies := 2, data := [] }] } }, by decide +kernel⟩⟩

/-- The hypotheses of DetectionRuns can all be met. -/
theorem witness_DetectionRuns :
    (∃ (stream : _) (sector : _) (s : State), s.streamRead stream = true ∧ sector < s.trackSectors (stream / 2)) ∧
    (∃ (decoder : _) (x : Turn) (s : State), (s.detect.turns.find? fun t => decide (t.decoder = decoder)) = some x) ∧
    (∃ (stream : _) (x : SectorInFlight) (rest : _) (s : State), (s.stream stream).backlog = x :: rest ∧ s.freeDecoders ≠ [] ∧
      s.inlineWaits = false) ∧
    (∃ (s : State), ((∀ t, s.detect.testedAt = some t → t + 86400000000 ≤ s.tick))) :=
  ⟨⟨0, 0, ready, by decide +kernel⟩,
    ⟨5, ⟨5, 0, aSector, 0⟩, { ready with detect := { turns := [⟨5, 0, aSector, 0⟩] } }, by decide +kernel⟩,
    ⟨0, aSector, [], ready.modStream 0 fun t => { t with backlog := [aSector] }, by decide +kernel⟩,
    ⟨ready, by decide +kernel⟩⟩

/-- The hypotheses of LadderStepsRun can all be met. -/
theorem witness_LadderStepsRun :
    (∃ (ladder : Nat) (l : Ladder) (s : State), s.ladder? ladder = some l ∧ s.stepMay l 1 = true ∧ s.freeDecoders ≠ [] ∧
      s.inlineWaits = false) ∧
    (∃ (ladder : Nat) (l : Ladder) (s : State), s.ladder? ladder = some l ∧ s.stepMay l 2 = true ∧ (s.slotsNeeded l).length ≤
      s.capturesFree ∧ ((∀ m ∈ s.detect.ladders, m.waiting = true → m.id ≠ l.id → l.waiting = true ∧ l.id < m.id))) ∧
    (∃ (ladder : Nat) (l : Ladder) (s : State), s.ladder? ladder = some l ∧ s.stepMay l 2 = true ∧ s.capturesFree <
      (s.slotsNeeded l).length ∧ l.waiting = false) ∧
    (∃ (ladder : Nat) (l : Ladder) (s : State), s.ladder? ladder = some l ∧ s.stepMay l 3 = true ∧ s.averagesNow l = true) ∧
    (∃ (ladder : Nat) (l : Ladder) (s : State), s.ladder? ladder = some l ∧ s.stepMay l 4 = true ∧ l.running ≠ 4 ∧ s.phaseTaken
      l 4 2 = false ∧ ((∀ m ∈ s.detect.ladders, m.stream / 2 = l.stream / 2 → m.running ≠ 5))) ∧
    (∃ (ladder : Nat) (l : Ladder) (s : State), s.ladder? ladder = some l ∧ s.stepMay l 4 = true ∧ l.running = 4 ∧ l.sub = 1) ∧
    (∃ (ladder : Nat) (l : Ladder) (s : State), s.ladder? ladder = some l ∧ s.stepMay l 4 = true ∧ l.running = 4 ∧ l.sub ≠ 1 ∧
      s.phaseTaken l 4 1 = false ∧ assoc? s.rafter.setPoints (64 * actOf (l.stream / 2) + (2 + l.stream / 2 % 6)) = some
      (-(s.ladderOffset (l.stream / 2)))) ∧
    (∃ (ladder : Nat) (l : Ladder) (s : State), s.ladder? ladder = some l ∧ s.stepMay l 5 = true ∧ l.running ≠ 5 ∧ ((∀ m ∈
      s.detect.ladders, m.stream / 2 = l.stream / 2 → m.running ≠ 4))) ∧
    (∃ (ladder : Nat) (l : Ladder) (s : State), s.ladder? ladder = some l ∧ s.stepMay l 5 = true ∧ l.running = 5 ∧ l.since +
      s.revolution ≤ s.tick) :=
  ⟨⟨0, { aLadder with outcome := 2, held := true }, climbing { aLadder with outcome := 2, held := true }, by decide +kernel⟩,
    ⟨0, { aLadder with step := 1 }, climbing { aLadder with step := 1 }, by decide +kernel⟩,
    ⟨0, { aLadder with step := 1 },
      { climbing { aLadder with step := 1 } with detect := { ladders := [{ aLadder with step := 1 }], captures := List.replicate 8 (1, 7) } },
      by decide +kernel⟩,
    ⟨0, { aLadder with step := 2, slots := [0] }, climbing { aLadder with step := 2, slots := [0] }, by decide +kernel⟩,
    ⟨0, { aLadder with step := 3 }, climbing { aLadder with step := 3 }, by decide +kernel⟩,
    ⟨0, { aLadder with step := 3, running := 4, sub := 1 }, climbing { aLadder with step := 3, running := 4, sub := 1 }, by
      decide +kernel⟩,
    ⟨0, { aLadder with step := 3, running := 4, sub := 2 },
      { climbing { aLadder with step := 3, running := 4, sub := 2 } with rafter := { setPoints := [(2, 0)] } }, by
      decide +kernel⟩,
    ⟨0, { aLadder with step := 4 }, climbing { aLadder with step := 4 }, by decide +kernel⟩,
    ⟨0, { aLadder with step := 4, running := 5, passes := 1, slots := [0] }, climbing
      { aLadder with step := 4, running := 5, passes := 1, slots := [0] }, by decide +kernel⟩⟩

/-- The hypotheses of LadderLimitsRun can all be met. -/
theorem witness_LadderLimitsRun :
    (∃ (ladder : _) (l : Ladder) (s : State), s.ladder? ladder = some l ∧ s.ladderLate l = true ∧ s.stepRuns l = false) ∧
    (∃ (ladder : _) (l : Ladder) (s : State), s.ladder? ladder = some l ∧ ((s.nat (O.clockState + l.stream / 2) = 5 ∨ (s.nat
      (O.clockState + l.stream / 2) = 1 ∧ (s.act (actOf (l.stream / 2))).load = 2))) ∧ max l.entered (s.head (l.stream /
      2)).lostAt + 1000 * l.config.clockWait ≤ s.tick) ∧
    (∃ (l : Ladder) (s : State), s.detect.ladders.find? Ladder.waiting = some l ∧ (s.slotsNeeded l).length ≤ s.capturesFree) ∧
    (∃ (nsid : _) (lba : _) (r : Refresh) (p : Place) (s : State), r ∈ s.detect.refreshes ∧ r.nsid = nsid ∧ r.lba = lba ∧
      s.locate nsid (lba / 64 * 64) = some p) :=
  ⟨⟨0, { aLadder with entered := 0 }, climbing { aLadder with entered := 0 }, by decide +kernel⟩,
    ⟨0, { aLadder with entered := 0 }, (climbing { aLadder with entered := 0 }).setNat O.clockState 5, by decide +kernel⟩,
    ⟨{ aLadder with entered := 0, waiting := true }, climbing { aLadder with entered := 0, waiting := true }, by decide +kernel⟩,
    ⟨1, 0, ⟨0, 1, 0, 0, false, []⟩, aPlace, { ready with detect := { refreshes := [⟨0, 1, 0, 0, false, []⟩] } }, by decide +kernel⟩⟩

/-- The hypotheses of WriteBurstsRun can all be met. -/
theorem witness_WriteBurstsRun :
    (∃ (head : _) (nsid : _) (lba : _) (w : ChunkWrite) (s : State), s.chunkOf head nsid lba s.burstMay = some w ∧ (s.head
      head).lead = none) ∧
    (∃ (head : _) (nsid : _) (lba : _) (w : ChunkWrite) (s : State), s.chunkOf head nsid lba s.burstMay = some w ∧ (s.head
      head).lead ≠ none ∧ s.leadDone head = true ∧ s.atNextSector w = true) ∧
    (∃ (head : _) (w : ChunkWrite) (s : State), (s.write.chunks.find? fun w => decide (w.head = head) && w.open_ && s.burstOver
      w) = some w) ∧
    (∃ (head : _) (nsid : _) (lba : _) (w : ChunkWrite) (s : State), (s.chunkOf head nsid lba fun w => !w.open_ && !w.ended &&
      !w.flagged && w.cut && decide (s.nat O.writeRetryLimit ≤ w.retries)) = some w ∧ w.isHome = true ∧ w.kind ≠ 1) ∧
    (∃ (head : _) (nsid : _) (lba : _) (w : ChunkWrite) (s : State), (s.chunkOf head nsid lba fun w => !w.open_ && !w.ended &&
      !w.flagged && w.cut && decide (s.nat O.writeRetryLimit ≤ w.retries)) = some w ∧ w.isHome = false ∧ w.kind ≠ 1) ∧
    (∃ (head : _) (nsid : _) (lba : _) (w : ChunkWrite) (s : State), (s.chunkOf head nsid lba fun w => !w.open_ && !w.ended &&
      !w.flagged && w.cut && decide (s.nat O.writeRetryLimit ≤ w.retries)) = some w ∧ w.kind = 1 ∧ w.total < w.written) ∧
    (∃ (head : _) (nsid : _) (lba : _) (w : ChunkWrite) (s : State) (c : _), (s.chunkOf head nsid lba fun w => !w.open_ &&
      !w.ended && !w.flagged && w.cut && decide (s.nat O.writeRetryLimit ≤ w.retries)) = some w ∧ w.kind = 1 ∧ w.written ≤
      w.total ∧ s.slotOf w = some c) ∧
    (∃ (head : _) (nsid : _) (lba : _) (w : ChunkWrite) (s : State), (s.chunkOf head nsid lba fun w => decide (w.missing ≠ []))
      = some w ∧ s.readFor 1 nsid lba = none) ∧
    (∃ (head : _) (nsid : _) (lba : _) (w : ChunkWrite) (s : State) (d : _), (s.chunkOf head nsid lba fun w => decide (w.missing
      ≠ [])) = some w ∧ s.readFor 1 nsid lba = some d ∧ d.want = [] ∧ d.covers (w.missing.map (lba + ·)) = true) ∧
    (∃ (head : _) (nsid : _) (lba : _) (w : ChunkWrite) (s : State) (d : _), (s.chunkOf head nsid lba fun w => decide (w.missing
      ≠ [])) = some w ∧ s.readFor 1 nsid lba = some d ∧ d.want = [] ∧ d.covers (w.missing.map (lba + ·)) = false) ∧
    (∃ (nsid : _) (lba : _) (s : State), s.nat O.ledgerAuditEnable = 1 ∧ s.spareFor (s.homeAct nsid lba) 6 = true) ∧
    (∃ (s : State), s.write.dirty ≠ [] ∧ ((s.write.flushedAt + 1000000 * s.nat O.ledgerFlushPeriod ≤ s.tick ∨ s.nat
      O.ledgerDirtyMax ≤ s.write.dirty.length ∨ s.nat O.sleepEntryState = 1))) :=
  ⟨⟨0, 1, 0, aChunk, writing aChunk, by decide +kernel⟩,
    ⟨0, 1, 0, aChunk, ((writing aChunk).modHead 0 fun x =>
      { x with lead := some 0, lane := 66, count := 64 * sectorStart readyZone 66 0 }).modPcl 0 fun c =>
      { c with shadow := [(4, 2)] }, by decide +kernel⟩,
    ⟨0, { aChunk with open_ := true, run := 0 }, writing { aChunk with open_ := true, run := 0 }, by decide +kernel⟩,
    ⟨0, 1, 0, { aChunk with cut := true, retries := 100 }, writing { aChunk with cut := true, retries := 100 }, by decide +kernel⟩,
    ⟨0, 1, 0, { aChunk with kind := 3, cut := true, retries := 100 }, writing
      { aChunk with kind := 3, cut := true, retries := 100 }, by decide +kernel⟩,
    ⟨0, 1, 0, { aChunk with kind := 1, cut := true, retries := 100, written := 65 }, writing
      { aChunk with kind := 1, cut := true, retries := 100, written := 65 }, by decide +kernel⟩,
    ⟨0, 1, 0, { slotWrite with verifying := false, cut := true, retries := 100 },
      { writing { slotWrite with verifying := false, cut := true, retries := 100 } with cmds := { slots := [aSlot] } }, aSlot,
      by decide +kernel⟩,
    ⟨0, 1, 0, { aChunk with missing := [3] }, writing { aChunk with missing := [3] }, by decide +kernel⟩,
    ⟨0, 1, 0, { aChunk with missing := [3] },
      { writing { aChunk with missing := [3] } with detect := { reads := [⟨0, 1, 0, 1, 0, [], [⟨3, 66, 0, 3, 0, 1, false, some {}⟩]⟩] } },
      ⟨0, 1, 0, 1, 0, [], [⟨3, 66, 0, 3, 0, 1, false, some {}⟩]⟩, by decide +kernel⟩,
    ⟨0, 1, 0, { aChunk with missing := [3] },
      { writing { aChunk with missing := [3] } with detect := { reads := [⟨0, 1, 0, 1, 0, [], []⟩] } }, ⟨0, 1, 0, 1, 0, [], []⟩,
      by decide +kernel⟩,
    ⟨1, 0, ready.setNat O.ledgerAuditEnable 1, by decide +kernel⟩,
    ⟨{ ready with write := { dirty := [(0, 0)] } }, by decide +kernel⟩⟩

/-- The hypotheses of BurstsOpenOnConfirmedHeadsOnly can all be met. -/
theorem witness_BurstsOpenOnConfirmedHeadsOnly :
    ∃ (head : Nat) (s : State), s.nat (O.clockState + head) ≠ 3 :=
  ⟨0, ready.setNat O.clockState 1, by decide +kernel⟩

/-- The hypotheses of VerifyAndRemapRun can all be met. -/
theorem witness_VerifyAndRemapRun :
    (∃ (head : _) (nsid : _) (lba : _) (w : ChunkWrite) (s : State), s.chunkOf head nsid lba ChunkWrite.verifying = some w ∧
      s.readFor 8 nsid lba = none) ∧
    (∃ (head : _) (nsid : _) (lba : _) (w : ChunkWrite) (s : State) (d : _), s.chunkOf head nsid lba ChunkWrite.verifying = some
      w ∧ s.readFor 8 nsid lba = some d ∧ d.want = []) ∧
    (∃ (head : _) (lane : _) (c : AdjacentCheck) (s : State), (s.write.adjacent.find? fun c => decide (c.head = head) && decide
      (c.lane = lane)) = some c ∧ s.readFor 3 head (2 * lane + c.track) = none ∧ (s.act (actOf head)).load = 2) ∧
    (∃ (head : _) (lane : _) (c : AdjacentCheck) (s : State) (d : _), (s.write.adjacent.find? fun c => decide (c.head = head) &&
      decide (c.lane = lane)) = some c ∧ s.readFor 3 head (2 * lane + c.track) = some d ∧ d.want = []) ∧
    (∃ (surface : _) (zone : _) (offset : _) (r : Remap) (t : ZoneTable) (e : ZoneEntry) (s : State) (u : State), s.remap?
      surface zone offset = some r ∧ s.zoneTable surface = some t ∧ s.zoneOf surface zone = some e ∧ r.stage = 0 ∧ (s.act (actOf
      surface)).load = 2 ∧ offset < e.cellarLanes ∧ s.remapMay (.remap surface (e.firstLane + offset)) ((s.write.chunks.filter
      fun w => decide (w.head = surface) && s.laneBusy surface w.lane).flatMap fun w => (s.chunkOwners w).map fun o =>
      LockOwner.host o.1 o.2.1 o.2.2) = true ∧ u = s.remapStage surface zone offset 1) ∧
    (∃ (surface : _) (zone : _) (offset : _) (r : Remap) (t : ZoneTable) (e : ZoneEntry) (s : State) (u : State), s.remap?
      surface zone offset = some r ∧ s.zoneTable surface = some t ∧ s.zoneOf surface zone = some e ∧ r.stage = 0 ∧ (s.act (actOf
      surface)).load = 2 ∧ e.cellarLanes ≤ offset ∧ (s.lockOf (.remap surface (e.firstLane + offset))).isSome = false ∧
      s.deviceLocks + (s.domainRanges (actOf surface) (rowSectors t.entries zone (offset - e.cellarLanes)).1 (rowSectors
      t.entries zone (offset - e.cellarLanes)).2).length ≤ 64 ∧ s.domainRanges (actOf surface) (rowSectors t.entries zone
      (offset - e.cellarLanes)).1 (rowSectors t.entries zone (offset - e.cellarLanes)).2 ≠ [] ∧ u = (s.domainRanges (actOf
      surface) (rowSectors t.entries zone (offset - e.cellarLanes)).1 (rowSectors t.entries zone (offset -
      e.cellarLanes)).2).foldl (fun (v : State) x => v.insertLock x.1 x.2.1 x.2.2 true (.remap surface (e.firstLane + offset)))
      s) ∧
    (∃ (surface : _) (zone : _) (offset : _) (r : Remap) (t : ZoneTable) (e : ZoneEntry) (s : State) (d : _), s.remap? surface
      zone offset = some r ∧ s.zoneTable surface = some t ∧ s.zoneOf surface zone = some e ∧ r.stage = 1 ∧ s.readFor 5 surface
      (zone * 2 ^ 32 + offset) = some d ∧ d.want = []) ∧
    (∃ (surface : _) (zone : _) (offset : _) (r : Remap) (e : ZoneEntry) (s : State), s.remap? surface zone offset = some r ∧
      s.zoneOf surface zone = some e ∧ 3 ≤ r.stage ∧ s.systemMay (if r.stage = 5 then partnerSurface surface else surface) =
      true) :=
  ⟨⟨0, 1, 0, slotWrite, { writing slotWrite with cmds := { slots := [aSlot] } }, by decide +kernel⟩,
    ⟨0, 1, 0, slotWrite, { writing slotWrite with detect := { reads := [⟨0, 8, 0, 1, 0, [], []⟩] } }, ⟨0, 8, 0, 1, 0, [], []⟩, by
      decide +kernel⟩,
    ⟨0, 66, ⟨0, 66, 0, 0, 1, false, false⟩, { ready with write := { adjacent := [⟨0, 66, 0, 0, 1, false, false⟩] } }, by
      decide +kernel⟩,
    ⟨0, 66, ⟨0, 66, 0, 0, 1, false, false⟩,
      { ready with write := { adjacent := [⟨0, 66, 0, 0, 1, false, false⟩] }, detect := { reads := [⟨0, 3, 0, 0, 132, [], []⟩] } },
      ⟨0, 3, 0, 0, 132, [], []⟩, by decide +kernel⟩,
    (by refine ⟨0, 0, 1, ⟨0, 0, 1, 0, 0⟩, { surface := 0, entries := [readyZone] }, readyZone,
      { ready with layout := { ready.layout with remaps := [⟨0, 0, 1, 0, 0⟩] } }, _, ?_, ?_, ?_, ?_, ?_, ?_, ?_, rfl⟩ <;>
      decide +kernel),
    (by refine ⟨0, 0, 5, ⟨0, 0, 5, 0, 0⟩, { surface := 0, entries := [readyZone] }, readyZone,
      { ready with layout := { ready.layout with remaps := [⟨0, 0, 5, 0, 0⟩] } }, _, ?_, ?_, ?_, ?_, ?_, ?_, ?_, ?_, ?_, rfl⟩
      <;> decide +kernel),
    ⟨0, 0, 5, ⟨0, 0, 5, 0, 1⟩, { surface := 0, entries := [readyZone] }, readyZone,
      { ready with layout := { ready.layout with remaps := [⟨0, 0, 5, 0, 1⟩] }, detect := { reads := [⟨0, 5, 0, 0, 5, [], []⟩] } },
      ⟨0, 5, 0, 0, 5, [], []⟩, by decide +kernel⟩,
    ⟨0, 0, 5, ⟨0, 0, 5, 0, 3⟩, readyZone, { ready with layout := { ready.layout with remaps := [⟨0, 0, 5, 0, 3⟩] } }, by
      decide +kernel⟩⟩

/-- The hypotheses of PositioningCommandsRun can all be met. -/
theorem witness_PositioningCommandsRun :
    (∃ (head : _) (s : State), s.sampled head = true) ∧
    (∃ (act : _) (zone : _) (row : _) (s : State), s.hasAct act = true ∧ (s.act act).load = 2 ∧ s.passesOver act zone row =
      false ∧ ((∀ h ∈ headsOf act, s.nat (O.headService + h) = 3 ∨ ∃ e, s.zoneOf h zone = some e ∧ row < e.laneCount -
      e.spareLanes)) ∧ (s.act act).seeking = false ∧ s.narrowWork act = false ∧ s.passWork act = false) ∧
    (∃ (act : _) (zone : _) (row : _) (s : State), s.hasAct act = true ∧ (s.act act).load = 2 ∧ s.passesOver act zone row =
      false ∧ ((∀ h ∈ headsOf act, s.nat (O.headService + h) = 3 ∨ ∃ e, s.zoneOf h zone = some e ∧ row < e.laneCount -
      e.spareLanes)) ∧ (s.act act).seeking = true) ∧
    (∃ (act : _) (sub : _) (s : State), s.hasAct act = true ∧ (s.act act).load = 2 ∧ (s.act act).seeking = true ∧ s.subTime sub
      % 8000 = 0 ∧ (s.act act).nextTarget = none ∧ ((∀ h ∈ s.steering act, (s.head h).lane = (s.head h).target))) ∧
    (∃ (act : _) (sub : _) (s : State) (zone : _) (row : _) (only : _), s.hasAct act = true ∧ (s.act act).load = 2 ∧ (s.act
      act).seeking = true ∧ s.subTime sub % 8000 = 0 ∧ (s.act act).nextTarget = some (zone, row, only)) ∧
    (∃ (head : _) (s : State), s.sampled head = true ∧ (s.act (actOf head)).load = 1 ∧ (s.head head).crossed = false) ∧
    (∃ (head : _) (outerFirst : _) (u : State) (s : State), s.sampled head = true ∧ (s.act (actOf head)).load ≠ 4 ∧ (((s.act
      (actOf head)).load = 1 → (s.head head).crossed = true)) ∧ u = (s.modHead head fun x => x.cross outerFirst (s.rsl (3 * head
      + 2)).received).capAtZone head (s.head head).lane) ∧
    (∃ (head : _) (x : _) (s : State), s.readFor 7 head 0 = none ∧ s.hasHead head = true ∧ (s.act (actOf head)).load = 2 ∧
      (s.act (actOf head)).seeking = false ∧ (s.head head).onRow = true ∧ s.nat (O.rslState + 3 * head) = 3 ∧ s.laneCheckDue
      head = true ∧ s.nextServed head 0 = some x) ∧
    (∃ (head : _) (d : _) (s : State), s.readFor 7 head 0 = some d ∧ d.want = []) ∧
    (∃ (act : _) (s : State), s.hasAct act = true ∧ (s.act act).load = 2 ∧ (s.act act).seeking = false ∧ (s.act act).verified =
      false ∧ s.nat O.laneCheckSectors ≤ (s.act act).checks) :=
  ⟨⟨0, ready, by decide +kernel⟩,
    ⟨0, 0, 0, ready, by decide +kernel⟩,
    ⟨0, 0, 0, { ready with acts := List.replicate 4 { load := 2, seeking := true } }, by decide +kernel⟩,
    ⟨0, 0, { ready with heads := List.replicate 24 {}, acts := List.replicate 4 { load := 2, seeking := true } }, by decide +kernel⟩,
    ⟨0, 0, { ready with acts := List.replicate 4 { load := 2, seeking := true, nextTarget := some (0, 0, none) } }, 0, 0, none, by
      decide +kernel⟩,
    ⟨0, { ready with acts := List.replicate 4 { load := 1 } }, by decide +kernel⟩,
    (by refine ⟨0, 0, _, ready, ?_, ?_, ?_, rfl⟩ <;> decide +kernel),
    ⟨0, (((ready.modHead 0 fun x => { x with awaitGood := true, count := 64 * sectorStart readyZone 66 0 })).nextServed 0 0).getD
      aSector, ready.modHead 0 fun x => { x with awaitGood := true, count := 64 * sectorStart readyZone 66 0 }, by
      decide +kernel⟩,
    ⟨0, ⟨0, 7, 0, 0, 0, [], []⟩, { ready with detect := { reads := [⟨0, 7, 0, 0, 0, [], []⟩] } }, by decide +kernel⟩,
    ⟨0, { ready with acts := List.replicate 4 { load := 2, checks := 1000 } }, by decide +kernel⟩⟩

/-- The hypotheses of LoadCommandsRun can all be met. -/
theorem witness_LoadCommandsRun :
    (∃ (act : _) (s : State), s.hasAct act = true ∧ ((s.nat (O.actuatorService + act) = 3 → s.returning act = true)) ∧ (s.act
      act).load = 0 ∧ (s.act act).loadWanted = true ∧ s.surgeGranted? 2 act = true ∧ s.nat O.loadSpeedMin * s.nat
      O.spindleNominalRpm * 10 ≤ s.spindle.mrpm ∧ (s.pcl (2 * act)).broughtUp = true ∧ (s.pcl (2 * act + 1)).broughtUp = true ∧
      s.parkHeld act = false) ∧
    (∃ (act : _) (s : State), s.hasAct act = true ∧ ((s.nat (O.actuatorService + act) = 3 → s.returning act = true)) ∧ (s.act
      act).load = 1 ∧ ((∀ h ∈ headsOf act, (s.nat (O.headService + h) = 3 ∧ s.returning act = false) ∨ (s.head h).crossed =
      true))) ∧
    (∃ (act : _) (u : State) (s : State), s.hasAct act = true ∧ (s.act act).load = 1 ∧ ((∃ h ∈ headsOf act, (s.head h).crossed =
      false ∧ (s.nat (O.headService + h) = 3 → s.returning act = true))) ∧ (s.act act).loadStart + 1000 * s.nat O.loadTimeout ≤
      s.tick ∧ u = s.modSmart (fun x => { x with failedLoads := x.failedLoads + 1 })) ∧
    (∃ (act : _) (s : State), s.hasAct act = true ∧ (s.act act).load = 3 ∧ (s.act act).unloadAt = none ∧ ((∀ h ∈ s.steering act,
      (s.head h).lane = 0))) ∧
    (∃ (act : _) (t : _) (u : State) (s : State), s.hasAct act = true ∧ (s.act act).load = 3 ∧ (s.act act).unloadAt = some t ∧ t
      + 1000 * s.nat O.safeParkTime ≤ s.tick ∧ u = ((s.headsParked act).stopLoops act).modAct act (fun x =>
      { x with load := 0, parkCause := 0, seeking := false, unloadAt := none })) ∧
    (∃ (act : _) (s : State), s.hasAct act = true ∧ (s.act act).load = 4 ∧ (s.act act).parkEnd ≤ s.tick ∧ (headsOf act).any
      s.overMedia = true ∧ (s.act act).parkReruns = 0) ∧
    (∃ (act : _) (u : State) (s : State), s.hasAct act = true ∧ (s.act act).load = 4 ∧ (s.act act).parkEnd ≤ s.tick ∧ u =
      ((s.headsParked act).modAct act fun x => { x with load := 0 }).vcmFrame act ∧ (((headsOf act).any s.overMedia = true →
      (s.act act).parkReruns ≠ 0))) :=
  ⟨⟨0,
      { ready with acts := List.replicate 4 { loadWanted := true }, power := { granted := [⟨2, 0, 1⟩] }, links := { pcls := List.replicate 8 { broughtUp := true } } },
      by decide +kernel⟩,
    ⟨0, { ready with acts := List.replicate 4 { load := 1 }, heads := List.replicate 24 { crossed := true } }, by decide +kernel⟩,
    (by refine ⟨0, _, { ready with acts := List.replicate 4 { load := 1 } }, ?_, ?_, ?_, ?_, rfl⟩ <;> decide +kernel),
    ⟨0, { ready with acts := List.replicate 4 { load := 3 }, heads := List.replicate 24 { admitted := true, onRow := true } }, by
      decide +kernel⟩,
    (by refine ⟨0, 0, _, { ready with acts := List.replicate 4 { load := 3, unloadAt := some 0 } }, ?_, ?_, ?_, ?_, rfl⟩ <;>
      decide +kernel),
    ⟨0, ({ ready with acts := List.replicate 4 { load := 4 }, heads := List.replicate 24 { ampRef := 1 } } : State).setNat
      O.offStripeAmpLimit 0, by decide +kernel⟩,
    (by refine ⟨0, _, { ready with acts := List.replicate 4 { load := 4 } }, ?_, ?_, ?_, rfl, ?_⟩ <;> decide +kernel)⟩

/-- The hypotheses of SensorCommandsRun can all be met. -/
theorem witness_SensorCommandsRun :
    (∃ (sensor : _) (s : State), (s.nat O.sensorFitted).testBit sensor = true ∧ sensor < 2 ∧ s.nat (O.sensorState + sensor) ≠ 2) ∧
    (∃ (sensor : _) (u : State) (s : State), (s.nat O.sensorFitted).testBit sensor = true ∧ sensor < 2 ∧ s.nat (O.sensorState +
      sensor) = 2 ∧ s.pos.retryAt.getD sensor 0 + 1000000 ≤ s.tick ∧ u =
      { s.sensorAsk sensor with pos := { (s.sensorAsk sensor).pos with retryAt := (s.sensorAsk sensor).pos.retryAt.set sensor (s.sensorAsk sensor).tick } }) ∧
    (∃ (s : State), s.pos.inhibit = true ∧ s.pos.lastShock + s.nat O.shockHold ≤ s.tick) ∧
    (∃ (s : State), s.pos.lastShock + 1000 * s.nat O.shockReloadDelay ≤ s.tick) :=
  ⟨⟨0, (ready.setNat O.sensorState 1).setNat O.sensorFitted 3, by decide +kernel⟩,
    (by refine ⟨0, _, (ready.setNat O.sensorState 2).setNat O.sensorFitted 3, ?_, ?_, ?_, ?_, rfl⟩ <;> decide +kernel),
    ⟨{ ready with pos := { inhibit := true } }, by decide +kernel⟩,
    ⟨ready, by decide +kernel⟩⟩

/-- The hypotheses of HeadHealthRuns can all be met. -/
theorem witness_HeadHealthRuns :
    (∃ (head : _) (s : State), s.hasHead head = true ∧ s.nat (O.headService + head) ≠ 3 ∧ ((s.nat (O.clockState + head) = 2 ∨
      s.nat (O.clockState + head) = 3)) ∧ (s.head head).unhealthy ≠ 0) ∧
    (∃ (head : _) (s : State), s.hasHead head = true ∧ s.nat (O.headService + head) ≠ 3 ∧ s.nat (O.clockState + head) = 4 ∧
      ((s.nat (O.clockState + s.nat (O.lender + head)) ≠ 3 ∨ s.nat (O.rslState + 3 * s.nat (O.lender + head) + 2) = 2 ∨ s.nat
      (O.headService + s.nat (O.lender + head)) = 3))) ∧
    (∃ (head : _) (s : State), s.hasHead head = true ∧ (s.head head).unhealthy ≠ 0 ∧ (s.head head).held = false ∧ (s.act (actOf
      head)).load = 2 ∧ s.nat (O.positionState + head) ≠ 8) ∧
    (∃ (head : _) (v : _) (s : State), s.hasHead head = true ∧ (s.head head).readOnly = true ∧ (s.head head).unhealthy = 0 ∧
      s.nat (O.clockState + head) = 3 ∧ (s.head head).validSince = some v ∧ v + s.nat O.readOnlyHold * s.revolution ≤ s.tick) ∧
    (∃ (head : _) (at_ : _) (u : State) (s : State), (s.head head).indexAt = some at_ ∧ s.sampled head = true ∧ (s.act (actOf
      head)).load = 2 ∧ u = s.revolutionOf head ∧ s.nat (O.clockState + head) = 2 ∧ (u.head head).unhealthy = 0) ∧
    (∃ (head : _) (at_ : _) (u : State) (s : State), (s.head head).indexAt = some at_ ∧ s.sampled head = true ∧ (s.act (actOf
      head)).load = 2 ∧ u = s.revolutionOf head ∧ s.nat (O.clockState + head) = 3 ∧ at_.natAbs ≤ 64) ∧
    (∃ (head : _) (at_ : _) (u : State) (s : State), (s.head head).indexAt = some at_ ∧ s.sampled head = true ∧ (s.act (actOf
      head)).load = 2 ∧ u = s.revolutionOf head ∧ s.nat (O.clockState + head) = 3 ∧ 64 < at_.natAbs) ∧
    (∃ (head : _) (at_ : _) (u : State) (s : State), (s.head head).indexAt = some at_ ∧ s.sampled head = true ∧ (s.act (actOf
      head)).load = 2 ∧ u = s.revolutionOf head ∧ (s.head head).revClean = true ∧ (((s.nat (O.clockState + head) = 4 ∧
      at_.natAbs ≤ 64) ∨ s.nat (O.clockState + head) = 5))) ∧
    (∃ (head : _) (s : State), s.nat (O.clockState + head) = 2 ∧ (s.head head).provisionalAt + s.revolution * 5 / 4 ≤ s.tick) :=
  ⟨⟨0, ready.modHead 0 fun x => { x with unhealthy := 2 }, by decide +kernel⟩,
    ⟨0, ready.setNat O.clockState 4, by decide +kernel⟩,
    ⟨0, ready.modHead 0 fun x => { x with unhealthy := 2, maoHistory := [5] }, by decide +kernel⟩,
    ⟨0, 0, ready.modHead 0 fun x => { x with readOnly := true, validSince := some 0 }, by decide +kernel⟩,
    (by refine ⟨0, 0, _, (ready.modHead 0 fun x => { x with indexAt := some 0 }).setNat O.clockState 2, ?_, ?_, ?_, rfl, ?_, ?_⟩ <;>
      decide +kernel),
    (by refine ⟨0, 0, _, ready.modHead 0 fun x => { x with indexAt := some 0 }, ?_, ?_, ?_, rfl, ?_, ?_⟩ <;> decide +kernel),
    (by refine ⟨0, 100, _, ready.modHead 0 fun x => { x with indexAt := some 100 }, ?_, ?_, ?_, rfl, ?_, ?_⟩ <;> decide +kernel),
    (by refine ⟨0, 0, _, (ready.modHead 0 fun x => { x with indexAt := some 0, revClean := true }).setNat O.clockState 5, ?_, ?_,
      ?_, rfl, ?_, ?_⟩ <;> decide +kernel),
    ⟨0, ready.setNat O.clockState 2, by decide +kernel⟩⟩

/-- The hypotheses of CalibrationCommandsRun can all be met. -/
theorem witness_CalibrationCommandsRun :
    (∃ (head : _) (s : State), s.hasHead head = true ∧ s.calMay (actOf head) = true ∧ s.nat O.rroEnable = 1 ∧ s.nat
      O.rroLearnRevs ≤ (s.head head).rroRevs ∧ s.nat (O.headService + head) ≠ 3 ∧ s.firmwareMay (9 * actOf head + head % 6) =
      true ∧ s.nat (O.maoStroke + head) ≠ 0) ∧
    (∃ (slot : _) (gain : Int) (shift : Nat) (r : IdRun) (u : State) (s : State), (s.pos.identify.find? fun r => decide (r.slot
      = slot) && decide (16 ≤ r.revs)) = some r ∧ s.calMay (slot / 9) = true ∧ u =
      { s with pos := { s.pos with identify := s.pos.identify.filter fun x => !(decide (x.slot = slot) && decide (x.requested = r.requested)), identifiedAt := putKey s.pos.identifiedAt slot s.tick } }
      ∧ ((gain.natAbs > 10 * (s.nat O.gainChangeLimit : Int) ∨ s.nat O.modeShiftLimit < shift))) ∧
    (∃ (slot : _) (gain : Int) (shift : Nat) (r : IdRun) (u : State) (s : State), (s.pos.identify.find? fun r => decide (r.slot
      = slot) && decide (16 ≤ r.revs)) = some r ∧ s.calMay (slot / 9) = true ∧ u =
      { s with pos := { s.pos with identify := s.pos.identify.filter fun x => !(decide (x.slot = slot) && decide (x.requested = r.requested)), identifiedAt := putKey s.pos.identifiedAt slot s.tick } }
      ∧ gain.natAbs ≤ 10 * (s.nat O.gainChangeLimit : Int) ∧ shift ≤ s.nat O.modeShiftLimit ∧ s.nat (O.loopClaim + slot) ≠ 0) ∧
    (∃ (slot : _) (gain : Int) (shift : Nat) (r : IdRun) (u : State) (s : State), (s.pos.identify.find? fun r => decide (r.slot
      = slot) && decide (16 ≤ r.revs)) = some r ∧ s.calMay (slot / 9) = true ∧ u =
      { s with pos := { s.pos with identify := s.pos.identify.filter fun x => !(decide (x.slot = slot) && decide (x.requested = r.requested)), identifiedAt := putKey s.pos.identifiedAt slot s.tick } }
      ∧ gain.natAbs ≤ 10 * (s.nat O.gainChangeLimit : Int) ∧ shift ≤ s.nat O.modeShiftLimit ∧ s.nat (O.loopClaim + slot) = 0 ∧
      s.firmwareMay slot = true) ∧
    (∃ (head : _) (s : State), (s.head head).heaterCal = none ∧ s.heaterDue head = true ∧ s.calBusy (actOf head) = false) ∧
    (∃ (head : _) (r : HeaterRun) (s : State), (s.head head).heaterCal = some r ∧ s.calMay (actOf head) = true ∧ r.began +
      s.revolution ≤ s.tick) ∧
    (∃ (head : _) (slot : _) (s : State), (s.head head).checkSlot = some slot ∧ s.nat O.calCheckRevs ≤ (s.head head).checkRevs) ∧
    (∃ (r : _) (slot : _) (u : State) (s : State), s.checkPut r O.loopIdRequest (.num 1 (slot : Nat)) = none ∧ s.nat
      O.loopIdRunState ≠ 1 ∧ u = (s.startRun O.loopIdRunState).setNat O.loopIdRunSlot slot) :=
  ⟨⟨0, ((ready.modHead 0 fun x => { x with rroRevs := 1000 }).setNat O.rroEnable 1).setNat O.maoStroke 5, by decide +kernel⟩,
    (by refine ⟨0, 1000000, 0, ⟨0, true, 16, false⟩, _, { ready with pos := { identify := [⟨0, true, 16, false⟩] } }, ?_, ?_, rfl,
      ?_⟩ <;> decide +kernel),
    (by refine ⟨0, 0, 0, ⟨0, true, 16, false⟩, _, { ready.setNat O.loopClaim 1 with pos := { identify := [⟨0, true, 16, false⟩] } },
      ?_, ?_, rfl, ?_, ?_, ?_⟩ <;> decide +kernel),
    (by refine ⟨0, 0, 0, ⟨0, true, 16, false⟩, _, { ready with pos := { identify := [⟨0, true, 16, false⟩] } }, ?_, ?_, rfl, ?_, ?_,
      ?_, ?_⟩ <;> decide +kernel),
    ⟨0, ready.setNat O.heaterCalEnable 1, by decide +kernel⟩,
    ⟨0, { began := 0 }, ready.modHead 0 fun x => { x with heaterCal := some { began := 0 } }, by decide +kernel⟩,
    ⟨0, 0, ready.modHead 0 fun x => { x with checkSlot := some 0, checkRevs := 1000 }, by decide +kernel⟩,
    (by refine ⟨.mb, 0, _, ready.setNat O.loopState 1, ?_, ?_, rfl⟩ <;> decide +kernel)⟩

/-- The hypotheses of EqualiserCommandsRun can all be met. -/
theorem witness_EqualiserCommandsRun :
    (∃ (stream : _) (st : Stream) (f : Nat) (u : State) (s : State), s.adapts stream = true ∧ st = s.stream stream ∧ s.cfg
      (stream / 2) O.eqBlockSectors ≤ st.blockSectors ∧ st.swap = 0 ∧ s.takeFree = (f, u) ∧ st.checking = true ∧ 11 *
      st.lastError < 10 * (st.squares / max 1 st.bits)) ∧
    (∃ (stream : _) (st : Stream) (f : Nat) (u : State) (s : State), s.adapts stream = true ∧ st = s.stream stream ∧ s.cfg
      (stream / 2) O.eqBlockSectors ≤ st.blockSectors ∧ st.swap = 0 ∧ s.takeFree = (f, u) ∧ ((st.checking = true → 10 *
      (st.squares / max 1 st.bits) ≤ 11 * st.lastError))) ∧
    (∃ (head : _) (sector : _) (s : State), s.sectorNow head = some sector ∧ ((∃ n ∈ [2 * head, 2 * head + 1], (s.stream n).swap
      ≠ 0 ∧ (s.nat O.updateState ≠ 3 ∨ (s.stream n).swap = 4)))) ∧
    (∃ (s : State), s.detect.savedAt + 3600000000 ≤ s.tick) ∧
    (∃ (stream : _) (s : State), s.adapts stream = true ∧ (s.stream stream).lastGood + 1000000 * s.nat O.eqIdleLimit ≤ s.tick ∧
      s.detect.calReads.contains stream = false) ∧
    (∃ (r : _) (s : State), s.checkPut r O.eqRestore (.num 1 1) = none) ∧
    (∃ (r : _) (s : State), s.checkPut r O.outcomeCounterClear (.num 1 1) = none) :=
  ⟨(by refine ⟨0, _, _, _, (ready.setNat O.eqAdaptEnable 1).modStream 0 fun x =>
      { x with blockSectors := 100000, checking := true, squares := 100, bits := 1 }, ?_, rfl, ?_, ?_, rfl, ?_, ?_⟩ <;>
      decide +kernel),
    (by refine ⟨0, _, _, _, (ready.setNat O.eqAdaptEnable 1).modStream 0 fun x => { x with blockSectors := 100000 }, ?_, rfl, ?_,
      ?_, rfl, ?_⟩ <;> decide +kernel),
    ⟨0, 0, (ready.modHead 0 fun x => { x with count := 64 * sectorStart readyZone 66 0 }).modStream 0 fun x => { x with swap := 1 },
      by decide +kernel⟩,
    ⟨ready, by decide +kernel⟩,
    ⟨0, ready.setNat O.eqAdaptEnable 1, by decide +kernel⟩,
    ⟨.mb, ready, by decide +kernel⟩,
    ⟨.mb, ready, by decide +kernel⟩⟩

/-- The hypotheses of PaceCommandsRun can all be met. -/
theorem witness_PaceCommandsRun :
    (∃ (u : State) (s : State), s.detect.paceStart + 1000 * s.nat O.paceInterval ≤ s.tick ∧ u = (s.setNat O.poolBusy (if s.nat
      O.decodersInService * s.nat O.paceInterval * 100000 = 0 then 0 else min 1000 ((s.detect.streams.map Stream.used).sum *
      1000 / (s.nat O.decodersInService * s.nat O.paceInterval * 100000)))).each (List.range 48) (fun w n => w.setNat
      (O.streamMeanIterations + n) (if (w.stream n).turns = 0 then 0 else (w.stream n).iterations * 256 / (w.stream n).turns))) ∧
    (∃ (head : _) (s : State), s.narrow head = true) ∧
    (∃ (head : _) (s : State), s.narrow head = true ∧ (s.head head).leavePending = true) ∧
    (∃ (stream : _) (u : State) (s : State), (s.stream stream).capturing = true ∧ (s.stream stream).backlog = [] ∧ s.cfg (stream
      / 2) O.deferExitSectors ≤ (s.stream stream).exitRun ∧ u = s.modStream stream (fun st => { st with capturing := false }) ∧
      s.detect.ladders.any (fun l => decide (l.stream = stream) && l.capture) = false) ∧
    (∃ (stream : _) (u : State) (s : State), (s.stream stream).capturing = true ∧ (s.stream stream).backlog = [] ∧ s.cfg (stream
      / 2) O.deferExitSectors ≤ (s.stream stream).exitRun ∧ u = s.modStream stream (fun st => { st with capturing := false }) ∧
      s.detect.ladders.any (fun l => decide (l.stream = stream) && l.capture) = true) ∧
    (∃ (act : _) (u : State) (s : State), s.hasAct act = true ∧ u = ((s.nextPass act).each (headsOf act) fun u h => (if (u.head
      h).admitted = (u.head h).admitNext then u else u.modHead h fun x => { x with admitted := x.admitNext }).restHeater
      h).retrainDegraded act) ∧
    (∃ (r : _) (value : _) (s : State), s.checkPut r O.narrowEnable (.num 1 (value : Nat)) = none) ∧
    (∃ (r : _) (value : _) (s : State), s.checkPut r O.paceInterval (.num 1 (value : Nat)) = none) :=
  ⟨(by refine ⟨_, ready, ?_, rfl⟩ <;> decide +kernel),
    ⟨0, ready.setNat O.narrowHeadMask 1, by decide +kernel⟩,
    ⟨0, (ready.modHead 0 fun x => { x with leavePending := true }).setNat O.narrowHeadMask 1, by decide +kernel⟩,
    (by refine ⟨0, _, ready.modStream 0 fun x => { x with capturing := true, exitRun := 1000000 }, ?_, ?_, ?_, rfl, ?_⟩ <;>
      decide +kernel),
    (by refine ⟨0, _, (climbing { aLadder with capture := true }).modStream 0 fun x =>
      { x with capturing := true, exitRun := 100000 }, ?_, ?_, ?_, rfl, ?_⟩ <;> decide +kernel),
    (by refine ⟨0, _, ready, ?_, rfl⟩ <;> decide +kernel),
    ⟨.mb, 0, ready, by decide +kernel⟩,
    ⟨.mb, 10, ready, by decide +kernel⟩⟩

/-- The hypotheses of ControlLinkCommandsRun can all be met. -/
theorem witness_ControlLinkCommandsRun :
    (∃ (k : _) (f : _) (s : State), k < s.pclCount ∧ s.nat (O.pclState + k) ≠ 1 ∧ s.nat (O.pclState + k) ≠ 5 ∧ frameValid f =
      false) ∧
    (∃ (k : _) (f : _) (u : State) (v : State) (s : State), k < s.pclCount ∧ s.nat (O.pclState + k) ≠ 1 ∧ s.nat (O.pclState + k)
      ≠ 5 ∧ frameValid f = true ∧ (s.pcl k).refStart + 200 ≤ s.tick ∧ u = s.modPcl k (fun c =>
      { c with lastValid := s.tick, goodRun := min 8 (c.goodRun + 1) }) ∧ (u.pcl k).locked = true ∧ v = u.takeSummary k
      (frameSummary f) ∧ frameType f = 0) ∧
    (∃ (k : _) (f : _) (u : State) (v : State) (s : State) (a : _), k < s.pclCount ∧ s.nat (O.pclState + k) ≠ 1 ∧ s.nat
      (O.pclState + k) ≠ 5 ∧ frameValid f = true ∧ (s.pcl k).refStart + 200 ≤ s.tick ∧ u = s.modPcl k (fun c =>
      { c with lastValid := s.tick, goodRun := min 8 (c.goodRun + 1) }) ∧ (u.pcl k).locked = true ∧ v = u.takeSummary k
      (frameSummary f) ∧ frameType f = 1 ∧ v.access? k (frameTag f) = some a ∧ a.kind ≠ 2) ∧
    (∃ (k : _) (f : _) (u : State) (v : State) (s : State) (a : _), k < s.pclCount ∧ s.nat (O.pclState + k) ≠ 1 ∧ s.nat
      (O.pclState + k) ≠ 5 ∧ frameValid f = true ∧ (s.pcl k).refStart + 200 ≤ s.tick ∧ u = s.modPcl k (fun c =>
      { c with lastValid := s.tick, goodRun := min 8 (c.goodRun + 1) }) ∧ (u.pcl k).locked = true ∧ v = u.takeSummary k
      (frameSummary f) ∧ frameType f = 2 ∧ v.access? k (frameTag f) = some a ∧ a.kind = 2) ∧
    (∃ (k : _) (f : _) (u : State) (v : State) (s : State), k < s.pclCount ∧ s.nat (O.pclState + k) ≠ 1 ∧ s.nat (O.pclState + k)
      ≠ 5 ∧ frameValid f = true ∧ (s.pcl k).refStart + 200 ≤ s.tick ∧ u = s.modPcl k (fun c =>
      { c with lastValid := s.tick, goodRun := min 8 (c.goodRun + 1) }) ∧ (u.pcl k).locked = true ∧ v = u.takeSummary k
      (frameSummary f) ∧ frameType f = 3) ∧
    (∃ (k : _) (tag : _) (a : PclAccess) (s : State), s.access? k tag = some a ∧ a.sent + 10 ≤ s.tick) ∧
    (∃ (k : _) (s : State), k < s.pclCount ∧ s.nat (O.pclState + k) ≠ 1 ∧ (s.pcl k).lastValid + 10 ≤ s.tick ∧ (s.pcl k).locked =
      true) ∧
    (∃ (k : _) (s : State), k < s.pclCount ∧ s.nat (O.pclState + k) ≠ 1 ∧ (s.pcl k).lastValid + 10 ≤ s.tick ∧ (s.pcl k).locked =
      false ∧ s.nat (O.pclState + k) = 2 ∧ (s.pcl k).attempts + 1 < s.nat O.retrainAttempts) ∧
    (∃ (k : _) (s : State), k < s.pclCount ∧ s.nat (O.pclState + k) ≠ 1 ∧ (s.pcl k).lastValid + 10 ≤ s.tick ∧ (s.pcl k).locked =
      false ∧ s.nat (O.pclState + k) = 2 ∧ s.nat O.retrainAttempts ≤ (s.pcl k).attempts + 1) ∧
    (∃ (k : _) (t : _) (s : State), (s.pcl k).clearSince = some t ∧ (s.pcl k).warning = 0 ∧ t + 100000 ≤ s.tick) :=
  ⟨⟨0, 0, ready, by decide +kernel⟩,
    (by refine ⟨0, aFrame 0 0, _, _, linked, ?_, ?_, ?_, ?_, ?_, rfl, ?_, rfl, ?_⟩ <;> decide +kernel),
    (by refine ⟨0, aFrame 1 0, _, _, linked.modPcl 0 fun x => { x with outstanding := [⟨0, 1, 0, 2, 0, 0, 0, false⟩] }, ⟨0, 1, 0, 2,
      0, 0, 0, false⟩, ?_, ?_, ?_, ?_, ?_, rfl, ?_, rfl, ?_, ?_, ?_⟩ <;> decide +kernel),
    (by refine ⟨0, aFrame 2 0, _, _, linked.modPcl 0 fun x => { x with outstanding := [⟨0, 2, 0, 2, 0, 0, 0, false⟩] }, ⟨0, 2, 0, 2,
      0, 0, 0, false⟩, ?_, ?_, ?_, ?_, ?_, rfl, ?_, rfl, ?_, ?_, ?_⟩ <;> decide +kernel),
    (by refine ⟨0, aFrame 3 0, _, _, linked, ?_, ?_, ?_, ?_, ?_, rfl, ?_, rfl, ?_⟩ <;> decide +kernel),
    ⟨0, 0, ⟨0, 2, 0, 2, 0, 0, 0, false⟩, ready.modPcl 0 fun x => { x with outstanding := [⟨0, 2, 0, 2, 0, 0, 0, false⟩] }, by
      decide +kernel⟩,
    ⟨0, ready.modPcl 0 fun x => { x with locked := true }, by decide +kernel⟩,
    ⟨0, ready.setNat O.pclState 2, by decide +kernel⟩,
    ⟨0, (ready.setNat O.pclState 2).modPcl 0 fun x => { x with attempts := 100 }, by decide +kernel⟩,
    ⟨0, 0, ready.modPcl 0 fun x => { x with clearSince := some 0 }, by decide +kernel⟩⟩

/-- The hypotheses of DataLinkCommandsRun can all be met. -/
theorem witness_DataLinkCommandsRun :
    (∃ (link : _) (lane : _) (s : State), s.rslCarries link = true ∧ lane < 2) ∧
    (∃ (link : _) (body0 : _) (body1 : _) (r : Rsl) (bad : _) (s : State), s.rslCarries link = true ∧ body0 / 2 ^ 120 % 256 =
      0x2D ∧ body1 / 2 ^ 120 % 256 = 0x2D ∧ r = s.rsl link ∧ bad = (if r.crc.getD 0 0 = markerCrc body0 then 0 else 1) + (if
      r.crc.getD 1 0 = markerCrc body1 then 0 else 1)) ∧
    (∃ (link : _) (lock : List Nat) (sweep : List (List (Nat × Nat))) (headers : List Nat) (skew : Int) (intervals : _) (s :
      State) (p : _), s.nat (O.rslState + link) = 2 ∧ bestPreset sweep (link % 3) = some p ∧ 1000000 ≤ min (lock.getD 0 0)
      (lock.getD 1 0) ∧ 64 ≤ min (headers.getD 0 0) (headers.getD 1 0) ∧ skew.natAbs ≤ 260 ∧ 16 ≤ intervals) ∧
    (∃ (link : _) (lock : List Nat) (sweep : List (List (Nat × Nat))) (headers : List Nat) (skew : Int) (intervals : _) (s :
      State), s.nat (O.rslState + link) = 2 ∧ ((bestPreset sweep (link % 3) = none ∨ min (lock.getD 0 0) (lock.getD 1 0) <
      1000000 ∨ min (headers.getD 0 0) (headers.getD 1 0) < 64 ∨ 260 < skew.natAbs ∨ intervals < 16))) ∧
    (∃ (link : _) (c : List Nat) (s : State), s.nat (O.wrlState + link) = 2 ∧ c = (s.wrl link).checks ∧ (if (s.wrl link).testing
      = true then 2 else 10) ≤ c.length) ∧
    (∃ (link : _) (s : State), s.nat (O.rslState + link) = 2 ∧ (s.rsl link).trainingEnd ≤ s.tick) ∧
    (∃ (link : _) (s : State), s.nat (O.wrlState + link) = 2 ∧ (s.wrl link).trainingEnd ≤ s.tick) ∧
    (∃ (link : _) (s : State), s.nat (O.rslState + link) = 5 ∧ s.nat O.sleepStateCurrent = 1 ∧ s.rslsTrain (link / 3) = false ∧
      (s.rsl link).failedAt + 1000000 * s.nat O.failedRetryPeriod ≤ s.tick) ∧
    (∃ (link : _) (s : State), s.nat (O.wrlState + link) = 5 ∧ s.nat O.sleepStateCurrent = 1 ∧ (s.wrl link).failedAt + 1000000 *
      s.nat O.failedRetryPeriod ≤ s.tick) ∧
    (∃ (pcl : _) (s : State), s.nat (O.pclState + pcl) = 5 ∧ s.nat O.sleepStateCurrent = 1 ∧ (s.pcl pcl).lastValid + 1000000 *
      s.nat O.failedRetryPeriod ≤ s.tick) ∧
    (∃ (r : _) (s : State), s.checkPut r O.preampAccessStart (.num 1 1) = none ∧ s.nat O.preampRunState ≠ 1) ∧
    (∃ (r : _) (s : State), s.checkPut r O.preampAccessStart (.num 1 2) = none ∧ s.nat O.preampRunState ≠ 1) ∧
    (∃ (r : _) (s : State), s.checkPut r O.counterClear (.num 1 1) = none) :=
  ⟨⟨0, 0, linked, by decide +kernel⟩,
    (by refine ⟨0, 0x2D * 2 ^ 120, 0x2D * 2 ^ 120, _, _, linked, ?_, ?_, ?_, rfl, rfl⟩ <;> decide +kernel),
    ⟨0, [1000000, 1000000], [[(0, 5), (0, 5), (0, 5)]], [64, 64], 0, 16, ready.setNat O.rslState 2, 0, by decide +kernel⟩,
    ⟨0, [], [], [], 0, 0, ready.setNat O.rslState 2, by decide +kernel⟩,
    (by refine ⟨0, _, (ready.setNat O.wrlState 2).modWrl 0 fun x => { x with checks := List.replicate 10 0 }, ?_, rfl, ?_⟩ <;>
      decide +kernel),
    ⟨0, ready.setNat O.rslState 2, by decide +kernel⟩,
    ⟨0, ready.setNat O.wrlState 2, by decide +kernel⟩,
    ⟨0, ready.setNat O.rslState 5, by decide +kernel⟩,
    ⟨0, ready.setNat O.wrlState 5, by decide +kernel⟩,
    ⟨0, ready.setNat O.pclState 5, by decide +kernel⟩,
    ⟨.mb, ready, by decide +kernel⟩,
    ⟨.mb, ready, by decide +kernel⟩,
    ⟨.mb, ready, by decide +kernel⟩⟩

/-- The hypotheses of LinkCounterClearZeroesCounters can all be met. -/
theorem witness_LinkCounterClearZeroesCounters :
    ∃ (r : Requester) (s : State), s.checkPut r O.counterClear (.num 1 1) = none :=
  ⟨.mb, ready, by decide +kernel⟩

/-- The hypotheses of LoopSamplesRun can all be met. -/
theorem witness_LoopSamplesRun :
    (∃ (slot : _) (sub : _) (s : State), s.hasSlot slot = true ∧ s.loopRuns slot = true ∧ s.subTime sub % loopPeriod slot = 0 ∧
      ((∀ x ∈ (s.loop slot).sample.toList ++ (s.loop slot).waiting, x.boundary ≠ s.subTime sub))) ∧
    (∃ (slot : _) (sub : _) (due : LoopSample → Bool) (s : State), s.hasSlot slot = true ∧ s.loopRuns slot = true ∧ due = (fun x
      => decide (x.boundary + loopDeadline slot = s.subTime sub) && !x.late) ∧ ((s.loop slot).sample.toList ++ (s.loop
      slot).waiting).any due = true) ∧
    (∃ (slot : _) (s : State), s.hasSlot slot = true) ∧
    (∃ (act : _) (frame : Option Nat) (good : Bool) (u : State) (s : State), s.hasAct act = true ∧ good = frame.any (s.measGood
      act) ∧ u = (if good = true then s.modAct act fun x =>
      { x with vcmFails := 0, vcmMeas := if ((frame.getD 0 / 2 ^ 24 % 65536 : Nat) : Int) < 32768 then ((frame.getD 0 / 2 ^ 24 % 65536 : Nat) : Int) else ((frame.getD 0 / 2 ^ 24 % 65536 : Nat) : Int) - 65536 }
      else (s.bump (O.vcmFrameErrors + act)).modAct act fun x => { x with vcmFails := x.vcmFails + 1 })) ∧
    (∃ (sub : _) (due : _) (s : State), due = s.spindle.angleDue.getD (s.subTime sub / 500 * 500) ∧ due ≤ s.subTime sub ∧
      medianAngle (s.angleHeads.map fun h => s.headTheta h (s.subTime sub - due)) = none) ∧
    (∃ (sub : _) (due : _) (s : State) (t : _), due = s.spindle.angleDue.getD (s.subTime sub / 500 * 500) ∧ due ≤ s.subTime sub
      ∧ medianAngle (s.angleHeads.map fun h => s.headTheta h (s.subTime sub - due)) = some t ∧ s.subTime sub ≤ due + 404) ∧
    (∃ (sub : _) (due : _) (s : State) (t : _), due = s.spindle.angleDue.getD (s.subTime sub / 500 * 500) ∧ due ≤ s.subTime sub
      ∧ medianAngle (s.angleHeads.map fun h => s.headTheta h (s.subTime sub - due)) = some t ∧ due + 404 < s.subTime sub) ∧
    (∃ (sub : _) (s : State), s.rafter.checkedAt + 1024 * 16000 ≤ s.subTime sub) ∧
    (∃ (slot : _) (sub : _) (b : _) (m : _) (g : _) (due : _) (s : State), (s.loop slot).pending = some (b, m, g, due) ∧ due =
      s.subTime sub) ∧
    (∃ (sub : _) (t : _) (s : State), s.rafter.swapAt = some t ∧ t < s.subTime sub ∧ s.subTime sub % 16000 = 0) ∧
    (∃ (sub : _) (s : State), s.rafter.health ≠ 0 ∧ s.rafter.microSwap = false ∧ s.rafter.health ≤ s.subTime sub) ∧
    (∃ (sub : _) (s : State), s.rafter.health ≠ 0 ∧ s.rafter.microSwap = true ∧ s.subTime sub % 16000 = 0) :=
  ⟨⟨0, 0, ready, by decide +kernel⟩,
    (by refine ⟨0, 0, _, ready.modLoop 0 fun x => { x with sample := some ⟨1200000000000000 - loopDeadline 0, 0, 0, [], false⟩ },
      ?_, ?_, rfl, ?_⟩ <;> decide +kernel),
    ⟨0, ready.modLoop 0 fun x => { x with ready := some (1200000000000000 - loopApply 0) }, by decide +kernel⟩,
    (by refine ⟨0, none, _, _, { ready with acts := List.replicate 4 {} }, ?_, rfl, rfl⟩ <;> decide +kernel),
    (by refine ⟨0, _, { ready with acts := List.replicate 4 {} }, rfl, ?_, ?_⟩ <;> decide +kernel),
    (by refine ⟨0, _, ready, 0, rfl, ?_, ?_, ?_⟩ <;> decide +kernel),
    (by refine ⟨0, _, { ready with spindle := { angleDue := some 0 } }, (medianAngle
      ((({ ready with spindle := { angleDue := some 0 } })).angleHeads.map fun h =>
      (({ ready with spindle := { angleDue := some 0 } })).headTheta h
      ((({ ready with spindle := { angleDue := some 0 } })).subTime 0 - 0))).getD 0, rfl, ?_, ?_, ?_⟩ <;> decide +kernel),
    ⟨0, ready, by decide +kernel⟩,
    ⟨0, 0, 0, 0, 0, 1200000000000000, ready.modLoop 0 fun x => { x with pending := some (0, 0, 0, 1200000000000000) }, by
      decide +kernel⟩,
    ⟨0, 0, { ready with rafter := { swapAt := some 0 } }, by decide +kernel⟩,
    ⟨0, { ready with rafter := { health := 1 } }, by decide +kernel⟩,
    ⟨0, { ready with rafter := { health := 1, microSwap := true } }, by decide +kernel⟩⟩

/-- The hypotheses of MicrocodeArithmeticRuns can all be met. -/
theorem witness_MicrocodeArithmeticRuns :
    (∃ (slot : Nat) (x : LoopSample) (w : Nat) (s : State) (u : State), s.hasSlot slot = true ∧ s.loopRuns slot = true ∧ (s.loop
      slot).sample = some x ∧ s.laneFree slot x = true ∧ w = s.fetched x ∧ wordAdmitted slot w = true ∧ u = s.modLoop slot (fun
      l => { l with sample := some { x with pc := x.pc + 1 } }) ∧ wordIs w 0 [] = true) ∧
    (∃ (slot : Nat) (x : LoopSample) (w : Nat) (s : State) (u : State), s.hasSlot slot = true ∧ s.loopRuns slot = true ∧ (s.loop
      slot).sample = some x ∧ s.laneFree slot x = true ∧ w = s.fetched x ∧ wordAdmitted slot w = true ∧ u = s.modLoop slot (fun
      l => { l with sample := some { x with pc := x.pc + 1 } }) ∧ wordIs w 14 [] = true) ∧
    (∃ (slot : Nat) (x : LoopSample) (w : Nat) (s : State) (u : State) (dst : _) (imm : _) (shift : _) (round : _) (sat : _),
      s.hasSlot slot = true ∧ s.loopRuns slot = true ∧ (s.loop slot).sample = some x ∧ s.laneFree slot x = true ∧ w = s.fetched
      x ∧ wordAdmitted slot w = true ∧ u = s.modLoop slot (fun l => { l with sample := some { x with pc := x.pc + 1 } }) ∧
      wordIs w 1 (nodeFields (some dst) none none ++ resultFields shift round sat ++ [(0, 12, imm)]) = true) ∧
    (∃ (slot : Nat) (x : LoopSample) (w : Nat) (s : State) (u : State) (a : _) (imm : _), s.hasSlot slot = true ∧ s.loopRuns
      slot = true ∧ (s.loop slot).sample = some x ∧ s.laneFree slot x = true ∧ w = s.fetched x ∧ wordAdmitted slot w = true ∧ u
      = s.modLoop slot (fun l => { l with sample := some { x with pc := x.pc + 1 } }) ∧ wordIs w 2 (nodeFields none (some a)
      none ++ [(0, 12, imm)]) = true) ∧
    (∃ (slot : Nat) (x : LoopSample) (w : Nat) (s : State) (u : State) (dst : _) (a : _) (shift : _) (round : _) (sat : _),
      s.hasSlot slot = true ∧ s.loopRuns slot = true ∧ (s.loop slot).sample = some x ∧ s.laneFree slot x = true ∧ w = s.fetched
      x ∧ wordAdmitted slot w = true ∧ u = s.modLoop slot (fun l => { l with sample := some { x with pc := x.pc + 1 } }) ∧
      wordIs w 3 (nodeFields (some dst) (some a) none ++ resultFields shift round sat) = true) ∧
    (∃ (slot : Nat) (x : LoopSample) (w : Nat) (s : State) (u : State) (dst : _) (a : _) (b : _) (shift : _) (round : _) (sat :
      _), s.hasSlot slot = true ∧ s.loopRuns slot = true ∧ (s.loop slot).sample = some x ∧ s.laneFree slot x = true ∧ w =
      s.fetched x ∧ wordAdmitted slot w = true ∧ u = s.modLoop slot (fun l =>
      { l with sample := some { x with pc := x.pc + 1 } }) ∧ wordIs w 4 (nodeFields (some dst) (some a) (some b) ++ resultFields
      shift round sat) = true) ∧
    (∃ (slot : Nat) (x : LoopSample) (w : Nat) (s : State) (u : State) (dst : _) (a : _) (b : _) (shift : _) (round : _) (sat :
      _), s.hasSlot slot = true ∧ s.loopRuns slot = true ∧ (s.loop slot).sample = some x ∧ s.laneFree slot x = true ∧ w =
      s.fetched x ∧ wordAdmitted slot w = true ∧ u = s.modLoop slot (fun l =>
      { l with sample := some { x with pc := x.pc + 1 } }) ∧ wordIs w 5 (nodeFields (some dst) (some a) (some b) ++ resultFields
      shift round sat) = true) ∧
    (∃ (slot : Nat) (x : LoopSample) (w : Nat) (s : State) (u : State) (dst : _) (a : _) (c : _) (shift : _) (round : _) (sat :
      _), s.hasSlot slot = true ∧ s.loopRuns slot = true ∧ (s.loop slot).sample = some x ∧ s.laneFree slot x = true ∧ w =
      s.fetched x ∧ wordAdmitted slot w = true ∧ u = s.modLoop slot (fun l =>
      { l with sample := some { x with pc := x.pc + 1 } }) ∧ wordIs w 6 (nodeFields (some dst) (some a) none ++ memoryFields c
      none none ++ resultFields shift round sat) = true) ∧
    (∃ (slot : Nat) (x : LoopSample) (w : Nat) (s : State) (u : State) (dst : _) (a : _) (b : _) (c : _) (shift : _) (round : _)
      (sat : _), s.hasSlot slot = true ∧ s.loopRuns slot = true ∧ (s.loop slot).sample = some x ∧ s.laneFree slot x = true ∧ w =
      s.fetched x ∧ wordAdmitted slot w = true ∧ u = s.modLoop slot (fun l =>
      { l with sample := some { x with pc := x.pc + 1 } }) ∧ wordIs w 7 (nodeFields (some dst) (some a) (some b) ++ memoryFields
      c none none ++ resultFields shift round sat) = true) ∧
    (∃ (slot : Nat) (x : LoopSample) (w : Nat) (s : State) (u : State) (dst : _) (a : _) (b : _) (imm : _) (shift : _) (round :
      _) (sat : _), s.hasSlot slot = true ∧ s.loopRuns slot = true ∧ (s.loop slot).sample = some x ∧ s.laneFree slot x = true ∧
      w = s.fetched x ∧ wordAdmitted slot w = true ∧ u = s.modLoop slot (fun l =>
      { l with sample := some { x with pc := x.pc + 1 } }) ∧ wordIs w 12 (nodeFields (some dst) (some a) (some b) ++
      resultFields shift round sat ++ [(0, 12, imm)]) = true) :=
  ⟨(by refine ⟨0, { boundary := 0, bank := 0 }, _, ready.modLoop 0 fun x => { x with sample := some { boundary := 0, bank := 0 } },
      _, ?_, ?_, ?_, ?_, rfl, ?_, rfl, ?_⟩ <;> decide +kernel),
    (by refine ⟨0, { boundary := 0, bank := 0 }, _, fetching (14 * 2 ^ 58), _, ?_, ?_, ?_, ?_, rfl, ?_, rfl, ?_⟩ <;> decide +kernel),
    (by refine ⟨0, { boundary := 0, bank := 0 }, _, fetching (1 * 2 ^ 58), _, 0, 0, 0, 0, 0, ?_, ?_, ?_, ?_, rfl, ?_, rfl, ?_⟩ <;>
      decide +kernel),
    (by refine ⟨0, { boundary := 0, bank := 0 }, _, fetching (2 * 2 ^ 58), _, 0, 0, ?_, ?_, ?_, ?_, rfl, ?_, rfl, ?_⟩ <;>
      decide +kernel),
    (by refine ⟨0, { boundary := 0, bank := 0 }, _, fetching (3 * 2 ^ 58), _, 0, 0, 0, 0, 0, ?_, ?_, ?_, ?_, rfl, ?_, rfl, ?_⟩ <;>
      decide +kernel),
    (by refine ⟨0, { boundary := 0, bank := 0 }, _, fetching (4 * 2 ^ 58), _, 0, 0, 0, 0, 0, 0, ?_, ?_, ?_, ?_, rfl, ?_, rfl, ?_⟩
      <;> decide +kernel),
    (by refine ⟨0, { boundary := 0, bank := 0 }, _, fetching (5 * 2 ^ 58), _, 0, 0, 0, 0, 0, 0, ?_, ?_, ?_, ?_, rfl, ?_, rfl, ?_⟩
      <;> decide +kernel),
    (by refine ⟨0, { boundary := 0, bank := 0 }, _, fetching (6 * 2 ^ 58), _, 0, 0, 0, 0, 0, 0, ?_, ?_, ?_, ?_, rfl, ?_, rfl, ?_⟩
      <;> decide +kernel),
    (by refine ⟨0, { boundary := 0, bank := 0 }, _, fetching (7 * 2 ^ 58), _, 0, 0, 0, 0, 0, 0, 0, ?_, ?_, ?_, ?_, rfl, ?_, rfl, ?_⟩
      <;> decide +kernel),
    (by refine ⟨0, { boundary := 0, bank := 0 }, _, fetching (12 * 2 ^ 58), _, 0, 0, 0, 0, 0, 0, 0, ?_, ?_, ?_, ?_, rfl, ?_, rfl,
      ?_⟩ <;> decide +kernel)⟩

/-- The hypotheses of MicrocodeFiltersRun can all be met. -/
theorem witness_MicrocodeFiltersRun :
    (∃ (slot : Nat) (x : LoopSample) (w : Nat) (s : State) (u : State) (dst : _) (a : _) (c : _) (base : _) (n : _) (shift : _)
      (round : _) (sat : _), s.hasSlot slot = true ∧ s.loopRuns slot = true ∧ (s.loop slot).sample = some x ∧ s.laneFree slot x
      = true ∧ w = s.fetched x ∧ u = s.modLoop slot (fun l => { l with sample := some { x with pc := x.pc + 1 } }) ∧
      wordAdmitted slot w = true ∧ wordIs w 8 (nodeFields (some dst) (some a) none ++ memoryFields c (some base) (some n) ++
      resultFields shift round sat) = true) ∧
    (∃ (slot : Nat) (x : LoopSample) (w : Nat) (s : State) (u : State) (dst : _) (a : _) (c : _) (base : _) (imm : _) (n : _) (m
      : _) (p : _) (shift : _) (round : _) (sat : _), s.hasSlot slot = true ∧ s.loopRuns slot = true ∧ (s.loop slot).sample =
      some x ∧ s.laneFree slot x = true ∧ w = s.fetched x ∧ u = s.modLoop slot (fun l =>
      { l with sample := some { x with pc := x.pc + 1 } }) ∧ wordAdmitted slot w = true ∧ wordIs w 9 (nodeFields (some dst)
      (some a) none ++ memoryFields c (some base) none ++ resultFields shift round sat ++ [(0, 12, imm)]) = true ∧ n = imm / 512
      % 8 + 1 ∧ m = imm / 64 % 8 + 1 ∧ p = imm / 8 % 8 + 1) ∧
    (∃ (slot : Nat) (x : LoopSample) (w : Nat) (s : State) (u : State) (dst : _) (a : _) (c : _) (shift : _) (round : _) (sat :
      _), s.hasSlot slot = true ∧ s.loopRuns slot = true ∧ (s.loop slot).sample = some x ∧ s.laneFree slot x = true ∧ w =
      s.fetched x ∧ u = s.modLoop slot (fun l => { l with sample := some { x with pc := x.pc + 1 } }) ∧ wordAdmitted slot w =
      true ∧ wordIs w 10 (nodeFields (some dst) (some a) none ++ memoryFields c none none ++ resultFields shift round sat) =
      true) ∧
    (∃ (slot : Nat) (x : LoopSample) (w : Nat) (s : State) (u : State) (dst : _) (a : _) (c : _) (base : _) (shift : _) (round :
      _) (sat : _), s.hasSlot slot = true ∧ s.loopRuns slot = true ∧ (s.loop slot).sample = some x ∧ s.laneFree slot x = true ∧
      w = s.fetched x ∧ u = s.modLoop slot (fun l => { l with sample := some { x with pc := x.pc + 1 } }) ∧ wordAdmitted slot w
      = true ∧ wordIs w 11 (nodeFields (some dst) (some a) none ++ memoryFields c (some base) none ++ resultFields shift round
      sat) = true) ∧
    (∃ (slot : Nat) (x : LoopSample) (w : Nat) (s : State) (u : State) (dst : _) (a : _) (c : _) (n : _) (shift : _) (round : _)
      (sat : _), s.hasSlot slot = true ∧ s.loopRuns slot = true ∧ (s.loop slot).sample = some x ∧ s.laneFree slot x = true ∧ w =
      s.fetched x ∧ u = s.modLoop slot (fun l => { l with sample := some { x with pc := x.pc + 1 } }) ∧ wordAdmitted slot w =
      true ∧ wordIs w 13 (nodeFields (some dst) (some a) none ++ memoryFields c none (some n) ++ resultFields shift round sat) =
      true) ∧
    (∃ (slot : Nat) (x : LoopSample) (w : Nat) (s : State) (u : State) (dst : _) (a : _) (shift : _) (round : _) (sat : _),
      s.hasSlot slot = true ∧ s.loopRuns slot = true ∧ (s.loop slot).sample = some x ∧ s.laneFree slot x = true ∧ w = s.fetched
      x ∧ u = s.modLoop slot (fun l => { l with sample := some { x with pc := x.pc + 1 } }) ∧ wordAdmitted slot w = false ∧
      wordIs w 3 (nodeFields (some dst) (some a) none ++ resultFields shift round sat) = true) ∧
    (∃ (slot : Nat) (x : LoopSample) (w : Nat) (s : State) (u : State) (dst : _) (imm : _) (shift : _) (round : _) (sat : _),
      s.hasSlot slot = true ∧ s.loopRuns slot = true ∧ (s.loop slot).sample = some x ∧ s.laneFree slot x = true ∧ w = s.fetched
      x ∧ u = s.modLoop slot (fun l => { l with sample := some { x with pc := x.pc + 1 } }) ∧ wordAdmitted slot w = false ∧
      wordIs w 1 (nodeFields (some dst) none none ++ resultFields shift round sat ++ [(0, 12, imm)]) = true) :=
  ⟨(by refine ⟨0, { boundary := 0, bank := 0 }, _, fetching (8 * 2 ^ 58 + 2 ^ 20), _, 0, 0, 0, 0, 1, 0, 0, 0, ?_, ?_, ?_, ?_, rfl,
      rfl, ?_, ?_⟩ <;> decide +kernel),
    (by refine ⟨0, { boundary := 0, bank := 0 }, _, fetching (9 * 2 ^ 58), _, 0, 0, 0, 0, 0, _, _, _, 0, 0, 0, ?_, ?_, ?_, ?_, rfl,
      rfl, ?_, ?_, rfl, rfl, rfl⟩ <;> decide +kernel),
    (by refine ⟨0, { boundary := 0, bank := 0 }, _, fetching (10 * 2 ^ 58), _, 0, 0, 0, 0, 0, 0, ?_, ?_, ?_, ?_, rfl, rfl, ?_, ?_⟩
      <;> decide +kernel),
    (by refine ⟨0, { boundary := 0, bank := 0 }, _, fetching (11 * 2 ^ 58), _, 0, 0, 0, 0, 0, 0, 0, ?_, ?_, ?_, ?_, rfl, rfl, ?_,
      ?_⟩ <;> decide +kernel),
    (by refine ⟨0, { boundary := 0, bank := 0 }, _, fetching (13 * 2 ^ 58 + 2 ^ 20), _, 0, 0, 0, 1, 0, 0, 0, ?_, ?_, ?_, ?_, rfl,
      rfl, ?_, ?_⟩ <;> decide +kernel),
    (by refine ⟨0, { boundary := 0, bank := 0 }, _, fetching (3 * 2 ^ 58 + 2 ^ 12), _, 0, 0, 0, 0, 0, ?_, ?_, ?_, ?_, rfl, rfl, ?_,
      ?_⟩ <;> decide +kernel),
    (by refine ⟨0, { boundary := 0, bank := 0 }, _, fetching (1 * 2 ^ 58 + 2 ^ 12), _, 0, 0, 0, 0, 0, ?_, ?_, ?_, ?_, rfl, rfl, ?_,
      ?_⟩ <;> decide +kernel)⟩

/-- The hypotheses of CoefficientCommandsRun can all be met. -/
theorem witness_CoefficientCommandsRun :
    (∃ (r : Requester) (s : State), s.checkPut r O.coefClaim (.num 1 1) = none ∧ s.hasSlot s.coefSlot = true ∧
      s.claimedElsewhere r = false) ∧
    (∃ (r : Requester) (s : State), s.checkPut r O.coefClaim (.num 1 0) = none ∧ s.hasSlot s.coefSlot = true ∧
      s.claimedElsewhere r = false) ∧
    (∃ (r : Requester) (s : State), s.checkPut r O.coefCopyActive (.num 1 1) = none ∧ s.bankOpenTo r = true) ∧
    (∃ (r : Requester) (s : State) (value : _), s.checkPut r O.coefValue (.num 4 value) = none ∧ s.bankOpenTo r = true) ∧
    (∃ (r : Requester) (s : State), s.checkPut r O.coefSeal (.num 1 1) = none ∧ s.bankOpenTo r = true) ∧
    (∃ (r : Requester) (s : State) (image : List Nat), s.checkPut r O.inactiveImage (.bytes image) = none ∧ image.headD 0 =
      s.coefSlot ∧ image.getD 3 0 = 0 ∧ s.bankOpenTo r = true) ∧
    (∃ (r : Requester) (s : State) (mask : _), s.checkPut r O.swapRequest (.num 8 (mask : Nat)) = none ∧ s.nat O.swapRunState ≠
      1 ∧ s.hasSlot s.coefSlot = true ∧ s.nat (O.loopClaim + s.coefSlot) = r.code ∧ s.nat (O.loopBankState + s.coefSlot) = 1 ∧
      s.nat (O.loopSwapGroup + s.coefSlot) = 0 ∧ s.nat O.updateState ≠ 3 ∧ s.sealHolds s.coefSlot = true) ∧
    (∃ (r : Requester) (s : State) (group : _), s.checkPut r O.groupSwapRequest (.num 1 (group : Nat)) = none ∧ s.nat
      O.swapRunState ≠ 1 ∧ s.groupMembers group ≠ [] ∧ s.nat O.updateState ≠ 3 ∧ ((∀ n ∈ s.groupMembers group, s.nat
      (O.loopClaim + n) = r.code ∧ s.nat (O.loopBankState + n) = 1 ∧ s.sealHolds n = true))) ∧
    (∃ (r : Requester) (s : State), s.checkPut r O.statsClear (.num 1 1) = none) ∧
    (∃ (r : Requester) (s : State), s.checkPut r O.traceCommand (.num 1 1) = none) ∧
    (∃ (r : Requester) (s : State), s.checkPut r O.traceCommand (.num 1 2) = none) ∧
    (∃ (r : Requester) (s : State), s.checkPut r O.traceCommand (.num 1 3) = none) :=
  ⟨⟨.mb, ready, by decide +kernel⟩,
    ⟨.mb, ready, by decide +kernel⟩,
    ⟨.mb, ready.setNat O.loopClaim 3, by decide +kernel⟩,
    ⟨.mb, ready.setNat O.loopClaim 3, 0, by decide +kernel⟩,
    ⟨.mb, ready.setNat O.loopClaim 3, by decide +kernel⟩,
    ⟨.mb, ready.setNat O.loopClaim 3, List.replicate 1032 0, by decide +kernel⟩,
    ⟨.mb, (((ready.setNat O.loopClaim 3).setNat O.loopBankState 1).modLoop 0 fun x => { x with seal1 := crc32c (bankBytes []) }), 1,
      by decide +kernel⟩,
    ⟨.mb, (((ready.setNat O.loopClaim 3).setNat O.loopBankState 1).setNat O.loopSwapGroup 1).modLoop 0 fun x =>
      { x with seal1 := crc32c (bankBytes []) }, 1, by decide +kernel⟩,
    ⟨.mb, ready, by decide +kernel⟩,
    ⟨.mb, ready, by decide +kernel⟩,
    ⟨.mb, ready, by decide +kernel⟩,
    ⟨.mb, ready, by decide +kernel⟩⟩

/-- The hypotheses of BanksOpenToClaimantOnly can all be met. -/
theorem witness_BanksOpenToClaimantOnly :
    (∃ (r : Requester) (s : State) (value : _) (t : _), s.nat (O.loopClaim + s.coefSlot) ≠ r.code ∧ exec (.coefValueWrite r
      value) s = .next t) ∧
    (∃ (r : Requester) (s : State) (t : _), s.nat (O.loopClaim + s.coefSlot) ≠ r.code ∧ exec (.coefCopyActive r) s = .next t) ∧
    (∃ (r : Requester) (s : State) (t : _), s.nat (O.loopClaim + s.coefSlot) ≠ r.code ∧ exec (.coefSeal r) s = .next t) :=
  ⟨(by refine ⟨.mb, ready, 0, ready.emit (.dict 3 0x08000022), by decide +kernel, rfl⟩),
    (by refine ⟨.mb, ready, ready.emit (.dict 3 0x08000022), by decide +kernel, rfl⟩),
    (by refine ⟨.mb, ready, ready.emit (.dict 3 0x08000022), by decide +kernel, rfl⟩)⟩

/-- The hypotheses of SpinUpCommandsRun can all be met. -/
theorem witness_SpinUpCommandsRun :
    (∃ (s : State), s.spindle.powerLost = false) ∧
    (∃ (r : _) (s : State), s.checkPut r O.spinUpTokenGrant (.num 1 1) = none ∧ s.nat O.spinUpTokenState = 1) ∧
    (∃ (s : State), s.nat O.spinUpTokenState = 1 ∧ s.spindle.tokenAt + 1000000 * s.nat O.spinUpTokenWait ≤ s.tick) ∧
    (∃ (t : _) (s : State), s.spindle.slotDelayEnd = some t ∧ t ≤ s.tick ∧ s.nat O.spindleState = 1) ∧
    (∃ (g : Surge) (rest : _) (s : State), s.power.queue = g :: rest ∧ s.surgeSum + g.units ≤ s.nat O.surgeBudget) ∧
    (∃ (priority : _) (item : _) (s : State), s.surgeGranted? priority item = true ∧ s.holdOver priority item = true) ∧
    (∃ (s : State) (u : State), s.nat O.spindleState = 1 ∧ s.spindle.chopper = true ∧ s.surgeGranted? 1 0 = true ∧
      s.spindle.chopperAt + 50 ≤ s.tick ∧ u = s.modSpindle (fun x => { x with chopper := false })) ∧
    (∃ (ratio : _) (angle : _) (t : _) (a : _) (s : State), s.nat O.spindleState = 3 ∧ s.spindle.phase = 0 ∧ s.tick ≤
      s.spindle.phaseStart + 30000 ∧ s.spindle.resolving = some (t, a) ∧ (angle % 65536 + 65536 + 910 - a) % 65536 ≤ 1820 ∧
      s.nat O.saliencyMinRatio ≤ ratio ∧ t + 10000 ≤ s.tick) ∧
    (∃ (angle : _) (t : _) (a : _) (s : State), s.nat O.spindleState = 3 ∧ s.spindle.phase = 0 ∧ s.tick ≤ s.spindle.phaseStart +
      30000 ∧ s.spindle.resolving = some (t, a) ∧ 1820 < (angle % 65536 + 65536 + 910 - a) % 65536) ∧
    (∃ (s : State), s.nat O.spindleState = 3 ∧ s.spindle.phase = 0 ∧ s.spindle.phaseStart + 30000 < s.tick) ∧
    (∃ (plus : Int) (minus : Int) (s : State) (p : Nat × State), s.nat O.spindleState = 3 ∧ s.spindle.phase = 1 ∧
      s.spindle.phaseStart + 1000 ≤ s.tick ∧ p = (if plus = minus then s.takeFree else (if plus < minus then 1 else 0, s))) ∧
    (∃ (s : State), (s.nat O.spindleState = 3 ∨ s.nat O.spindleState = 7) ∧ s.nat O.lockedRotorTimeout * 60000000000 ≤ (s.tick -
      s.spindle.lastEvent) * max s.spindle.mrpm (20 * s.nat O.spindleNominalRpm) * s.nat O.polePairs) ∧
    (∃ (s : State), s.nat O.spindleState = 12 ∧ s.spindle.retryAt ≤ s.tick ∧ s.spindle.powerLost = false) ∧
    (∃ (s : State), s.spindle.starting = true ∧ s.spindle.spinUpStart + 1000000 * s.nat O.spinUpTimeLimit ≤ s.tick ∧
      s.spindle.powerLost = false) ∧
    (∃ (r : _) (s : State), s.checkPut r O.spindleRetry (.num 1 1) = none) :=
  ⟨⟨ready, by decide +kernel⟩,
    ⟨.mb, ready.setNat O.spinUpTokenState 1, by decide +kernel⟩,
    ⟨ready.setNat O.spinUpTokenState 1, by decide +kernel⟩,
    ⟨0, (ready.setNat O.spindleState 1).modSpindle fun x => { x with slotDelayEnd := some 0 }, by decide +kernel⟩,
    ⟨⟨4, 0, 0⟩, [], ready.modPower fun x => { x with queue := [⟨4, 0, 0⟩] }, by decide +kernel⟩,
    ⟨4, 0, (ready.modPower fun x => { x with granted := [⟨4, 0, 1⟩] }).modHead 0 fun x => { x with heaterAck := some 0 }, by
      decide +kernel⟩,
    (by refine ⟨((ready.modPower fun x => { x with granted := [⟨1, 0, 1⟩] }).modSpindle fun x => { x with chopper := true }).setNat
      O.spindleState 1, _, ?_, ?_, ?_, ?_, rfl⟩ <;> decide +kernel),
    ⟨100000, 0, 0, 0, (ready.setNat O.spindleState 3).modSpindle fun x =>
      { x with phaseStart := 10000000000000, resolving := some (0, 0) }, by decide +kernel⟩,
    ⟨30000, 0, 0, (ready.setNat O.spindleState 3).modSpindle fun x =>
      { x with phaseStart := 10000000000000, resolving := some (0, 0) }, by decide +kernel⟩,
    ⟨ready.setNat O.spindleState 3, by decide +kernel⟩,
    (by refine ⟨1, 0, (ready.setNat O.spindleState 3).modSpindle fun x => { x with phase := 1 }, _, ?_, ?_, ?_, rfl⟩ <;>
      decide +kernel),
    ⟨ready.setNat O.spindleState 3, by decide +kernel⟩,
    ⟨ready.setNat O.spindleState 12, by decide +kernel⟩,
    ⟨ready.modSpindle fun x => { x with starting := true }, by decide +kernel⟩,
    ⟨.mb, ready, by decide +kernel⟩⟩

/-- The hypotheses of ListeningEndsInItsState can all be met. -/
theorem witness_ListeningEndsInItsState :
    ∃ (s : State), s.nat O.spindleState = 2 ∧ s.spindle.spinUpStart + 20000 ≤ s.tick :=
  ⟨ready.setNat O.spindleState 2, by decide +kernel⟩

/-- The hypotheses of SpindleRunningCommandsRun can all be met. -/
theorem witness_SpindleRunningCommandsRun :
    (∃ (phase : _) (v0 : _) (v1 : _) (sub : _) (t : _) (step : _) (s : State), s.crossingAt v0 v1 (s.subTime sub) = some t ∧
      step = crossingStep (phase % 3) (decide (v0 < 0)) ∧ s.sixStep = true) ∧
    (∃ (phase : _) (v0 : _) (v1 : _) (sub : _) (t : _) (step : _) (s : State), s.crossingAt v0 v1 (s.subTime sub) = some t ∧
      step = crossingStep (phase % 3) (decide (v0 < 0)) ∧ s.sixStep = false ∧ s.nat O.spindleState = 3 ∧ s.spindle.phase = 2) ∧
    (∃ (phase : _) (v0 : _) (v1 : _) (sub : _) (t : _) (step : _) (s : State), s.crossingAt v0 v1 (s.subTime sub) = some t ∧
      step = crossingStep (phase % 3) (decide (v0 < 0)) ∧ s.sixStep = false ∧ s.nat O.spindleState = 7) ∧
    (∃ (phase : _) (v0 : _) (v1 : _) (sub : _) (t : _) (step : _) (s : State), s.crossingAt v0 v1 (s.subTime sub) = some t ∧
      step = crossingStep (phase % 3) (decide (v0 < 0)) ∧ s.sixStep = false ∧ s.nat O.spindleState = 8) ∧
    (∃ (phase : _) (v0 : _) (v1 : _) (sub : _) (t : _) (step : _) (s : State), s.crossingAt v0 v1 (s.subTime sub) = some t ∧
      step = crossingStep (phase % 3) (decide (v0 < 0)) ∧ s.sixStep = false ∧ ((s.nat O.spindleState = 2 ∨ s.nat O.spindleState
      = 9 ∨ s.nat O.spindleState = 11))) ∧
    (∃ (tracked : _) (s : State), s.spindle.gates = true ∧ s.nat O.spindleState = 3 ∧ s.spindle.phase = 2 ∧ stepOf (tracked %
      65536) ≠ s.spindle.step) ∧
    (∃ (s : State), s.spindle.gates = true ∧ s.nat O.spindleState ≠ 3 ∧ s.onClock = true ∧ stepOf s.clockElectrical ≠
      s.spindle.step) ∧
    (∃ (sub : _) (s : State), s.spindle.gates = true ∧ s.nat O.spindleState = 8 ∧ s.onClock = false ∧ s.spindle.commutedAt +
      s.spindle.stepTime ≤ s.subTime sub) ∧
    (∃ (sub : _) (s : State), s.spindle.gates = true ∧ s.nat O.spindleState ≠ 3 ∧ s.nat O.spindleState ≠ 8 ∧ s.onClock = false ∧
      s.sixStep = true ∧ s.commuteAt ≤ s.subTime sub) ∧
    (∃ (s : State), s.nat O.spindleState = 8 ∧ 6 * s.nat O.flywheelCycles ≤ s.spindle.flySteps) ∧
    (∃ (weak : _) (s : State), s.nat O.spindleState = 9 ∧ s.spindle.coastForStop = false ∧ s.spindle.powerLost = false ∧
      s.surgeQueued? 1 0 = false ∧ ((weak = true ∨ s.atLeast (s.nat O.injectionSpeedLimit) = false ∨ s.spindle.coastStart +
      1000000 * s.nat O.maxCoastTime ≤ s.tick))) ∧
    (∃ (shunt : _) (s : State), s.overcurrentAt < shunt ∧ s.spindle.gates = true) ∧
    (∃ (z : ZoneTable) (rest : _) (s : State), s.layout.tables = z :: rest ∧ z.nominalRpm ≠ s.nat O.spindleNominalRpm ∧ s.nat
      O.spindleState = 5) ∧
    (∃ (sub : _) (speed : _) (s : State) (v : State) (u : State), s.subTime sub % 16000 = 0 ∧ speed =
      (match s.spindle.frameTheta, s.spindle.headAngle with
        | some t, true => clockSpeed t s.spindle.theta
        | _, _ => s.measuredSpeed)
      ∧ v = (s.setSpeed speed).modSpindle (fun x => { x with frameTheta := if x.headAngle = true then some x.theta else none })
      ∧ u = (if v.atLeast (v.nat O.flySpeedMin) = true then v else v.safeParkAll 5).frameSetPoint) :=
  ⟨(by refine ⟨0, -1, 1, 0, (((ready)).crossingAt (-1) 1 (((ready)).subTime 0)).getD 0, _, ready, ?_, rfl, ?_⟩ <;> decide +kernel),
    (by refine ⟨0, -1, 1, 0, ((((ready.setNat O.spindleState 3).modSpindle fun x => { x with phase := 2 })).crossingAt (-1) 1
      ((((ready.setNat O.spindleState 3).modSpindle fun x => { x with phase := 2 })).subTime 0)).getD 0, _, (ready.setNat
      O.spindleState 3).modSpindle fun x => { x with phase := 2 }, ?_, rfl, ?_, ?_, ?_⟩ <;> decide +kernel),
    (by refine ⟨0, -1, 1, 0, (((ready.setNat O.spindleState 7)).crossingAt (-1) 1 (((ready.setNat O.spindleState 7)).subTime
      0)).getD 0, _, ready.setNat O.spindleState 7, ?_, rfl, ?_, ?_⟩ <;> decide +kernel),
    (by refine ⟨0, -1, 1, 0, (((ready.setNat O.spindleState 8)).crossingAt (-1) 1 (((ready.setNat O.spindleState 8)).subTime
      0)).getD 0, _, ready.setNat O.spindleState 8, ?_, rfl, ?_, ?_⟩ <;> decide +kernel),
    (by refine ⟨0, -1, 1, 0, (((ready.setNat O.spindleState 9)).crossingAt (-1) 1 (((ready.setNat O.spindleState 9)).subTime
      0)).getD 0, _, ready.setNat O.spindleState 9, ?_, rfl, ?_, ?_⟩ <;> decide +kernel),
    ⟨0, (ready.setNat O.spindleState 3).modSpindle fun x => { x with phase := 2, gates := true, step := 100 }, by decide +kernel⟩,
    ⟨(ready.setNat O.spindleState 7).modSpindle fun x => { x with gates := true, step := 100 }, by decide +kernel⟩,
    ⟨0, (ready.setNat O.spindleState 8).modSpindle fun x => { x with gates := true }, by decide +kernel⟩,
    ⟨0, ready, by decide +kernel⟩,
    ⟨(({ ready with acts := List.replicate 4 {} } : State).setNat O.spindleState 8).modSpindle fun x =>
      { x with flySteps := 1000000 }, by decide +kernel⟩,
    ⟨0, ready.setNat O.spindleState 9, by decide +kernel⟩,
    ⟨100000000, ready, by decide +kernel⟩,
    ⟨{ nominalRpm := 5400 }, [], { ready with layout := { tables := [{ nominalRpm := 5400 }] } }, by decide +kernel⟩,
    (by refine ⟨0, _, ready, _, _, ?_, rfl, rfl, rfl⟩ <;> decide +kernel)⟩

/-- The hypotheses of BrakingCommandsRun can all be met. -/
theorem witness_BrakingCommandsRun :
    (∃ (shunt1 : _) (shunt2 : _) (below : Bool) (first : _) (second : _) (s : State), first = s.shuntMa shunt1 ∧ second =
      s.shuntMa shunt2 ∧ below = decide (s.spindle.busSample * 100 < s.nat O.busNominal * (100 + s.nat O.ov1Percent))) ∧
    (∃ (bus : _) (s : State) (u : State), s.nat O.busNominal * (100 + s.nat O.ov2Percent) < inputMv bus * 100 ∧ u =
      (s.modSpindle fun x =>
      { x with busSample := inputMv bus, gates := false, chopper := false, zeroPulse := false, lowSides := false }).raiseFault
      278 0) ∧
    (∃ (s : State), s.nat O.spindleState = 11 ∧ s.spindle.chopper = true ∧ (((s.nat O.busNominal * (100 + s.nat O.ov1Percent) <
      s.spindle.busSample * 100 ∧ s.spindle.chopperCurrent < s.nat O.chopperMinCurrent) ∨ s.nat O.chopperRiseSamples ≤
      s.spindle.busRise))) ∧
    (∃ (s : State), s.nat O.spindleState = 11 ∧ s.nat O.brakePhase ≠ 4 ∧ s.atLeast (s.nat O.brakeEndSpeed) = false) ∧
    (∃ (s : State), s.spindle.lastEvent + 1000000 ≤ s.tick ∧ ((s.nat O.spindleState = 11 ∧ s.nat O.brakePhase = 4) ∨ (s.nat
      O.spindleState = 9 ∧ s.spindle.coastForStop = true))) ∧
    (∃ (r : _) (s : State), s.checkPut r O.sineTableRestore (.num 1 1) = none) ∧
    (∃ (r : _) (table : _) (s : State), s.checkPut r O.sineTable (.bytes table) = none ∧ s.sineUsed = false ∧ ((∀ i, i < 1024 →
      ofLe ((table.drop (2 * i)).take 2) ≤ 4095))) :=
  ⟨(by refine ⟨0, 0, _, _, _, ready, rfl, rfl, rfl⟩),
    (by refine ⟨4095, ready, _, ?_, rfl⟩ <;> decide +kernel),
    ⟨(ready.setNat O.spindleState 11).modSpindle fun x => { x with chopper := true, busRise := 1000 }, by decide +kernel⟩,
    ⟨(ready.setNat O.spindleState 11).modSpindle fun x => { x with mrpm := 0 }, by decide +kernel⟩,
    ⟨(ready.setNat O.spindleState 11).setNat O.brakePhase 4, by decide +kernel⟩,
    ⟨.mb, ready, by decide +kernel⟩,
    (by refine ⟨.mb, List.replicate 2048 0, ready, by decide +kernel, by decide +kernel, fun i hi => ?_⟩; rw [List.drop_replicate,
      List.take_replicate, show min 2 (2048 - 2 * i) = 2 by omega]; decide)⟩

/-- The hypotheses of LevelCommandsRun can all be met. -/
theorem witness_LevelCommandsRun :
    (∃ (r : _) (level : _) (s : State), s.checkPut r O.performanceLevelRequest (.num 1 (level : Nat)) = none) ∧
    (∃ (s : State), s.power.stepKind = 0 ∧ s.levelHeld = false ∧ s.nat O.performanceLevelCurrent < s.levelTarget ∧ s.nat
      O.avsState ≠ 3) ∧
    (∃ (s : State), s.power.stepKind = 0 ∧ s.levelHeld = false ∧ s.levelTarget < s.nat O.performanceLevelCurrent) ∧
    (∃ (accepted : Bool) (s : State), s.nat O.avsState = 1 ∧ (accepted = false ∨ s.power.avsSent + s.nat O.avsAckTimeout <
      s.tick)) ∧
    (∃ (accepted : Bool) (s : State), s.nat O.avsState = 1 ∧ accepted = true ∧ s.tick ≤ s.power.avsSent + s.nat O.avsAckTimeout) ∧
    (∃ (s : State), s.power.stepWait = 3 ∧ s.nat O.avsState = 0 ∧ s.power.settleEnd ≤ s.tick) ∧
    (∃ (s : State), s.nat O.avsState = 1 ∧ s.power.avsSent + s.nat O.avsAckTimeout ≤ s.tick) ∧
    (∃ (s : State), s.nat O.avsState = 2 ∧ s.power.retryAt ≤ s.tick) ∧
    (∃ (r : _) (s : State), s.checkPut r O.avsRestart (.num 1 1) = none ∧ s.nat O.avsState = 3) ∧
    (∃ (temperature : Int) (u : State) (s : State), s.power.thermalAt + 10000000 ≤ s.tick ∧ u = (s.modPower fun x =>
      { x with thermalAt := s.tick }).takeTemperature temperature) ∧
    (∃ (temperature : Int) (u : State) (s : State), u = (s.setObj O.caseTemperature temperature).noteWarnings) ∧
    (∃ (level : _) (counts : List Nat) (c : List Nat) (u : State) (s : State), counts.length = 64 ∧ level ≤ 5 ∧ s.nat
      O.sleepStateCurrent ≠ 4 ∧ (((s.nat O.startupPhase ≠ 3 ∧ level = s.nat O.performanceLevelCurrent ∧ (s.power.measureDue =
      true ∨ s.nat (O.lastMeasured + level) + 3600000000 * s.nat O.ageingPeriod ≤ s.tick)) ∨ (s.nat O.startupPhase = 3 ∧ level ≤
      s.nat O.levelCap ∧ (level = s.power.stepped ∨ (s.power.measureDue = true ∧ level + 1 = s.power.stepped))))) ∧ c =
      counts.zipIdx.map (fun p => Config.corrected p.2 p.1 (s.obj O.caseTemperature)) ∧ u = ((s.bump
      O.ageingMeasurements).setNat (O.lastMeasured + level) s.tick).modPower (fun x =>
      { x with measureDue := false, stepped := if s.nat O.startupPhase = 3 then level + 1 else x.stepped })) ∧
    (∃ (u : State) (s : State), s.power.marginAt + 86400000000 ≤ s.tick ∧ u =
      ({ (s.modPower fun x => { x with marginAt := s.tick }) with heads := s.heads.map fun (x : Head) => { x with margins := x.marginNow.foldl (fun l m => putKey l m.1 ((m.2 :: (assoc? l m.1).getD []).take 32)) x.margins, marginNow := [] } }
      : State)) :=
  ⟨⟨.mb, 0, ready, by decide +kernel⟩,
    ⟨ready.setNat O.performanceLevelCurrent 1, by decide +kernel⟩,
    ⟨ready.setNat O.performanceLevelCurrent 5, by decide +kernel⟩,
    ⟨false, ready.setNat O.avsState 1, by decide +kernel⟩,
    ⟨true, (ready.setNat O.avsState 1).modPower fun x => { x with avsSent := 10000000000000 }, by decide +kernel⟩,
    ⟨(({ ready with power := { stepKind := 1, stepTarget := 4, stepWait := 3 } } : State).setNat O.avsState 0).setNat O.coreVoltage
      (ready.plannedVoltage 4), by decide +kernel⟩,
    ⟨ready.setNat O.avsState 1, by decide +kernel⟩,
    ⟨ready.setNat O.avsState 2, by decide +kernel⟩,
    ⟨.mb, ready.setNat O.avsState 3, by decide +kernel⟩,
    (by refine ⟨2000, _, ready.setNat O.thermalLevelLimit 3, ?_, rfl⟩ <;> decide +kernel),
    (by refine ⟨1100, _, ready, rfl⟩),
    (by refine ⟨4, List.replicate 64 1, _, _, (ready.modPower fun x => { x with measureDue := true }).setNat
      O.performanceLevelCurrent 4, ?_, ?_, ?_, ?_, rfl, rfl⟩ <;> decide +kernel),
    (by refine ⟨_, ready, ?_, rfl⟩ <;> decide +kernel)⟩

/-- The hypotheses of SleepCommandsRun can all be met. -/
theorem witness_SleepCommandsRun :
    (∃ (r : _) (value : _) (s : State), s.checkPut r O.sleepStateRequest (.num 1 (value : Nat)) = none) ∧
    (∃ (block : _) (code : _) (s : State), s.nat O.sleepEntryState = 1 ∧ s.power.block = block ∧ s.blockRefusal block = some
      code) ∧
    (∃ (block : _) (s : State), s.nat O.sleepEntryState = 1 ∧ s.power.block = block ∧ s.blockRefusal block = none ∧ s.quiesced
      block = true ∧ block < 8) ∧
    (∃ (block : _) (s : State), s.nat O.sleepEntryState = 1 ∧ s.power.block = block ∧ s.blockRefusal block = none ∧ s.quiesced
      block = true ∧ 8 ≤ block ∧ s.firesNow = true) ∧
    (∃ (block : _) (wake : Option Nat) (s : State), s.nat O.sleepEntryState = 1 ∧ s.power.block = block ∧ s.blockRefusal block =
      none ∧ s.quiesced block = true ∧ 8 ≤ block ∧ s.firesNow = false ∧ wake = none) ∧
    (∃ (block : _) (wake : Option Nat) (s : State) (bit : Nat), s.nat O.sleepEntryState = 1 ∧ s.power.block = block ∧
      s.blockRefusal block = none ∧ s.quiesced block = true ∧ 8 ≤ block ∧ s.firesNow = false ∧ wake = some bit) ∧
    (∃ (s : State) (u : State), s.nat O.sleepEntryState = 2 ∧ (if s.nat O.sleepStateCurrent = 4 then s.platform.vregEnable =
      false else s.power.ceiling = 0) ∧ u = (s.setNat O.sleepEntryState 3).modPower (fun x =>
      { x with wakeAt := if s.nat O.wakeTimer = 0 then none else some (s.tick + 1000000 * s.nat O.wakeTimer) })) ∧
    (∃ (s : State), s.nat O.sleepEntryState = 1 ∧ (¬ (s.power.block = 7 ∧ s.nat O.sleepEntryTarget = 4)) ∧ s.power.prepareStart
      + 1000 * s.nat O.prepareLimit ≤ s.tick) ∧
    (∃ (source : _) (u : State) (s : State), source ≤ 5 ∧ ((source < 3 → s.nat O.sleepStateCurrent ≠ 4)) ∧ ((source = 5 → s.nat
      O.sleepStateCurrent ≠ 1)) ∧ u = s.setNat O.wakeSources (withBit (s.nat O.wakeSources) source) ∧ s.nat O.sleepEntryState =
      1) ∧
    (∃ (source : _) (u : State) (s : State), source ≤ 5 ∧ ((source < 3 → s.nat O.sleepStateCurrent ≠ 4)) ∧ ((source = 5 → s.nat
      O.sleepStateCurrent ≠ 1)) ∧ u = s.setNat O.wakeSources (withBit (s.nat O.wakeSources) source) ∧ s.nat O.sleepEntryState =
      2) ∧
    (∃ (source : _) (u : State) (s : State), source ≤ 5 ∧ ((source < 3 → s.nat O.sleepStateCurrent ≠ 4)) ∧ ((source = 5 → s.nat
      O.sleepStateCurrent ≠ 1)) ∧ u = s.setNat O.wakeSources (withBit (s.nat O.wakeSources) source) ∧ s.nat O.sleepEntryState ≠
      1 ∧ s.nat O.sleepEntryState ≠ 2 ∧ 2 ≤ s.nat O.sleepStateCurrent) ∧
    (∃ (t : _) (s : State), s.power.wakeAt = some t ∧ t ≤ s.tick ∧ 2 ≤ s.nat O.sleepStateCurrent) ∧
    (∃ (s : State), s.power.blocked = true ∧ s.power.idleSince + 1000000 * s.nat O.sleepIdleTime ≤ s.tick) ∧
    (∃ (s : State), s.nat O.sleepEntryState = 1 ∧ s.power.block = 7 ∧ s.nat O.sleepEntryTarget = 4 ∧ s.nat O.spindleState ≠ 0 ∧
      s.power.spindleStart + 1000000 * s.nat O.spindleStopLimit ≤ s.tick) :=
  ⟨⟨.mb, 1, ready, by decide +kernel⟩,
    ⟨4, 4, (({ ready with sub := { format := some { port := 2, cid := 0, mapping := 0 } } } : State).setNat O.sleepEntryState
      1).modPower fun x => { x with block := 4 }, by decide +kernel⟩,
    ⟨1, (ready.setNat O.sleepEntryState 1).modPower fun x => { x with block := 1 }, by decide +kernel⟩,
    ⟨8,
      ((({ ready with pending := [.tbiEdge 1000], fw := { slots := List.replicate 2 { valid := true, kind := 1, header := List.replicate 21 0 ++ [1] ++ List.replicate 900 0 }, phase := 1, pulse := (pulseLabel ready.wallTime).getD 0 + 2 } }
      : State).setNat O.sleepEntryState 1).setNat O.updateGuards 0).modPower fun x => { x with block := 8 }, by decide +kernel⟩,
    (by refine ⟨8, _, (ready.setNat O.sleepEntryState 1).modPower fun x => { x with block := 8 }, ?_, ?_, ?_, ?_, ?_, ?_, rfl⟩ <;>
      decide +kernel),
    ⟨8, some 0, (ready.setNat O.sleepEntryState 1).modPower fun x => { x with block := 8 }, 0, by decide +kernel⟩,
    (by refine ⟨(ready.setNat O.sleepEntryState 2).modPower fun x => { x with ceiling := 0 }, _, ?_, ?_, rfl⟩ <;> decide +kernel),
    ⟨ready.setNat O.sleepEntryState 1, by decide +kernel⟩,
    (by refine ⟨0, _, ready.setNat O.sleepEntryState 1, ?_, ?_, ?_, rfl, ?_⟩ <;> decide +kernel),
    (by refine ⟨0, _, ready.setNat O.sleepEntryState 2, ?_, ?_, ?_, rfl, ?_⟩ <;> decide +kernel),
    (by refine ⟨0, _, ready.setNat O.sleepStateCurrent 2, ?_, ?_, ?_, rfl, ?_, ?_, ?_⟩ <;> decide +kernel),
    ⟨0, (ready.setNat O.sleepStateCurrent 2).modPower fun x => { x with wakeAt := some 0 }, by decide +kernel⟩,
    ⟨ready.modPower fun x => { x with blocked := true }, by decide +kernel⟩,
    ⟨((ready.setNat O.sleepEntryState 1).setNat O.sleepEntryTarget 4).modPower fun x => { x with block := 7 }, by decide +kernel⟩⟩

/-- The hypotheses of FaultCommandsRun can all be met. -/
theorem witness_FaultCommandsRun :
    (∃ (r : _) (value : _) (s : State), s.checkPut r O.faultClear (.num 2 (value : Nat)) = none) ∧
    (∃ (r : _) (s : State), s.checkPut r O.faultPinRelease (.num 1 1) = none) ∧
    (∃ (s : State), s.faults.pin = 1 ∧ s.faults.pulseEnd ≤ s.tick) ∧
    (∃ (code : _) (register : _) (bytes : _) (rest : _) (u : State) (s : State), s.mb.emcyQueue = (code, register, bytes) ::
      rest ∧ ((∀ t, s.mb.emcyLast = some t → t + 100 * s.nat O.emcyInhibit ≤ s.tick)) ∧ s.nmtServes = true ∧ s.busSends
      s.activeBus = true ∧ u = s.modMb (fun m => { m with emcyQueue := rest })) ∧
    (∃ (r : _) (token : _) (s : State), s.checkPut r O.trapdoorToken (.bytes token) = none) ∧
    (∃ (r : _) (u : State) (s : State), s.checkPut r O.injectCommand (.num 1 1) = none ∧ s.nat O.injectRunState ≠ 1 ∧ u =
      ((s.startRun O.injectRunState).setNat O.injectRunMade 0).setNat O.injectRunFirstTick 0) ∧
    (∃ (r : _) (s : State), s.checkPut r O.injectCommand (.num 1 2) = none) ∧
    (∃ (s : State), s.nat O.injectRunState = 1 ∧ 0 < s.faults.injectLeft ∧ s.faults.injectNext ≤ s.tick) :=
  ⟨⟨.mb, 0, ready, by decide +kernel⟩,
    ⟨.mb, ready, by decide +kernel⟩,
    ⟨ready.modFaults fun x => { x with pin := 1 }, by decide +kernel⟩,
    (by refine ⟨0x1000, 0, [], [], _, ready.modMb fun x => { x with emcyQueue := [(0x1000, 0, [])] }, ?_, ?_, ?_, ?_, rfl⟩ <;>
      decide +kernel),
    ⟨.mb, List.replicate 5550 0, ready.setNat O.trapdoorState 1, by decide +kernel⟩,
    (by refine ⟨.mb, _, ready, ?_, ?_, rfl⟩ <;> decide +kernel),
    ⟨.mb, ready, by decide +kernel⟩,
    ⟨(ready.setNat O.injectRunState 1).modFaults fun x => { x with injectLeft := 1 }, by decide +kernel⟩⟩

/-- The hypotheses of RecordCommandsRun can all be met. -/
theorem witness_RecordCommandsRun :
    (∃ (r : _) (bound : _) (s : State), s.checkPut r O.shelfClear (.num 8 (bound : Nat)) = none) ∧
    (∃ (token : _) (u : State) (s : State), s.checkPut .mb O.shelfClearToken (.bytes token) = none ∧ u =
      { s.takeFree.2 with shelf := { s.takeFree.2.shelf with challenge := s.takeFree.1 } }) ∧
    (∃ (r : _) (value : _) (s : State), s.checkPut r O.wallTimeSet (.num 8 (value : Nat)) = none) ∧
    (∃ (r : _) (image : List Nat) (entries : List Nat) (s : State), s.checkPut r O.snapshotListImage (.bytes image) = none ∧
      ofLe (image.take 2) = s.nat O.snapshotSelectCode ∧ 1 ≤ ofLe ((image.drop 2).take 2) ∧ ofLe ((image.drop 2).take 2) ≤ 1000
      ∧ 1 ≤ ofLe ((image.drop 4).take 2) ∧ ofLe ((image.drop 4).take 2) ≤ 1024 ∧ entries = (List.range 48).map (fun i => ofLe
      ((image.drop (12 + 4 * i)).take 4)) ∧ ((∀ e ∈ entries.takeWhile (· ≠ 0), e % 256 / 2 = 0 ∧ s.listable (e / 65536 * 256 + e
      / 256 % 256) = true))) ∧
    (∃ (cause : _) (a : _) (rest : _) (s : State), s.trunk.queue = a :: rest ∧ (¬ (s.spindle.powerLost = true ∧ s.obj
      O.holdUpMargin ≤ 0)) ∧ cause ≠ 2 ∧ cause ≠ 3) ∧
    (∃ (cause : _) (a : _) (rest : _) (s : State) (area : _) (unit : _), s.trunk.queue = a :: rest ∧ (¬ (s.spindle.powerLost =
      true ∧ s.obj O.holdUpMargin ≤ 0)) ∧ (cause = 2 ∨ cause = 3) ∧ area = (if a.kind = 1 then 0 else 1) ∧ unit = (if area = 0
      then s.trunk.bootUnit else s.trunk.logUnit)) ∧
    (∃ (act : _) (units : List Nat) (v : State) (s : State), s.hasAct act = true ∧ s.mapped act = true ∧ (s.act act).load = 2 ∧
      s.nat (O.headService + 6 * act) ≠ 3 ∧ s.spindle.powerLost = false ∧ units = (assoc? s.trunk.dirty act).getD [] ∧ v =
      units.foldl (fun (w : State) u => w.emit (.system (6 * act) 6 u 0 (15 * 2 ^ 44 + 0x10000 + 16 * u) (4096 + 32) [])) s) ∧
    (∃ (r : _) (value : _) (a : _) (b : _) (s : State), s.checkPut r O.storeParameters (.num 4 (value : Nat)) = none ∧ a =
      (s.mb.storedA.map StoredCopy.seq).getD 0 ∧ b = (s.mb.storedB.map StoredCopy.seq).getD 0) ∧
    (∃ (r : _) (value : _) (s : State), s.checkPut r O.restoreDefaults (.num 4 (value : Nat)) = none) ∧
    (∃ (r : _) (key : _) (u : State) (s : State), u = s.expireKey key ∧ u.checkPut r (O.keyControl + key) (.num 1 1) = none ∧
      ((u.key key).holder = 0 ∨ (u.key key).holder = r.code) ∧ u.keyGoesTo r key = false) ∧
    (∃ (r : _) (key : _) (u : State) (s : State), u = s.expireKey key ∧ u.checkPut r (O.keyControl + key) (.num 1 0) = none ∧
      (u.key key).holder = r.code ∧ r.code ≠ 0 ∧ (u.key key).implicit = 0) :=
  ⟨⟨.mb, 0, ready, by decide +kernel⟩,
    (by refine ⟨List.replicate 5550 0, _, ready, ?_, rfl⟩ <;> decide +kernel),
    ⟨.mb, 0, ready, by decide +kernel⟩,
    (by refine ⟨.mb, [1, 0, 1, 0, 1, 0] ++ List.replicate 198 0, _, ready.setNat O.snapshotSelectCode 1, ?_, ?_, ?_, ?_, ?_, ?_,
      rfl, ?_⟩ <;> decide +kernel),
    ⟨0, ⟨0x10, 0, 0, 0, [], false⟩, [], ready.modTrunk fun x => { x with queue := [⟨0x10, 0, 0, 0, [], false⟩] }, by decide +kernel⟩,
    (by refine ⟨2, ⟨1, 0, 0, 0, [], false⟩, [], { ready with trunk := { queue := [⟨1, 0, 0, 0, [], false⟩] } }, _, _, ?_, ?_, ?_,
      rfl, rfl⟩ <;> decide +kernel),
    (by refine ⟨0, [5], _, ready.modTrunk fun x => { x with dirty := [(0, [5])] }, ?_, ?_, ?_, ?_, ?_, ?_, rfl⟩ <;> decide +kernel),
    (by refine ⟨.mb, 0x65766173, _, _, ready, ?_, rfl, rfl⟩ <;> decide +kernel),
    ⟨.mb, 0x64616F6C, ready, by decide +kernel⟩,
    (by refine ⟨.mb, 0, _, ready, rfl, ?_, ?_, ?_⟩ <;> decide +kernel),
    (by refine ⟨.mb, 0, _, { ready with keys := List.replicate 16 { explicit := 3, leaseEnd := 10 ^ 15 } }, rfl, ?_, ?_, ?_, ?_⟩ <;>
      decide +kernel)⟩

/-- The hypotheses of NmtAndLssCommandsRun can all be met. -/
theorem witness_NmtAndLssCommandsRun :
    (∃ (bus : _) (node : _) (s : State), bus = s.activeBus ∧ ((node = 0 ∨ (node = s.mb.nodeId ∧ node ≠ 255))) ∧ s.busReceives
      bus = true ∧ s.mb.nmt ≠ 0) ∧
    (∃ (bus : _) (pending : _) (s : State), bus = s.activeBus ∧ s.busReceives bus = true ∧ s.mb.nmt = 0 ∧ s.mb.nodeId = 255 ∧
      s.mb.pendingNode = some pending) ∧
    (∃ (bus : _) (s : State), s.lssServed bus = true) ∧
    (∃ (bus : _) (s : State), s.lssServed bus = true) ∧
    (∃ (bus : _) (s : State), s.lssServed bus = true ∧ s.mb.lssConfig = true) ∧
    (∃ (bus : _) (s : State), s.lssServed bus = true ∧ s.mb.lssConfig = true) ∧
    (∃ (bus : _) (s : State), s.lssServed bus = true ∧ s.mb.lssConfig = true) ∧
    (∃ (bus : _) (s : State), s.lssServed bus = true ∧ s.mb.lssConfig = false ∧ s.mb.nodeId = 255 ∧ s.mb.pendingNode = none) :=
  ⟨(by refine ⟨_, 0, ready, rfl, ?_, ?_, ?_⟩ <;> decide +kernel),
    (by refine ⟨_, 5, { ready with mb := { pendingNode := some 5 } }, rfl, ?_, ?_, ?_, ?_⟩ <;> decide +kernel),
    ⟨0, ready, by decide +kernel⟩,
    ⟨0, ready, by decide +kernel⟩,
    ⟨0, ready.modMb fun x => { x with lssConfig := true }, by decide +kernel⟩,
    ⟨0, ready.modMb fun x => { x with lssConfig := true }, by decide +kernel⟩,
    ⟨0, ready.modMb fun x => { x with lssConfig := true }, by decide +kernel⟩,
    ⟨0, ready.modMb fun x => { x with nodeId := 255 }, by decide +kernel⟩⟩

/-- The hypotheses of ManagementBusRuns can all be met. -/
theorem witness_ManagementBusRuns :
    (∃ (bus : _) (s : State), s.busActs bus = true ∧ s.nmtServes = true ∧ s.mb.nodeId ≠ 255 ∧ s.mb.usdo = none) ∧
    (∃ (bus : _) (u : Usdo) (s : State), s.busActs bus = true ∧ s.nmtServes = true ∧ s.mb.nodeId ≠ 255 ∧ s.mb.usdo = some u) ∧
    (∃ (bus : _) (client : _) (u : Usdo) (s : State), s.busActs bus = true ∧ s.nmtServes = true ∧ s.mb.nodeId ≠ 255 ∧ s.mb.usdo
      = some u ∧ u.client = client) ∧
    (∃ (u : Usdo) (s : State), s.mb.usdo = some u ∧ u.lastFrame + 1000 * s.nat O.usdoTimeout ≤ s.tick) ∧
    (∃ (bus : _) (number : _) (s : State), s.busActs bus = true ∧ s.mb.nmt = 5 ∧ 1 ≤ number ∧ number ≤ 2 ∧ (s.view (O.rpdo1CobId
      + 256 * (number - 1))).toNat.testBit 31 = false) ∧
    (∃ (number : _) (past : Nat → Bool) (s : State), s.tpdoEnabled number = true ∧ 240 < s.nat (O.tpdo1CobId + 256 * (number -
      1) + 1) ∧ ((∀ d, past d = (assoc? s.mb.tpdoLast number).all (fun t => decide (t + d ≤ s.tick))))) ∧
    (∃ (s : State), s.nat O.producerHeartbeat ≠ 0 ∧ s.mb.nmt ≠ 0 ∧ s.mb.heartbeatNext ≤ s.tick) ∧
    (∃ (bus : _) (entry : _) (c : _) (t : _) (s : State), s.consumer entry = some c ∧ assoc? (s.bus bus).seen entry = some t ∧
      s.heard bus entry = false ∧ (s.bus bus).lost.contains entry = false ∧ s.nat O.sleepStateCurrent ≠ 4) ∧
    (∃ (bus : _) (node : _) (mine : _) (s : State), s.busReceives bus = true ∧ mine = (List.range 4).filter (fun i =>
      (s.consumer i).map Prod.fst = some node) ∧ mine ≠ []) ∧
    (∃ (bus : _) (s : State), s.busActs bus = true ∧ s.nmtServes = true ∧ s.mb.nodeId ≠ 255) ∧
    (∃ (bus : _) (s : State), s.busActs bus = true ∧ s.mb.nmt = 5) ∧
    (∃ (bus : _) (s : State), s.busReceives bus = true) ∧
    (∃ (bus : _) (queued : _) (s : State), s.nat (O.busState + bus) ≠ 0 ∧ queued + 100000 ≤ s.tick) ∧
    (∃ (bus : _) (recent : List Nat) (u : State) (s : State), s.busReceives bus = true ∧ recent = s.tick :: (s.bus
      bus).offTicks.filter (fun t => decide (s.tick < t + 60000000)) ∧ u = (s.bump (O.busOffEvents + bus)).modBus bus (fun p =>
      { p with offTicks := recent, recoverAt := s.tick + 1000 * s.mb.recoveryDelay })) ∧
    (∃ (bus : _) (s : State), s.nat (O.busState + bus) = 3 ∧ (s.bus bus).recoverAt ≤ s.tick) ∧
    (∃ (bus : _) (s : State), s.nat (O.busState + bus) = 4) ∧
    (∃ (bus : _) (s : State), s.busSends bus = true) ∧
    (∃ (bus : _) (transmit : _) (receive : _) (u : State) (s : State), s.busReceives bus = true ∧ u = (s.setNat
      (O.txErrorCounter + bus) (min transmit 255)).setNat (O.rxErrorCounter + bus) (min receive 255)) ∧
    (∃ (r : _) (value : _) (s : State), s.checkPut r O.busSelect (.num 1 (value : Nat)) = none ∧ ((value = s.activeBus ∨ s.nat
      (O.busState + value) = 1 ∨ s.nat (O.busState + value) = 2))) ∧
    (∃ (r : _) (bus : _) (s : State), s.checkPut r (O.mbPortRestart + bus) (.num 1 1) = none) :=
  ⟨⟨0, ready, by decide +kernel⟩,
    ⟨0, ⟨0, 0, false, [], 0⟩, { ready with mb := { nmt := 5, nodeId := 5, usdo := some ⟨0, 0, false, [], 0⟩ } }, by decide +kernel⟩,
    ⟨0, 0, ⟨0, 0, false, [], 0⟩, { ready with mb := { nmt := 5, nodeId := 5, usdo := some ⟨0, 0, false, [], 0⟩ } }, by
      decide +kernel⟩,
    ⟨⟨1, 0, true, [], 0⟩, ready.modMb fun x => { x with usdo := some ⟨1, 0, true, [], 0⟩ }, by decide +kernel⟩,
    ⟨0, 1, (ready.setNat O.rpdo1CobId 0x205).setNat (O.rpdo1CobId + 1) 1, by decide +kernel⟩,
    (by refine ⟨1, _, ((ready.setNat O.tpdo1CobId 0x185).setNat (O.tpdo1CobId + 1) 255).setNat O.tpdo1Count 1, ?_, ?_, fun _ => rfl⟩
      <;> decide +kernel),
    ⟨ready.setNat O.producerHeartbeat 1000, by decide +kernel⟩,
    ⟨1, 0, (6, 1000), 0, (ready.setNat O.consumerHeartbeat (6 * 65536 + 1000)).modBus 1 fun x => { x with seen := [(0, 0)] }, by
      decide +kernel⟩,
    ⟨1, 6, [0], ready.setNat O.consumerHeartbeat (6 * 65536 + 1000), by decide +kernel⟩,
    ⟨0, ready, by decide +kernel⟩,
    ⟨0, ready, by decide +kernel⟩,
    ⟨0, ready, by decide +kernel⟩,
    ⟨0, 0, ready, by decide +kernel⟩,
    (by refine ⟨0, _, _, ready, ?_, rfl, rfl⟩ <;> decide +kernel),
    ⟨0, ready.setNat O.busState 3, by decide +kernel⟩,
    ⟨0, ready.setNat O.busState 4, by decide +kernel⟩,
    ⟨0, ready, by decide +kernel⟩,
    (by refine ⟨0, 0, 0, _, ready, ?_, rfl⟩ <;> decide +kernel),
    ⟨.mb, 1, ready, by decide +kernel⟩,
    ⟨.mb, 0, ready.setNat O.busState 5, by decide +kernel⟩⟩

/-- The hypotheses of CacheMapAndCrateCommandsRun can all be met. -/
theorem witness_CacheMapAndCrateCommandsRun :
    (∃ (r : _) (s : State), s.checkPut r O.larderEnable (.num 1 1) = none ∧ ((s.nat O.larderEnable = 1 ∨ (s.nat
      O.invalidateSinceDisable = 1 ∧ s.nat O.invalidateRunState ≠ 1)))) ∧
    (∃ (r : _) (s : State), s.checkPut r O.larderEnable (.num 1 0) = none) ∧
    (∃ (r : _) (s : State), s.checkPut r O.larderInvalidate (.num 1 1) = none ∧ s.nat O.larderEnable ≠ 1 ∧ s.nat
      O.invalidateRunState ≠ 1) ∧
    (∃ (u : State) (s : State), s.nat O.invalidateRunState = 1 ∧ u = (s.setNat O.invalidateRunLarderLines (s.larder.lines.filter
      fun l => decide (l.state ≠ .invalid)).length).setNat O.invalidateRunPantryLines (s.setNat O.invalidateRunLarderLines
      (s.larder.lines.filter fun l => decide (l.state ≠ .invalid)).length).larder.pantry.length) ∧
    (∃ (r : _) (lba : _) (u : State) (s : State), s.checkPut r O.mapLbaRequest (.num 8 (lba : Nat)) = none ∧ s.nat O.mapState ≠
      1 ∧ u = (s.startRun O.mapState).setNat O.mapLba lba) ∧
    (∃ (lba : _) (nsid : _) (u : State) (s : State), s.layout.mapping = some (lba, nsid) ∧ u =
      { s with layout := { s.layout with mapping := none } }) ∧
    (∃ (r : _) (data : List Nat) (t : State) (s : State), s.checkPut r O.crateBlock (.bytes data) = none ∧ s.storePiece (s.nat
      O.crateOffset) data = some t) ∧
    (∃ (r : _) (u : State) (s : State), s.checkPut r O.stageRequest (.num 1 1) = none ∧ s.nat O.stagingRunState ≠ 1 ∧ u =
      (s.startRun O.stagingRunState).setNat O.stagingRunSlot (s.startRun O.stagingRunState).stagingSlot) ∧
    (∃ (holder : _) (crate : _) (commit : _) (s : State), s.fw.staging = some (holder, crate, commit)) :=
  ⟨⟨.mb, (ready.setNat O.larderEnable 0).setNat O.invalidateSinceDisable 1, by decide +kernel⟩,
    ⟨.mb, ready, by decide +kernel⟩,
    ⟨.mb, ready.setNat O.larderEnable 0, by decide +kernel⟩,
    (by refine ⟨_, ready.setNat O.invalidateRunState 1, ?_, rfl⟩ <;> decide +kernel),
    (by refine ⟨.mb, 0, _, ready, ?_, ?_, rfl⟩ <;> decide +kernel),
    (by refine ⟨0, 1, _, { ready with layout := { ready.layout with mapping := some (0, 1) } }, ?_, rfl⟩ <;> decide +kernel),
    (by refine ⟨.mb, List.replicate 4096 0, _, ready, ?_, gave ?_⟩ <;> decide +kernel),
    (by refine ⟨.mb, _, ready, ?_, ?_, rfl⟩ <;> decide +kernel),
    ⟨3, [], none, ready.modFw fun x => { x with staging := some (3, [], none) }, by decide +kernel⟩⟩

/-- The hypotheses of ActivationCommandsRun can all be met. -/
theorem witness_ActivationCommandsRun :
    (∃ (r : _) (s : State), s.checkPut r O.activateRequest (.num 1 1) = none ∧ s.nat O.activationRunState ≠ 1) ∧
    (∃ (r : _) (s : State), s.checkPut r O.activateRequest (.num 1 2) = none ∧ s.nat O.activationRunState ≠ 1 ∧ s.wall.set =
      true ∧ s.nat O.tbiPulseLabel + s.nat O.scheduleLead + 1 ≤ s.nat O.scheduledPulse) ∧
    (∃ (r : _) (s : State), s.checkPut r O.activateRequest (.num 1 3) = none ∧ s.fw.phase = 1) ∧
    (∃ (c : _) (rest : _) (u : State) (s : State), s.fw.steps = c :: rest ∧ s.fw.phase = 4 ∧ s.spindle.powerLost = false ∧ ((c =
      4 → s.rafter.swapAt = none ∧ s.rafter.health = 0 ∧ s.rafter.microSwap = false)) ∧ ((c = 6 → (s.detect.streams.any fun st
      => decide (st.swap = 4)) = false)) ∧ u = (s.history 3 c s.inactiveSlot 0 s.fw.holder s.fw.pulse).modFw (fun f =>
      { f with steps := rest, doneSteps := c :: f.doneSteps })) ∧
    (∃ (c : _) (rest : _) (s : State), s.fw.steps = c :: rest ∧ s.fw.phase = 4 ∧ s.fw.stepStart + s.stepLimit c < s.tick) ∧
    (∃ (s : State), s.fw.phase = 2 ∧ s.ioRemains = false) ∧
    (∃ (s : State), s.fw.phase = 2 ∧ s.ioRemains = true ∧ s.fw.firedAt + 1000 * s.nat O.activationDrainLimit ≤ s.tick) ∧
    (∃ (width : _) (p : _) (u : State) (s : State), 1000 ≤ width ∧ s.wall.set = true ∧ pulseLabel s.wallTime = some p ∧ u =
      s.setNat O.tbiPulseLabel p ∧ u.fw.phase = 1 ∧ p + 2 = u.fw.pulse) ∧
    (∃ (width : _) (p : _) (u : State) (s : State), 1000 ≤ width ∧ s.wall.set = true ∧ pulseLabel s.wallTime = some p ∧ u =
      s.setNat O.tbiPulseLabel p ∧ (u.fw.phase ≠ 1 ∨ p + 2 ≠ u.fw.pulse)) ∧
    (∃ (s : State), s.wall.set = true ∧ s.fw.kind = 2 ∧ s.fw.pulseSeen = false ∧ s.fw.phase ≠ 0 ∧ s.fw.phase ≠ 4 ∧ 1000 * (if
      s.fw.phase = 1 then s.fw.pulse - 2 else s.fw.pulse) + 1500 < s.wallTime) ∧
    (∃ (r : _) (s : State), s.checkPut r O.svnCommit (.num 1 1) = none ∧ s.fw.fusedVersion ≠ s.activeSet.securityVersion ∧ s.nat
      O.updateState < 2) ∧
    (∃ (r : _) (token : _) (operation : _) (appended : _) (u : State) (v : State) (s : State), s.checkPut r O.ownerLockToken
      (.bytes token) = none ∧ operation = field token 88 1 ∧ u = s.takeFree.2.modFw (fun f =>
      { f with ownerChallenge := s.takeFree.1 }) ∧ (v =
      (match s.ownerTokenRefusal token (tokenHead token [0x4F, 0x4C, 0x4B, 0x31] && decide (1 ≤ operation) && decide (operation ≤ 2) && decide (field token 89 7 = 0)) s.fw.ownerChallenge with
        | some k => (u.bump O.ownerLockRefusals).emit (.dict r.code ((if k = 1 then DictRefusal.state else .range).code r))
        | none => if ¬ appended = true then ((u.raiseFault 371 0).bump O.ownerLockRefusals).emit (.dict r.code (DictRefusal.state.code r)) else ((u.history (8 + operation) 0 u.fw.active 0 r.code 0).setNat O.ownerLockState (2 - operation)).emit (.dict r.code 0)))) :=
  ⟨⟨.mb, ready, by decide +kernel⟩,
    ⟨.mb, ready.setNat O.scheduledPulse 1000000000000, by decide +kernel⟩,
    ⟨.mb, ready.modFw fun x => { x with phase := 1 }, by decide +kernel⟩,
    (by refine ⟨1, [], _, ready.modFw fun x => { x with phase := 4, steps := [1] }, ?_, ?_, ?_, ?_, ?_, rfl⟩ <;> decide +kernel),
    ⟨1, [], ready.modFw fun x => { x with phase := 4, steps := [1] }, by decide +kernel⟩,
    ⟨ready.modFw fun x => { x with phase := 2 }, by decide +kernel⟩,
    ⟨(serving { port := 0, sqid := 1, cid := 7, kind := .read } []).modFw fun x => { x with phase := 2 }, by decide +kernel⟩,
    (by refine ⟨1000, (pulseLabel ready.wallTime).getD 0, _,
      { ready with fw := { phase := 1, pulse := (pulseLabel ready.wallTime).getD 0 + 2 } }, ?_, ?_, ?_, rfl, ?_, ?_⟩ <;>
      decide +kernel),
    (by refine ⟨1000, (pulseLabel ready.wallTime).getD 0, _, ready, ?_, ?_, ?_, rfl, ?_⟩ <;> decide +kernel),
    ⟨ready.modFw fun x => { x with phase := 3, kind := 2 }, by decide +kernel⟩,
    ⟨.mb, ready.modFw fun x => { x with slots := [{ valid := true }, {}], fusedVersion := 1 }, by decide +kernel⟩,
    (by refine ⟨.mb, List.replicate 5550 0, _, true, _, _, ready, ?_, rfl, rfl, rfl⟩ <;> decide +kernel)⟩

/-- The hypotheses of SecurityAndDebugCommandsRun can all be met. -/
theorem witness_SecurityAndDebugCommandsRun :
    (∃ (t : _) (s : State), s.spdmServes t = true ∧ s.nat O.updateState ≠ 3 ∧ s.sec.waiting.getD t none = none) ∧
    (∃ (t : _) (s : State), s.spdmServes t = true ∧ s.nat O.updateState ≠ 3 ∧ s.sec.waiting.getD t none = none ∧
      s.sec.resync.getD t false = false ∧ 1 ≤ s.sec.negotiated.getD t 0) ∧
    (∃ (t : _) (s : State), s.spdmServes t = true ∧ s.nat O.updateState ≠ 3 ∧ s.sec.waiting.getD t none = none ∧
      s.sec.resync.getD t false = false ∧ 2 ≤ s.sec.negotiated.getD t 0) ∧
    (∃ (t : _) (s : State), s.spdmServes t = true ∧ s.nat O.updateState ≠ 3 ∧ s.sec.waiting.getD t none = none ∧
      s.sec.resync.getD t false = false ∧ 3 ≤ s.sec.negotiated.getD t 0) ∧
    (∃ (t : _) (s : State), s.spdmServes t = true ∧ s.nat O.updateState ≠ 3 ∧ s.sec.waiting.getD t none = none ∧
      s.sec.resync.getD t false = false ∧ 3 ≤ s.sec.negotiated.getD t 0) ∧
    (∃ (t : _) (s : State), s.spdmServes t = true ∧ s.nat O.updateState ≠ 3 ∧ s.sec.waiting.getD t none = none ∧
      s.sec.resync.getD t false = false ∧ 3 ≤ s.sec.negotiated.getD t 0) ∧
    (∃ (t : _) (s : State) (measurement : _) (blocks : List Nat), s.spdmServes t = true ∧ s.nat O.updateState ≠ 3 ∧
      s.sec.waiting.getD t none = none ∧ s.sec.resync.getD t false = false ∧ 3 ≤ s.sec.negotiated.getD t 0 ∧ blocks = (if
      measurement = 0 then [] else if measurement = 0xFF then ((List.range 14).drop 1).filter (· ≠ 12) else [measurement])) ∧
    (∃ (t : _) (s : State), s.spdmServes t = true ∧ s.nat O.updateState ≠ 3 ∧ s.sec.waiting.getD t none = none ∧
      s.sec.resync.getD t false = false) ∧
    (∃ (port : _) (s : State), s.mctpServes port = true) ∧
    (∃ (port : _) (s : State), s.mctpServes port = true) ∧
    (∃ (port : _) (s : State), s.mctpServes port = true) ∧
    (∃ (s : State), s.nat O.sleepStateCurrent ≠ 4) ∧
    (∃ (s : State) (u : State), s.nat O.sleepStateCurrent ≠ 4 ∧ u =
      { s with dbg := { s.dbg with instruction := 3, drive := 0 } }) ∧
    (∃ (token : _) (appended : _) (status : _) (s : State), s.fw.halted = true ∧ s.nat O.startupPhase = 1 ∧ status =
      (match (s.trapdoorToken 4 token appended).1 with
        | none => 1
        | some r => 0x80 + r)) :=
  ⟨⟨0, ready, by decide +kernel⟩,
    ⟨0, ready.modSec fun x => { x with negotiated := [1, 0, 0, 0] }, by decide +kernel⟩,
    ⟨0, ready.modSec fun x => { x with negotiated := [2, 0, 0, 0] }, by decide +kernel⟩,
    ⟨0, ready.modSec fun x => { x with negotiated := [3, 0, 0, 0] }, by decide +kernel⟩,
    ⟨0, ready.modSec fun x => { x with negotiated := [3, 0, 0, 0] }, by decide +kernel⟩,
    ⟨0, ready.modSec fun x => { x with negotiated := [3, 0, 0, 0] }, by decide +kernel⟩,
    (by refine ⟨0, { ready with sec := { negotiated := [3, 3, 3, 3] } }, 0, _, ?_, ?_, ?_, ?_, ?_, rfl⟩ <;> decide +kernel),
    ⟨0, ready, by decide +kernel⟩,
    ⟨0, ready, by decide +kernel⟩,
    ⟨0, ready, by decide +kernel⟩,
    ⟨0, ready, by decide +kernel⟩,
    ⟨ready, by decide +kernel⟩,
    (by refine ⟨ready, _, ?_, rfl⟩ <;> decide +kernel),
    (by refine ⟨List.replicate 5550 0, true, _, ((ready.modFw fun x => { x with halted := true }).setNat O.startupPhase 1).setNat
      O.trapdoorState 1, ?_, ?_, rfl⟩ <;> decide +kernel)⟩

/-- The hypotheses of FenceAndReturnCommandsRun can all be met. -/
theorem witness_FenceAndReturnCommandsRun :
    (∃ (r : _) (head : _) (s : State), s.checkPut r O.fenceHead (.num 1 (head : Nat)) = none) ∧
    (∃ (r : _) (head : _) (u : State) (s : State), s.checkPut r O.returnHead (.num 1 (head : Nat)) = none ∧ s.returnRefused =
      false ∧ u =
      (match (s.startReturn head).layout.tables.find? fun t => decide (t.surface = head) with
        | some t => (match t.entries[((s.startReturn head).head head).zone]? with
        | some e => (s.startReturn head).zoneWrites head t.nominalRpm e
        | none => s.startReturn head)
        | none => s.startReturn head)) ∧
    (∃ (r : _) (act : _) (s : State), s.checkPut r O.returnActuator (.num 1 (act : Nat)) = none ∧ s.returnRefused = false) ∧
    (∃ (unit : _) (act : _) (links : Nat → Bool) (s : State), s.nat O.returnRunState = 1 ∧ unit = s.nat O.returnRunUnit ∧ act =
      (if unit < 64 then actOf unit else unit - 64) ∧ ((∀ v, links v = (returnHeads unit).any fun h => ([3 * h, 3 * h + 1, 3 * h
      + 2].any fun n => decide (s.nat (O.rslState + n) = v)) || decide (s.nat (O.wrlState + h) = v))) ∧ links 5 = true) ∧
    (∃ (unit : _) (act : _) (links : Nat → Bool) (s : State), s.nat O.returnRunState = 1 ∧ unit = s.nat O.returnRunUnit ∧ act =
      (if unit < 64 then actOf unit else unit - 64) ∧ ((∀ v, links v = (returnHeads unit).any fun h => ([3 * h, 3 * h + 1, 3 * h
      + 2].any fun n => decide (s.nat (O.rslState + n) = v)) || decide (s.nat (O.wrlState + h) = v))) ∧ links 5 = false ∧ links
      1 = false ∧ links 2 = false ∧ (s.act act).load ≠ 2) ∧
    (∃ (unit : _) (act : _) (links : Nat → Bool) (s : State), s.nat O.returnRunState = 1 ∧ unit = s.nat O.returnRunUnit ∧ act =
      (if unit < 64 then actOf unit else unit - 64) ∧ ((∀ v, links v = (returnHeads unit).any fun h => ([3 * h, 3 * h + 1, 3 * h
      + 2].any fun n => decide (s.nat (O.rslState + n) = v)) || decide (s.nat (O.wrlState + h) = v))) ∧ links 5 = false ∧ links
      1 = false ∧ links 2 = false ∧ (s.act act).load = 2) :=
  ⟨⟨.mb, 0, ready, by decide +kernel⟩,
    (by refine ⟨.mb, 0, _, ready, ?_, ?_, rfl⟩ <;> decide +kernel),
    ⟨.mb, 0, ready, by decide +kernel⟩,
    (by refine ⟨_, _, _, (ready.setNat O.returnRunState 1).setNat O.rslState 5, ?_, rfl, rfl, fun _ => rfl, ?_⟩ <;> decide +kernel),
    (by refine ⟨_, _, _, ({ ready with acts := List.replicate 4 {} } : State).setNat O.returnRunState 1, ?_, rfl, rfl, fun _ => rfl,
      ?_, ?_, ?_, ?_⟩ <;> decide +kernel),
    (by refine ⟨_, _, _, ready.setNat O.returnRunState 1, ?_, rfl, rfl, fun _ => rfl, ?_, ?_, ?_, ?_⟩ <;> decide +kernel)⟩

/-- The hypotheses of ServiceCommandsLeaveStorageAlone can all be met. -/
theorem witness_ServiceCommandsLeaveStorageAlone :
    ∃ (c : Instr) (s : State) (t : State), ((∃ b m, c = .lssSwitchStateGlobal b m) ∨ (∃ b v p r n, c = .lssSwitchStateSelective
      b v p r n) ∨ (∃ b n, c = .lssConfigureNodeId b n) ∨ (∃ b, c = .lssStoreConfiguration b) ∨ (∃ b e, c = .lssInquireIdentity
      b e) ∨ (∃ b, c = .lssInquireNodeId b) ∨ (∃ b n i u f, c = .lssFastscan b n i u f) ∨ (∃ b, c = .lssConfigureBitTiming b) ∨
      (∃ p, c = .spdmGetVersion p) ∨ (∃ p, c = .spdmGetCapabilities p) ∨ (∃ p o, c = .spdmNegotiateAlgorithms p o) ∨ (∃ p, c =
      .spdmGetDigests p) ∨ (∃ p i o l, c = .spdmGetCertificate p i o l) ∨ (∃ p i n, c = .spdmChallenge p i n) ∨ (∃ p i m n, c =
      .spdmGetMeasurements p i m n) ∨ (∃ p, c = .spdmUnsupportedRequest p) ∨ (∃ p o e, c = .setEndpointId p o e) ∨ (∃ p, c =
      .getEndpointId p) ∨ (∃ p m, c = .getMctpVersionSupport p m) ∨ (∃ p, c = .getMessageTypeSupport p) ∨ c = .jtagBypass ∨ c =
      .jtagIdcode ∨ (∃ a b, c = .jtagSamplePreload a b) ∨ c = .jtagExtest ∨ c = .jtagClamp ∨ c = .jtagHighz) ∧ exec c s = .next
      t :=
  by refine ⟨.jtagBypass, ready, _, by simp, rfl⟩

end
end

section
/-! What one step does (R18): the front command or an idle tick, and the invariant along either. -/

namespace Sys2Proof.Machine

/-- The step of a state with a command waiting runs the first. -/
theorem step_cons {s : State} {c : Instr} {rest : List Instr} (h : s.pending = c :: rest) :
    step s = exec c { s with pending := rest } := by
  simp only [step, h]

/-- The step of a state with an empty queue is an idle tick. -/
theorem step_nil {s : State} (h : s.pending = []) : step s = .next s.idleTick := by
  simp only [step, h]

/-- Where no mode change waits, none is applied. -/
theorem State.applyModes_of_none {s : State} (h : s.mb.modes = []) : s.applyModes = s := by
  simp [State.applyModes, h]

/-- Where no stagger holds a park back, none is due. -/
theorem State.lossParksDue_of_none {s : State} (h : s.spindle.lossParks = []) : s.lossParksDue = s := by
  simp [State.lossParksDue, h]

/-- Where nothing waits for an idle tick, the tick is all that changes. -/
theorem State.idleTick_of_none {s : State} (hp : s.spindle.lossParks = []) (hm : s.mb.modes = []) :
    s.idleTick = { s with tick := s.tick + 1 } := by
  have hmodes := State.applyModes_of_none (s := { s with tick := s.tick + 1 }) hm
  rw [State.idleTick, hmodes]
  exact State.lossParksDue_of_none (s := { s with tick := s.tick + 1 }) hp

/-- The invariant of the state after reset: its store is empty, and its records are the ones its defaults list. -/
theorem State.reset_inv : State.reset.Inv where
  store := rfl
  keys := rfl
  ports := rfl
  buses := rfl
  heads := rfl
  acts := rfl
  streams := rfl
  pcls := rfl
  rsls := rfl
  wrls := rfl
  loops := rfl
  channels := rfl
  slots := rfl

/-- Every command keeps the invariant, each by the law of its own meaning. Three commands, whose meanings compute over long lists, are
first shown as their meaning, so that Lean unfolds the command and not the meaning. -/
theorem exec_inv (c : Instr) {s : State} (h : s.Inv) : OutInv (exec c s) := by
  cases c with
  | powerUpReset => exact execPowerUpReset_inv h
  | startupStepEnd => exact execStartupStepEnd_inv h
  | mediaReady => exact execMediaReady_inv h
  | supplyDip => exact execSupplyDip_inv h
  | vddCoreStartTimeout => exact execVddCoreStartTimeout_inv h
  | refclkStop => exact execRefclkStop_inv h
  | powerLossDetected => exact execPowerLossDetected_inv h
  | powerLossRecordAppend => exact execPowerLossRecordAppend_inv h
  | holdUpEnergyUpdate => exact execHoldUpEnergyUpdate_inv h
  | faultReset => exact execFaultReset_inv h
  | nssrSubsystemReset => exact execNssrSubsystemReset_inv h
  | controllerEnableClear => exact execControllerEnableClear_inv h
  | controllerEnableSet => exact execControllerEnableSet_inv h
  | functionLevelReset => exact execFunctionLevelReset_inv h
  | hotResetOrLinkDown => exact execHotResetOrLinkDown_inv h
  | perstAssert => exact execPerstAssert_inv h
  | perstDeassert => exact execPerstDeassert_inv h
  | controllerResetDrainEnd => exact execControllerResetDrainEnd_inv h
  | shutdownNotification => exact execShutdownNotification_inv h
  | shutdownComplete => exact execShutdownComplete_inv h
  | doorbellWrite => exact execDoorbellWrite_inv h
  | contextFreed => exact execContextFreed_inv h
  | deleteIoSubmissionQueue => exact execDeleteIoSubmissionQueue_inv h
  | createIoSubmissionQueue => exact execCreateIoSubmissionQueue_inv h
  | deleteIoCompletionQueue => exact execDeleteIoCompletionQueue_inv h
  | createIoCompletionQueue => exact execCreateIoCompletionQueue_inv h
  | getLogPage => exact execGetLogPage_inv h
  | identifyController => exact execIdentifyController_inv h
  | identifyNamespace => exact execIdentifyNamespace_inv h
  | identifyList => exact execIdentifyList_inv h
  | abort => exact execAbort_inv h
  | setFeaturesArbitration => exact execSetFeaturesArbitration_inv h
  | setFeaturesPowerManagement => exact execSetFeaturesPowerManagement_inv h
  | setFeaturesTemperatureThreshold => exact execSetFeaturesTemperatureThreshold_inv h
  | setFeaturesErrorRecovery => exact execSetFeaturesErrorRecovery_inv h
  | setFeaturesNumberOfQueues => exact execSetFeaturesNumberOfQueues_inv h
  | setFeaturesInterruptCoalescing => exact execSetFeaturesInterruptCoalescing_inv h
  | setFeaturesInterruptVectorConfig => exact execSetFeaturesInterruptVectorConfig_inv h
  | setFeaturesWriteAtomicityNormal => exact execSetFeaturesWriteAtomicityNormal_inv h
  | setFeaturesAsyncEventConfig => exact execSetFeaturesAsyncEventConfig_inv h
  | getFeatures => exact execGetFeatures_inv h
  | asynchronousEventRequest => exact execAsynchronousEventRequest_inv h
  | firmwareImageDownload => exact execFirmwareImageDownload_inv h
  | firmwareCommitStage => exact execFirmwareCommitStage_inv h
  | firmwareCommitActivate => exact execFirmwareCommitActivate_inv h
  | deviceSelfTestShort => exact execDeviceSelfTestShort_inv h
  | deviceSelfTestExtended => exact execDeviceSelfTestExtended_inv h
  | deviceSelfTestAbort => exact execDeviceSelfTestAbort_inv h
  | selfTestComplete => exact execSelfTestComplete_inv h
  | formatNvm => exact execFormatNvm_inv h
  | formatNvmComplete => exact execFormatNvmComplete_inv h
  | sanitize => exact execSanitize_inv h
  | sanitizeComplete => exact execSanitizeComplete_inv h
  | securitySend => exact execSecuritySend_inv h
  | securityReceive => exact execSecurityReceive_inv h
  | dictionaryGet => exact execDictionaryGet_inv h
  | dictionaryPut => exact execDictionaryPut_inv h
  | objectWrite => exact execObjectWrite_inv h
  | read => exact execRead_inv h
  | write => exact execWrite_inv h
  | writeZeroes => exact execWriteZeroes_inv h
  | verify => exact execVerify_inv h
  | flush => exact execFlush_inv h
  | datasetManagement => exact execDatasetManagement_inv h
  | rangeLockGranted => exact execRangeLockGranted_inv h
  | mediaOpIssue => exact execMediaOpIssue_inv h
  | hostCommandDeadline => exact execHostCommandDeadline_inv h
  | readAheadFill => exact execReadAheadFill_inv h
  | mergeBufferFreed => exact execMergeBufferFreed_inv h
  | mergeWindowExpiry => exact execMergeWindowExpiry_inv h
  | cellarSlotPlace => exact execCellarSlotPlace_inv h
  | restockChunk => exact execRestockChunk_inv h
  | watermarkAppend => exact execWatermarkAppend_inv h
  | activationDrainEnd => exact execActivationDrainEnd_inv h
  | activationDrainTimeout => exact execActivationDrainTimeout_inv h
  | sectorFramed => exact execSectorFramed_inv h
  | decoderTurnEnd => exact execDecoderTurnEnd_inv h
  | deferredDecode => exact execDeferredDecode_inv h
  | decoderSelfTest => exact execDecoderSelfTest_inv h
  | ladderExtendedDecode => exact execLadderExtendedDecode_inv h
  | ladderCountFramedReread => exact execLadderCountFramedReread_inv h
  | ladderAveragingPass => exact execLadderAveragingPass_inv h
  | ladderOffsetRead => exact execLadderOffsetRead_inv h
  | ladderHeaterStep => exact execLadderHeaterStep_inv h
  | ladderTimeLimit => exact execLadderTimeLimit_inv h
  | clockWaitLimit => exact execClockWaitLimit_inv h
  | captureSlotFreed => exact execCaptureSlotFreed_inv h
  | sectorRefresh => exact execSectorRefresh_inv h
  | writeBurstOpen => exact execWriteBurstOpen_inv h
  | writeBurstEnd => exact execWriteBurstEnd_inv h
  | writeRetryLimitReached => exact execWriteRetryLimitReached_inv h
  | chunkFillRead => exact execChunkFillRead_inv h
  | ledgerLearnRead => exact execLedgerLearnRead_inv h
  | ledgerAudit => exact execLedgerAudit_inv h
  | ledgerFlush => exact execLedgerFlush_inv h
  | verifyReadback => exact execVerifyReadback_inv h
  | adjacentCheckRead => exact execAdjacentCheckRead_inv h
  | laneRemapCopy => exact execLaneRemapCopy_inv h
  | laneRemapCommit => exact execLaneRemapCommit_inv h
  | positionSample => exact execPositionSample_inv h
  | seekRequest => exact execSeekRequest_inv h
  | handOver => exact execHandOver_inv h
  | stripeCrossing => exact execStripeCrossing_inv h
  | laneCheckRead => exact execLaneCheckRead_inv h
  | laneUncertain => exact execLaneUncertain_inv h
  | actuatorLoad => exact execActuatorLoad_inv h
  | loadTimeout => exact execLoadTimeout_inv h
  | actuatorUnload => exact execActuatorUnload_inv h
  | safeParkTimeEnd => exact execSafeParkTimeEnd_inv h
  | sensorTransaction => exact execSensorTransaction_inv h
  | shockHoldExpiry => exact execShockHoldExpiry_inv h
  | shockReloadDelay => exact execShockReloadDelay_inv h
  | sensorRetry => exact execSensorRetry_inv h
  | lenderAssign => exact execLenderAssign_inv h
  | headHold => exact execHeadHold_inv h
  | readOnlyEnd => exact execReadOnlyEnd_inv h
  | rroLearnUpdate => exact execRroLearnUpdate_inv h
  | loopIdentificationEnd => exact execLoopIdentificationEnd_inv h
  | heaterCalibration => exact execHeaterCalibration_inv h
  | calibrationCheckEnd => exact execCalibrationCheckEnd_inv h
  | loopIdRequest => exact execLoopIdRequest_inv h
  | indexFieldDetected => exact execIndexFieldDetected_inv h
  | acquisitionTimeout => exact execAcquisitionTimeout_inv h
  | eqAdaptBlock => exact execEqAdaptBlock_inv h
  | detectorBankSwap => exact execDetectorBankSwap_inv h
  | detectorSetsSave => exact execDetectorSetsSave_inv h
  | eqIdleCalibrationRead => exact execEqIdleCalibrationRead_inv h
  | paceIntervalEnd => exact execPaceIntervalEnd_inv h
  | narrowServiceStart => exact execNarrowServiceStart_inv h
  | narrowServiceEnd => exact execNarrowServiceEnd_inv h
  | deferralExit => exact execDeferralExit_inv h
  | streamAdmissionRecompute => exact execStreamAdmissionRecompute_inv h
  | admissionTakeEffect => exact execAdmissionTakeEffect_inv h
  | pclStatusFrame => exact execPclStatusFrame_inv h
  | pclWriteAck => exact execPclWriteAck_inv h
  | pclReadData => exact execPclReadData_inv h
  | pclNak => exact execPclNak_inv h
  | registerAccessTimeout => exact execRegisterAccessTimeout_inv h
  | pclUpstreamLost => exact execPclUpstreamLost_inv h
  | rslDataBlock => exact execRslDataBlock_inv h
  | rslAlignmentMarker => exact execRslAlignmentMarker_inv h
  | linkTrainingEnd => exact execLinkTrainingEnd_inv h
  | linkTrainingDeadline => exact execLinkTrainingDeadline_inv h
  | failedLinkRetry => exact execFailedLinkRetry_inv h
  | chipWarningClear => exact execChipWarningClear_inv h
  | preampAccessRead => exact execPreampAccessRead_inv h
  | preampAccessWrite => exact execPreampAccessWrite_inv h
  | linkCounterClear => exact execLinkCounterClear_inv h
  | loopSampleBoundary => exact execLoopSampleBoundary_inv h
  | loopSampleDeadline => exact execLoopSampleDeadline_inv h
  | outputApplication => exact execOutputApplication_inv h
  | vcmMeasFrame => exact execVcmMeasFrame_inv h
  | commutationAngleUpdate => exact execCommutationAngleUpdate_inv h
  | mcNop => exact execMcNop_inv h
  | mcIn => exact execMcIn_inv h
  | mcOut => exact execMcOut_inv h
  | mcMov => exact execMcMov_inv h
  | mcAdd => exact execMcAdd_inv h
  | mcSub => exact execMcSub_inv h
  | mcMul => exact execMcMul_inv h
  | mcMac => exact execMcMac_inv h
  | mcBiq => exact execMcBiq_inv h
  | mcSsb => exact execMcSsb_inv h
  | mcLim => exact execMcLim_inv h
  | mcInt => exact execMcInt_inv h
  | mcSel => exact execMcSel_inv h
  | mcLut => exact execMcLut_inv h
  | mcEnds => exact execMcEnds_inv h
  | bankIntegrityCheck => exact execBankIntegrityCheck_inv h
  | coefSwapTakeEffect => exact execCoefSwapTakeEffect_inv h
  | microcodeSwap => exact execMicrocodeSwap_inv h
  | microcodeHealthWindowEnd => exact execMicrocodeHealthWindowEnd_inv h
  | coefClaim => exact execCoefClaim_inv h
  | coefRelease => exact execCoefRelease_inv h
  | coefCopyActive => exact execCoefCopyActive_inv h
  | coefValueWrite => exact execCoefValueWrite_inv h
  | coefSeal => exact execCoefSeal_inv h
  | inactiveImageWrite => exact execInactiveImageWrite_inv h
  | swapRequest => exact execSwapRequest_inv h
  | groupSwapRequest => exact execGroupSwapRequest_inv h
  | rafterStatsClear => exact execRafterStatsClear_inv h
  | traceArm => exact execTraceArm_inv h
  | traceTrigger => exact execTraceTrigger_inv h
  | traceStop => exact execTraceStop_inv h
  | spinUpRequest => exact execSpinUpRequest_inv h
  | spinUpTokenGrant => exact execSpinUpTokenGrant_inv h
  | spinUpTokenTimeout => exact execSpinUpTokenTimeout_inv h
  | spinUpSlotDelayEnd => exact execSpinUpSlotDelayEnd_inv h
  | surgeGrant => exact execSurgeGrant_inv h
  | surgeReturn => exact execSurgeReturn_inv h
  | chopperTestEnd => exact execChopperTestEnd_inv h
  | listeningEnd => exact execListeningEnd_inv h
  | rotorAngleResolved => exact execRotorAngleResolved_inv h
  | resolveTimeout => exact execResolveTimeout_inv h
  | polarityPulsesEnd => exact execPolarityPulsesEnd_inv h
  | backEmfCrossing => exact execBackEmfCrossing_inv h
  | commutationInstant => exact execCommutationInstant_inv h
  | lockedRotorTimeout => exact execLockedRotorTimeout_inv h
  | lockedRotorRetry => exact execLockedRotorRetry_inv h
  | spinUpTimeLimit => exact execSpinUpTimeLimit_inv h
  | speedErrorCheck => exact execSpeedErrorCheck_inv h
  | flywheelCyclesEnd => exact execFlywheelCyclesEnd_inv h
  | coastEnd => exact execCoastEnd_inv h
  | pwmPeriod => exact execPwmPeriod_inv h
  | overcurrentTrip => exact execOvercurrentTrip_inv h
  | busOvervoltageOv2 => exact execBusOvervoltageOv2_inv h
  | chopperFaultDeclare => exact execChopperFaultDeclare_inv h
  | brakeEndSpeed => exact execBrakeEndSpeed_inv h
  | brakeNoCrossingTimeout => exact execBrakeNoCrossingTimeout_inv h
  | spindleRetry => exact execSpindleRetry_inv h
  | sineTableRestore => exact execSineTableRestore_inv h
  | sineTableWrite => exact execSineTableWrite_inv h
  | zoneTableRpmChange => exact execZoneTableRpmChange_inv h
  | levelRequestWrite => exact execLevelRequestWrite_inv h
  | levelStep => exact execLevelStep_inv h
  | avsResponse => exact execAvsResponse_inv h
  | avsSettleEnd => exact execAvsSettleEnd_inv h
  | avsAckTimeout => exact execAvsAckTimeout_inv h
  | avsRetryDelayEnd => exact execAvsRetryDelayEnd_inv h
  | avsRestart => exact execAvsRestart_inv h
  | thermalLevelAdjust => exact execThermalLevelAdjust_inv h
  | caseTemperatureCritical => exact execCaseTemperatureCritical_inv h
  | replicaMeasurement level counts =>
    show OutInv (execReplicaMeasurement level counts s)
    exact execReplicaMeasurement_inv h
  | readMarginRecord => exact execReadMarginRecord_inv h
  | sleepStateRequestWrite => exact execSleepStateRequestWrite_inv h
  | sleepBlockVote => exact execSleepBlockVote_inv h
  | sleepStateReached => exact execSleepStateReached_inv h
  | sleepPrepareTimeout => exact execSleepPrepareTimeout_inv h
  | wakeEvent => exact execWakeEvent_inv h
  | wakeTimerExpiry => exact execWakeTimerExpiry_inv h
  | sleepIdleTimeExpiry => exact execSleepIdleTimeExpiry_inv h
  | faultRaising => exact execFaultRaising_inv h
  | faultClear => exact execFaultClear_inv h
  | faultPinRelease => exact execFaultPinRelease_inv h
  | faultPulseEnd => exact execFaultPulseEnd_inv h
  | emcySend => exact execEmcySend_inv h
  | trapdoorToken requester token appended =>
    show OutInv (execTrapdoorToken requester token appended s)
    exact execTrapdoorToken_inv h
  | injectStart => exact execInjectStart_inv h
  | injectCancel => exact execInjectCancel_inv h
  | injectionInterval => exact execInjectionInterval_inv h
  | shelfClear => exact execShelfClear_inv h
  | shelfClearToken requester token =>
    show OutInv (execShelfClearToken requester token s)
    exact execShelfClearToken_inv h
  | wallTimeSet => exact execWallTimeSet_inv h
  | snapshotListWrite => exact execSnapshotListWrite_inv h
  | trunkAppendComplete => exact execTrunkAppendComplete_inv h
  | trunkMirrorWrite => exact execTrunkMirrorWrite_inv h
  | storeParameters => exact execStoreParameters_inv h
  | restoreDefaults => exact execRestoreDefaults_inv h
  | keyAcquire => exact execKeyAcquire_inv h
  | keyRelease => exact execKeyRelease_inv h
  | keyLeaseExpiry => exact execKeyLeaseExpiry_inv h
  | nmtStartRemoteNode => exact execNmtStartRemoteNode_inv h
  | nmtStopRemoteNode => exact execNmtStopRemoteNode_inv h
  | nmtEnterPreOperational => exact execNmtEnterPreOperational_inv h
  | nmtResetNode => exact execNmtResetNode_inv h
  | nmtResetCommunication => exact execNmtResetCommunication_inv h
  | lssSwitchStateGlobal => exact execLssSwitchStateGlobal_inv h
  | lssSwitchStateSelective => exact execLssSwitchStateSelective_inv h
  | lssConfigureNodeId => exact execLssConfigureNodeId_inv h
  | lssStoreConfiguration => exact execLssStoreConfiguration_inv h
  | lssInquireIdentity => exact execLssInquireIdentity_inv h
  | lssInquireNodeId => exact execLssInquireNodeId_inv h
  | lssFastscan => exact execLssFastscan_inv h
  | lssConfigureBitTiming => exact execLssConfigureBitTiming_inv h
  | usdoRequest => exact execUsdoRequest_inv h
  | usdoTimeout => exact execUsdoTimeout_inv h
  | rpdoReceived => exact execRpdoReceived_inv h
  | tpdoTransmit => exact execTpdoTransmit_inv h
  | heartbeatProduce => exact execHeartbeatProduce_inv h
  | consumerHeartbeatLost => exact execConsumerHeartbeatLost_inv h
  | timeMessage => exact execTimeMessage_inv h
  | foreignFrame => exact execForeignFrame_inv h
  | arbitrationLost => exact execArbitrationLost_inv h
  | staleFrameDrop => exact execStaleFrameDrop_inv h
  | busOff => exact execBusOff_inv h
  | busOffRecoveryStart => exact execBusOffRecoveryStart_inv h
  | busOffRecovered => exact execBusOffRecovered_inv h
  | duplicateNodeId => exact execDuplicateNodeId_inv h
  | busSelect => exact execBusSelect_inv h
  | mbPortRestart => exact execMbPortRestart_inv h
  | larderEnable => exact execLarderEnable_inv h
  | larderDisable => exact execLarderDisable_inv h
  | larderInvalidate => exact execLarderInvalidate_inv h
  | larderInvalidateComplete => exact execLarderInvalidateComplete_inv h
  | narrowEnableWrite => exact execNarrowEnableWrite_inv h
  | paceIntervalWrite => exact execPaceIntervalWrite_inv h
  | eqRestore => exact execEqRestore_inv h
  | outcomeCounterClear => exact execOutcomeCounterClear_inv h
  | mapLbaRequest => exact execMapLbaRequest_inv h
  | mapRunEnd => exact execMapRunEnd_inv h
  | crateBlockWrite => exact execCrateBlockWrite_inv h
  | stageRequest => exact execStageRequest_inv h
  | stagingEnd => exact execStagingEnd_inv h
  | activateImmediate => exact execActivateImmediate_inv h
  | activateArm => exact execActivateArm_inv h
  | activateCancel => exact execActivateCancel_inv h
  | activationStepEnd => exact execActivationStepEnd_inv h
  | activationStepTimeout => exact execActivationStepTimeout_inv h
  | tbiEdge => exact execTbiEdge_inv h
  | scheduledPulseMissed => exact execScheduledPulseMissed_inv h
  | svnCommit => exact execSvnCommit_inv h
  | ownerLockSet => exact execOwnerLockSet_inv h
  | ownerLockClear => exact execOwnerLockClear_inv h
  | spdmGetVersion => exact execSpdmGetVersion_inv h
  | spdmGetCapabilities => exact execSpdmGetCapabilities_inv h
  | spdmNegotiateAlgorithms => exact execSpdmNegotiateAlgorithms_inv h
  | spdmGetDigests => exact execSpdmGetDigests_inv h
  | spdmGetCertificate => exact execSpdmGetCertificate_inv h
  | spdmChallenge => exact execSpdmChallenge_inv h
  | spdmGetMeasurements => exact execSpdmGetMeasurements_inv h
  | spdmUnsupportedRequest => exact execSpdmUnsupportedRequest_inv h
  | setEndpointId => exact execSetEndpointId_inv h
  | getEndpointId => exact execGetEndpointId_inv h
  | getMctpVersionSupport => exact execGetMctpVersionSupport_inv h
  | getMessageTypeSupport => exact execGetMessageTypeSupport_inv h
  | fenceHead => exact execFenceHead_inv h
  | returnHead => exact execReturnHead_inv h
  | returnActuator => exact execReturnActuator_inv h
  | returnRunEnd => exact execReturnRunEnd_inv h
  | jtagBypass => exact execJtagBypass_inv h
  | jtagIdcode => exact execJtagIdcode_inv h
  | jtagSamplePreload => exact execJtagSamplePreload_inv h
  | jtagExtest => exact execJtagExtest_inv h
  | jtagClamp => exact execJtagClamp_inv h
  | jtagHighz => exact execJtagHighz_inv h
  | dbgTokenShift => exact execDbgTokenShift_inv h
  | inputPowerReturn => exact execInputPowerReturn_inv h
  | spindleStopLimit => exact execSpindleStopLimit_inv h
  | crwmtExpiry => exact execCrwmtExpiry_inv h
  | busVoltageSample => exact execBusVoltageSample_inv h
  | functionPowerStateChange => exact execFunctionPowerStateChange_inv h
  | hostLinkUp => exact execHostLinkUp_inv h
  | errorPassiveChange => exact execErrorPassiveChange_inv h
  | consumerHeartbeatReceived => exact execConsumerHeartbeatReceived_inv h
  | syncMessage => exact execSyncMessage_inv h
  | motionLinkError => exact execMotionLinkError_inv h
  | controlMemoryEccError => exact execControlMemoryEccError_inv h
  | linkUncorrectableError => exact execLinkUncorrectableError_inv h
  | supplyAboveThreshold => exact execSupplyAboveThreshold_inv h

/-- A step keeps the invariant: an empty queue gives the idle tick, and otherwise the front command runs on a state that differs from
this one in its queue only, of which the invariant says nothing. -/
theorem step_inv {s : State} (h : s.Inv) : OutInv (step s) := by
  cases hq : s.pending with
  | nil =>
    rw [step_nil hq]
    exact OutInv.next (State.idleTick_inv h)
  | cons c rest =>
    rw [step_cons hq]
    exact exec_inv c (s := { s with pending := rest }) h

end Sys2Proof.Machine

open Sys2Proof.Machine

/-- Settles O4: the invariant passes through the idle tick and through every command. -/
theorem stepKeepsInvariant : Obligations.StepKeepsInvariant :=
  fun _ _ h e => OutInv.use e (step_inv h)

/-- Settles O1: the front of the queue is the command, its tail what is left waiting. -/
theorem stepRunsFrontCommand : Obligations.StepRunsFrontCommand :=
  fun _ _ _ => step_cons rfl

/-- Settles O2: with nothing waiting, both parts of the idle tick after its count are the identity. -/
theorem emptyQueueLetsOneTickPass : Obligations.EmptyQueueLetsOneTickPass :=
  fun _ h => ⟨step_nil h, State.idleTick_of_none⟩

/-- Settles O3: the store is empty, and each row of units has its length. -/
theorem resetKeepsInvariant : Obligations.ResetKeepsInvariant := State.reset_inv

end

section
/-! Set Features that are refused (R335, R340). -/

namespace Sys2Proof.Machine

/-- A fetched admin command whose body refuses it as an invalid field completes with that status on the state the fetch left. -/
theorem State.admin_invalidField {s t : State} {p i : Nat} {body : State → (Nat × Nat × Nat) × State} (h : s.fetch p 0 = (true, t))
    (hb : body t = (invalidField, t)) : s.admin p i body = t.answer p 0 i 0 2 0 := by
  simp [State.admin, h, hb, invalidField]

/-- A fetched Set Features that asks to be saved, or whose value is not accepted, completes as an invalid field and sets nothing. -/
theorem State.setFeature_refused {s t : State} {p i : Nat} {save ok : Bool} {f : Port → Port} (h : s.fetch p 0 = (true, t))
    (hr : save = true ∨ ¬ ok) : s.setFeature p i save ok f = t.answer p 0 i 0 2 0 :=
  State.admin_invalidField h (if_pos hr)

/-- A fetched Set Features Power Management that asks to be saved, or whose state or Workload Hint is reserved, completes as an invalid
field and requests no state. -/
theorem execSetFeaturesPowerManagement_refused {port cid value : Nat} {save : Bool} {s t : State} (h : s.fetch port 0 = (true, t))
    (hr : save = true ∨ 96 ≤ value ∨ 2 < value % 32) :
    execSetFeaturesPowerManagement port cid value save s = .next (t.answer port 0 cid 0 2 0) := by
  simp only [execSetFeaturesPowerManagement, h, not_true_eq_false, if_false, if_pos hr]

end Sys2Proof.Machine

open Sys2Proof.Machine

/-- Settles O16: each of the nine commands takes the branch of its meaning that answers Invalid Field, by the check it makes of its
value. -/
theorem reservedFeatureFieldsAreRefused : Obligations.ReservedFeatureFieldsAreRefused := by
  intro port cid value save s t h
  refine ⟨?arbitration, ?temperature, ?recovery, ?queues, ?coalescing, ?vectors, ?atomicity, ?events, ?power⟩
  case arbitration => exact fun hr => congrArg _ (State.setFeature_refused h (hr.imp_right fun hv => by simpa using hv))
  case temperature =>
    refine fun hr => congrArg _ (State.setFeature_refused h (hr.imp_right fun hv => ?_))
    simp only [Bool.and_eq_true, Bool.or_eq_true, decide_eq_true_eq]
    omega
  case recovery => exact fun _ hr => congrArg _ (State.admin_invalidField h (if_pos hr))
  case queues => exact fun _ hr => congrArg _ (State.admin_invalidField h (if_pos hr))
  case coalescing => exact fun hr => congrArg _ (State.setFeature_refused h (hr.imp_right fun hv => by simpa using hv))
  case vectors =>
    refine fun hr => congrArg _ (State.setFeature_refused h (hr.imp_right fun hv => ?_))
    simp only [Bool.and_eq_true, decide_eq_true_eq]
    omega
  case atomicity =>
    refine fun hr => congrArg _ (State.setFeature_refused h (hr.imp_right fun hv => ?_))
    simp only [decide_eq_true_eq]
    omega
  case events => exact fun hr => congrArg _ (State.setFeature_refused h (hr.imp_right fun hv => by simpa using hv))
  case power => exact fun hr => execSetFeaturesPowerManagement_refused h hr

end

section
/-! Writes of the coefficient, swap and trace objects (R223 to R238). -/

namespace Sys2Proof.Machine

/-- An accepted dictionary write, as the outcome of the command that makes it. -/
theorem next_writeVia_ok {s t : State} {r : Requester} {k : Nat} {d : ObjData} {op : State → Except DictRefusal State}
    (h : s.checkPut r k d = none) (ho : op s = .ok t) :
    (.next (s.writeVia r k d op) : Host.Outcome State Fault Refusal) = .next (t.emit (.dict r.code 0)) :=
  congrArg Host.Outcome.next (State.writeVia_ok h ho)

end Sys2Proof.Machine

open Sys2Proof.Machine

/-- Settles O44: the write passes the dictionary's checks, and each hypothesis removes one condition that would bar its action. -/
theorem coefficientCommandsRun : Obligations.CoefficientCommandsRun := by
  intro r s
  refine ⟨?claim, ?release, ?copy, ?value, ?sealing, ?image, ?swap, ?groupSwap, ?stats, ?arm, ?trigger, ?stop⟩
  case claim => exact fun hc hs he => next_writeVia_ok hc (if_neg (by simp [hs, he]))
  case release => exact fun hc hs he => next_writeVia_ok hc (if_neg (by simp [hs, he]))
  case copy => exact fun hc hb => next_writeVia_ok hc (if_pos hb)
  case value => exact fun v hc hb => next_writeVia_ok hc (if_pos hb)
  case sealing => exact fun hc hb => next_writeVia_ok hc (if_pos hb)
  case image =>
    intro image hc hslot hres hb
    exact next_writeVia_ok hc ((if_neg fun hbar => hbar.elim (· hslot) (· hres)).trans (if_pos hb))
  case swap =>
    intro sub mask hc hrun hs hclaim hstate hgroup hupd hseal
    exact next_writeVia_ok hc (if_neg (by simp [hrun, hs, hclaim, hstate, hgroup, hupd, hseal]))
  case groupSwap =>
    intro sub group hc hrun hne hupd hall
    exact next_writeVia_ok hc (if_neg (by simpa [hrun, hne, hupd, and_assoc] using hall))
  case stats => exact fun hc => next_writeVia_ok hc rfl
  case arm => exact fun hc => next_writeVia_ok hc rfl
  case trigger => exact fun hc => next_writeVia_ok hc rfl
  case stop => exact fun hc => next_writeVia_ok hc rfl

end

section
/-! Format NVM and Sanitize (R327, R333, R376 to R378). -/

namespace Sys2Proof.Machine

/-- With the spindle at speed, the mapped heads loaded and the supply there, nothing bars a format or a sanitize from going on (R377,
R378). -/
theorem State.not_wipeBarred {s : State} (hspeed : s.nat O.spindleState = 5) (hdone : s.mappedDone = true)
    (hpower : s.spindle.powerLost = false) :
    ¬ (s.nat O.spindleState ≠ 5 ∨ ¬ s.mappedDone = true ∨ s.spindle.powerLost = true) := by
  simp [hspeed, hdone, hpower]

end Sys2Proof.Machine

open Sys2Proof.Machine

/-- Settles O19: each command passes its checks in their order, and each completion finds its run with the heads loaded at speed. -/
theorem formatAndSanitizeRun : Obligations.FormatAndSanitizeRun := by
  refine ⟨?format, ?formatComplete, ?sanitize, ?sanitizeComplete⟩
  case format =>
    intro port cid nsid mapping held s t u hfetch hsan hkey hfmt hmap hns hfit
    have hvalue : ¬ (0 ≠ 0 ∨ 1 < mapping) := by simpa using hmap
    have hname : ¬ (nsid ≠ 0xFFFFFFFF ∧ ¬ t.nsActive nsid = true) := fun hbad => hns.elim hbad.1 hbad.2
    simp only [exec, execFormatNvm, hfetch, hkey, hsan, hfmt, hfit, if_neg hvalue, if_neg hname, Option.isSome_none, Bool.false_eq_true,
      not_true_eq_false, if_false]
  case formatComplete =>
    intro heads loops defects f s hf hspeed hdone hpower
    have hready := State.not_wipeBarred hspeed hdone hpower
    refine ⟨fun hleft => ?tables, fun l hleft => ?surface⟩
    case tables => simp only [exec, execFormatNvmComplete, hf, if_neg hready, hleft]
    case surface => simp only [exec, execFormatNvmComplete, hf, if_neg hready, hleft]
  case sanitize =>
    intro port cid dword10 pattern held s t u hfetch hsan hkey hfmt haction hlow
    have hoverwrite : ¬ (dword10 % 8 ≠ 3 ∨ 1024 ≤ dword10) := fun hbad => hbad.elim (· haction) hlow.not_ge
    simp only [exec, execSanitize, hfetch, hkey, hsan, hfmt, if_neg hoverwrite, Option.isSome_none, Bool.false_eq_true,
      not_true_eq_false, if_false]
  case sanitizeComplete =>
    intro ok p s hp hspeed hdone hpower
    have hready := State.not_wipeBarred hspeed hdone hpower
    simp only [exec, execSanitizeComplete, hp, if_neg hready]

end

section
/-! Performance levels, AVSBus, temperature, ageing and read margins (R439 to R447, R461 to R465, R598). -/

namespace Sys2Proof.Machine

/-- A free and unheld level below its target, with AVSBus serving, starts a raise by one level and asks for its surge (R445). -/
theorem State.startLevelStep_raise {s : State} (hk : s.power.stepKind = 0) (hh : s.levelHeld = false)
    (hlt : s.nat O.performanceLevelCurrent < s.levelTarget) (havs : s.nat O.avsState ≠ 3) :
    s.startLevelStep =
      ({ s with power := { s.power with stepKind := 1, stepTarget := s.nat O.performanceLevelCurrent + 1, stepWait := 1 } } :
        State).requestSurge 3 0 (s.nat O.levelSurge) := by
  have hfree : ¬ (s.power.stepKind ≠ 0 ∨ s.levelHeld = true ∨ s.nat O.performanceLevelCurrent = s.levelTarget) := by
    simp [hk, hh, hlt.ne]
  exact (if_neg hfree).trans ((if_pos hlt).trans (if_neg havs))

/-- A free and unheld level above its target starts a lowering by one level, which waits while withdrawn heads are busy (R445). -/
theorem State.startLevelStep_lower {s : State} (hk : s.power.stepKind = 0) (hh : s.levelHeld = false)
    (hlt : s.levelTarget < s.nat O.performanceLevelCurrent) :
    s.startLevelStep =
      let u := ({ s with power := { s.power with stepKind := 2, stepTarget := s.nat O.performanceLevelCurrent - 1, stepWait := 5 } } :
        State).admitStreams (s.nat O.performanceLevelCurrent - 1)
      if u.admissionWaits = true then u else u.lowerCeiling := by
  have hfree : ¬ (s.power.stepKind ≠ 0 ∨ s.levelHeld = true ∨ s.nat O.performanceLevelCurrent = s.levelTarget) := by
    simp [hk, hh, hlt.ne']
  exact (if_neg hfree).trans (if_neg hlt.asymm)

/-- The margin records are judged the same whether the list of heads that fall short is taken whole or by its first head (R465). -/
theorem State.marginsJudged_eq (u : State) (short : List Nat) :
    (match short with
      | [] => u.endCondition 207
      | _ => short.foldl (fun (v : State) h => v.raiseFault 207 h) u) =
    match short with
      | [] => u.endCondition 207
      | h :: rest => (h :: rest).foldl (fun (v : State) h => v.raiseFault 207 h) u := by
  cases short <;> rfl

end Sys2Proof.Machine

open Sys2Proof.Machine

/-- Settles O50: each event meets the condition of its row, so that its branch is taken; a replica measurement is due by its time or by
its turn at power-up. -/
theorem levelCommandsRun : Obligations.LevelCommandsRun := by
  refine ⟨?request, ?step, ?response, ?settled, ?ackTimeout, ?retry, ?restart, ?thermal, ?critical, ?replica, ?margins⟩
  case request => exact fun r level s hc => next_writeVia_ok hc rfl
  case step =>
    intro s hk hh
    exact ⟨fun hlt havs => congrArg Host.Outcome.next (State.startLevelStep_raise hk hh hlt havs),
      fun hlt => congrArg Host.Outcome.next (State.startLevelStep_lower hk hh hlt)⟩
  case response =>
    intro accepted mv s hs
    refine ⟨fun h => congrArg Host.Outcome.next ?_, fun ha ht => congrArg Host.Outcome.next ?_⟩
    · exact (if_neg (not_not.2 hs)).trans (if_pos (h.imp_left Bool.eq_false_iff.1))
    · exact (if_neg (not_not.2 hs)).trans (if_neg (by simp [ha, ht]))
  case settled =>
    intro s hw hs ht
    exact congrArg Host.Outcome.next (if_neg (by simp [hw, hs, ht]))
  case ackTimeout => exact fun s hs ht => congrArg Host.Outcome.next (if_pos ⟨hs, ht⟩)
  case retry => exact fun s hs ht => congrArg Host.Outcome.next (if_neg (by simp [hs, ht]))
  case restart =>
    intro r s hc hs
    exact next_writeVia_ok hc (congrArg Except.ok (if_pos hs))
  case thermal =>
    rintro temperature _ s ht rfl
    exact congrArg Host.Outcome.next (if_neg ht.not_gt)
  case critical =>
    rintro temperature _ s rfl
    rfl
  case replica =>
    rintro level counts _ _ s hlen hlevel hsleep hdue rfl rfl
    refine (congrArg Host.Outcome.next (if_neg ?due)).trans ?judged
    case due =>
      obtain ⟨hphase, hnow, hdue⟩ | ⟨hphase, hcap, hturn⟩ := hdue
      · simp [hphase, ← hnow, hdue, hlevel, hlen, hsleep]
      · simp [hphase, hcap, hturn, hlevel, hlen, hsleep]
    case judged =>
      -- The state that the measurement leaves gets a name, so that the lookup of its plan is compared and not computed.
      simp only [decide_eq_true_eq] <;>
      · generalize ((s.bump O.ageingMeasurements).setNat (O.lastMeasured + level) s.tick).modPower _ = u
        rfl
  case margins =>
    rintro _ s ht rfl
    refine congrArg Host.Outcome.next ((if_neg ht.not_gt).trans (Eq.trans ?_ (State.marginsJudged_eq _ _)))
    rfl

end

section
/-! Sleep, wakes and the commit point (R450 to R456). -/

namespace Sys2Proof.Machine

/-- During the prepare phase the block whose turn it is is not out of turn (R452). -/
theorem State.not_outOfTurn {s : State} {block : Nat} (hs : s.nat O.sleepEntryState = 1) (hb : s.power.block = block) :
    ¬ (s.nat O.sleepEntryState ≠ 1 ∨ block ≠ s.power.block) := by
  simp [hs, hb]

/-- A wake source in a state in which its row latches it wakes (R455). -/
theorem execWakeEvent_latched {source : Nat} {s : State} (h5 : source ≤ 5) (hdeep : source < 3 → s.nat O.sleepStateCurrent ≠ 4)
    (htimer : source = 5 → s.nat O.sleepStateCurrent ≠ 1) : execWakeEvent source s = .next (s.wake source) := by
  refine congrArg Host.Outcome.next (if_neg ?_)
  rintro (hbad | ⟨hlt, hnow⟩ | ⟨heq, hnow⟩)
  · exact h5.not_gt hbad
  · exact hdeep hlt hnow
  · exact htimer heq hnow

end Sys2Proof.Machine

open Sys2Proof.Machine

/-- Settles O51: each event meets the condition of its row, and a vote or a wake takes the branch that the state of the entry gives. -/
theorem sleepCommandsRun : Obligations.SleepCommandsRun := by
  refine ⟨?request, ?refused, ?vote, ?reached, ?prepareLimit, ?wake, ?timer, ?idle, ?stopLimit⟩
  case request => exact fun r value s hc => next_writeVia_ok hc rfl
  case refused =>
    intro block wake code s hs hb hr
    have hturn := State.not_outOfTurn hs hb
    simp only [exec, execSleepBlockVote, if_neg hturn, hr]
  case vote =>
    intro block wake s hs hb hr hq
    have hturn := State.not_outOfTurn hs hb
    have hvotes : ¬ ¬ s.quiesced block = true := not_not.2 hq
    refine ⟨fun hlt => ?passed, fun hge hfires => ?fires, fun hge hfires hwake => ?commits, fun bit hge hfires hwake => ?arbitrated⟩
    case passed => simp only [exec, execSleepBlockVote, if_neg hturn, hr, if_neg hvotes, if_pos hlt, State.nextBlock]
    case fires => simp only [exec, execSleepBlockVote, if_neg hturn, hr, if_neg hvotes, if_neg hge.not_gt, if_pos hfires]
    case commits =>
      simp only [exec, execSleepBlockVote, if_neg hturn, hr, if_neg hvotes, if_neg hge.not_gt, hfires, hwake, Bool.false_eq_true, if_false]
    case arbitrated =>
      simp only [exec, execSleepBlockVote, if_neg hturn, hr, if_neg hvotes, if_neg hge.not_gt, hfires, hwake, Bool.false_eq_true, if_false]
  case reached =>
    rintro s _ hs hthere rfl
    refine congrArg Host.Outcome.next (if_neg ?_)
    rintro (hbad | hbad)
    · exact hbad hs
    · split at hthere <;> simp_all
  case prepareLimit =>
    intro s hs hbraking hdue
    refine congrArg Host.Outcome.next (if_neg ?_)
    simpa [hs, hdue] using hbraking
  case wake =>
    rintro source _ s h5 hdeep htimer rfl
    have hwake := execWakeEvent_latched h5 hdeep htimer
    refine ⟨fun hs => ?aborts, fun hs => ?held, fun hs₁ hs₂ hasleep => ?exits⟩
    case aborts => exact hwake.trans (congrArg Host.Outcome.next (if_pos hs))
    case held => exact hwake.trans (congrArg Host.Outcome.next ((if_neg (by simp [hs])).trans (if_pos hs)))
    case exits => exact hwake.trans (congrArg Host.Outcome.next ((if_neg hs₁).trans ((if_neg hs₂).trans (if_pos hasleep))))
  case timer =>
    intro t s hat hdue hasleep
    simp only [exec, execWakeTimerExpiry, hat, if_pos (And.intro hdue hasleep)]
  case idle => exact fun s hblocked hdue => congrArg Host.Outcome.next (if_pos ⟨hblocked, hdue⟩)
  case stopLimit =>
    intro s hs hb htarget hspin hdue
    exact congrArg Host.Outcome.next (if_neg (by simp [hs, hb, htarget, hspin, hdue]))

end

section
/-! The Larder's switch, the mapping object and Crates (R82, R83, R400 to R404, R525, R526). -/

open Sys2Proof.Machine

/-- Settles O56: a write passes the dictionary's checks and the condition of its own action, and an event finds the run it ends. -/
theorem cacheMapAndCrateCommandsRun : Obligations.CacheMapAndCrateCommandsRun := by
  refine ⟨?enable, ?disable, ?invalidate, ?invalidated, ?mapRequest, ?mapEnd, ?piece, ?stage, ?staged⟩
  case enable =>
    intro r s hc h
    refine next_writeVia_ok hc ?_
    obtain hon | hrun := h
    · exact if_pos hon
    · rw [if_pos hrun, ite_self]
  case disable => exact fun r s hc => next_writeVia_ok hc rfl
  case invalidate => exact fun r s hc hoff hrun => next_writeVia_ok hc (if_neg fun hbar => hbar.elim hoff hrun)
  case invalidated =>
    rintro _ s hrun rfl
    exact congrArg Host.Outcome.next (if_neg (not_not.2 hrun))
  case mapRequest =>
    rintro r lba _ s hc hrun rfl
    exact next_writeVia_ok hc (if_neg hrun)
  case mapEnd =>
    rintro lba nsid _ s hmap rfl
    simp only [exec, execMapRunEnd, hmap] <;> rfl
  case piece =>
    intro r data t s hc hpiece
    refine next_writeVia_ok hc ?_
    rw [hpiece]
  case stage =>
    rintro r _ s hc hrun rfl
    exact next_writeVia_ok hc (if_neg hrun)
  case staged =>
    intro appended holder crate commit s hstaging
    simp only [exec, execStagingEnd, hstaging] <;> rfl

end

section
/-! Verify, adjacent checks and lane remaps (R72, R73, R187, R196 to R198, R365). -/

namespace Sys2Proof.Machine

/-- The row ranges that a remap copy takes under exclusive entries: none for a lane of the Cellar (R73). -/
def State.remapRanges (s : State) (t : ZoneTable) (e : ZoneEntry) (surface zone offset : Nat) : List (Nat × Nat × Nat) :=
  let row := rowSectors t.entries zone (offset - e.cellarLanes)
  if offset < e.cellarLanes then [] else s.domainRanges (actOf surface) row.1 row.2

/-- What a remap copy does once its entries are in place: it reads both tracks of the lane, or waits behind an earlier entry (R73,
R356). -/
def State.remapRead (s : State) (e : ZoneEntry) (surface zone offset : Nat) : State :=
  if s.remapMay (.remap surface (e.firstLane + offset)) ((s.write.chunks.filter fun w => decide (w.head = surface) &&
      s.laneBusy surface w.lane).flatMap fun w => (s.chunkOwners w).map fun o => LockOwner.host o.1 o.2.1 o.2.2) = true then
    (s.remapStage surface zone offset 1).startRead 5 (actOf surface) surface (zone * 2 ^ 32 + offset)
      (s.laneWants surface (s.resolveSpare e surface zone offset).1 [0, 1])
  else s

section
variable {surface zone offset : Nat} {r : Remap} {t : ZoneTable} {e : ZoneEntry} {s : State}

/-- A remap copy that has not begun, on a loaded actuator, stays as it is where its entries have no room; else it takes those it does
not hold yet and goes on to its read. -/
theorem execLaneRemapCopy_of_stage_zero (hr : s.remap? surface zone offset = some r) (ht : s.zoneTable surface = some t)
    (he : s.zoneOf surface zone = some e) (hstage : r.stage = 0) (hload : (s.act (actOf surface)).load = 2) :
    execLaneRemapCopy surface zone offset s = .next (
      let owner : LockOwner := .remap surface (e.firstLane + offset)
      let ranges := s.remapRanges t e surface zone offset
      let held := (s.lockOf owner).isSome || decide (ranges = [])
      if ¬ held ∧ 64 < s.deviceLocks + ranges.length then s
      else (if held then s else ranges.foldl (fun (v : State) x => v.insertLock x.1 x.2.1 x.2.2 true owner) s).remapRead
        e surface zone offset) := by
  simp only [execLaneRemapCopy, hr, ht, he, if_pos hstage, hload, State.remapRead, ite_not, ne_eq, not_true_eq_false, false_or]
  rfl

end

end Sys2Proof.Machine

open Sys2Proof.Machine

/-- Settles O30: a verify and an adjacent check begin or end by their read; a remap copy goes by its stage and the entries it holds; a
commit's copy 1, 2 or 3 of the table is its stage 3, 4 or 5. -/
theorem verifyAndRemapRun : Obligations.VerifyAndRemapRun := by
  refine ⟨?verify, ?adjacent, ?copy, ?commit⟩
  case verify =>
    intro head nsid lba w s hw
    refine ⟨fun hread => ?asks, fun d hread hdone => ?judges⟩
    case asks => simp only [exec, execVerifyReadback, hw, hread]
    case judges => simp only [exec, execVerifyReadback, hw, hread, if_neg (not_not.2 hdone)]
  case adjacent =>
    intro head lane c s hc
    refine ⟨fun hread hload => ?reads, fun d hread hdone => ?hands⟩
    case reads => simp only [exec, execAdjacentCheckRead, hc, hread, if_neg (not_not.2 hload)]
    case hands => simp only [exec, execAdjacentCheckRead, hc, hread, if_neg (not_not.2 hdone)]
  case copy =>
    intro surface zone offset r t e s hr ht he
    refine ⟨?cellar, ?home, ?copied⟩
    case cellar =>
      rintro _ hstage hload hoff hmay rfl
      have hranges : s.remapRanges t e surface zone offset = [] := if_pos hoff
      refine (execLaneRemapCopy_of_stage_zero hr ht he hstage hload).trans (congrArg Host.Outcome.next ?_)
      simp only [hranges, decide_true, Bool.or_true, not_true_eq_false, false_and, if_true, if_false]
      exact if_pos hmay
    case home =>
      rintro _ hstage hload hoff hlock hroom hsome rfl
      have hranges : s.remapRanges t e surface zone offset = _ := if_neg hoff.not_gt
      refine (execLaneRemapCopy_of_stage_zero hr ht he hstage hload).trans (congrArg Host.Outcome.next ?_)
      simp only [hranges, hlock, hsome, hroom.not_gt, decide_false, Bool.or_false, and_false, if_false, Bool.false_eq_true]
      rfl
    case copied =>
      intro d hstage hread hdone
      have hbegun : r.stage ≠ 0 := by simp [hstage]
      simp only [exec, execLaneRemapCopy, hr, ht, he, if_neg hbegun, if_pos hstage, hread, if_neg (not_not.2 hdone)]
  case commit =>
    intro surface zone offset good r e s hr he hstage hmay
    -- The statement goes by the stage, the command by the number of the copy.
    have hfirst : r.stage - 2 = 1 ↔ r.stage = 3 := by omega
    have hlast : r.stage - 2 = 3 ↔ r.stage = 5 := by omega
    have hmore : r.stage - 2 < 3 ↔ r.stage < 5 := by omega
    simp only [exec, execLaneRemapCommit, hr, he, hfirst, hlast, hmore, hstage.not_gt, hmay, not_true_eq_false, or_self, if_false,
      Bool.not_eq_true]

end

section
/-! The counters of the links, and the write that clears them (R106, R116). -/

namespace Sys2Proof.Machine

/-- State with the row of `n` counters from object `b` on at 0. -/
def State.clearRow (s : State) (b n : Nat) : State := s.each (List.range n) fun u i => u.setNat (b + i) 0

/-- State with each of several rows of counters at 0, a row being its first object and its length. -/
def State.clearRows (s : State) (rows : List (Nat × Nat)) : State := rows.foldl (fun u p => u.clearRow p.1 p.2) s

/-- The rows of counters of the reader links, the writer links and the control links (R106, R116). -/
def linkCounterRows : List (Nat × Nat) :=
  [O.rslHeaderErrors, O.rslIntervalCrcErrors, O.rslErasedBlocks, O.rslRetrains].map (·, 72) ++
    [O.wrlArmMisses, O.wrlRetrains].map (·, 24) ++ [O.pclCrcErrors, O.pclTimeouts].map (·, 8)

theorem State.clearRow_succ (s : State) (b n : Nat) : s.clearRow b (n + 1) = (s.clearRow b n).setNat (b + n) 0 := by
  simp [State.clearRow, State.each, List.range_succ]

/-- A cleared row reads 0, and every other object is as it was. -/
theorem State.obj_clearRow (s : State) (b n k : Nat) : (s.clearRow b n).obj k = if b ≤ k ∧ k < b + n then 0 else s.obj k := by
  induction n with
  | zero => rw [if_neg (by omega)]; rfl
  | succ n ih =>
    rw [State.clearRow_succ]
    obtain rfl | hne := eq_or_ne k (b + n)
    · rw [if_pos (by omega)]
      exact State.obj_setObj_same _ _ _
    · have hrow : (b ≤ k ∧ k < b + (n + 1)) ↔ b ≤ k ∧ k < b + n := by omega
      simp only [hrow, ← ih]
      exact State.obj_setObj_other _ _ _ _ hne

/-- Objects in one of the cleared rows read 0, and every other object is as it was. -/
theorem State.obj_clearRows (s : State) (rows : List (Nat × Nat)) (k : Nat) :
    (s.clearRows rows).obj k = if ∃ p ∈ rows, p.1 ≤ k ∧ k < p.1 + p.2 then 0 else s.obj k := by
  induction rows generalizing s with
  | nil => simp [State.clearRows]
  | cons p rows ih =>
    have hcons : s.clearRows (p :: rows) = (s.clearRow p.1 p.2).clearRows rows := rfl
    by_cases hin : p.1 ≤ k ∧ k < p.1 + p.2
    · simp only [hcons, ih, State.obj_clearRow, List.exists_mem_cons_iff, hin, and_self, true_or, if_true, ite_self]
    · simp only [hcons, ih, State.obj_clearRow, List.exists_mem_cons_iff, hin, false_or, if_false]

/-- Every counter of a cleared row reads 0. -/
theorem State.nat_clearRows_of_mem {s : State} {rows : List (Nat × Nat)} {p : Nat × Nat} (hp : p ∈ rows) {i : Nat} (hi : i < p.2) :
    (s.clearRows rows).nat (p.1 + i) = 0 := by
  have hin : ∃ q ∈ rows, q.1 ≤ p.1 + i ∧ p.1 + i < q.1 + q.2 := ⟨p, hp, by omega⟩
  rw [State.nat, State.obj_clearRows, if_pos hin, Int.toNat_zero]

/-- An object in no cleared row is as it was. -/
theorem State.obj_clearRows_of_forall_not {s : State} {rows : List (Nat × Nat)} {k : Nat}
    (hk : ∀ p ∈ rows, ¬ (p.1 ≤ k ∧ k < p.1 + p.2)) : (s.clearRows rows).obj k = s.obj k := by
  rw [State.obj_clearRows, if_neg]
  rintro ⟨p, hp, hin⟩
  exact hk p hp hin

@[simp] theorem State.obj_emit (s : State) (o : Output) (k : Nat) : (s.emit o).obj k = s.obj k := rfl

@[simp] theorem State.nat_emit (s : State) (o : Output) (k : Nat) : (s.emit o).nat k = s.nat k := rfl

/-- An accepted LINK_COUNTER_CLEAR clears the rows of the links' counters and answers 0. -/
theorem exec_linkCounterClear {r : Requester} {s : State} (hc : s.checkPut r O.counterClear (.num 1 1) = none) :
    exec (.linkCounterClear r) s = .next ((s.clearRows linkCounterRows).emit (.dict r.code 0)) :=
  next_writeVia_ok hc rfl

end Sys2Proof.Machine

open Sys2Proof.Machine

/-- Settles O40: the write clears eight rows of objects one after the other, and no clear touches an object outside its row. -/
theorem linkCounterClearZeroesCounters : Obligations.LinkCounterClearZeroesCounters := by
  intro r s hc
  obtain ⟨t, hexec, hzero, hothers⟩ : ∃ t, exec (.linkCounterClear r) s = .next t ∧
      (∀ p ∈ linkCounterRows, ∀ i < p.2, t.nat (p.1 + i) = 0) ∧
      ∀ k, (∀ p ∈ linkCounterRows, ¬ (p.1 ≤ k ∧ k < p.1 + p.2)) → t.obj k = s.obj k :=
    ⟨_, exec_linkCounterClear hc, fun _ hp _ hi => (State.nat_emit _ _ _).trans (State.nat_clearRows_of_mem hp hi),
      fun _ hk => (State.obj_emit _ _ _).trans (State.obj_clearRows_of_forall_not hk)⟩
  simp only [linkCounterRows, List.forall_mem_append, List.forall_mem_map] at hzero hothers
  simp only [List.forall_mem_cons] at hzero
  obtain ⟨⟨⟨hheader, hinterval, herased, hretrains, -⟩, harm, hwriter, -⟩, hframe, htimeout, -⟩ := hzero
  refine ⟨t, hexec, ?reader, ?writer, ?control, ?others⟩
  case reader => exact fun i hi => ⟨hheader i hi, hinterval i hi, herased i hi, hretrains i hi⟩
  case writer => exact fun i hi => ⟨harm i hi, hwriter i hi⟩
  case control => exact fun i hi => ⟨hframe i hi, htimeout i hi⟩
  case others => exact fun k hreader hwriter hcontrol => hothers k ⟨⟨hreader, hwriter⟩, hcontrol⟩

end

section
/-! Detection and in-line decoding (R104, R127, R129, R134, R146 to R155). -/

open Sys2Proof.Machine

/-- Settles O25: the sector that passes is framed because its stream is read and its track holds it; a turn and a deferred decode find
the sector they hold; a self-test is due by the time of the last, or because there was none. -/
theorem detectionRuns : Obligations.DetectionRuns := by
  refine ⟨?framed, ?turnEnd, ?deferred, ?selfTest⟩
  case framed =>
    intro stream sector frac s hread hsector
    have hpasses : ¬ (¬ s.streamRead stream = true ∨ s.trackSectors (stream / 2) ≤ sector) := by simp [hread, hsector]
    exact congrArg Host.Outcome.next (if_neg hpasses)
  case turnEnd =>
    intro decoder time x s hx
    simp only [exec, execDecoderTurnEnd, hx]
  case deferred =>
    intro stream time x rest s holdest hfree hinline
    have hserved : ¬ (s.freeDecoders = [] ∨ s.inlineWaits = true) := by simp [hfree, hinline]
    simp only [exec, execDeferredDecode, holdest, if_neg hserved]
  case selfTest =>
    intro failed s hdue
    cases hlast : s.detect.testedAt with
    | none => simp [exec, execDecoderSelfTest, hlast]
    | some t => simp [exec, execDecoderSelfTest, hlast, hdue t hlast]

end

section
/-! Write bursts, fills and the ledger (R109, R182 to R186, R192 to R194). -/

open Sys2Proof.Machine

/-- Settles O28: each command finds the chunk it is about, and each hypothesis names the branch of its meaning that is taken. -/
theorem writeBurstsRun : Obligations.WriteBurstsRun := by
  refine ⟨?lead, ?opens, ?ends, ?limit, ?fill, ?learn, ?audit, ?flush⟩
  case lead =>
    intro head nsid lba w s hw hlead
    simp only [exec, execWriteBurstOpen, hw, hlead, Option.isNone_none, if_true]
  case opens =>
    intro head nsid lba w s hw hlead hdone hnext
    have hled : ¬ (s.head head).lead.isNone = true := by simpa using hlead
    simp only [exec, execWriteBurstOpen, hw, if_neg hled, if_pos (And.intro hdone hnext)]
  case ends =>
    intro head w s hw
    simp only [exec, execWriteBurstEnd, hw]
  case limit =>
    intro head nsid lba w s hw
    refine ⟨fun hhome hkind => ?home, fun hhome hkind => ?device, fun hkind hcopy => ?flip, fun c hkind hnone hc => ?abandon⟩
    case home => simp only [exec, execWriteRetryLimitReached, hw, if_neg hkind, hhome, if_true]
    case device => simp only [exec, execWriteRetryLimitReached, hw, if_neg hkind, hhome, Bool.false_eq_true, if_false]
    case flip => simp only [exec, execWriteRetryLimitReached, hw, if_pos hkind, if_pos hcopy]
    case abandon => simp only [exec, execWriteRetryLimitReached, hw, if_pos hkind, if_neg hnone.not_gt, hc]
  case fill =>
    intro head nsid lba w s hw
    refine ⟨fun hread => ?asks, fun d hread hdone hcovers => ?fills, fun d hread hdone hcovers => ?drops⟩
    case asks => simp only [exec, execChunkFillRead, hw, hread]
    case fills => simp only [exec, execChunkFillRead, hw, hread, if_neg (not_not.2 hdone), hcovers, not_true_eq_false, if_false]
    case drops =>
      simp only [exec, execChunkFillRead, hw, hread, if_neg (not_not.2 hdone), hcovers, Bool.false_eq_true, not_false_eq_true, if_true]
  case learn => exact fun nsid lba s => rfl
  case audit => exact fun nsid lba s henable hspare => congrArg Host.Outcome.next (if_pos ⟨henable, hspare⟩)
  case flush =>
    intro s hdirty hdue
    refine congrArg Host.Outcome.next (if_neg ?_)
    rintro (hclean | ⟨hearly, hfew, hawake⟩)
    · exact hdirty hclean
    · omega

end

section
/-! Frames of the control links, and the loss of a link (R87 to R96, R114). -/

namespace Sys2Proof.Machine

/-- On a control link that is neither stopped nor failed, a frame without the correct Sync and CRC is counted and breaks the run
towards lock, whatever event brings it (R89). -/
theorem State.upstream_of_not_valid {s : State} {k type f : Nat} {act : State → State} (hk : k < s.pclCount)
    (hstopped : s.nat (O.pclState + k) ≠ 1) (hfailed : s.nat (O.pclState + k) ≠ 5) (hf : frameValid f = false) :
    s.upstream k type f act = ((s.bump (O.pclCrcErrors + k)).modPcl k fun c => { c with goodRun := 0 }).frameSlot k := by
  have hserved : ¬ (s.pclCount ≤ k ∨ s.nat (O.pclState + k) = 1 ∨ s.nat (O.pclState + k) = 5) := by simp [hk, hstopped, hfailed]
  exact (if_neg hserved).trans (if_pos (by simp [hf]))

/-- On a locked control link whose reference runs, a valid frame brings its Summary and then what its event does (R88, R89). -/
theorem State.upstream_of_locked {s u : State} {k f : Nat} {act : State → State} (hk : k < s.pclCount)
    (hstopped : s.nat (O.pclState + k) ≠ 1) (hfailed : s.nat (O.pclState + k) ≠ 5) (hf : frameValid f = true)
    (href : (s.pcl k).refStart + 200 ≤ s.tick)
    (hu : u = s.modPcl k fun c => { c with lastValid := s.tick, goodRun := min 8 (c.goodRun + 1) }) (hlocked : (u.pcl k).locked = true) :
    s.upstream k (frameType f) f act = (act (u.takeSummary k (frameSummary f))).frameSlot k := by
  subst hu
  have hserved : ¬ (s.pclCount ≤ k ∨ s.nat (O.pclState + k) = 1 ∨ s.nat (O.pclState + k) = 5) := by simp [hk, hstopped, hfailed]
  simp only [State.upstream, if_neg hserved, hf, hlocked, if_neg href.not_gt, not_true_eq_false, ne_eq, if_false, if_true]

end Sys2Proof.Machine

open Sys2Proof.Machine

/-- Settles O38: an invalid frame is counted before its Type is looked at, and a valid one on a locked link brings what its Type does;
each limit of 10 µs and the 100 ms without a warning have passed. -/
theorem controlLinkCommandsRun : Obligations.ControlLinkCommandsRun := by
  refine ⟨?invalid, ?valid, ?timeout, ?lost, ?cleared⟩
  case invalid =>
    intro k f s hk hstopped hfailed hf
    have hcounted : ∀ type act, s.upstream k type f act = _ := fun _ _ => State.upstream_of_not_valid hk hstopped hfailed hf
    simp only [exec, execPclStatusFrame, execPclWriteAck, execPclReadData, execPclNak, hcounted, and_self]
  case valid =>
    intro k f u v s hk hstopped hfailed hf href hu hlocked hv
    have hserved : ∀ act, s.upstream k (frameType f) f act = (act v).frameSlot k := by
      intro act
      rw [hv]
      exact State.upstream_of_locked hk hstopped hfailed hf href hu hlocked
    refine ⟨fun htype => ?status, fun a htype ha hkind => ?ack, fun a htype ha hkind => ?data, fun htype => ?nak⟩ <;>
      rw [htype] at hserved
    case status => exact congrArg Host.Outcome.next (hserved _)
    case ack => simp only [exec, execPclWriteAck, hserved, ha, if_neg hkind]
    case data => simp only [exec, execPclReadData, hserved, ha, if_pos hkind]
    case nak => exact congrArg Host.Outcome.next (hserved _)
  case timeout =>
    intro k tag a s ha hdue
    simp only [exec, execRegisterAccessTimeout, ha, if_neg hdue.not_gt]
  case lost =>
    intro k s hk hstopped hsilent
    have hwatched : ¬ (s.pclCount ≤ k ∨ s.nat (O.pclState + k) = 1 ∨ s.tick < (s.pcl k).lastValid + 10) := by
      simp [hk, hstopped, hsilent]
    refine ⟨fun hlocked => ?loses, fun hunlocked hstate hleft => ?again, fun hunlocked hstate hspent => ?fails⟩
    case loses => simp only [exec, execPclUpstreamLost, if_neg hwatched, if_pos hlocked]
    case again =>
      simp only [exec, execPclUpstreamLost, if_neg hwatched, hunlocked, Bool.false_eq_true, if_false, if_neg (not_not.2 hstate),
        if_pos hleft]
    case fails =>
      simp only [exec, execPclUpstreamLost, if_neg hwatched, hunlocked, Bool.false_eq_true, if_false, if_neg (not_not.2 hstate),
        if_neg hspent.not_gt, State.setNat_tick]
  case cleared =>
    intro k t s hsince hwarning hdue
    have hclear : ¬ ((s.pcl k).warning ≠ 0 ∨ s.tick < t + 100000) := by simp [hwarning, hdue]
    simp only [exec, execChipWarningClear, hsince, if_neg hclear]

end

section
/-! The reader and writer links (R97 to R107, R111, R116, R117). -/

namespace Sys2Proof.Machine

/-- A training of a reader link whose measurements meet every limit ends with the best setting of its sweep (R105). -/
theorem exec_linkTrainingEnd_passed {link p intervals : Nat} {lock headers : List Nat} {sweep : List (List (Nat × Nat))} {skew : Int}
    {s : State} (hstate : s.nat (O.rslState + link) = 2) (hp : bestPreset sweep (link % 3) = some p)
    (hall : 1000000 ≤ min (lock.getD 0 0) (lock.getD 1 0) ∧ 64 ≤ min (headers.getD 0 0) (headers.getD 1 0) ∧ skew.natAbs ≤ 260 ∧
      16 ≤ intervals) :
    exec (.linkTrainingEnd 0 link lock sweep headers skew intervals) s = .next (s.rslPassed link p skew) := by
  simp only [exec, execLinkTrainingEnd, if_true, if_neg (not_not.2 hstate), hp, if_pos hall]

/-- A training of a reader link without a working setting, or short of one limit, is a failed attempt (R105). -/
theorem exec_linkTrainingEnd_failed {link intervals : Nat} {lock headers : List Nat} {sweep : List (List (Nat × Nat))} {skew : Int}
    {s : State} (hstate : s.nat (O.rslState + link) = 2)
    (hshort : bestPreset sweep (link % 3) = none ∨ ¬ (1000000 ≤ min (lock.getD 0 0) (lock.getD 1 0) ∧
      64 ≤ min (headers.getD 0 0) (headers.getD 1 0) ∧ skew.natAbs ≤ 260 ∧ 16 ≤ intervals)) :
    exec (.linkTrainingEnd 0 link lock sweep headers skew intervals) s = .next (s.rslFailed link) := by
  simp only [exec, execLinkTrainingEnd, if_true, if_neg (not_not.2 hstate)]
  cases hp : bestPreset sweep (link % 3) with
  | none => rfl
  | some p => exact congrArg _ (if_neg (hshort.resolve_left (by simp [hp])))

end Sys2Proof.Machine

open Sys2Proof.Machine

/-- Settles O39: a block or marker of a link that carries passes its checks; a training or failed link is in the state its event asks
for, at its time; a write passes the dictionary's checks and finds no run. -/
theorem dataLinkCommandsRun : Obligations.DataLinkCommandsRun := by
  refine ⟨?block, ?marker, ?readerEnd, ?writerEnd, ?readerLate, ?writerLate, ?readerRetry, ?writerRetry, ?controlRetry, ?accessRead,
    ?accessWrite, ?clear⟩
  case block =>
    intro link lane header body overflow s hcarries hlane
    have hserved : ¬ (¬ s.rslCarries link = true ∨ 2 ≤ lane) := by simp [hcarries, hlane]
    exact congrArg Host.Outcome.next (if_neg hserved)
  case marker =>
    rintro link body0 body1 skew _ _ s hcarries hmark0 hmark1 rfl rfl
    simp only [exec, execRslAlignmentMarker, if_neg (not_not.2 hcarries), if_neg (not_not.2 hmark0), if_neg (not_not.2 hmark1),
      Bool.or_eq_true, Bool.not_eq_true', decide_eq_true_eq, or_assoc]
  case readerEnd =>
    intro link lock sweep headers skew intervals s hstate
    refine ⟨fun p hp hlock hheaders hskew hintervals => ?passed, fun hshort => ?failed⟩
    case passed => exact exec_linkTrainingEnd_passed hstate hp ⟨hlock, hheaders, hskew, hintervals⟩
    case failed => exact exec_linkTrainingEnd_failed hstate (hshort.imp_right fun hlimit => by omega)
  case writerEnd =>
    rintro link lock sweep headers skew intervals _ s hstate rfl hread
    have hready : ¬ (s.nat (O.wrlState + link) ≠ 2 ∨ (s.wrl link).checks.length < if (s.wrl link).testing = true then 2 else 10) :=
      fun hbar => hbar.elim (· hstate) hread.not_gt
    simp only [exec, execLinkTrainingEnd, one_ne_zero, if_false, if_neg hready]
  case readerLate =>
    intro link s hstate hdue
    have hlate : ¬ (s.nat (O.rslState + link) ≠ 2 ∨ s.tick < (s.rsl link).trainingEnd) := by simp [hstate, hdue]
    exact congrArg Host.Outcome.next (if_neg hlate)
  case writerLate =>
    intro link s hstate hdue
    have hlate : ¬ (s.nat (O.wrlState + link) ≠ 2 ∨ s.tick < (s.wrl link).trainingEnd) := by simp [hstate, hdue]
    exact congrArg Host.Outcome.next (if_neg hlate)
  case readerRetry =>
    intro link s hstate hawake hquiet hdue
    simp [exec, execFailedLinkRetry, hstate, hawake, hquiet, hdue]
  case writerRetry =>
    intro link s hstate hawake hdue
    simp [exec, execFailedLinkRetry, hstate, hawake, hdue]
  case controlRetry =>
    intro pcl s hstate hawake hdue
    simp [exec, execFailedLinkRetry, hstate, hawake, hdue]
  case accessRead => exact fun r s hc hrun => next_writeVia_ok hc (if_neg hrun)
  case accessWrite => exact fun r s hc hrun => next_writeVia_ok hc (if_neg hrun)
  case clear => exact fun r s hc => exec_linkCounterClear hc

end

section
/-! Fences and return runs (R112, R271, R416, R556 to R561). -/

open Sys2Proof.Machine

/-- Settles O59: each write passes the dictionary's checks and is not refused; a return run that goes on ends by its links' states and
its actuator's load. -/
theorem fenceAndReturnCommandsRun : Obligations.FenceAndReturnCommandsRun := by
  refine ⟨?fence, ?returnHead, ?returnActuator, ?runEnd⟩
  case fence => exact fun r head s hc => next_writeVia_ok hc rfl
  case returnHead =>
    rintro r head _ s hc hallowed rfl
    exact next_writeVia_ok hc (if_neg (by simp [hallowed]))
  case returnActuator => exact fun r act s hc hallowed => next_writeVia_ok hc (if_neg (by simp [hallowed]))
  case runEnd =>
    rintro heads loops zones spares _ _ links s hruns rfl rfl hlinks
    simp only [exec, execReturnRunEnd, if_neg (not_not.2 hruns), ← hlinks]
    refine ⟨fun hbad => ?fails, fun hgood hoff htraining hunloaded => ?loads, fun hgood hoff htraining hloaded => ?finishes⟩
    case fails => rw [if_pos hbad]
    case loads => simp only [hgood, hoff, htraining, Bool.false_eq_true, or_self, if_false, if_pos hunloaded]
    case finishes => simp only [hgood, hoff, htraining, Bool.false_eq_true, or_self, if_false, if_neg (not_not.2 hloaded)]

end

section
/-! Where a write burst may open (R133, R184). -/

namespace Sys2Proof.Machine

variable {s : State} {head nsid lba : Nat} {w : ChunkWrite}

/-- A head's gate may open only in Confirmed (R133). -/
theorem State.confirmed_of_gateMay (h : s.gateMay head = true) : s.nat (O.clockState + head) = 3 := by
  simp only [State.gateMay, Bool.and_eq_true, decide_eq_true_eq, and_assoc] at h
  exact h.1

/-- A chunk may have a burst only where its head's gate may open (R184). -/
theorem State.gateMay_of_burstMay (h : s.burstMay w = true) : s.gateMay w.head = true := by
  simp only [State.burstMay, Bool.and_eq_true] at h
  obtain ⟨⟨⟨⟨_, hgate⟩, _⟩, _⟩, _⟩ := h
  exact hgate

/-- What is found for a head by a condition is a chunk of that head which meets the condition. -/
theorem State.chunkOf_some {p : ChunkWrite → Bool} (h : s.chunkOf head nsid lba p = some w) : w.head = head ∧ p w = true := by
  have hw := List.find?_some h
  simp only [Bool.and_eq_true, decide_eq_true_eq] at hw
  obtain ⟨⟨⟨hhead, _⟩, _⟩, hp⟩ := hw
  exact ⟨hhead, hp⟩

/-- A head that is not Confirmed has no chunk whose burst may open (R133). -/
theorem State.chunkOf_burstMay_eq_none (h : s.nat (O.clockState + head) ≠ 3) : s.chunkOf head nsid lba s.burstMay = none := by
  refine Option.eq_none_iff_forall_ne_some.2 fun w hw => ?_
  obtain ⟨rfl, hmay⟩ := State.chunkOf_some hw
  exact h (State.confirmed_of_gateMay (State.gateMay_of_burstMay hmay))

end Sys2Proof.Machine

open Sys2Proof.Machine

/-- Settles O29: the command finds no chunk whose burst may open. -/
theorem burstsOpenOnConfirmedHeadsOnly : Obligations.BurstsOpenOnConfirmedHeadsOnly := by
  intro head nsid lba s h
  simp only [exec, execWriteBurstOpen, State.chunkOf_burstMay_eq_none h]

end

section
/-! Head health and the borrowed clock (R123, R127, R130, R131, R266 to R270). -/

open Sys2Proof.Machine

/-- Settles O34: each event's hypotheses remove the conditions that would bar it and name the branch of its meaning that is taken; an
index field goes by the head's clock state. -/
theorem headHealthRuns : Obligations.HeadHealthRuns := by
  refine ⟨?assign, ?reassign, ?hold, ?readOnly, ?index, ?acquisition⟩
  case assign =>
    intro head s hhead hservice hclock hsick
    exact congrArg Host.Outcome.next ((if_neg (not_or.2 ⟨not_not.2 hhead, hservice⟩)).trans (if_pos ⟨hclock, hsick⟩))
  case reassign =>
    intro head s hhead hservice hclock hunfit
    have hnotRunning : ¬ ((s.nat (O.clockState + head) = 2 ∨ s.nat (O.clockState + head) = 3) ∧ (s.head head).unhealthy ≠ 0) := by
      simp [hclock]
    refine congrArg Host.Outcome.next
      ((if_neg (not_or.2 ⟨not_not.2 hhead, hservice⟩)).trans ((if_neg hnotRunning).trans (if_pos ⟨hclock, ?_⟩)))
    simpa [or_assoc] using hunfit
  case hold =>
    intro head s hhead hsick hfree hload hpos
    exact congrArg Host.Outcome.next (if_neg (by simp [hhead, hsick, hfree, hload, hpos]))
  case readOnly =>
    intro head v s hhead honly hwell hclock hvalid hdue
    exact congrArg Host.Outcome.next (if_neg (by simp [hhead, honly, hwell, hclock, hvalid, hdue]))
  case index =>
    rintro head at_ _ s hat hsampled hload rfl
    have hseen : ¬ (¬ s.sampled head = true ∨ (s.act (actOf head)).load ≠ 2) := by simp [hsampled, hload]
    simp only [exec, execIndexFieldDetected, hat, if_neg hseen]
    refine ⟨fun hclock hwell => ?provisional, fun hclock hnear => ?confirmed, fun hclock hfar => ?slipped,
      fun hclean hclock => ?proven⟩
    case provisional => rw [if_pos ⟨hclock, hwell⟩]
    case confirmed => simp [hclock, hnear]
    case slipped => simp [hclock, hfar.not_ge]
    case proven =>
      have hnot2 : s.nat (O.clockState + head) ≠ 2 := by omega
      have hnot3 : s.nat (O.clockState + head) ≠ 3 := by omega
      rw [if_neg fun h => hnot2 h.1, if_neg hnot3, if_pos ⟨hclean, hclock⟩]
  case acquisition => exact fun head s hclock hdue => congrArg Host.Outcome.next (if_pos ⟨hclock, hdue⟩)

end

section
/-! Equaliser adaptation and its swaps (R137 to R140, R164, R165). -/

open Sys2Proof.Machine

/-- Settles O36: a block that is full on a stream without a waiting swap goes by the rise of its error; a swap, a save and a
calibration read are due; each write passes the dictionary's checks. -/
theorem equaliserCommandsRun : Obligations.EqualiserCommandsRun := by
  refine ⟨?block, ?swap, ?save, ?idle, ?restore, ?clear⟩
  case block =>
    rintro stream _ f u s hadapts rfl hfull hswap hfree
    have hdue : ¬ (¬ s.adapts stream = true ∨ (s.stream stream).blockSectors < s.cfg (stream / 2) O.eqBlockSectors ∨
        (s.stream stream).swap ≠ 0) := by simp [hadapts, hfull, hswap]
    simp only [exec, execEqAdaptBlock, if_neg hdue, hfree]
    refine ⟨fun hcheck hworse => ?reverts, fun hgood => ?adapts⟩
    case reverts => rw [if_pos ⟨hcheck, hworse⟩]
    case adapts => rw [if_neg fun hbad => (hgood hbad.1).not_gt hbad.2]
  case swap =>
    rintro head sector s hnow ⟨n, hn, hasks⟩
    refine congrArg Host.Outcome.next (if_neg ?_)
    have hany : ([2 * head, 2 * head + 1].any fun n => decide ((s.stream n).swap ≠ 0) &&
        (decide (s.nat O.updateState ≠ 3) || decide ((s.stream n).swap = 4))) = true :=
      List.any_eq_true.2 ⟨n, hn, by simpa using hasks⟩
    exact not_or.2 ⟨not_not.2 hnow, not_not.2 hany⟩
  case save => exact fun s hdue => congrArg Host.Outcome.next (if_neg hdue.not_gt)
  case idle =>
    intro stream s hadapts hdue hnew
    refine congrArg Host.Outcome.next (if_neg ?_)
    rintro (hoff | hearly | hasked)
    · exact hoff hadapts
    · exact hdue.not_gt hearly
    · exact Bool.false_ne_true (hnew.symm.trans hasked)
  case restore => exact fun r s hc => next_writeVia_ok hc rfl
  case clear => exact fun r s hc => next_writeVia_ok hc rfl

end

section
/-! Decoder pace, narrow service, deferral and admission (R147, R149, R158 to R163, R178, R442, R443). -/

open Sys2Proof.Machine

/-- Settles O37: an interval is over, a head is narrow, and a stream's backlog is empty for long enough; a stream that leaves deferral
goes by the ladders that hold its sectors; each write passes the dictionary's checks. -/
theorem paceCommandsRun : Obligations.PaceCommandsRun := by
  refine ⟨?interval, ?narrowStart, ?narrowEnd, ?deferral, ?recompute, ?takeEffect, ?enable, ?pace⟩
  case interval =>
    intro u s hdue hu
    simp only [exec, execPaceIntervalEnd, if_neg hdue.not_gt, ← hu]
    -- What is left is the number of heads, which no interval changes.
    rfl
  case narrowStart => exact fun head s hnarrow => congrArg Host.Outcome.next (if_pos hnarrow)
  case narrowEnd =>
    intro head s hnarrow hleaves
    exact congrArg Host.Outcome.next (if_neg (not_or.2 ⟨not_not.2 hnarrow, not_not.2 hleaves⟩))
  case deferral =>
    rintro stream _ s hcapturing hempty hrun rfl
    have hleaves : ¬ (¬ (s.stream stream).capturing = true ∨ (s.stream stream).backlog ≠ [] ∨
        (s.stream stream).exitRun < s.cfg (stream / 2) O.deferExitSectors) := by simp [hcapturing, hempty, hrun]
    refine ⟨fun hnone => ?freed, fun hheld => ?handed⟩
    case freed => simp only [exec, execDeferralExit, if_neg hleaves, State.modStream, hnone, Bool.false_eq_true, if_false]
    case handed => simp only [exec, execDeferralExit, if_neg hleaves, State.modStream, hheld, if_true]
  case recompute => exact fun acts s => rfl
  case takeEffect =>
    intro act u s hact hu
    simp only [exec, execAdmissionTakeEffect, if_neg (not_not.2 hact), ← hu]
  case enable => exact fun r value s hc => next_writeVia_ok hc rfl
  case pace => exact fun r value s hc => next_writeVia_ok hc rfl

end

section
/-! The retry ladder: its steps, its limits and its refreshes (R167 to R171, R173, R174, R176 to R178). -/

namespace Sys2Proof.Machine

variable {s : State} {l : Ladder}

/-- The ladders of a head share its position and its heater (R175): no ladder bars a step where none of its head runs the other one. -/
theorem State.not_any_ladder_running {head step : Nat} (hidle : ∀ m ∈ s.detect.ladders, m.stream / 2 = head → m.running ≠ step) :
    ¬ (s.detect.ladders.any fun m => decide (m.stream / 2 = head) && decide (m.running = step)) = true := by
  simpa using hidle

/-- No request for capture slots goes ahead of one that waits already and comes before every other that waits (R177). -/
theorem State.not_any_ladder_ahead
    (hfirst : ∀ m ∈ s.detect.ladders, m.waiting = true → m.id ≠ l.id → l.waiting = true ∧ l.id < m.id) :
    ¬ (s.detect.ladders.any fun m => m.waiting && (decide (m.id < l.id) || !l.waiting) && decide (m.id ≠ l.id)) = true := by
  simp only [List.any_eq_true, Bool.and_eq_true, Bool.or_eq_true, Bool.not_eq_true', decide_eq_true_eq]
  rintro ⟨m, hm, ⟨hwaits, hahead⟩, hother⟩
  obtain ⟨hwaiting, hlater⟩ := hfirst m hm hwaits hother
  rcases hahead with hearlier | hnew
  · exact hlater.not_gt hearlier
  · exact Bool.false_ne_true (hnew.symm.trans hwaiting)

end Sys2Proof.Machine

open Sys2Proof.Machine

/-- Settles O26: each command finds its ladder, whose step may be taken; the step's own conditions remove what would bar it and name
the branch of its meaning that is taken. -/
theorem ladderStepsRun : Obligations.LadderStepsRun := by
  intro ladder time l s hl
  refine ⟨?extended, ?reread, ?slotsWait, ?averaging, ?offsetSet, ?offsetFirst, ?offsetSecond, ?heaterRaised, ?heaterAveraged⟩
  case extended =>
    intro hmay hfree hinline
    have hserved : ¬ (¬ s.stepMay l 1 = true ∨ s.freeDecoders = [] ∨ s.inlineWaits = true) := by simp [hmay, hfree, hinline]
    simp only [exec, execLadderExtendedDecode, hl, if_neg hserved]
  case reread =>
    intro hmay hroom hfirst
    have hgranted := not_or.2 ⟨hroom.not_gt, State.not_any_ladder_ahead hfirst⟩
    simp only [exec, execLadderCountFramedReread, hl, if_neg (not_not.2 hmay), if_neg hgranted]
  case slotsWait =>
    intro hmay hshort hnew
    simp only [exec, execLadderCountFramedReread, hl, if_neg (not_not.2 hmay), if_pos (Or.inl hshort), hnew, Bool.false_eq_true,
      if_false]
  case averaging =>
    intro hmay hnow
    have hmade : ¬ (¬ s.stepMay l 3 = true ∨ ¬ s.averagesNow l = true) := by simp [hmay, hnow]
    -- A pass with lost samples and one that is added are taken alike by both sides.
    cases hpass : s.addPass l <;> simp only [exec, execLadderAveragingPass, hl, if_neg hmade, hpass]
  case offsetSet =>
    intro hmay hnew hfree hcool
    have hclear := not_or.2 ⟨Bool.eq_false_iff.1 hfree, State.not_any_ladder_running hcool⟩
    simp only [exec, execLadderOffsetRead, hl, if_neg (not_not.2 hmay), if_pos hnew, if_neg hclear]
  case offsetFirst =>
    intro hmay hruns hfirst
    simp only [exec, execLadderOffsetRead, hl, if_neg (not_not.2 hmay), if_neg (not_not.2 hruns), if_pos hfirst]
  case offsetSecond =>
    intro hmay hruns hsecond hfree hset
    simp only [exec, execLadderOffsetRead, hl, if_neg (not_not.2 hmay), if_neg (not_not.2 hruns), if_neg hsecond,
      if_neg (Bool.eq_false_iff.1 hfree), if_neg (not_not.2 hset)]
  case heaterRaised =>
    intro hmay hnew hcentred
    simp only [exec, execLadderHeaterStep, hl, if_neg (not_not.2 hmay), if_pos hnew,
      if_neg (State.not_any_ladder_running hcentred), State.modHead_tick]
  case heaterAveraged =>
    intro hmay hruns hsettled
    -- The statement asks first whether the head is not Borrowed (`ite_not`), the model whether it is.
    cases hpass : s.addPass l <;>
      simp only [exec, execLadderHeaterStep, hl, if_neg (not_not.2 hmay), if_neg (not_not.2 hruns), if_neg hsettled.not_gt, hpass,
        ne_eq, ite_not]

/-- Settles O27: a late ladder whose step does not run and one whose wait is over are not kept, slots there is room for are granted,
and a refresh that is listed finds its sector. -/
theorem ladderLimitsRun : Obligations.LadderLimitsRun := by
  refine ⟨?late, ?waited, ?freed, ?refresh⟩
  case late =>
    intro ladder l s hl hlate hidle
    have hends : ¬ (¬ s.ladderLate l = true ∨ s.stepRuns l = true) := by simp [hlate, hidle]
    simp only [exec, execLadderTimeLimit, hl, if_neg hends]
  case waited =>
    intro ladder l s hl hwaits hdue
    have hcountless : (decide (s.nat (O.clockState + l.stream / 2) = 5) || (decide (s.nat (O.clockState + l.stream / 2) = 1) &&
        decide ((s.act (actOf (l.stream / 2))).load = 2))) = true := by simpa using hwaits
    simp only [exec, execClockWaitLimit, hl, if_neg (not_or.2 ⟨not_not.2 hcountless, hdue.not_gt⟩)]
  case freed =>
    intro l s hlongest hroom
    simp only [exec, execCaptureSlotFreed, hlongest, if_pos hroom]
  case refresh =>
    rintro _ _ r p s hr rfl rfl hp
    have hlisted : (s.detect.refreshes.any fun x => decide (x.nsid = r.nsid) && decide (x.lba = r.lba)) = true :=
      List.any_eq_true.2 ⟨r, hr, by simp⟩
    simp only [exec, execSectorRefresh, hp, if_pos hlisted]

end

section
/-! Loads, unloads and safe-parks (R202, R261 to R264). -/

namespace Sys2Proof.Machine

variable {s : State} {act : Nat}

/-- An actuator that is not fenced, or is on its way back, is not shut out of a load. -/
theorem State.not_shutOut (hact : s.hasAct act = true) (hservice : s.nat (O.actuatorService + act) = 3 → s.returning act = true) :
    ¬ (¬ s.hasAct act = true ∨ (s.nat (O.actuatorService + act) = 3 ∧ ¬ s.returning act = true)) := by
  simpa [hact] using hservice

/-- A head that a load waits for and that has crossed no stripe keeps the load from its end. -/
theorem State.not_all_crossed
    (hout : ∃ h ∈ headsOf act, (s.head h).crossed = false ∧ (s.nat (O.headService + h) = 3 → s.returning act = true)) :
    ¬ ((headsOf act).all fun h => (decide (s.nat (O.headService + h) = 3) && !s.returning act) || (s.head h).crossed) = true := by
  obtain ⟨h, hmem, hcrossed, hwaits⟩ := hout
  refine fun hall => ?_
  have hdone := List.all_eq_true.1 hall h hmem
  simp only [hcrossed, Bool.or_false, Bool.and_eq_true, decide_eq_true_eq, Bool.not_eq_true'] at hdone
  exact Bool.false_ne_true (hdone.2.symm.trans (hwaits hdone.1))

end Sys2Proof.Machine

open Sys2Proof.Machine

/-- Settles O32: each event meets the conditions of its row, which name the branch of its meaning that is taken; a safe-park that
finds a head over the media goes by the reruns it has had. -/
theorem loadCommandsRun : Obligations.LoadCommandsRun := by
  refine ⟨?begins, ?ends, ?late, ?starts, ?stops, ?reruns, ?parked⟩
  case begins =>
    intro act zones spares s hact hservice hload hwanted hsurge hfast hupper hlower hheld
    exact congrArg Host.Outcome.next ((if_neg (State.not_shutOut hact hservice)).trans
      (if_pos (by simp [hload, hwanted, hsurge, hfast, hupper, hlower, hheld])))
  case ends =>
    intro act zones spares s hact hservice hload hcrossed
    refine congrArg Host.Outcome.next ((if_neg (State.not_shutOut hact hservice)).trans
      ((if_neg (by simp [hload])).trans (if_pos ⟨hload, ?_⟩)))
    simpa using hcrossed
  case late =>
    rintro act _ s hact hload hout hdue rfl
    refine congrArg Host.Outcome.next (if_neg ?_)
    rintro (habsent | hidle | hcrossed | hearly)
    · exact habsent hact
    · exact hidle hload
    · exact State.not_all_crossed hout hcrossed
    · exact hdue.not_gt hearly
  case starts =>
    intro act s hact hload hat hlanes
    have hunloads : ¬ (¬ s.hasAct act = true ∨ (s.act act).load ≠ 3) := by simp [hact, hload]
    have hout : ((s.steering act).all fun h => decide ((s.head h).lane = 0)) = true := by simpa using hlanes
    refine congrArg Host.Outcome.next ((if_neg hunloads).trans ?_)
    simp only [hat, if_pos hout]
  case stops =>
    rintro act t _ s hact hload hat hdue rfl
    have hunloads : ¬ (¬ s.hasAct act = true ∨ (s.act act).load ≠ 3) := by simp [hact, hload]
    refine congrArg Host.Outcome.next ((if_neg hunloads).trans ?_)
    simp only [hat, if_neg hdue.not_gt]
  case reruns =>
    intro act s hact hload hdue hover hfirst
    exact congrArg Host.Outcome.next ((if_neg (by simp [hact, hload, hdue])).trans (if_pos ⟨hover, hfirst⟩))
  case parked =>
    rintro act _ s hact hload hdue rfl hlast
    exact congrArg Host.Outcome.next ((if_neg (by simp [hact, hload, hdue])).trans (if_neg fun h => hlast h.1 h.2))

end

section
/-! Loop samples, outputs, the commutation angle, bank checks and swaps (R203 to R206, R210, R217, R225, R230, R231, R286, R572). -/

open Sys2Proof.Machine

/-- Settles O41: each event falls on its loop and its instant, which name the branch of its meaning that is taken; the commutation angle
goes by the median of the heads' angles, a health window by whether a reversion was asked for. -/
theorem loopSamplesRun : Obligations.LoopSamplesRun := by
  refine ⟨?boundary, ?deadline, ?outputs, ?frame, ?angle, ?check, ?coefSwap, ?microSwap, ?health⟩
  case boundary =>
    intro slot sub s hslot hruns hat hnew
    refine congrArg Host.Outcome.next (if_neg ?_)
    rintro (habsent | hstopped | hbetween | hknown)
    · exact habsent hslot
    · exact hstopped hruns
    · exact hbetween hat
    · obtain ⟨x, hx, hsame⟩ := List.any_eq_true.1 hknown
      exact hnew x hx (of_decide_eq_true hsame)
  case deadline =>
    rintro slot sub _ s hslot hruns rfl hdue
    exact congrArg Host.Outcome.next (if_neg (not_or.2 ⟨not_not.2 hslot, not_or.2 ⟨not_not.2 hruns, not_not.2 hdue⟩⟩))
  case outputs => exact fun slot sub s hslot => congrArg Host.Outcome.next (if_neg (not_not.2 hslot))
  case frame =>
    rintro act frame _ _ s hact rfl rfl
    exact congrArg Host.Outcome.next (if_neg (not_not.2 hact))
  case angle =>
    rintro sub _ s rfl hnow
    refine ⟨fun hnone => congrArg Host.Outcome.next ((if_neg hnow.not_gt).trans ?absent),
      fun t hangle hintime => congrArg Host.Outcome.next ((if_neg hnow.not_gt).trans ?taken),
      fun t hangle hlate => congrArg Host.Outcome.next ((if_neg hnow.not_gt).trans ?dropped)⟩
    case absent => simp only [hnone]
    case taken => simp only [hangle, if_neg hintime.not_gt]
    case dropped => simp only [hangle, if_pos hlate]
  case check => exact fun sub found s hdue => congrArg Host.Outcome.next (if_neg hdue.not_gt)
  case coefSwap =>
    intro slot sub b m g due s hpending hdue
    refine congrArg Host.Outcome.next ?_
    simp only [hpending, if_pos hdue]
  case microSwap =>
    intro sub t s hat hlater hframe
    have hdue : ¬ (s.subTime sub ≤ t ∨ s.subTime sub % 16000 ≠ 0) := not_or.2 ⟨hlater.not_ge, not_not.2 hframe⟩
    refine congrArg Host.Outcome.next ?_
    simp only [State.dueMicrocode, hat, if_neg hdue]
  case health =>
    intro sub s hopen
    refine ⟨fun hkept hover => ?ends, fun hasked hframe => ?reverts⟩
    case ends => exact congrArg Host.Outcome.next ((if_neg hopen).trans ((if_neg (by simp [hkept])).trans (if_pos hover)))
    case reverts =>
      exact congrArg Host.Outcome.next ((if_neg hopen).trans ((if_pos hasked).trans (if_neg (not_not.2 hframe))))

end

section
/-! Microcode moves, selections and arithmetic (R207, R211 to R214). -/

namespace Sys2Proof.Machine

/-- An instruction that is the next, admitted word of a running loop's sample, on a lane that has reached the loop, has its effect on
the state whose sample has moved past that word (R214). -/
theorem microOp_admitted {s u : State} {slot op : Nat} {fields : WordFields} {x : LoopSample} {f : LoopSample → State → State}
    (hslot : s.hasSlot slot = true) (hruns : s.loopRuns slot = true) (hx : (s.loop slot).sample = some x)
    (hfree : s.laneFree slot x = true) (hadmitted : wordAdmitted slot (s.fetched x) = true)
    (hu : u = s.modLoop slot fun l => { l with sample := some { x with pc := x.pc + 1 } })
    (hword : wordIs (s.fetched x) op fields = true) : microOp s slot op fields f = .next (f x u) := by
  have hnext : ¬ (¬ wordIs (s.fetched x) op fields = true ∨ ¬ s.laneFree slot x = true) := by simp [hword, hfree]
  simp only [microOp, hslot, hruns, hx, Bool.and_self, if_neg hnext, if_pos hadmitted, ← hu]

end Sys2Proof.Machine

open Sys2Proof.Machine

/-- Settles O42: each instruction is the admitted next word, so that what it does is its effect on the state past that word. -/
theorem microcodeArithmeticRuns : Obligations.MicrocodeArithmeticRuns := by
  rintro slot x _ s u hslot hruns hx hfree rfl hadmitted hu
  have acts {op : Nat} {fields : WordFields} {f : LoopSample → State → State} (hword : wordIs (s.fetched x) op fields = true) :
      microOp s slot op fields f = .next (f x u) :=
    microOp_admitted hslot hruns hx hfree hadmitted hu hword
  refine ⟨?nop, ?ends, ?input, ?output, ?mov, ?add, ?sub, ?mul, ?mac, ?sel⟩
  case nop => exact fun hword => (acts hword : execMcNop slot s = _)
  case ends => exact fun sub hword => (acts hword : execMcEnds slot sub s = _)
  case input => exact fun dst imm shift round sat hword => (acts hword : execMcIn slot dst imm shift round sat s = _)
  case output => exact fun a imm hword => (acts hword : execMcOut slot a imm s = _)
  case mov => exact fun dst a shift round sat hword => (acts hword : execMcMov slot dst a shift round sat s = _)
  case add => exact fun dst a b shift round sat hword => (acts hword : execMcAdd slot dst a b shift round sat s = _)
  case sub => exact fun dst a b shift round sat hword => (acts hword : execMcSub slot dst a b shift round sat s = _)
  case mul => exact fun dst a c shift round sat hword => (acts hword : execMcMul slot dst a c shift round sat s = _)
  case mac => exact fun dst a b c shift round sat hword => (acts hword : execMcMac slot dst a b c shift round sat s = _)
  case sel => exact fun dst a b imm shift round sat hword => (acts hword : execMcSel slot dst a b imm shift round sat s = _)

end

section
/-! Position samples, seeks, hand-overs, crossings and lane checks (R240, R249 to R251, R254, R255, R261). -/

namespace Sys2Proof.Machine

/-- A seek request to a row that every head in service of a loaded actuator has, and that passes over no overdue operation, is judged
by the seek under way and the work left on the present row. -/
theorem execSeekRequest_of_row {act zone row : Nat} {only : Option Nat} {s : State} (hact : s.hasAct act = true)
    (hload : (s.act act).load = 2) (hpasses : s.passesOver act zone row = false)
    (hrows : ∀ h ∈ headsOf act, s.nat (O.headService + h) = 3 ∨
      ∃ e, s.zoneOf h zone = some e ∧ row < e.laneCount - e.spareLanes) :
    execSeekRequest act zone row only s = .next (
      if (s.act act).seeking then s.modAct act fun x => { x with nextTarget := some (zone, row, only) }
      else if s.narrowWork act ∨ s.passWork act then s
      else s.beginSeek act zone row only) := by
  refine congrArg Host.Outcome.next (if_neg ?_)
  rintro (habsent | hunloaded | hnorow | hlate)
  · exact habsent hact
  · exact hunloaded hload
  · refine hnorow (List.all_eq_true.2 fun h hh => ?_)
    rcases hrows h hh with hfenced | ⟨e, he, hin⟩
    · simp [hfenced]
    · simp [he, hin]
  · exact Bool.false_ne_true (hpasses.symm.trans hlate)

end Sys2Proof.Machine

open Sys2Proof.Machine

/-- Settles O31: each event meets the conditions of its row; a seek request and a hand-over go by the seek under way and its next
target, a crossing by whether the head is loading and has crossed before, a lane check by its read. -/
theorem positioningCommandsRun : Obligations.PositioningCommandsRun := by
  refine ⟨?sample, ?seek, ?handOver, ?first, ?crossing, ?checkBegins, ?checkEnds, ?uncertain⟩
  case sample => exact fun head sub s hsampled => congrArg Host.Outcome.next (if_neg (not_not.2 hsampled))
  case seek =>
    intro act zone row only s hact hload hpasses hrows
    refine ⟨fun hidle hnarrow hpass => (execSeekRequest_of_row hact hload hpasses hrows).trans (congrArg Host.Outcome.next ?begins),
      fun hseeking => (execSeekRequest_of_row hact hload hpasses hrows).trans (congrArg Host.Outcome.next (if_pos hseeking))⟩
    case begins => exact (if_neg (by simp [hidle])).trans (if_neg (by simp [hnarrow, hpass]))
  case handOver =>
    intro act sub s hact hload hseeking hinstant
    have hdue : ¬ (¬ s.hasAct act = true ∨ (s.act act).load ≠ 2 ∨ ¬ (s.act act).seeking = true ∨ s.subTime sub % 8000 ≠ 0) := by
      simp [hact, hload, hseeking, hinstant]
    refine ⟨fun hnone hlanes => congrArg Host.Outcome.next ((if_neg hdue).trans ?follows),
      fun zone row only hnext => congrArg Host.Outcome.next ((if_neg hdue).trans ?retargets)⟩
    case follows =>
      have harrived : ((s.steering act).all fun h => decide ((s.head h).lane = (s.head h).target)) = true := by simpa using hlanes
      simp only [hnone, if_pos harrived]
    case retargets => simp only [hnext]
  case first =>
    intro head outerFirst inward s hsampled hload hnew
    exact congrArg Host.Outcome.next ((if_neg (by simp [hsampled, hload])).trans (if_pos (by simp [hload, hnew])))
  case crossing =>
    rintro head outerFirst inward _ s hsampled hload hcrossed rfl
    refine congrArg Host.Outcome.next ((if_neg (by simp [hsampled, hload])).trans
      ((if_neg fun hfirst => hfirst.2 (hcrossed hfirst.1)).trans ?_))
    simp only [Bool.and_eq_true, decide_eq_true_eq]
  case checkBegins =>
    intro head x s hnone hhead hload hidle hrow hlink hdue hserved
    have hmay : ¬ (¬ s.hasHead head = true ∨ (s.act (actOf head)).load ≠ 2 ∨ (s.act (actOf head)).seeking = true ∨
        ¬ (s.head head).onRow = true ∨ s.nat (O.rslState + 3 * head) ≠ 3 ∨ ¬ s.laneCheckDue head = true) := by
      simp [hhead, hload, hidle, hrow, hlink, hdue]
    simp only [exec, execLaneCheckRead, hnone, if_neg hmay, hserved]
  case checkEnds =>
    intro head d s hread hfinal
    simp only [exec, execLaneCheckRead, hread, if_pos hfinal]
  case uncertain =>
    intro act s hact hload hidle hunverified hchecked
    exact congrArg Host.Outcome.next (if_pos (by simp [hact, hload, hidle, hunverified, hchecked]))

end

section
/-! Shock-sensor transactions, retries and holds (R257, R258, R260, R573 to R575). -/

open Sys2Proof.Machine

/-- Settles O33: the sensor is fitted and its state is the one the command serves, and each hold is over; a transaction goes by its
checks. -/
theorem sensorCommandsRun : Obligations.SensorCommandsRun := by
  refine ⟨?transaction, ?retry, ?hold, ?reload⟩
  case transaction =>
    intro sensor miso s hfitted hsensor hstate
    exact congrArg Host.Outcome.next (if_neg (by simp [hfitted, hsensor, hstate]))
  case retry =>
    rintro sensor miso _ s hfitted hsensor hstate hdue rfl
    refine congrArg Host.Outcome.next (if_neg ?_)
    rintro (hunfitted | habsent | hworks | hearly)
    · exact hunfitted hfitted
    · exact hsensor.not_ge habsent
    · exact hworks hstate
    · exact hdue.not_gt hearly
  case hold =>
    exact fun s hinhibit hdue => congrArg Host.Outcome.next (if_neg (not_or.2 ⟨not_not.2 hinhibit, hdue.not_gt⟩))
  case reload => exact fun s hdue => congrArg Host.Outcome.next (if_neg hdue.not_gt)

end

section
/-! Runout updates, identifications, heater calibrations and checks after a swap (R272 to R278, R282). -/

open Sys2Proof.Machine

/-- Settles O35: each event meets the conditions of its row; an identification's end goes by its limits and then by the loop's claim,
a heater calibration by whether one runs, and the write passes the dictionary's checks. -/
theorem calibrationCommandsRun : Obligations.CalibrationCommandsRun := by
  refine ⟨?runout, ?identified, ?heaterBegins, ?heaterNext, ?check, ?request⟩
  case runout =>
    intro head word s hhead hmay henabled hlearnt hservice hfirmware hstroke
    exact congrArg Host.Outcome.next (if_neg (by simp [hhead, hmay, henabled, hlearnt, hservice, hfirmware, hstroke]))
  case identified =>
    rintro slot gain shift frequency words r _ s hrun hmay rfl
    simp only [exec, execLoopIdentificationEnd, hrun]
    have outside_iff : (decide (10 * (s.nat O.gainChangeLimit : Int) < gain.natAbs) || decide (s.nat O.modeShiftLimit < shift)) = true ↔
        gain.natAbs > 10 * (s.nat O.gainChangeLimit : Int) ∨ s.nat O.modeShiftLimit < shift := by
      rw [Bool.or_eq_true, decide_eq_true_eq, decide_eq_true_eq]
    refine ⟨fun houtside => congrArg Host.Outcome.next ?refused, fun hgain hshift hclaimed => congrArg Host.Outcome.next ?claimed,
      fun hgain hshift hfree hfirmware => congrArg Host.Outcome.next ?applied⟩
    case refused =>
      have hout := outside_iff.2 houtside
      exact (if_neg (not_or.2 ⟨not_not.2 hmay, fun ⟨hwithin, _⟩ => hwithin hout⟩)).trans (if_pos hout)
    case claimed =>
      have hwithin := fun hout => (outside_iff.1 hout).elim hgain.not_gt hshift.not_gt
      have hclaim := decide_eq_true hclaimed
      exact (if_neg (not_or.2 ⟨not_not.2 hmay, fun ⟨_, hunclaimed, _⟩ => hunclaimed hclaim⟩)).trans
        ((if_neg hwithin).trans (if_pos hclaim))
    case applied =>
      have hwithin := fun hout => (outside_iff.1 hout).elim hgain.not_gt hshift.not_gt
      exact (if_neg (not_or.2 ⟨not_not.2 hmay, fun ⟨_, _, hbarred⟩ => hbarred hfirmware⟩)).trans
        ((if_neg hwithin).trans (if_neg fun hclaim => absurd hfree (of_decide_eq_true hclaim)))
  case heaterBegins =>
    intro head s hnone hdue hfree
    have hbegins : s.heaterDue head = true ∧ ¬ s.calBusy (actOf head) = true := ⟨hdue, Bool.eq_false_iff.1 hfree⟩
    simp only [exec, execHeaterCalibration, hnone, if_pos hbegins]
  case heaterNext =>
    intro head r s hruns hmay hdue
    simp only [exec, execHeaterCalibration, hruns, if_neg (not_not.2 hmay), if_neg hdue.not_gt]
  case check =>
    intro head slot s hslot hdue
    simp only [exec, execCalibrationCheckEnd, hslot, if_neg hdue.not_gt]
  case request =>
    rintro r slot _ s hc hidle rfl
    refine next_writeVia_ok hc ((if_neg hidle).trans ?_)
    simp only [Bool.not_eq_true]

end

section
/-! The end of Listening (R291, R293). -/

namespace Sys2Proof.Machine

variable {s : State}

/-- The spindle speed loop of an engine whose gates are on starts, unless it runs already (R202). -/
theorem State.speedLoop_true (s : State) : s.speedLoop true = if s.nat (O.loopState + 36) ≠ 2 then s.startLoop 36 else s := by
  simp only [State.speedLoop, true_and, not_true_eq_false, false_and, if_false]

/-- A loop's start writes that loop's state and no other object. -/
theorem State.nat_startLoop_other (s : State) {n k : Nat} (hk : k ≠ O.loopState + n) : (s.startLoop n).nat k = s.nat k :=
  (rfl : (s.startLoop n).nat k = (s.setNat (O.loopState + n) 2).nat k).trans (State.nat_setNat_other _ _ _ _ hk)

/-- A spindle state entered with the gates on is the state the engine is in (R291). -/
theorem State.nat_spindleState_spindleEnter {state : Nat} (hdrives : state ∉ [0, 1, 2, 9, 12, 13]) :
    (s.spindleEnter state).nat O.spindleState = state := by
  have hloop (u : State) : (u.speedLoop true).nat O.spindleState = u.nat O.spindleState := by
    rw [State.speedLoop_true]
    split_ifs
    · exact State.nat_startLoop_other u (by decide)
    · rfl
  simp only [State.spindleEnter, hdrives, not_false_eq_true, decide_true]
  calc (((s.setNat O.spindleState state).setNat O.angleSource (angleSourceOf state)).speedLoop true).nat O.spindleState
      = ((s.setNat O.spindleState state).setNat O.angleSource (angleSourceOf state)).nat O.spindleState := hloop _
    _ = (s.setNat O.spindleState state).nat O.spindleState := State.nat_setNat_other _ _ _ _ (by decide)
    _ = state := State.nat_setNat_same _ _ _

/-- A spindle state entered with the gates on changes the gates and the enable of the spindle's record (R291). -/
theorem State.spindle_spindleEnter {state : Nat} (hdrives : state ∉ [0, 1, 2, 9, 12, 13]) :
    (s.spindleEnter state).spindle = { s.spindle with gates := true, enable := decide (state ∉ [0, 1, 13]) } := by
  have hloop (u : State) : (u.speedLoop true).spindle = u.spindle := by
    rw [State.speedLoop_true]
    split_ifs <;> rfl
  simp only [State.spindleEnter, hdrives, not_false_eq_true, decide_true, hloop, State.setNat_spindle]

/-- The speed just set is the one that a percentage of SpindleNominalRpm is compared with. -/
theorem State.atLeast_setSpeed (s : State) (mrpm percent : Nat) :
    (s.setSpeed mrpm).atLeast percent = decide (percent * s.nat O.spindleNominalRpm * 10 ≤ mrpm) := by
  have hnominal : (s.setSpeed mrpm).nat O.spindleNominalRpm = s.nat O.spindleNominalRpm := State.nat_setNat_other _ _ _ _ (by decide)
  rw [State.atLeast, hnominal]
  rfl

/-- State with the speed that crossings on all three phases give; without them the speed is not measured (R293). -/
def State.listened (s : State) : State :=
  if [0, 1, 2].all s.spindle.seen.contains = true then s.setSpeed s.measuredSpeed else s

/-- State with six-step aligned to the last crossing, the next one predicted from its instant, and injection at its beginning (R293). -/
def State.alignSixStep (s : State) : State :=
  s.modSpindle fun x => { x with
    misses := 0, accepted := true, errorRun := 0, lastEvent := s.tick, phase := 0, phaseStart := s.tick, agree := 0, takeOver := false
    resolving := none, stepTime := s.stepAt x.mrpm, crossNext := x.crossAt, commutedAt := s.subTime 0 }

/-- Crossings on all three phases at a speed at or above HandoverSpeed make a flying start, whatever else six-step is aligned to (R293). -/
theorem State.flyingStart_iff (s : State) :
    ([0, 1, 2].all s.spindle.seen.contains = true ∧
      s.listened.alignSixStep.atLeast (s.listened.alignSixStep.nat O.handoverSpeed) = true) ↔
    (s.spindle.seen.contains 0 = true ∧ s.spindle.seen.contains 1 = true ∧ s.spindle.seen.contains 2 = true) ∧
      s.nat O.handoverSpeed * s.nat O.spindleNominalRpm * 10 ≤ s.measuredSpeed := by
  have hseen : [0, 1, 2].all s.spindle.seen.contains = true ↔
      s.spindle.seen.contains 0 = true ∧ s.spindle.seen.contains 1 = true ∧ s.spindle.seen.contains 2 = true := by
    simp only [List.all_cons, List.all_nil, Bool.and_true, Bool.and_eq_true]
  rw [← hseen]
  refine and_congr_right fun hall => ?_
  -- Alignment changes no object and not the speed, so that the comparison is the one of the state just given its speed.
  calc s.listened.alignSixStep.atLeast (s.listened.alignSixStep.nat O.handoverSpeed) = true
      ↔ s.listened.atLeast (s.listened.nat O.handoverSpeed) = true := Iff.rfl
    _ ↔ (s.setSpeed s.measuredSpeed).atLeast ((s.setSpeed s.measuredSpeed).nat O.handoverSpeed) = true := by
      rw [State.listened, if_pos hall]
    _ ↔ (s.setSpeed s.measuredSpeed).atLeast (s.nat O.handoverSpeed) = true := by
      rw [show (s.setSpeed s.measuredSpeed).nat O.handoverSpeed = s.nat O.handoverSpeed from
        State.nat_setNat_other _ _ _ _ (by decide)]
    _ ↔ s.nat O.handoverSpeed * s.nat O.spindleNominalRpm * 10 ≤ s.measuredSpeed := by
      rw [State.atLeast_setSpeed, decide_eq_true_eq]

/-- Listening that has lasted its time ends with six-step aligned, in Accelerating or InjectionStart, at the start current (R293). -/
theorem execListeningEnd_of_due (hstate : s.nat O.spindleState = 2) (hdue : s.spindle.spinUpStart + 20000 ≤ s.tick) :
    execListeningEnd s = .next ((s.listened.alignSixStep.spindleEnter
      (if s.spindle.seen.contains 0 = true ∧ s.spindle.seen.contains 1 = true ∧ s.spindle.seen.contains 2 = true ∧
          s.nat O.handoverSpeed * s.nat O.spindleNominalRpm * 10 ≤ s.measuredSpeed then 4 else 3)).drive
      s.listened.alignSixStep.startCurrent) := by
  have hends : ¬ (s.nat O.spindleState ≠ 2 ∨ s.tick < s.spindle.spinUpStart + 20000) := not_or.2 ⟨not_not.2 hstate, hdue.not_gt⟩
  refine congrArg Host.Outcome.next ((if_neg hends).trans (congrArg (State.drive · s.listened.alignSixStep.startCurrent) ?_))
  rw [apply_ite s.listened.alignSixStep.spindleEnter]
  exact if_congr (s.flyingStart_iff.trans (by simp only [and_assoc])) rfl rfl

/-- Six-step aligned at the end of Listening stays in the step of the last crossing and predicts the next from its instant. -/
theorem State.spindle_alignSixStep_listened (s : State) :
    s.listened.alignSixStep.spindle.step = s.spindle.step ∧ s.listened.alignSixStep.spindle.crossNext = s.spindle.crossAt := by
  rw [State.listened]
  split_ifs <;> exact ⟨rfl, rfl⟩

/-- An engine that drives on in a new state is in that state, with the step and the prediction it had. -/
theorem State.drive_spindleEnter {u : State} {state : Nat} (v : Int) (hdrives : state ∉ [0, 1, 2, 9, 12, 13]) :
    ((u.spindleEnter state).drive v).spindle.step = u.spindle.step ∧
      ((u.spindleEnter state).drive v).spindle.crossNext = u.spindle.crossNext ∧
      ((u.spindleEnter state).drive v).nat O.spindleState = state := by
  have hspindle := State.spindle_spindleEnter (s := u) hdrives
  refine ⟨?_, ?_, State.nat_spindleState_spindleEnter hdrives⟩ <;>
    rw [State.drive, State.modSpindle_spindle, hspindle]

end Sys2Proof.Machine

open Sys2Proof.Machine

/-- Settles O47: the speed that decides is the one the crossings have just given, and either state that is entered drives the bridge, so
that the engine keeps the step and the prediction it was aligned to. -/
theorem listeningEndsInItsState : Obligations.ListeningEndsInItsState := by
  intro s hstate hdue
  obtain ⟨hstep, hnext⟩ := s.spindle_alignSixStep_listened
  refine ⟨_, execListeningEnd_of_due hstate hdue, ?_⟩
  rw [← hstep, ← hnext]
  exact State.drive_spindleEnter _ (by split_ifs <;> decide)

end

section
/-! Spin-ups: their tokens, surges, chopper test, injection and failed attempts (R292 to R300, R310, R314, R458, R459). -/

open Sys2Proof.Machine

/-- Settles O46: each event finds its state at its time, which removes what would bar it and names the branch of its meaning that is
taken; the rotor's angle is resolved or followed by whether the estimate held; each write passes the dictionary's checks. -/
theorem spinUpCommandsRun : Obligations.SpinUpCommandsRun := by
  refine ⟨?request, ?grant, ?timeout, ?slotDelay, ?surgeGrant, ?surgeReturn, ?chopper, ?angle, ?unresolved, ?polarity, ?locked, ?retry,
    ?late, ?leaveFailed⟩
  case request => exact fun s hpower => congrArg Host.Outcome.next (if_neg (Bool.eq_false_iff.1 hpower))
  case grant => exact fun r s hc hasked => next_writeVia_ok hc (if_neg (not_not.2 hasked))
  case timeout =>
    exact fun s hasked hdue => congrArg Host.Outcome.next (if_neg (not_or.2 ⟨not_not.2 hasked, hdue.not_gt⟩))
  case slotDelay =>
    intro t s hdelay hdue hwaits
    refine congrArg Host.Outcome.next ?_
    simp only [hdelay, if_neg (not_or.2 ⟨hdue.not_gt, not_not.2 hwaits⟩), State.modSpindle_mb]
  case surgeGrant =>
    intro g rest s hqueue hfits
    refine congrArg Host.Outcome.next ?_
    simp only [State.grantFront, hqueue, if_pos hfits]
  case surgeReturn =>
    intro priority item s hgranted hover
    exact congrArg Host.Outcome.next (if_neg (not_or.2 ⟨not_not.2 hgranted, not_not.2 hover⟩))
  case chopper =>
    rintro chs s _ hwaits hchopper hsurge hdue rfl
    exact congrArg Host.Outcome.next (if_neg (by simp [hwaits, hchopper, hsurge, hdue]))
  case angle =>
    intro ratio angle t a s hstate hphase hintime hestimate
    have hinjects : ¬ (s.nat O.spindleState ≠ 3 ∨ s.spindle.phase ≠ 0) := not_or.2 ⟨not_not.2 hstate, not_not.2 hphase⟩
    refine ⟨fun hheld hripple hdue => congrArg Host.Outcome.next ((if_neg hinjects).trans ((if_neg hintime.not_gt).trans ?resolved)),
      fun hmoved => congrArg Host.Outcome.next ((if_neg hinjects).trans ((if_neg hintime.not_gt).trans ?followed))⟩
    case resolved =>
      simp only [hestimate, decide_eq_true hheld, Option.map_some, Option.getD_some, if_true]
      exact if_pos ⟨hripple, hdue⟩
    case followed =>
      simp only [hestimate, decide_eq_false hmoved.not_ge, Bool.false_eq_true, if_false]
      exact if_neg fun hheld => (Nat.lt_add_of_pos_right (by decide)).not_ge hheld.2
  case unresolved => exact fun s hstate hphase hdue => congrArg Host.Outcome.next (if_pos ⟨hstate, hphase, hdue⟩)
  case polarity =>
    rintro plus minus s _ hstate hphase hdue rfl
    exact congrArg Host.Outcome.next (if_neg (by simp [hstate, hphase, hdue]))
  case locked => exact fun s hstate hdue => congrArg Host.Outcome.next (if_pos ⟨hstate, hdue⟩)
  case retry =>
    exact fun s hstate hdue hpower => congrArg Host.Outcome.next (if_pos ⟨hstate, hdue, Bool.eq_false_iff.1 hpower⟩)
  case late =>
    exact fun s hstarts hdue hpower => congrArg Host.Outcome.next (if_pos ⟨hstarts, hdue, Bool.eq_false_iff.1 hpower⟩)
  case leaveFailed => exact fun r s hc => next_writeVia_ok hc rfl

end

section
/-! Crossings, commutation, the speed and the loss of the rotor (R285, R287 to R290, R295, R301, R306 to R308). -/

open Sys2Proof.Machine

/-- Settles O48: a crossing, a commutation and the speed of a major frame each go by the state of the drive, and every other event meets
the condition of its row. -/
theorem spindleRunningCommandsRun : Obligations.SpindleRunningCommandsRun := by
  refine ⟨?crossing, ?commutation, ?flywheel, ?coast, ?overcurrent, ?zone, ?speed⟩
  case crossing =>
    rintro phase v0 v1 sub tracked t _ s hcross rfl
    -- Two samples that straddle a crossing leave the choice by the state of the drive.
    refine ⟨fun hsix => congrArg Host.Outcome.next ?sixStep, fun hfree hstate hphase => congrArg Host.Outcome.next ?injection,
      fun hfree hstate => congrArg Host.Outcome.next ?onClock, fun hfree hstate => congrArg Host.Outcome.next ?observed,
      fun hfree hstate => congrArg Host.Outcome.next ?turning⟩ <;>
      simp only [hcross]
    case sixStep => rw [if_pos hsix]
    all_goals rw [if_neg (Bool.eq_false_iff.1 hfree)]
    case injection => rw [if_pos ⟨hstate, hphase⟩]
    case onClock => rw [if_neg (by simp [hstate]), if_pos hstate]
    case observed => rw [if_neg (by simp [hstate]), if_neg (by simp [hstate]), if_pos hstate]
    case turning =>
      have hnot3 : ¬ (s.nat O.spindleState = 3 ∧ s.spindle.phase = 2) := by omega
      have hnot7 : s.nat O.spindleState ≠ 7 := by omega
      have hnot8 : s.nat O.spindleState ≠ 8 := by omega
      rw [if_neg hnot3, if_neg hnot7, if_neg hnot8, if_pos hstate]
  case commutation =>
    intro sub tracked s hgates
    have hdriven : ¬ ¬ s.spindle.gates = true := not_not.2 hgates
    refine ⟨fun hstate hphase hmoved => congrArg Host.Outcome.next ((if_neg hdriven).trans ?injected),
      fun hstate hclock hmoved => congrArg Host.Outcome.next ((if_neg hdriven).trans ?clocked),
      fun hstate hfree hdue => congrArg Host.Outcome.next ((if_neg hdriven).trans ?observed),
      fun hnot3 hnot8 hfree hsix hdue => congrArg Host.Outcome.next ((if_neg hdriven).trans ?predicted)⟩
    case injected => exact (if_pos hstate).trans (if_neg (not_or.2 ⟨not_not.2 hphase, hmoved⟩))
    case clocked => exact (if_neg hstate).trans ((if_pos hclock).trans (if_neg hmoved))
    case observed =>
      exact (if_neg (by simp [hstate])).trans ((if_neg (Bool.eq_false_iff.1 hfree)).trans ((if_pos hstate).trans (if_neg hdue.not_gt)))
    case predicted =>
      exact (if_neg hnot3).trans ((if_neg (Bool.eq_false_iff.1 hfree)).trans ((if_neg hnot8).trans
        (if_neg (not_or.2 ⟨not_not.2 hsix, hdue.not_gt⟩))))
  case flywheel => exact fun s hstate hdue => congrArg Host.Outcome.next (if_neg (not_or.2 ⟨not_not.2 hstate, hdue.not_gt⟩))
  case coast =>
    intro weak s hstate hrestarts hpower hasked hslowed
    have hends : (weak || !s.atLeast (s.nat O.injectionSpeedLimit) ||
        decide (s.spindle.coastStart + 1000000 * s.nat O.maxCoastTime ≤ s.tick)) = true := by
      simpa [or_assoc] using hslowed
    exact congrArg Host.Outcome.next (if_neg (by simp [hstate, hrestarts, hpower, hasked, hends]))
  case overcurrent =>
    exact fun shunt s hover hgates => congrArg Host.Outcome.next (if_neg (not_or.2 ⟨hover.not_ge, not_not.2 hgates⟩))
  case zone =>
    intro z rest s htables hother hstate
    have hchanges : ¬ (z.nominalRpm = s.nat O.spindleNominalRpm ∨ s.nat O.spindleState ≠ 5) := not_or.2 ⟨hother, not_not.2 hstate⟩
    refine congrArg Host.Outcome.next ?_
    simp only [htables, List.head?_cons, if_neg hchanges]
  case speed =>
    rintro sub speed s _ _ hframe hspeed rfl rfl
    refine congrArg Host.Outcome.next ((if_neg (not_not.2 hframe)).trans ?_)
    -- The clock track or the last events give the speed, by the same choice in the statement and in the command.
    split at hspeed
    next t htheta hangle => simp only [htheta, hangle, hspeed, decide_eq_true_eq]
    next => simp only [hspeed, decide_eq_true_eq]

end

section
/-! PWM periods, faults of the power stage, the ends of braking and the sine table (R285, R301 to R305, R310, R315 to R319). -/

open Sys2Proof.Machine

/-- Settles O49: a period goes by the state of the drive, each event meets the condition of its row, and a table whose entries keep
their reserved bits clear is written while it is not in use. -/
theorem brakingCommandsRun : Obligations.BrakingCommandsRun := by
  refine ⟨?period, ?overvoltage, ?chopper, ?ends, ?noCrossing, ?restore, ?table⟩
  case period =>
    rintro sub tracked modulation shunt1 shunt2 _ _ _ s rfl rfl rfl
    rfl
  case overvoltage =>
    rintro bus s _ hover rfl
    exact congrArg Host.Outcome.next (if_neg hover.not_ge)
  case chopper =>
    intro s hbraking hdriven hfault
    refine congrArg Host.Outcome.next (if_pos ⟨hbraking, hdriven, hfault.imp_left fun hidle => ?_⟩)
    exact ⟨decide_eq_true hidle.1, hidle.2⟩
  case ends =>
    exact fun s hbraking hphase hslow => congrArg Host.Outcome.next (if_pos ⟨hbraking, hphase, Bool.eq_false_iff.1 hslow⟩)
  case noCrossing => exact fun s hdue hstops => congrArg Host.Outcome.next ((if_neg hdue.not_gt).trans (if_pos hstops))
  case restore => exact fun r s hc => next_writeVia_ok hc rfl
  case table =>
    intro r table s hc hunused hentries
    have hreserved : ¬ ((List.range 1024).any fun i => decide (4095 < ofLe ((table.drop (2 * i)).take 2))) = true := by
      simpa using hentries
    exact next_writeVia_ok hc ((if_neg hreserved).trans (if_neg (Bool.eq_false_iff.1 hunused)))

end

section
/-! A refused object write (R344, R409), and what node service, security and JTAG leave alone (R346, R347, R431, R579). -/

namespace Sys2Proof.Machine

/-- The storage path of a state: its time and queue, the heads, the actuators, the links, the layout, the caches, the write path, the
commands in flight, detection, the Rafter engine, the spindle, power, the keys and the Trunk. -/
def State.storagePath (s : State) :=
  (s.tick, s.pending, s.heads, s.acts, s.links, s.layout, s.larder, s.write, s.cmds, s.detect, s.rafter, s.spindle, s.power, s.keys, s.trunk)

variable {s t u : State}

/-- A choice between two states with the storage path of a third has it too. -/
theorem State.storagePath_ite {p : Prop} [Decidable p] (ht : t.storagePath = s.storagePath) (hu : u.storagePath = s.storagePath) :
    (if p then t else u).storagePath = s.storagePath := by
  split_ifs
  · exact ht
  · exact hu

/-- A command that answers one state with the storage path of another answers no state without it. -/
theorem State.storagePath_of_next (h : (.next u : Host.Outcome State Fault Refusal) = .next t) (hu : u.storagePath = s.storagePath) :
    t.storagePath = s.storagePath := by
  cases h
  exact hu

/-! ### Updates outside the storage path -/

theorem State.storagePath_bump (s : State) (k : Nat) : (s.bump k).storagePath = s.storagePath :=
  State.storagePath_ite rfl (State.storagePath_ite rfl rfl)

theorem State.storagePath_respond (s : State) (t response : Nat) (content : List Nat) :
    (s.respond t response content).storagePath = s.storagePath :=
  State.storagePath_ite rfl rfl

theorem State.storagePath_jtag (s : State) (instruction drive : Nat) : (s.jtag instruction drive).storagePath = s.storagePath :=
  State.storagePath_ite rfl rfl

/-- An SPDM request leaves the storage path alone where its answer does: a transport that does not serve, and each error before the
answer, change at most what waits and the outbox. -/
theorem State.storagePath_spdmRequest {n needs : Nat} {isVersion : Bool} {answer : State → State}
    (ha : (answer s).storagePath = s.storagePath) : (s.spdmRequest n isVersion needs answer).storagePath = s.storagePath :=
  State.storagePath_ite rfl <| State.storagePath_ite rfl <| State.storagePath_ite (State.storagePath_respond ..) <|
    State.storagePath_ite (State.storagePath_respond ..) ha

theorem State.storagePath_spdmAlgorithms (s : State) (n : Nat) (offered : Bool) :
    (s.spdmAlgorithms n offered).storagePath = s.storagePath :=
  State.storagePath_spdmRequest <| State.storagePath_ite
    ((State.storagePath_respond ..).trans (State.storagePath_bump ..)) (State.storagePath_respond ..)

end Sys2Proof.Machine

open Sys2Proof.Machine

/-- Settles O5: the refused write is the refusal's message and nothing else. -/
theorem refusedObjectWriteChangesNothing : Obligations.RefusedObjectWriteChangesNothing :=
  fun _ _ _ _ _ h => ⟨_, congrArg Host.Outcome.next (State.putObject_refused h), rfl, rfl⟩

/-- Settles O60: each branch of each command changes the node's or a responder's record, the test port's, a port's endpoint, a session
counter or the outbox. -/
theorem serviceCommandsLeaveStorageAlone : Obligations.ServiceCommandsLeaveStorageAlone := by
  intro c s t hc h
  suffices hsame : t.storagePath = s.storagePath by simpa only [State.storagePath, Prod.mk.injEq] using hsame
  rcases hc with ⟨_, _, rfl⟩ | ⟨_, _, _, _, _, rfl⟩ | ⟨_, _, rfl⟩ | ⟨_, rfl⟩ | ⟨_, _, rfl⟩ | ⟨_, rfl⟩ | ⟨_, _, _, _, _, rfl⟩ |
    ⟨_, rfl⟩ | ⟨_, rfl⟩ | ⟨_, rfl⟩ | ⟨_, _, rfl⟩ | ⟨_, rfl⟩ | ⟨_, _, _, _, rfl⟩ | ⟨_, _, _, rfl⟩ | ⟨_, _, _, _, rfl⟩ | ⟨_, rfl⟩ |
    ⟨_, _, _, rfl⟩ | ⟨_, rfl⟩ | ⟨_, _, rfl⟩ | ⟨_, rfl⟩ | rfl | rfl | ⟨_, _, rfl⟩ | rfl | rfl | rfl <;>
    refine State.storagePath_of_next h ?_
  -- LSS (R431)
  · exact State.storagePath_ite rfl rfl
  · exact State.storagePath_ite rfl rfl
  · exact State.storagePath_ite rfl (State.storagePath_ite rfl rfl)
  · exact State.storagePath_ite rfl rfl
  · exact State.storagePath_ite rfl rfl
  · exact State.storagePath_ite rfl rfl
  · exact State.storagePath_ite rfl <| State.storagePath_ite rfl <| State.storagePath_ite rfl <| State.storagePath_ite rfl rfl
  · exact State.storagePath_ite rfl rfl
  -- SPDM (R347)
  · exact State.storagePath_spdmRequest (State.storagePath_respond ..)
  · exact State.storagePath_spdmRequest (State.storagePath_respond ..)
  · exact State.storagePath_spdmAlgorithms ..
  · exact State.storagePath_spdmRequest (State.storagePath_respond ..)
  · exact State.storagePath_spdmRequest (State.storagePath_ite (State.storagePath_respond ..) (State.storagePath_respond ..))
  · exact State.storagePath_spdmRequest (State.storagePath_ite (State.storagePath_respond ..) (State.storagePath_respond ..))
  · exact State.storagePath_spdmRequest (State.storagePath_ite (State.storagePath_respond ..) (State.storagePath_respond ..))
  · exact State.storagePath_spdmRequest (State.storagePath_respond ..)
  -- MCTP control (R346)
  · exact State.storagePath_ite rfl (State.storagePath_ite rfl rfl)
  · exact State.storagePath_ite rfl rfl
  · exact State.storagePath_ite rfl (State.storagePath_ite rfl rfl)
  · exact State.storagePath_ite rfl rfl
  -- JTAG (R579)
  · exact State.storagePath_jtag ..
  · exact State.storagePath_ite rfl (State.storagePath_jtag ..)
  · exact State.storagePath_ite rfl (State.storagePath_jtag ..)
  · exact State.storagePath_jtag ..
  · exact State.storagePath_jtag ..
  · exact State.storagePath_jtag ..

end

section
/-! Controller resets, readiness, shutdown, links and fetching (R324, R325, R330, R331, R341, R349 to R355, R372, R450, R455). -/

open Sys2Proof.Machine

/-- Settles O12: each event finds the port as its row asks for it, and so nothing bars its effect. -/
theorem controllerEventsRun : Obligations.ControllerEventsRun := by
  refine ⟨?disable, ?enable, ?functionReset, ?hotReset, ?linkDown, ?assert, ?deassert, ?drained, ?crwmt, ?powerState⟩
  case disable => exact fun port s henabled => congrArg Host.Outcome.next (if_pos henabled)
  case enable =>
    intro port crime size s hport hlink hdisabled hleast hmost
    refine congrArg Host.Outcome.next (if_neg ?_)
    simp only [hport, hlink, hdisabled, not_true_eq_false, Bool.false_eq_true, false_or]
    omega
  case functionReset => exact fun port s hlink => congrArg Host.Outcome.next (if_pos hlink)
  case hotReset => exact fun port s hport hlink => congrArg Host.Outcome.next (if_neg (by simp [hport, hlink]))
  case linkDown => exact fun port s hport hlink => congrArg Host.Outcome.next (if_neg (by simp [hport, hlink]))
  case assert => exact fun port s hport => congrArg Host.Outcome.next (if_neg (not_not.2 hport))
  case deassert => exact fun port s hport hperst => congrArg Host.Outcome.next (if_neg (by simp [hport, hperst]))
  case drained =>
    exact fun port s hdraining hnone => congrArg Host.Outcome.next (if_neg (not_or.2 ⟨not_not.2 hdraining, Bool.eq_false_iff.1 hnone⟩))
  case crwmt =>
    intro port s hport henabled hcrime hdraining hrecovery hhalted hdue
    exact congrArg Host.Outcome.next (if_neg (by simp [hport, henabled, hcrime, hdraining, hrecovery, hhalted, hdue]))
  case powerState => exact fun port d3hot l23 s hport hlink => congrArg Host.Outcome.next (if_neg (by simp [hport, hlink]))

/-- Settles O13: each event finds the port as its row asks for it; the doorbell's queue is one that the port has, with room for the
tail. -/
theorem shutdownAndFetchRun : Obligations.ShutdownAndFetchRun := by
  refine ⟨?notified, ?completed, ?linkUp, ?adminTail, ?ioTail, ?freed⟩
  case notified =>
    intro port kind s hport hlink hfirst hkind
    refine congrArg Host.Outcome.next (if_neg ?_)
    simp only [hport, hlink, hfirst, not_true_eq_false, ne_eq, false_or]
    omega
  case completed =>
    intro port s hshutdown hnone
    exact congrArg Host.Outcome.next (if_neg (not_or.2 ⟨not_not.2 hshutdown, Bool.eq_false_iff.1 hnone⟩))
  case linkUp =>
    intro port speed width s hport hperst hawake hleast hmost hwidth
    refine congrArg Host.Outcome.next (if_neg ?_)
    simp only [hport, hperst, hawake, not_true_eq_false, Bool.false_eq_true, ne_eq, false_or]
    omega
  case adminTail =>
    intro port tail s hport henabled hroom
    have hserved : ¬ (¬ s.hasPort port = true ∨ ¬ (s.port port).enabled = true) := by simp [hport, henabled]
    exact congrArg Host.Outcome.next ((if_neg hserved).trans ((if_pos rfl).trans (if_neg hroom.not_ge)))
  case ioTail =>
    rintro port qid tail s hport henabled hio ⟨k, hk, hid, hroom⟩
    have hserved : ¬ (¬ s.hasPort port = true ∨ ¬ (s.port port).enabled = true) := by simp [hport, henabled]
    have hfits : ¬ ((s.port port).sqs.all fun k => decide (k.id ≠ qid ∨ k.size ≤ tail)) = true := by
      intro hnone
      have hbars := of_decide_eq_true (List.all_eq_true.1 hnone k hk)
      exact hbars.elim (· hid) hroom.not_ge
    exact congrArg Host.Outcome.next ((if_neg hserved).trans ((if_neg hio).trans (if_neg hfits)))
  case freed => exact fun port s hpaused hfree => congrArg Host.Outcome.next (if_pos ⟨hpaused, hfree⟩)

end

section
/-! Admin commands that are fetched: queues and features (R329, R332, R335, R340). -/

namespace Sys2Proof.Machine

variable {s t u : State} {port cid : Nat}

/-- What a fetch that succeeds leaves is the state with its queue's entry taken. -/
theorem State.eq_of_fetch {q : Nat} (h : s.fetch port q = (true, t)) : t = s.modPort port (Port.advance q) := by
  have hok : (s.fetch port q).1 = true := by rw [h]
  exact (congrArg Prod.snd h).symm.trans (congrArg Prod.snd (State.fetch_eq hok))

/-- A fetched admin command completes with the status and dword 0 of its body, on the state its body leaves. -/
theorem next_admin {body : State → (Nat × Nat × Nat) × State} {sct sc dw0 : Nat} (h : s.fetch port 0 = (true, t))
    (hb : body t = ((sct, sc, dw0), u)) :
    (.next (s.admin port cid body) : Host.Outcome State Fault Refusal) = .next (u.answer port 0 cid sct sc dw0) := by
  rw [State.admin_fetched (by rw [h]), ← State.eq_of_fetch h, hb]

/-- A fetched Set Features that is not asked to be saved, with a value its check accepts, changes the port and succeeds (R340). -/
theorem next_setFeature {ok : Bool} {f : Port → Port} (h : s.fetch port 0 = (true, t)) (hok : ok = true) :
    (.next (s.setFeature port cid false ok f) : Host.Outcome State Fault Refusal) =
      .next ((t.modPort port f).answer port 0 cid 0 0 0) :=
  next_admin h (if_neg (by simp [hok]))

/-- A queue that exists is not absent from its port's list. -/
theorem not_all_id_ne {qs : List IoQueue} {q : Nat} (h : ∃ k ∈ qs, k.id = q) : ¬ (qs.all fun k => decide (k.id ≠ q)) = true := by
  simpa using h

end Sys2Proof.Machine

open Sys2Proof.Machine

/-- Settles O14: each command passes the checks of its queue in their order. -/
theorem queueCommandsRun : Obligations.QueueCommandsRun := by
  intro port cid s t h
  refine ⟨?createCompletion, ?createSubmission, ?deleteCompletion, ?deleteSubmission⟩
  case createCompletion =>
    intro qid size vector hfree hsize hvector
    exact next_admin h <| (if_neg (not_not.2 hfree)).trans <| (if_neg (not_not.2 hsize)).trans <| (if_neg (not_not.2 rfl)).trans <|
      if_neg hvector.not_gt
  case createSubmission =>
    intro qid size cqid hcompletion hfree hsize
    exact next_admin h <| (if_neg (not_all_id_ne hcompletion)).trans <| (if_neg (not_not.2 hfree)).trans <|
      (if_neg (not_not.2 hsize)).trans <| if_neg (not_not.2 rfl)
  case deleteCompletion =>
    intro qid hexists hunused
    exact next_admin h <| (if_neg (not_all_id_ne hexists)).trans <| if_neg (by simpa using hunused)
  case deleteSubmission => exact fun qid hexists => next_admin h (if_neg (not_all_id_ne hexists))

/-- Settles O15: each value passes its feature's check, and Get Features goes by its select. -/
theorem featureCommandsRun : Obligations.FeatureCommandsRun := by
  intro port cid value s t h
  refine ⟨?arbitration, ?temperature, ?recovery, ?queues, ?coalescing, ?vectors, ?atomicity, ?events, ?get⟩
  case arbitration => exact fun hzero => next_setFeature h (decide_eq_true hzero)
  case temperature => exact fun hsensor hkind => next_setFeature h (by simp [hsensor, hkind])
  case recovery =>
    intro n hlimit hns
    exact next_admin h <| (if_neg (by simp [hlimit])).trans <| if_neg fun hbar => hns.elim hbar.1 hbar.2
  case queues =>
    intro n hsubmission hcompletion hsqs hcqs
    exact next_admin h <| (if_neg (by simp [hsubmission, hcompletion])).trans <| if_neg (by simp [hsqs, hcqs])
  case coalescing => exact fun hvalue => next_setFeature h (decide_eq_true hvalue)
  case vectors => exact fun hvalue hvector => next_setFeature h (by simp [hvalue, hvector])
  case atomicity => exact fun hvalue => next_setFeature h (decide_eq_true hvalue)
  case events => exact fun hvalue => next_setFeature h (decide_eq_true hvalue)
  case get =>
    intro feature select n v hfeature hns hvector hselect
    refine next_admin h ?_
    have hactive : ¬ (feature = 5 ∧ n ≠ 0xFFFFFFFF ∧ ¬ t.nsActive n = true) := fun hbar => (hns hbar.1).elim hbar.2.1 hbar.2.2
    have hnumber : ¬ (feature = 9 ∧ 128 < value % 65536) := fun hbar => (hvector hbar.1).not_gt hbar.2
    simp only [hfeature, if_neg hactive, if_neg hnumber]
    obtain rfl | rfl | rfl := hselect <;> rfl

end

section
/-! Identify, log pages, events, power management and self-tests (R332, R336 to R338, R341, R342, R345). -/

namespace Sys2Proof.Machine

/-- A fetched self-test that nothing holds up starts, with its link errors counted from now (R345, R376). -/
theorem next_startSelfTest {port cid code : Nat} {s t : State} (h : s.fetch port 0 = (true, t)) (htest : t.sub.selfTest = none)
    (hformat : t.sub.format = none) (hsanitize : t.sub.sanitize = none) :
    (.next (s.startSelfTest port cid code) : Host.Outcome State Fault Refusal) = .next (({ t with sub := { t.sub with selfTest := some {
      code := code, port := port, cid := cid, errors := t.linkErrors, rows := if code = 2 then t.testRows else [] } } } : State).answer
      port 0 cid 0 0 0) :=
  next_admin h (if_neg (by simp [htest, hformat, hsanitize]))

end Sys2Proof.Machine

open Sys2Proof.Machine

/-- Settles O17: an admin read passes its checks and sends its bytes; an event request goes by the events held, a power-management
request by the combined request it leaves, and a test under way by the lane rows left to it. -/
theorem adminReadsRun : Obligations.AdminReadsRun := by
  refine ⟨?fetched, ?testRow, ?testEnd⟩
  case fetched =>
    intro port cid s t h
    refine ⟨?controller, ?namespaceData, ?activeList, ?descriptors, ?logPage, ?eventWaits, ?eventHeld, ?power, ?testStart, ?testAbort⟩
    case controller => exact next_admin h rfl
    case namespaceData => exact fun n hns => next_admin h (if_pos hns)
    case activeList => exact fun n => next_admin h (if_pos rfl)
    case descriptors => exact fun n hns => next_admin h ((if_neg (by decide)).trans ((if_pos rfl).trans (if_pos hns)))
    case logPage =>
      intro page n rae offset length b hpage hscope
      have hserved : ¬ (page = 2 ∧ n ≠ 0 ∧ n ≠ 0xFFFFFFFF) := fun hbar => (hscope hbar.1).elim hbar.2.1 hbar.2.2
      refine next_admin h ?_
      simp only [hpage, if_neg hserved, done]
    case eventWaits =>
      intro hroom hheld
      show execAsynchronousEventRequest port cid s = _
      simp only [execAsynchronousEventRequest, h, not_true_eq_false, if_false, if_neg hroom.not_ge, hheld]
    case eventHeld =>
      intro type info page rest hroom hheld
      show execAsynchronousEventRequest port cid s = _
      simp only [execAsynchronousEventRequest, h, not_true_eq_false, if_false, if_neg hroom.not_ge, hheld]
    case power =>
      intro value hvalue hstate
      have hlegal : ¬ (false = true ∨ 96 ≤ value ∨ 2 < value % 32) := by simp [hvalue, hstate]
      show execSetFeaturesPowerManagement port cid value false s = _
      simp only [execSetFeaturesPowerManagement, h, not_true_eq_false, if_false, if_neg hlegal]
    case testStart =>
      exact fun htest hformat hsanitize =>
        ⟨next_startSelfTest h htest hformat hsanitize, next_startSelfTest h htest hformat hsanitize⟩
    case testAbort => exact next_admin h rfl
  case testRow =>
    intro failed vin bank x r s htest hrow
    show execSelfTestComplete failed vin bank s = _
    simp only [execSelfTestComplete, htest, hrow]
  case testEnd =>
    intro failed vin bank x s htest hfenced
    have hnone : (x.rows.find? fun r => !s.headFenced r.1) = none := by simpa using hfenced
    show execSelfTestComplete failed vin bank s = _
    simp only [execSelfTestComplete, htest, hnone]

end

section
/-! Abort and firmware commands, Security Send and Receive, the dictionary by NVMe (R327, R343, R344, R346, R374, R375, R409, R525, R526,
R529). -/

namespace Sys2Proof.Machine

variable {s t : State} {port cid : Nat}

/-- A fetched Firmware Commit that gets the Firmware key runs its body with its context holding what it took (R327). -/
theorem next_takeCommit {u : State} {holds : Bool} {body : State → State} (h : s.fetch port 0 = (true, t))
    (hkey : t.takeKey 1 port = some (holds, u)) :
    (.next (s.takeCommit port cid body) : Host.Outcome State Fault Refusal) = .next (body (u.addAdmin port cid holds)) := by
  simp only [State.takeCommit, h, not_true_eq_false, if_false, hkey]

end Sys2Proof.Machine

open Sys2Proof.Machine

/-- Settles O18: the Abort finds its command and the latch clear, a piece is stored and the key open to the port, and a commit names the
other slot. -/
theorem firmwareAdminRun : Obligations.FirmwareAdminRun := by
  refine ⟨fun port cid s t h => ⟨?abort, ?download⟩, ?commit⟩
  case abort =>
    intro target tcid outstanding c hroom hctx hlatch horphan
    have hopen : c.latch = .clear ∧ ¬ c.orphan = true := ⟨hlatch, Bool.eq_false_iff.1 horphan⟩
    refine next_admin h ((if_neg hroom.not_ge).trans ?_)
    simp only [hctx, if_pos hopen]
  case download =>
    intro offset data u hkey hpiece
    have hopen : ¬ ((t.key 1).holder ≠ 0 ∧ (t.key 1).holder ≠ port + 1) := fun hbar => hkey.elim hbar.1 hbar.2
    refine next_admin h ((if_neg hopen).trans ?_)
    simp only [hpiece]
    rfl
  case commit =>
    rintro port cid slot holds s t u _ h hkey rfl hslot hother
    have hnamed : ¬ (2 < slot ∨ slot = (u.addAdmin port cid holds).fw.active) := not_or.2 ⟨hslot.not_gt, hother⟩
    refine ⟨fun hfree => (next_takeCommit h hkey).trans (congrArg Host.Outcome.next ?stage),
      fun hfree => (next_takeCommit h hkey).trans (congrArg Host.Outcome.next ?activate)⟩
    case stage => exact (if_neg (not_not.2 rfl)).trans ((if_neg hnamed).trans (if_neg (Bool.eq_false_iff.1 hfree)))
    case activate => exact (if_neg hnamed).trans (if_neg (Bool.eq_false_iff.1 hfree))

/-- Settles O20: Security Send goes by its request code alone, Security Receive by its protocol and what waits; the dictionary's commands
complete with what the read or the write gives. -/
theorem securityAndDictionaryRun : Obligations.SecurityAndDictionaryRun := by
  refine ⟨fun port cid slot offset length nonce s t h => ⟨?send, ?protocols, ?nothing, ?response⟩, ?get, ?put, fun r object data s => rfl⟩
  case send => exact fun request => next_admin h (if_neg (not_not.2 rfl))
  case protocols => exact next_admin h (if_pos rfl)
  case nothing =>
    intro hnone
    refine next_admin h ((if_neg (by decide)).trans ((if_neg (not_not.2 rfl)).trans ?_))
    simp only [hnone, done]
  case response =>
    intro name content hwaits
    refine next_admin h ((if_neg (by decide)).trans ((if_neg (not_not.2 rfl)).trans ?_))
    simp only [hwaits, done]
  case get =>
    intro port cid object size b s t h hleast hmost hread
    refine next_admin h ((if_neg (by omega)).trans ?_)
    simp only [hread]
  case put =>
    intro port cid object data s t u h hput
    refine next_admin h ((if_neg (not_not.2 rfl)).trans ?_)
    simp only [hput, if_true, done]

end

section
/-! I/O commands that are fetched and legal (R332, R353, R362, R371, R392). -/

namespace Sys2Proof.Machine

/-- A fetched I/O command that no check refuses has its body's effect, after the wake of a command that uses the media (R361, R376). -/
theorem next_ioFetch {port qid cid nsid slba count : Nat} {k : CmdKind} {body : State → State} {s t : State}
    (h : s.fetch port qid = (true, t)) (hlegal : t.ioRefusal k nsid slba count = none) :
    (.next (s.ioFetch port qid cid k nsid slba count body) : Host.Outcome State Fault Refusal) =
      .next (body (if k.media then t.ioWake else t)) := by
  have ht := State.eq_of_fetch h
  rw [State.ioFetch_runs (by rw [h]) (ht ▸ hlegal), ← ht]

end Sys2Proof.Machine

open Sys2Proof.Machine

/-- Settles O21: each command has its body's effect; all but Dataset Management use the media. -/
theorem ioCommandsRun : Obligations.IoCommandsRun := by
  intro port qid cid nsid s t h
  refine ⟨?read, ?write, ?writeZeroes, ?verify, ?dataset⟩
  case read => exact fun slba count fua limited hlegal => next_ioFetch h hlegal
  case write => exact fun slba count data hlegal => next_ioFetch h hlegal
  case writeZeroes => exact fun slba count hlegal => next_ioFetch h hlegal
  case verify => exact fun slba count limited hlegal => next_ioFetch h hlegal
  case dataset => exact fun ranges hlegal => next_ioFetch h hlegal

end

section
/-! SPDM, MCTP control and the test access port (R346 to R348, R542, R579, R580, R582). -/

namespace Sys2Proof.Machine

variable {s : State} {t : Nat}

/-- A request on a transport that serves, is not busy and, unless the request is GET_VERSION, is not to be resynchronised, with the
negotiation that the request needs, has its answer (R347, R348). -/
theorem State.spdmRequest_answers {needs : Nat} {isVersion : Bool} {answer : State → State} (hserves : s.spdmServes t = true)
    (hidle : s.nat O.updateState ≠ 3) (hanswered : s.sec.waiting.getD t none = none)
    (hsynced : isVersion = true ∨ s.sec.resync.getD t false = false) (hneeds : needs ≤ s.sec.negotiated.getD t 0) :
    s.spdmRequest t isVersion needs answer = answer s := by
  have hready : ¬ (s.nat O.updateState = 3 ∨ (s.sec.waiting.getD t none).isSome = true) := by
    rw [hanswered]
    exact not_or.2 ⟨hidle, Bool.false_ne_true⟩
  have htaken : ¬ (s.sec.resync.getD t false = true ∧ ¬ isVersion = true) := fun hbar =>
    hsynced.elim hbar.2 (Bool.eq_false_iff.1 · hbar.1)
  exact (if_neg (not_not.2 hserves)).trans <| (if_neg hready).trans <| (if_neg htaken).trans <| if_neg hneeds.not_gt

/-- Outside S4 an instruction of the test access port is taken with what drives the outputs under it (R580). -/
theorem State.jtag_of_awake (hawake : s.nat O.sleepStateCurrent ≠ 4) (instruction drive : Nat) :
    s.jtag instruction drive = { s with dbg := { s.dbg with instruction := instruction, drive := drive } } :=
  if_neg hawake

end Sys2Proof.Machine

open Sys2Proof.Machine

/-- Settles O58: a request that meets its needs has its answer, an endpoint that serves answers, the port outside S4 takes its
instruction, and in the boot halt a token goes to its check. -/
theorem securityAndDebugCommandsRun : Obligations.SecurityAndDebugCommandsRun := by
  refine ⟨?version, ?requests, ?control, ?jtag, ?token⟩
  case version =>
    exact fun t s hserves hidle hanswered =>
      congrArg Host.Outcome.next (State.spdmRequest_answers hserves hidle hanswered (.inl rfl) (Nat.zero_le _))
  case requests =>
    intro t s hserves hidle hanswered hsynced
    have hanswers {needs : Nat} {answer : State → State} (hneeds : needs ≤ s.sec.negotiated.getD t 0) :
        (.next (s.spdmRequest t false needs answer) : Host.Outcome State Fault Refusal) = .next (answer s) :=
      congrArg Host.Outcome.next (State.spdmRequest_answers hserves hidle hanswered (.inr hsynced) hneeds)
    refine ⟨?capabilities, ?algorithms, fun hneeds => ⟨?digests, ?certificate, ?challenge, ?measurements⟩, ?unsupported⟩
    case capabilities => exact fun hneeds => hanswers hneeds
    case algorithms => exact fun hneeds => ⟨hanswers hneeds, hanswers hneeds⟩
    case digests => exact hanswers hneeds
    case certificate => exact fun certSlot offset length => hanswers hneeds
    case challenge => exact fun certSlot nonce => hanswers hneeds
    case measurements =>
      rintro certSlot measurement nonce _ rfl
      exact hanswers hneeds
    case unsupported => exact hanswers (Nat.zero_le _)
  case control =>
    intro port s hserves
    refine ⟨?setEndpoint, ?getEndpoint, ?versions, ?messageTypes⟩
    case setEndpoint => exact fun operation eid => congrArg Host.Outcome.next (if_neg (not_not.2 hserves))
    case getEndpoint => exact congrArg Host.Outcome.next (if_pos hserves)
    case versions => exact fun messageType => congrArg Host.Outcome.next (if_neg (not_not.2 hserves))
    case messageTypes => exact congrArg Host.Outcome.next (if_pos hserves)
  case jtag =>
    intro s hawake
    refine ⟨?bypass, ?idcode, ?sample, ?extest, ?clamp, ?highz⟩
    case bypass => exact congrArg Host.Outcome.next (State.jtag_of_awake hawake 1 0)
    case idcode => exact congrArg Host.Outcome.next ((if_neg hawake).trans (by rw [State.jtag_of_awake hawake]))
    case sample =>
      rintro capture preload _ rfl
      exact congrArg Host.Outcome.next ((if_neg hawake).trans (by rw [State.jtag_of_awake hawake]))
    case extest => exact congrArg Host.Outcome.next (State.jtag_of_awake hawake 4 1)
    case clamp => exact congrArg Host.Outcome.next (State.jtag_of_awake hawake 5 1)
    case highz => exact congrArg Host.Outcome.next (State.jtag_of_awake hawake 6 2)
  case token =>
    rintro token appended _ s hhalted hphase rfl
    exact congrArg Host.Outcome.next (if_neg (by simp [hhalted, hphase]))

end

section
/-! Flush, the scheduling of commands, read-ahead fills and restocks (R353, R357, R361, R363, R366, R367, R371, R393 to R396, R399, R405,
R460). -/

namespace Sys2Proof.Machine

variable {s : State}

/-- An operation of a command that is in flight is found among the operations. -/
theorem State.any_op_of_mem {o : MediaOp} (ho : o ∈ s.cmds.ops) (hhost : o.readAhead = false) :
    (s.cmds.ops.any fun x => decide (x.port = o.port) && decide (x.sqid = o.sqid) && decide (x.cid = o.cid) && !x.readAhead) = true :=
  List.any_eq_true.2 ⟨o, ho, by simp [hhost]⟩

/-- A ring is the nearest that takes a slot where every other that takes it is at least as far (R363). -/
theorem State.all_rings_of_nearest {a ring n : Nat}
    (hnear : ∀ r, r < 24 → s.ringTakes a r n = true → s.ringDistance a ring ≤ s.ringDistance a r) :
    ((List.range 24).all fun r => !s.ringTakes a r n || decide (s.ringDistance a ring ≤ s.ringDistance a r)) = true := by
  refine List.all_eq_true.2 fun r hr => ?_
  cases htakes : s.ringTakes a r n with
  | false => rfl
  | true => exact decide_eq_true (hnear r (List.mem_range.1 hr) htakes)

/-- A command has no slot that holds it where each of its slots is retired or failed (R363, R367). -/
theorem State.not_any_slot_placed {port qid cid : Nat}
    (hslots : ∀ x ∈ s.cmds.slots, x.port = port → x.sqid = qid → x.cid = cid → x.live = false ∨ x.failed = true) :
    ¬ ((s.cmds.slots.filter fun x => decide (x.port = port) && decide (x.sqid = qid) && decide (x.cid = cid)).any
      fun x => x.live && !x.failed) = true := by
  simp only [List.any_eq_true, List.mem_filter, Bool.and_eq_true, decide_eq_true_eq, Bool.not_eq_true']
  rintro ⟨x, ⟨hx, ⟨hport, hqid⟩, hcid⟩, hlive, hgood⟩
  rcases hslots x hx hport hqid hcid with hretired | hfailed
  · exact Bool.false_ne_true (hretired.symm.trans hlive)
  · exact Bool.false_ne_true (hgood.symm.trans hfailed)

end Sys2Proof.Machine

open Sys2Proof.Machine

/-- Settles O22: a Flush uses no media, so its body answers on the state with the queue's entry taken, and the answer only adds to the
outbox. -/
theorem flushCompletesAtOnce : Obligations.FlushCompletesAtOnce := by
  intro port qid cid nsid s u h hlegal
  refine ⟨_, (next_ioFetch h hlegal).trans (congrArg Host.Outcome.next (State.answer_done u port qid cid 0)), ?_⟩
  rw [State.eq_of_fetch h]
  exact ⟨rfl, rfl, rfl, rfl, rfl⟩

/-- Settles O23: each command finds its context, operation, buffer or watermark, and its hypotheses remove what would hold it back. -/
theorem schedulingCommandsRun : Obligations.SchedulingCommandsRun := by
  refine ⟨?granted, ?issues, ?displaces, ?deadline, ?freed, ?window, ?place, ?watermark⟩
  case granted =>
    intro port qid cid c s hc hmedia hwaits hmay
    have hstarts : c.kind.media = true ∧ ¬ c.started = true ∧ s.mayStart (.host port qid cid) = true := by simp [hmedia, hwaits, hmay]
    refine congrArg Host.Outcome.next ?_
    simp only [hc, if_pos hstarts]
  case issues =>
    rintro port qid cid c lba n _ s hc hop hstarted hservice hroom rfl
    have hwritable := not_and.2 fun hreadOnly => Bool.eq_false_iff.1 (hservice hreadOnly)
    refine congrArg Host.Outcome.next ?_
    simp only [hc, hop, hstarted, hwritable, hroom.not_ge, decide_false, Bool.and_false, Bool.false_and, not_true_eq_false,
      Bool.false_eq_true, false_and, or_self, if_false]
  case displaces =>
    rintro port qid cid c lba n o _ s hc hop hstarted hservice hfull hahead rfl
    have hwritable := not_and.2 fun hreadOnly => Bool.eq_false_iff.1 (hservice hreadOnly)
    refine congrArg Host.Outcome.next ?_
    simp only [hc, hop, hstarted, hwritable, hfull, hahead, decide_true, Bool.and_true, Option.isNone_some, Option.any_some,
      not_true_eq_false, Bool.false_eq_true, and_false, or_self, if_false, if_true]
  case deadline =>
    intro port qid cid c s hc hio hfirst hdue
    have hraises : ¬ (c.kind = .admin ∨ c.deadlineRaised = true ∨ s.tick < c.fetchTick + 1000000 * s.nat O.hostCommandDeadline) :=
      not_or.2 ⟨hio, not_or.2 ⟨Bool.eq_false_iff.1 hfirst, hdue.not_gt⟩⟩
    refine congrArg Host.Outcome.next ?_
    simp only [hc, if_neg hraises]
  case freed =>
    intro c s hroom holdest
    refine congrArg Host.Outcome.next ?_
    simp only [if_neg hroom.not_ge, holdest]
  case window =>
    intro nsid chunk b s hopen hdue
    refine congrArg Host.Outcome.next ?_
    simp only [hopen, if_neg hdue.not_gt]
  case place =>
    rintro _ _ _ ring c o s hc hatomic hstarted hchunks hbuffer ho rfl rfl rfl hhost htakes hnear hslots
    refine congrArg Host.Outcome.next ?_
    simp only [hc, hatomic, hstarted, hchunks, hbuffer, State.any_op_of_mem ho hhost, htakes,
      State.all_rings_of_nearest hnear, State.not_any_slot_placed hslots, ne_eq, not_true_eq_false, Bool.false_eq_true,
      or_self, if_false]
  case watermark =>
    intro act v s hdirty
    refine congrArg Host.Outcome.next ?_
    simp only [hdirty]

/-- Settles O24: a fill finds its operation and its finished read, and goes by whether it was overlapped; a chunk to be restocked has
begun, or has its turn and nothing ahead of it. -/
theorem fillsAndRestocksRun : Obligations.FillsAndRestocksRun := by
  refine ⟨?fill, ?restock⟩
  case fill =>
    rintro nsid number o d _ s ho hread hdone rfl
    have hfinal : ¬ ((some d).any fun d => decide (d.want ≠ [])) = true := by simp [hdone]
    refine ⟨fun hover => ?discards, fun hclear hahead hlarder hsectors hline hpantry hroom => ?lands⟩
    case discards =>
      refine congrArg Host.Outcome.next ?_
      simp only [ho, hread, if_neg hfinal, if_pos hover]
    case lands =>
      refine congrArg Host.Outcome.next ?_
      simp only [ho, hread, if_neg hfinal, hclear, hahead, hlarder, hsectors, hline, hpantry, hroom,
        Option.map_some, Option.getD_some, Option.isSome_none, Bool.false_eq_true, or_self, if_false, if_true]
  case restock =>
    intro nsid chunk p s hp hpending hnow
    have hgoes : ¬ (s.toRestock nsid chunk = [] ∨ (¬ (s.lockOf (.restock nsid chunk)).isSome = true ∧
        (¬ (s.spareFor p.act 2 || s.lowWater p.act || (s.toRestock nsid chunk).any (·.urgent)) = true ∨
          s.restockWaits p.act ((s.toRestock nsid chunk).any (·.urgent)) = true))) := by
      rintro (hnone | ⟨hnew, hbars⟩)
      · exact hpending hnone
      · obtain ⟨hturn, hfirst⟩ := hnow.resolve_left hnew
        rcases hbars with hearly | hahead
        · exact hearly (by simpa [or_assoc] using hturn)
        · exact Bool.false_ne_true (hfirst.symm.trans hahead)
    refine congrArg Host.Outcome.next ?_
    simp only [hp, if_neg hgoes]

end

section
/-! Object writes that no row, no write access or no key allows (R344, R419). -/

namespace Sys2Proof.Machine

variable {s : State} {r : Requester} {k : Nat} {d : ObjData}

/-- A served index refuses a write of a sub-index that has no row (R344). -/
theorem State.checkPut_of_no_row (hserved : s.indexServed (k / 256) = true) (hcount : isCountKey k = false) (hrow : findRow k = none) :
    s.checkPut r k d = some .subAbsent := by
  simp only [State.checkPut, hserved, hcount, hrow, not_true_eq_false, Bool.false_eq_true, if_false]

section

variable {row : ObjRow} (hserved : s.indexServed (k / 256) = true) (hcount : isCountKey k = false) (hrow : findRow k = some row)
  (hunit : s.keyUnitAbsent k = false)
include hserved hcount hrow hunit

/-- A row that is read only or constant refuses a write (R344). -/
theorem State.checkPut_of_read_only (haccess : row.access = .ro ∨ row.access = .const) : s.checkPut r k d = some .putReadOnly := by
  simp only [State.checkPut, hserved, hcount, hrow, hunit, not_true_eq_false, Bool.false_eq_true, if_false, if_pos haccess]

variable {g : Nat} (haccess : ¬ (row.access = .ro ∨ row.access = .const)) (hguard : row.guardKey = some g)
include haccess hguard

/-- A row whose guarding key nobody holds refuses a write (R344, R419). -/
theorem State.checkPut_of_key_free (hholder : (s.key g).holder = 0) : s.checkPut r k d = some .keyFree := by
  simp only [State.checkPut, hserved, hcount, hrow, hunit, hguard, not_true_eq_false, Bool.false_eq_true, if_false, if_neg haccess,
    if_pos hholder]

/-- A row whose guarding key another requester holds refuses a write (R344, R419). -/
theorem State.checkPut_of_key_elsewhere (hheld : (s.key g).holder ≠ 0) (hother : (s.key g).holder ≠ r.code) :
    s.checkPut r k d = some .keyElsewhere := by
  simp only [State.checkPut, hserved, hcount, hrow, hunit, hguard, not_true_eq_false, Bool.false_eq_true, if_false, if_neg haccess,
    if_neg hheld, if_pos hother]

end

/-- An object write that a check refuses sends the refusal's code and changes nothing else. -/
theorem exec_objectWrite_refused {x : DictRefusal} (h : s.checkPut r k d = some x) :
    exec (.objectWrite r k d) s = .next (s.emit (.dict r.code (x.code r))) :=
  congrArg Host.Outcome.next (State.putObject_refused h)

end Sys2Proof.Machine

open Sys2Proof.Machine

/-- Settles O6: each condition is the first of R344's that the write meets, so that its refusal is the answer. -/
theorem unservedWritesAreRefused : Obligations.UnservedWritesAreRefused := by
  intro r k d s hserved hcount
  refine ⟨fun hrow => ?noRow, fun row hrow hunit => ⟨fun haccess => ?readOnly, fun g haccess hguard hholder => ?keyFree,
    fun g haccess hguard hheld hother => ?keyElsewhere⟩⟩
  case noRow => exact exec_objectWrite_refused (State.checkPut_of_no_row hserved hcount hrow)
  case readOnly => exact exec_objectWrite_refused (State.checkPut_of_read_only hserved hcount hrow hunit haccess)
  case keyFree => exact exec_objectWrite_refused (State.checkPut_of_key_free hserved hcount hrow hunit haccess hguard hholder)
  case keyElsewhere =>
    exact exec_objectWrite_refused (State.checkPut_of_key_elsewhere hserved hcount hrow hunit haccess hguard hheld hother)

end

section
/-! What a power-up reset keeps (R75, R349, R463, R511, R536, R543, R546, R550). -/

namespace Sys2Proof.Machine

/-- What the loss of power decides for a state: its Trunk, the ledger in force, the stored copies, the Larder, the commands in flight and
the variant. -/
def State.powerImage (s : State) :=
  (s.trunk, s.write.ledger, s.mb.storedA, s.mb.storedB, s.larder, s.cmds, s.platform.variant)

variable {s : State}

/-- An object written leaves the image alone. -/
@[simp] theorem State.powerImage_setNat (s : State) (k v : Nat) : (s.setNat k v).powerImage = s.powerImage := rfl

/-- A change of the power record leaves the image alone. -/
@[simp] theorem State.powerImage_modPower (s : State) (f : Power → Power) : (s.modPower f).powerImage = s.powerImage := rfl

/-- Steps that each leave the image alone leave it alone one after the other. -/
theorem State.powerImage_each {f : State → Nat → State} (hf : ∀ t n, (f t n).powerImage = t.powerImage) (l : List Nat) :
    (s.each l f).powerImage = s.powerImage := by
  induction l generalizing s with
  | nil => rfl
  | cons n l ih => exact ih.trans (hf s n)

/-- Taking over the ageing records writes power plans and objects (R463, R511). -/
@[simp] theorem State.powerImage_takeAgeing (s : State) : s.takeAgeing.powerImage = s.powerImage := by
  simp only [State.takeAgeing]
  split
  on_goal 1 => rw [State.powerImage_setNat]
  all_goals
    refine State.powerImage_each (fun t level => ?_) _
    split <;> split <;> simp only [State.powerImage_setNat, State.powerImage_modPower]

/-- Taking over the owner lock's record writes one object (R536, R543). -/
@[simp] theorem State.powerImage_takeOwnerLock (s : State) : s.takeOwnerLock.powerImage = s.powerImage := by
  rw [State.takeOwnerLock]
  split <;> exact State.powerImage_setNat ..

/-- FAULT held low leaves the image alone. -/
@[simp] theorem State.powerImage_holdFault (s : State) : s.holdFault.powerImage = s.powerImage := rfl

/-- A change of the firmware record leaves the image alone. -/
@[simp] theorem State.powerImage_modFw (s : State) (f : Firmware → Firmware) : (s.modFw f).powerImage = s.powerImage := rfl

variable (s : State) (variant straps cause : Nat)

/-- A power-up takes the Trunk through its own, the ledger from the media, and the stored copies as they are; it begins with an empty
Larder and without commands in flight (R546, R550). -/
theorem State.powerImage_powerUp : (s.powerUp variant straps cause).powerImage =
    (s.trunk.powerUp, s.write.media, s.mb.storedA, s.mb.storedB, {}, s.cmds.afterReset, min variant 2) := by
  simp only [State.powerUp, apply_ite State.powerImage, State.powerImage_modFw, State.powerImage_holdFault, State.powerImage_setNat,
    State.powerImage_takeOwnerLock, State.powerImage_takeAgeing, ite_self]
  rfl

/-- FAULT held low writes no object. -/
@[simp] theorem State.nat_holdFault (s : State) (k : Nat) : s.holdFault.nat k = s.nat k := rfl

/-- A change of the firmware record writes no object. -/
@[simp] theorem State.nat_modFw (s : State) (f : Firmware → Firmware) (k : Nat) : (s.modFw f).nat k = s.nat k := rfl

/-- A power-up is noted as reset kind 1, with its cause (R550). -/
theorem State.nat_powerUp_noted :
    (s.powerUp variant straps cause).nat O.lastResetKind = 1 ∧ (s.powerUp variant straps cause).nat O.powerUpCause = cause := by
  have hkind (n : State) (trapdoor : Nat) : ((n.setNat O.lastResetKind 1).setNat O.trapdoorState trapdoor).nat O.lastResetKind = 1 := by
    rw [State.nat_setNat_other _ _ _ _ (by decide), State.nat_setNat_same]
  have hcause (n : State) (trapdoor : Nat) :
      (((n.setNat O.powerUpCause cause).setNat O.lastResetKind 1).setNat O.trapdoorState trapdoor).nat O.powerUpCause = cause := by
    rw [State.nat_setNat_other _ _ _ _ (by decide), State.nat_setNat_other _ _ _ _ (by decide), State.nat_setNat_same]
  simp only [State.powerUp, apply_ite (State.nat · O.lastResetKind), apply_ite (State.nat · O.powerUpCause), State.nat_modFw,
    State.nat_holdFault, hkind, hcause, ite_self, and_self]

end Sys2Proof.Machine

open Sys2Proof.Machine

/-- Settles O9: the reset is noted in its two objects, and the records it takes over leave the rest as the reset made it. -/
theorem powerUpResetKeeps : Obligations.PowerUpResetKeeps := by
  intro variant straps s
  have himage := s.powerImage_powerUp variant straps (if s.spindle.powerLost then 2 else 1)
  obtain ⟨hkind, hcause⟩ := s.nat_powerUp_noted variant straps (if s.spindle.powerLost then 2 else 1)
  simp only [State.powerImage, Prod.mk.injEq] at himage
  exact ⟨_, rfl, hkind, hcause, himage⟩

end

section
/-! Raisings, FAULT, EMCY, the Trapdoor and injection runs (R434, R468, R474 to R489). -/

open Sys2Proof.Machine

/-- Settles O52: a write passes the dictionary's checks, and an event finds its pulse, its message or its run due. -/
theorem faultCommandsRun : Obligations.FaultCommandsRun := by
  refine ⟨?raising, ?clear, ?release, ?pulseEnd, ?emcy, ?token, ?injectStart, ?injectCancel, ?interval, ?errors⟩
  case raising => exact fun src cause s => rfl
  case clear => exact fun r value s hc => next_writeVia_ok hc rfl
  case release => exact fun r s hc => next_writeVia_ok hc rfl
  case pulseEnd =>
    exact fun s hpin hdue => congrArg Host.Outcome.next (if_neg (not_or.2 ⟨not_not.2 hpin, hdue.not_gt⟩))
  case emcy =>
    rintro code register bytes rest _ s hqueue hinhibit hserves hsends rfl
    refine congrArg Host.Outcome.next ?_
    cases hlast : s.mb.emcyLast with
    | none => simp only [hqueue, hserves, hsends, Bool.false_eq_true, not_true_eq_false, or_self, if_false]
    | some t =>
      simp only [hqueue, hserves, hsends, (hinhibit t hlast).not_gt, decide_false, Bool.false_eq_true, not_true_eq_false,
        or_self, if_false]
  case token =>
    intro r token appended s hc
    refine congrArg Host.Outcome.next ?_
    rw [hc]
    obtain ⟨why, u⟩ := s.trapdoorToken r.code token appended
    cases why <;> rfl
  case injectStart =>
    rintro r _ s hc hidle rfl
    exact next_writeVia_ok hc (if_neg hidle)
  case injectCancel => exact fun r s hc => next_writeVia_ok hc rfl
  case interval => exact fun s hruns hleft hdue => congrArg Host.Outcome.next (if_pos ⟨hruns, hleft, hdue⟩)
  case errors => exact fun lane corrected port s => ⟨rfl, rfl, rfl⟩

end

section
/-! The Shelf, wall time, snapshot lists, the Trunk, the stored set and the keys (R412, R413, R420, R421, R494 to R513). -/

open Sys2Proof.Machine

/-- Settles O53: a write passes the dictionary's checks and the conditions of its own action; an append that ends goes by its cause and
by the failures before it. -/
theorem recordCommandsRun : Obligations.RecordCommandsRun := by
  refine ⟨?clear, ?token, ?wallTime, ?snapshot, ?appended, ?mirror, ?store, ?restore, ?acquire, ?release, ?expiry⟩
  case clear => exact fun r bound s hc => next_writeVia_ok hc rfl
  case token =>
    rintro token _ s hc rfl
    refine congrArg Host.Outcome.next ?_
    rw [hc]
    refine (if_neg (not_not.2 rfl)).trans ?_
    cases s.ownerTokenRefusal token (tokenHead token [0x53, 0x43, 0x54, 0x31]) s.shelf.challenge <;> rfl
  case wallTime => exact fun r value s hc => next_writeVia_ok hc rfl
  case snapshot =>
    rintro r image _ s hc hcode hrate hrate' hburst hburst' rfl hentries
    refine next_writeVia_ok hc ((if_neg ?_).trans (if_neg ?_))
    · simp only [hcode, hrate.not_gt, hrate'.not_gt, hburst.not_gt, hburst'.not_gt, ne_eq, not_true_eq_false, or_self, not_false_eq_true]
    · intro hbad
      obtain ⟨e, he, hbars⟩ := List.any_eq_true.1 hbad
      obtain ⟨hreserved, hlisted⟩ := hentries e he
      simp [hreserved, hlisted] at hbars
  case appended =>
    intro cause a rest s hqueue hpower
    simp only [exec, execTrunkAppendComplete, hqueue, if_neg hpower]
    refine ⟨fun hprogram herase => congrArg Host.Outcome.next (if_pos ⟨hprogram, herase⟩), ?failed⟩
    rintro _ _ hcause rfl rfl
    exact congrArg Host.Outcome.next (if_neg fun hdone => hcause.elim hdone.1 hdone.2)
  case mirror =>
    rintro act _ _ s hact hmapped hloaded hservice hpower rfl rfl
    exact congrArg Host.Outcome.next (if_neg (by simp [hact, hmapped, hloaded, hservice, hpower]))
  case store =>
    rintro r value _ _ s hc rfl rfl
    exact next_writeVia_ok hc rfl
  case restore => exact fun r value s hc => next_writeVia_ok hc rfl
  case acquire =>
    rintro r key _ s rfl hc hfree hgoes
    exact next_writeVia_ok hc (if_pos ⟨hfree, Bool.eq_false_iff.1 hgoes⟩)
  case release =>
    rintro r key _ s rfl hc hholder hrequester himplicit
    exact next_writeVia_ok hc ((if_neg (hholder ▸ hrequester)).trans ((if_neg (not_not.2 hholder)).trans (if_neg (not_not.2 himplicit))))
  case expiry => exact fun key s => rfl

end

section
/-! NMT command frames and LSS (R423, R425, R427 to R431, R455). -/

namespace Sys2Proof.Machine

variable {s : State} {bus node : Nat} {act : State → State}

/-- An NMT command frame to the device or to all nodes, received on the active bus outside Initialisation, wakes the device and acts
(R425, R429, R455). -/
theorem State.nmtFrame_acts {reset : Bool} (hactive : bus = s.activeBus) (haddressed : node = 0 ∨ (node = s.mb.nodeId ∧ node ≠ 255))
    (hreceives : s.busReceives bus = true)
    (hserves : s.mb.nmt ≠ 0 ∨ (reset = true ∧ s.mb.pendingNode.isSome = true ∧ s.mb.nodeId = 255)) :
    s.nmtFrame bus node reset act = act (s.wake 4) := by
  obtain ⟨hport, _⟩ : s.nat (O.busState + bus) ∈ [1, 2, 6] ∧ s.nat O.sleepStateCurrent ≠ 4 := by
    rwa [State.busReceives, Bool.and_eq_true, decide_eq_true_eq, decide_eq_true_eq] at hreceives
  have hwakes : (decide (bus = s.activeBus) && decide (s.nat (O.busState + bus) ∈ [1, 2, 6]) &&
      (decide (node = 0) || (decide (node = s.mb.nodeId) && decide (node ≠ 255)))) = true := by
    simp only [decide_eq_true hactive, decide_eq_true hport, Bool.true_and, Bool.or_eq_true, Bool.and_eq_true, decide_eq_true_eq]
    exact haddressed
  have hacts : (s.busReceives bus &&
      (decide (s.mb.nmt ≠ 0) || (reset && s.mb.pendingNode.isSome && decide (s.mb.nodeId = 255)))) = true := by
    simp only [hreceives, Bool.true_and, Bool.or_eq_true, Bool.and_eq_true, decide_eq_true_eq, and_assoc]
    exact hserves
  exact (if_neg (not_not.2 hwakes)).trans (if_pos hacts)

end Sys2Proof.Machine

open Sys2Proof.Machine

/-- Settles O54: an NMT frame that wakes and serves acts on the woken device; an LSS command of a served port goes by the device's LSS
state. -/
theorem nmtAndLssCommandsRun : Obligations.NmtAndLssCommandsRun := by
  refine ⟨?nmt, ?unconfigured, ?switchGlobal, ?switchSelective, ?configure, ?configured, ?fastscan⟩
  case nmt =>
    intro bus node s hactive haddressed hreceives hstarted
    have hacts {reset : Bool} {act : State → State} :
        (.next (s.nmtFrame bus node reset act) : Host.Outcome State Fault Refusal) = .next (act (s.wake 4)) :=
      congrArg Host.Outcome.next (State.nmtFrame_acts hactive haddressed hreceives (.inl hstarted))
    exact ⟨hacts, hacts, hacts, hacts, hacts⟩
  case unconfigured =>
    intro bus pending s hactive hreceives hinitial hnode hpending
    have hacts {act : State → State} : (.next (s.nmtFrame bus 0 true act) : Host.Outcome State Fault Refusal) = .next (act (s.wake 4)) :=
      congrArg Host.Outcome.next (State.nmtFrame_acts hactive (.inl rfl) hreceives (.inr ⟨rfl, by rw [hpending]; rfl, hnode⟩))
    exact ⟨hacts, hacts⟩
  case switchGlobal => exact fun bus mode s hserved => congrArg Host.Outcome.next (if_pos hserved)
  case switchSelective =>
    intro bus vendor product revision serial s hserved
    exact congrArg Host.Outcome.next (if_congr (and_iff_right hserved) rfl rfl)
  case configure =>
    exact fun bus node s hserved hconfig => congrArg Host.Outcome.next (if_neg (by simp [hserved, hconfig]))
  case configured =>
    intro bus s hserved hconfig
    have hbars : ¬ (¬ s.lssServed bus = true ∨ ¬ s.mb.lssConfig = true) := by simp [hserved, hconfig]
    exact ⟨congrArg Host.Outcome.next (if_neg hbars), fun entry => congrArg Host.Outcome.next (if_pos ⟨hserved, hconfig⟩),
      congrArg Host.Outcome.next (if_pos ⟨hserved, hconfig⟩), congrArg Host.Outcome.next (if_pos ⟨hserved, hconfig⟩)⟩
  case fastscan =>
    intro bus number bit sub following s hserved hwaiting hnode hpending
    exact congrArg Host.Outcome.next (if_neg (by simp [hserved, hwaiting, hnode, hpending]))

end

section
/-! USDO, PDOs, SYNC, TIME, heartbeats and the ports of the management bus (R424 to R437). -/

namespace Sys2Proof.Machine

/-- A USDO frame that a configured device acts on, in an NMT state with USDO, is not foreign to it (R426, R429, R431, R432). -/
theorem State.usdo_not_foreign {s : State} {bus : Nat} (hacts : s.busActs bus = true) (hserves : s.nmtServes = true)
    (hnode : s.mb.nodeId ≠ 255) : ¬ (¬ s.busActs bus = true ∨ ¬ s.nmtServes = true ∨ s.mb.nodeId = 255) := by
  simp [hacts, hserves, hnode]

end Sys2Proof.Machine

open Sys2Proof Sys2Proof.Machine

/-- Settles O55: a frame is the device's own and finds the transfer, the PDO or the entry it is about; a port event finds its port in
the state it leaves; a write passes the dictionary's checks. -/
theorem managementBusRuns : Obligations.ManagementBusRuns := by
  refine ⟨?usdoBegins, ?usdoUnderWay, ?usdoTimeout, ?rpdo, ?tpdo, ?heartbeat, ?consumerLost, ?consumerReceived, ?time, ?sync, ?counted,
    ?stale, ?busOff, ?recoveryStart, ?recovered, ?duplicate, ?errorCounters, ?select, ?restart⟩
  case usdoBegins =>
    intro bus client write object data last s hacts hserves hnode hnone
    have hown := State.usdo_not_foreign hacts hserves hnode
    have hbegins : ¬ s.mb.usdo.isSome = true := by simp [hnone]
    refine congrArg Host.Outcome.next ((if_neg hown).trans ((if_pos rfl).trans ((if_neg hbegins).trans ?_)))
    cases s.readValue object none <;> rfl
  case usdoUnderWay =>
    intro bus client write object data last u s hacts hserves hnode hsome
    have hown := State.usdo_not_foreign hacts hserves hnode
    have hbusy : s.mb.usdo.isSome = true := by simp [hsome]
    refine ⟨congrArg Host.Outcome.next ((if_neg hown).trans ((if_pos rfl).trans (if_pos hbusy))), fun hclient => ?_⟩
    refine congrArg Host.Outcome.next ((if_neg hown).trans ((if_neg Bool.false_ne_true).trans ?_))
    simp only [hsome, if_neg (not_not.2 hclient)]
  case usdoTimeout =>
    intro u s hsome hdue
    refine congrArg Host.Outcome.next ?_
    simp only [hsome, if_neg hdue.not_gt]
  case rpdo =>
    intro bus number data s hacts hoperational hleast hmost henabled
    refine congrArg Host.Outcome.next (if_neg ?_)
    simp only [hacts, hoperational, henabled, not_true_eq_false, ne_eq, Bool.false_eq_true, false_or, or_false]
    omega
  case tpdo =>
    intro number past s henabled hevent hpast
    have hbars : ¬ (¬ s.tpdoEnabled number = true ∨ s.nat (O.tpdo1CobId + 256 * (number - 1) + 1) ≤ 240) := by
      simp [henabled, hevent]
    refine congrArg Host.Outcome.next ((if_neg hbars).trans ?_)
    simp only [hpast]
    cases assoc? s.mb.tpdoLast number <;> rfl
  case heartbeat =>
    intro s hperiod hstarted hdue
    refine congrArg Host.Outcome.next (if_neg ?_)
    omega
  case consumerLost =>
    intro bus entry c t s hconsumer hseen hheard hlost hawake
    have hnew : entry ∉ (s.bus bus).lost := by simpa using hlost
    exact congrArg Host.Outcome.next (if_neg (by simp [hconsumer, hseen, hheard, hnew, hawake]))
  case consumerReceived =>
    rintro bus node _ s hreceives rfl hmine
    exact congrArg Host.Outcome.next (if_neg (not_or.2 ⟨not_not.2 hreceives, hmine⟩))
  case time =>
    intro bus value s hacts hserves hnode
    exact congrArg Host.Outcome.next (if_congr (by simp [hacts, hserves, hnode]) rfl (if_pos hacts))
  case sync =>
    intro bus s hacts hoperational
    exact congrArg Host.Outcome.next (if_neg (by simp [hacts, hoperational]))
  case counted =>
    exact fun bus s hreceives => ⟨congrArg Host.Outcome.next (if_pos hreceives), congrArg Host.Outcome.next (if_pos hreceives)⟩
  case stale => exact fun bus queued s hport hdue => congrArg Host.Outcome.next (if_pos ⟨hport, hdue⟩)
  case busOff =>
    rintro bus _ _ s hreceives rfl rfl
    exact congrArg Host.Outcome.next (if_neg (not_not.2 hreceives))
  case recoveryStart => exact fun bus s hport hdue => congrArg Host.Outcome.next (if_pos ⟨hport, hdue⟩)
  case recovered => exact fun bus s hport => congrArg Host.Outcome.next (if_neg (not_not.2 hport))
  case duplicate => exact fun bus s hsends => congrArg Host.Outcome.next (if_neg (not_not.2 hsends))
  case errorCounters =>
    rintro bus transmit receive _ s hreceives rfl
    refine congrArg Host.Outcome.next ((if_neg (not_not.2 hreceives)).trans (if_congr ?passive rfl (if_congr ?active rfl rfl)))
    case passive => rw [decide_eq_true_eq]
    case active => rw [decide_eq_true_eq, not_or, not_le, not_le, and_assoc]
  case select =>
    intro r value s hc hfit
    refine next_writeVia_ok hc ?_
    by_cases hactive : value = s.activeBus
    · exact (if_pos hactive).trans (congrArg Except.ok (if_pos hactive).symm)
    · have hruns : s.nat (O.busState + value) ∈ [1, 2] := by simpa using hfit.resolve_left hactive
      exact ((if_neg hactive).trans (if_pos hruns)).trans (congrArg Except.ok (if_neg hactive).symm)
  case restart =>
    intro r bus s hc
    exact next_writeVia_ok hc ((if_congr (by simp) rfl rfl).trans (apply_ite Except.ok _ _ _).symm)

end

section
/-! The fault reset and the NVM subsystem reset (R373, R475, R532, R550). -/

open Sys2Proof.Machine

/-- Settles O10: a reset that is due is held back neither by the record and message of its raising nor by the power, and NSSR holds
its value. -/
theorem resetsRun : Obligations.ResetsRun := by
  refine ⟨?fault, ?subsystem⟩
  case fault =>
    intro due s hdue hready hpower hruns
    have hcomplete : ¬ (s.tick < due ∧ (s.trunk.queue ≠ [] ∨ s.mb.emcyQueue ≠ [])) := by
      rintro ⟨hearly, hwork⟩
      rcases hready with hlate | ⟨hrecorded, hreported⟩
      · exact hlate.not_gt hearly
      · exact hwork.elim (· hrecorded) (· hreported)
    refine congrArg Host.Outcome.next ?_
    simp only [hdue, if_neg hcomplete, hpower, hruns, Bool.false_eq_true, or_self, if_false]
  case subsystem =>
    exact fun port s hport hlink => congrArg Host.Outcome.next (if_neg (by simp [hport, hlink]))

end

section
/-! Activations, the security version and the owner lock (R373, R519, R528 to R537). -/

open Sys2Proof Sys2Proof.Machine

/-- Settles O57: a write passes the dictionary's checks and the conditions of its own action; a step, a drain or a pulse finds the phase
it belongs to; a token goes by its checks and by whether its record could be appended. -/
theorem activationCommandsRun : Obligations.ActivationCommandsRun := by
  refine ⟨?immediate, ?arm, ?cancel, ?stepEnd, ?stepTimeout, ?drainEnd, ?drainTimeout, ?pulse, ?missed, ?version, ?token⟩
  case immediate => exact fun r s hc hidle => next_writeVia_ok hc (if_neg hidle)
  case arm =>
    intro r s hc hidle hset hahead
    exact next_writeVia_ok hc (if_neg (by simp only [hidle, hset, hahead.not_gt, not_true_eq_false, or_self, not_false_eq_true]))
  case cancel => exact fun r s hc harmed => next_writeVia_ok hc (if_neg (not_not.2 harmed))
  case stepEnd =>
    rintro c rest _ s hsteps hphase hpower hmicrocode hdetection rfl
    have hready : ¬ (s.fw.phase ≠ 4 ∨ s.spindle.powerLost = true ∨
        (c = 4 ∧ (s.rafter.swapAt.isSome = true ∨ s.rafter.health ≠ 0 ∨ s.rafter.microSwap = true)) ∨
        (c = 6 ∧ (s.detect.streams.any fun st => decide (st.swap = 4)) = true)) := by
      rintro (hbad | hlost | ⟨hc, hbusy⟩ | ⟨hc, hbusy⟩)
      · exact hbad hphase
      · exact Bool.false_ne_true (hpower.symm.trans hlost)
      · obtain ⟨hswap, hhealth, hmicro⟩ := hmicrocode hc
        simp [hswap, hhealth, hmicro] at hbusy
      · exact Bool.false_ne_true ((hdetection hc).symm.trans hbusy)
    refine congrArg Host.Outcome.next ?_
    simp only [hsteps, if_neg hready]
  case stepTimeout =>
    intro failed c rest s hsteps hphase hdue
    refine congrArg Host.Outcome.next ?_
    simp only [hsteps, if_neg (not_or.2 ⟨not_not.2 hphase, hdue.not_ge⟩)]
  case drainEnd =>
    exact fun s hphase hnone => congrArg Host.Outcome.next (if_neg (not_or.2 ⟨not_not.2 hphase, Bool.eq_false_iff.1 hnone⟩))
  case drainTimeout =>
    exact fun s hphase hremains hdue => congrArg Host.Outcome.next (if_neg (by simp [hphase, hremains, hdue]))
  case pulse =>
    rintro width p _ s hwidth hset hlabel rfl
    have hvalid : ¬ (width < 1000 ∨ ¬ s.wall.set = true) := not_or.2 ⟨hwidth.not_gt, not_not.2 hset⟩
    simp only [exec, execTbiEdge, if_neg hvalid, hlabel]
    refine ⟨fun hphase hfires => congrArg Host.Outcome.next ((if_pos ⟨hphase, hfires⟩).trans ?fires),
      fun hother => congrArg Host.Outcome.next (if_neg fun hfires => hother.elim (· hfires.1) (· hfires.2))⟩
    cases (s.setNat O.tbiPulseLabel p).guardRefusal <;> rfl
  case missed =>
    intro s hset hkind hpulse hphase hphase' hlate
    refine congrArg Host.Outcome.next (if_neg ?_)
    simp only [hset, hkind, hpulse, hphase, hphase', hlate.not_ge, ne_eq, not_true_eq_false, Bool.false_eq_true, or_self, not_false_eq_true]
  case version =>
    intro r s hc hbehind hrests
    exact next_writeVia_ok hc (if_neg (by simp [hbehind, hrests]))
  case token =>
    intro r token operation appended u v s hc hoperation hu hv
    have hanswer : s.ownerToken r token appended = v := by
      subst hv hu hoperation
      unfold State.ownerToken
      cases hwhy : s.ownerTokenRefusal token (tokenHead token [0x4F, 0x4C, 0x4B, 0x31] && decide (1 ≤ field token 88 1) &&
        decide (field token 88 1 ≤ 2) && decide (field token 89 7 = 0)) s.fw.ownerChallenge <;>
        simp only [hc, hwhy]
    exact ⟨congrArg Host.Outcome.next hanswer, congrArg Host.Outcome.next hanswer⟩

end

section
/-! Power-up, supplies, the reference clock and media readiness (R311, R330, R546, R547, R551, R589, R594). -/

open Sys2Proof.Machine

/-- Settles O7: each event meets the condition of its row, and VDD_CORE goes by whether it starts out of sleep and by the regulator. -/
theorem supplyCommandsRun : Obligations.SupplyCommandsRun := by
  refine ⟨?powerUp, ?mediaReady, ?dip, ?clock, ?inputPower, ?otherSupply, ?coreSupply, ?coreLate, ?coreAgain⟩
  case powerUp => exact fun variant straps s => rfl
  case mediaReady =>
    intro s hphase hrecovered hspindle hmapped hagain hpower
    exact congrArg Host.Outcome.next (if_neg (by simp [hphase, hrecovered, hspindle, hmapped, hagain, hpower]))
  case dip =>
    intro supply mv lasting s hlasting hbelow hup hawake hsteady
    have hstepping : ¬ (decide (supply = 0) && (decide (s.power.stepKind ≠ 0) || s.power.restoring)) = true := by
      simpa using hsteady
    exact congrArg Host.Outcome.next (if_neg (by simp only [hlasting.not_ge, hbelow, hup, hawake, hstepping]; decide))
  case clock => exact fun lasting s hlasting => congrArg Host.Outcome.next (if_neg hlasting.not_ge)
  case inputPower => exact fun straps s hlost hstopped => congrArg Host.Outcome.next (if_pos ⟨hlost, hstopped⟩)
  case otherSupply =>
    intro supply mv ok s hknown hother habove
    exact congrArg Host.Outcome.next ((if_neg (by simp [habove, hknown])).trans (if_pos hother))
  case coreSupply =>
    intro mv ok s habove hwait henable
    refine congrArg Host.Outcome.next ((if_neg (by simp [habove])).trans ((if_neg (not_not.2 rfl)).trans
      ((if_neg (by simp [hwait, henable])).trans ?_)))
    exact if_congr (by simp) rfl rfl
  case coreLate =>
    intro s hwait henable hdue
    exact congrArg Host.Outcome.next ((if_neg (not_not.2 hwait)).trans (if_pos ⟨henable, hdue⟩))
  case coreAgain =>
    intro s hwait hoff hdue
    refine congrArg Host.Outcome.next ((if_neg (not_not.2 hwait)).trans ((if_neg ?_).trans (if_pos ⟨?_, hdue⟩))) <;> simp [hoff]

end

section
/-! The steps of start-up (R546, R548). -/

open Sys2Proof.Machine

/-- Settles O8: the phase names the step in progress, and each step's condition is met; the boot slot goes by the choice of stage 1. -/
theorem startupStepsEnd : Obligations.StartupStepsEnd := by
  intro report s hruns hpower
  have hgoes : ¬ (s.fw.halted = true ∨ s.spindle.powerLost = true) := by simp [hruns, hpower]
  refine ⟨fun hphase hothers => ?supplies, fun hphase hcore hvalid => ?stage1, fun hphase hcore hnone => ?halts, fun hphase => ?boots,
    fun hphase hstepped => ?management, fun hphase => ?spinUp, fun hphase hspeed => ?loads, fun hphase hmapped => ?loaded,
    fun hphase hrecovers => ?recovers⟩ <;>
    refine congrArg Host.Outcome.next ((if_neg hgoes).trans ?_) <;>
    -- With the phase given, the choice by phase comes down to its own step.
    simp only [hphase, OfNat.ofNat_ne_zero, OfNat.ofNat_ne_one, one_ne_zero, Nat.reduceEqDiff, if_false, if_true, true_and]
  case supplies => exact if_neg (not_not.2 hothers)
  case stage1 =>
    have hsome : ¬ report.stage1Ok.all (! ·) = true := by simpa using hvalid
    exact (if_neg (not_not.2 hcore)).trans (if_neg hsome)
  case halts =>
    have hall : report.stage1Ok.all (! ·) = true := by simpa using hnone
    exact (if_neg (not_not.2 hcore)).trans (if_pos hall)
  case boots => cases s.bootChoice report.slotOk <;> rfl
  case management => exact if_neg hstepped.not_ge
  case loads => exact if_neg (not_not.2 hspeed)
  case loaded => exact if_pos hmapped
  case recovers => exact if_pos (Bool.eq_false_iff.1 hrecovers)

end
